-- ==== Sys2Proof/Word.lean ====
section
/-! DEFINITION. Word.lean: the machine words of the OTR4096 and their names. -/

namespace Sys2Proof

/-- A byte of a memory, a packet or a frame. -/
abbrev Byte := BitVec 8

/-- A register, 32 bits (R402). -/
abbrev Word := BitVec 32

/-- A Chanter instruction, a fault message or a BAR0 `_LO`/`_HI` pair, 64 bits. -/
abbrev DWord := BitVec 64

end Sys2Proof
end

