-- ==== Sys2Proof/Syntax.lean ====
section
/-! DEFINITION. Syntax.lean: the commands of the OTR4096, one constructor per row of spec/opcode_table.json. A command
carries what comes from outside the block: register values, host-memory bytes, line bits, sensor readings. A host
memory operand `none` is a host read that fails (HOST_ERR, R367). DEDUCED, notes/assumptions/1.md -/

namespace Sys2Proof

/-- A Tsuhan lane, 0 to 255 (R29). -/
abbrev Lane := Fin 256

/-- An X die, 0 to 3 (R11). -/
abbrev XDie := Fin 4

/-- A die with a Chanter: 0 to 3 the X dies, 4 the IO die (R234). -/
abbrev Chip := Fin 5

/-- A ring, 0 to 4 095 (R363). -/
abbrev RingNo := Fin 4096

/-- Masters of the control crossbar (Table 16.1). -/
inductive Master where
  | pcie | debug | setr | drone
deriving DecidableEq, Repr

/-- Rails outside the Drone domain (R447, R448). -/
inductive Rail where
  | vddio18 | vppM | vddX (d : XDie) | vddIo | vddLn | vddPcie | vddcM | vddaLn | vddaPcie | vddqM
deriving DecidableEq, Repr

/-- What a physical error did to one cell pass (R136, R137). -/
inductive PassFault where
  | slotCe | slotUe | parity | noStart
deriving DecidableEq, Repr

/-- An error at entry number `entry` of the passes of `cell` in one sub-block; `cell` 384 and 385 are the beam
slices (R176). -/
structure CellFault where
  cell : Nat
  entry : Nat
  fault : PassFault
deriving DecidableEq, Repr

/-- An error found by the long-term update in the task of number `tau`, in the second half of a split task where `second`
(R136). -/
structure TaskFault where
  tau : Nat
  second : Bool
  fault : PassFault
deriving DecidableEq, Repr

/-- An access to BAR4, or to the function mask of the MSI-X capability (R357, R362). -/
inductive MsixAcc where
  | write (off : Fin 16384) (v : Word)
  | read (off : Fin 16384)
  | mask (on : Bool)
deriving DecidableEq, Repr

/-- What comes with a BAR0 access besides its place and size: its direction, and the data of a write (R358). -/
structure HostAcc where
  write : Bool
  v : DWord
deriving DecidableEq, Repr

/-- A block as the line brings it: the lane and the bits from its comma on (R37). -/
structure LaneLine where
  lane : Lane
  line : List Bool
deriving DecidableEq, Repr

/-- A block that the line spoils: the lane, and whether a control comma opened it (R38, R39). -/
structure LaneBad where
  lane : Lane
  ctrl : Bool
deriving DecidableEq, Repr

/-- What a burst meets: the host's answer to a read, and the words of SRAM with a correctable and with an uncorrectable error. -/
structure BurstIn where
  data : Option (List Byte)
  ce : List Nat
  ue : List Nat
deriving DecidableEq, Repr

/-- The length of a BAR2 read, and the words of SRAM with a correctable and with an uncorrectable error that it meets. -/
structure Bar2Len where
  len : Nat
  ce : List Nat
  ue : List Nat
deriving DecidableEq, Repr

/-- The commands, one per row of the opcode table. -/
inductive Instr where
  /-- REGISTER_WRITE (R9). A host or debug write to a register field that has no row of its own takes effect according to its access code. -/
  | registerWrite (m : Master) (page off : Fin 4096) (v : Word)
  /-- UNMAPPED_ACCESS (R395). An access to an unmapped or absent page goes to the default target: a read completes with Completer Abort, a write is dropped, and the access is logged and reported. -/
  | unmappedAccess (m : Master) (page off : Fin 4096) (write : Bool)
  /-- ACCESS_SIZE (R358). A BAR0 access of an unsupported size or alignment is ignored on write, reads as 0, and reports ACCESS_SIZE. -/
  | accessSize (page off : Fin 4096) (size : Nat) (acc : HostAcc)
  /-- SNAPSHOT_READ (R330). A read of a _LO register snapshots the matching _HI register, and a read of ATB_S_LO also snapshots ATB_NS and ATB_FRAC. -/
  | snapshotRead (m : Master) (page off : Fin 4096)
  /-- POSTED_WRITE_APPLY (R264). A queued posted register write or doorbell is applied, in arrival order, in the next class [32] window of its die. -/
  | postedWriteApply (x : Chip)
  /-- PAGE_IRQ_WRITE (R403). A W1C write to PAGE_IRQ clears bits and sends an MSI-X message if enabled bits remain set. -/
  | pageIrqWrite (page : Fin 4096) (v : Word)
  /-- IRQ_ENABLE_WRITE (R403). A write to PAGE_IRQ_EN or to the enables of PAGE_CTL that makes the enabled pending set non-zero sends an MSI-X message. -/
  | irqEnableWrite (page : Fin 4096) (ctl : Bool) (v : Word)
  /-- UNIT_RESET (R404). UNIT_RESET returns a page's registers to reset, except RWS, fixed, PAGE_STS and PAGE_FLT fields; it is ignored while a schedule runs. -/
  | unitReset (page : Fin 4096)
  /-- MSIX_UNMASK (R362). Unmasking an MSI-X vector sends the message whose pending bit is set. The command is any access to
  BAR4 or to the function mask (R357, R362). -/
  | msixUnmask (a : MsixAcc)
  /-- TRAIN (R48). LANE_CMD.TRAIN starts a full bring-up of the lane. -/
  | train (l : Lane)
  /-- RETRAIN (R52). LANE_CMD.RETRAIN starts a fast retrain, or a full bring-up if the lane has no settings last in use. -/
  | retrain (l : Lane)
  /-- RECAL (R54). LANE_CMD.RECAL sets RECAL_PENDING, merges with a pending or running recalibration, or is rejected when the lane is not UP. -/
  | recal (l : Lane)
  /-- DOWN (R60). LANE_CMD.DOWN takes the lane out of UP to OFF and puts its transmitter in electrical idle. -/
  | down (l : Lane)
  /-- SCAN_START (R59). SCAN_START begins the eye scan set in LANE_SCAN_CFG, or is rejected with CMD_REJECT. -/
  | scanStart (l : Lane)
  /-- SCAN_ABORT (R59). SCAN_ABORT ends a running scan with SCAN_ABORTED and leaves LANE_QUAL unchanged. -/
  | scanAbort (l : Lane)
  /-- LANE_CLR_CNT (R60). LANE_CMD.CLR_CNT clears all counters of the lane page. -/
  | laneClrCnt (l : Lane)
  /-- LANE_EN_WRITE (R48). A write of LGRP_CFG.LANE_EN starts bring-up of the lanes whose bits are set and takes down the lanes whose bits are cleared. -/
  | laneEnWrite (g : Fin 16) (v : Word)
  /-- LANE_PLL_LOCKED (R48). The lane-group PLL locks and transmitter calibration ends, so the lane begins step 2 of bring-up at step 0. -/
  | lanePllLocked (l : Lane)
  /-- LANE_ALIGNED (R48). CDR lock, polarity settlement and comma alignment complete, so the lane proceeds to the CAPS exchange or waits for its control lane. -/
  | laneAligned (l : Lane) (inv : Bool)
  /-- LANE_ALIGN_TIMEOUT (R48). Step 2 of bring-up does not finish within 1 s, so the lane ends in FAILED with NO_SIGNAL or NO_ALIGN. -/
  | laneAlignTimeout (l : Lane) (los : Bool)
  /-- RELAYED_LANE_CONTINUE (R46). The control lane of a waiting relayed lane reaches UP or enters FAILED, so the relayed lane continues at step 3 or ends with NO_CTRL. -/
  | relayedLaneContinue (l : Lane)
  /-- LANE_ADAPT_DONE (R48). The 2 ms receiver adaptation ends, so the transmitter under test sends PRBS_MARK and starts the PRBS31 test. -/
  | laneAdaptDone (l : Lane)
  /-- PRBS_TEST_DONE (R48). The PRBS31 bit count of a test is exhausted, so the checker's result is sent in PRBS_RESULT and comma detection resumes. -/
  | prbsTestDone (l : Lane) (bits errs : Nat)
  /-- FAST_RETRAIN_LOCK_TIMEOUT (R52). A fast retrain that has not achieved CDR lock and alignment within 1 ms fails, so a full bring-up follows. -/
  | fastRetrainLockTimeout (l : Lane)
  /-- MARKED_BOUNDARY (R42). The counted marked boundary is reached, so the lane switches its transmitter and receiver to the target step, or the receiver suspends comma detection for a PRBS test. -/
  | markedBoundary (l : Lane)
  /-- CTRL_IDLE (R41). A received IDLE control block is taken for keep-alive and adaptation. -/
  | ctrlIdle (l : Lane) (line : List Bool)
  /-- CAPS (R48). A received CAPS block sets the partner identity and agreed top step, or ends the lane in FAILED with VERSION. -/
  | caps (l : Lane) (line : List Bool)
  /-- STEP_ACK (R48). A received STEP_ACK either leads each changing transmitter to send STEP_MARK, or, if refused, ends stepping at the current step. -/
  | stepAck (l : Lane) (line : List Bool)
  /-- STEP_MARK (R42). A received STEP_MARK with a correct CRC places the marked boundary for a rate change. -/
  | stepMark (l : Lane) (line : List Bool)
  /-- PRBS_MARK (R42). A received PRBS_MARK places the marked boundary at which the PRBS31 test begins. -/
  | prbsMark (l : Lane) (line : List Bool)
  /-- PRBS_RESULT (R48). A received PRBS_RESULT decides whether the step passes, leading to the next step, to UP, or to the retry and fall-back of R49. -/
  | prbsResult (l : Lane) (line : List Bool)
  /-- STATUS (R41). A received STATUS control block reports the partner's lane state, step, SAFE flag and eye. -/
  | status (l : Lane) (line : List Bool)
  /-- TIME_REQ (R325). A received TIME_REQ is timestamped and queued for an automatic TIME_RESP, or dropped and counted in CNT_TIME_DROP. -/
  | timeReq (l : Lane) (line : List Bool)
  /-- TIME_RESP (R326). A received TIME_RESP completes an exchange and delivers a TIME_EXCHANGE event to the TIME_EVT_RING. -/
  | timeResp (l : Lane) (line : List Bool)
  /-- HOST (R43). A received HOST control block is delivered with its lane number to the EVENT ring named in HOSTMSG_RING. -/
  | host (l : Lane) (line : List Bool)
  /-- RX_CTRL_UNKNOWN_TYPE (R41). A control block of unknown TYPE is discarded and counted in CNT_CTRL_CRC. -/
  | rxCtrlUnknownType (l : Lane) (line : List Bool)
  /-- RX_CTRL_CRC_FAIL (R39). A control block that fails its CRC-32C is discarded and counted in CNT_CTRL_CRC. -/
  | rxCtrlCrcFail (b : LaneLine)
  /-- CODE_VIOLATION (R38). A run of identical bits that breaks the stuffing or comma rules discards the block, is counted, and the receiver hunts for the next comma. -/
  | codeViolation (b : LaneBad)
  /-- BLOCK_ALIGN_ERROR (R39). A block truncated by an early comma, or a packet block without a comma after its length, is discarded and counted in CNT_ALIGN. -/
  | blockAlignError (b : LaneBad)
  /-- CTRL_BLOCK_DUE (R35). A transmitter sends a control block (queued HOST, TIME or STATUS message, or IDLE) at least every 100 µs, with STATUS at least every 1 ms in OUTPUT. -/
  | ctrlBlockDue (l : Lane)
  /-- LOSS_OF_SIGNAL (R51). Receive amplitude below 40 mVppd for more than 1 µs takes the lane out of UP, or ends a bring-up or fast retrain attempt under R458. -/
  | lossOfSignal (l : Lane)
  /-- LOS_CLEAR (R52). Loss of signal clears after 100 µs at 60 mVppd, so a lane with AUTO_RETRAIN starts its fast retrain. -/
  | losClear (l : Lane)
  /-- LOSS_OF_LOCK (R51). The CDR reports loss of lock, so the lane leaves UP or the bring-up attempt ends, and a fast retrain may start at once. -/
  | lossOfLock (l : Lane)
  /-- TIMEOUT (R51). No valid control block arrives for 1 ms on an UP lane, so the lane leaves UP. -/
  | timeout (l : Lane)
  /-- RECAL_START (R54). A pending recalibration starts at once in IDLE, BRINGUP or CALIBRATE, or at a suitable lane-recalibration window, one lane per group at a time. -/
  | recalStart (l : Lane)
  /-- RECAL_ADAPT_DONE (R53). The 2.0 ms shadow adaptation ends and the shadow settings are copied to the live set. -/
  | recalAdaptDone (l : Lane)
  /-- RECAL_REALIGNED (R53). The lane re-aligns after the recalibration outage and starts its CROSS scan. -/
  | recalRealigned (l : Lane)
  /-- EYE_SCAN_DONE (R57). An eye scan completes its points, writes LANE_QUAL, the table or LANE_SCAN_PT, and raises SCAN_DONE. -/
  | eyeScanDone (l : Lane) (counts : List Nat)
  /-- PACKET_BLOCK_RECEIVED (R67). A received packet block is put through the placement tests and is placed in an elastic-buffer slot or discarded and counted. -/
  | packetBlockReceived (l : Lane) (line : List Bool)
  /-- PACKET_DUE (R68). At a stream's due time the slot is read or the block is counted MISSING or LANE_DOWN, and the samples and valid bits pass to the channeliser. -/
  | packetDue (l : Lane) (pos blk : Nat) (ce ue : List Nat)
  /-- INGEST_INTERVAL_END (R71). At the end of each 100 ms interval, ingest updates margins, DRIFT, TTS and STB lag and decides slip events. -/
  | ingestIntervalEnd
  /-- SNAP (R74). CNT_SNAP.SNAP copies the counters of the selected lane into the window registers. -/
  | snap
  /-- CLR_ALL (R74). CNT_SNAP.CLR_ALL clears every lane's ingest counters. -/
  | clrAll
  /-- DELAY_SEG (R80). A DELAY_SEG descriptor queues a delay segment for an input or completes with the first applicable status of Table 4.3. -/
  | delaySeg (r : RingNo) (body : Option (List Byte))
  /-- GAIN_STEP (R98). A GAIN_STEP descriptor fetches a gain-step list for window w and accepts or refuses it. -/
  | gainStep (r : RingNo) (data : Option (List Byte))
  /-- CAL_START (R101). FST0.CAL_START starts a requantiser calibration in CALIBRATE, or records CAL_MODE. -/
  | calStart
  /-- CAL_ABORT (R102). CAL_ABORT ends a calibration with CAL_ABORTED and changes no gain. -/
  | calAbort
  /-- CAL_PASS_END (R101). A calibration pass of 2^20 spectra ends, so the next pass begins or, after the last pass, new gains are computed. -/
  | calPassEnd
  /-- RQSAT_CLR (R88). FST_CMD.RQSAT_CLR clears all requantiser saturation counters in one MCLK cycle. -/
  | rqsatClr
  /-- FST_CLR_CNT (R103). FST_CMD.CLR_CNT clears the counters of a channeliser slice page. -/
  | fstClrCnt (s : Fin 8)
  /-- ZOOM_CLR_CNT (R104). A write of CLR_CNT on a zoom page clears CNT_ZSAT. -/
  | zoomClrCnt (z : Fin 2)
  /-- TURN_LATE (R117). A row misses its staging write deadline, is written as 0x0080, and is counted and reported. -/
  | turnLate (d : XDie) (k w t : Nat)
  /-- LINK_DOWN (R117). A UCIe link drops out of the active state, raising LINK_DOWN and reporting a Severe fault. -/
  | linkDown (d : XDie)
  /-- LINK_REPLAY (R117). A UCIe link replays a flit, counted in CNT_LINK_REPLAY. -/
  | linkReplay (d : XDie)
  /-- CROOK_CLR_CNT (R119). CROOK_CMD.CLR_CNT clears the Crook counters. -/
  | crookClrCnt
  /-- CHANTER_NOP (R235). The Chanter instruction NOP occupies one die cycle. -/
  | chanterNop (x : Chip)
  /-- WAIT (R235). The Chanter instruction WAIT n occupies n die cycles. -/
  | wait (x : Chip)
  /-- WAITS (R241). WAITS opens an asynchronous window of the given classes on its die for LENGTH cycles. -/
  | waits (x : Chip)
  /-- ASYNC_WINDOW_CLOSE (R241). A WAITS window reaches the end of its LENGTH and closes. -/
  | asyncWindowClose (x : Chip)
  /-- LOOP (R237). LOOP pushes a loop level with its COUNT. -/
  | loop (x : Chip)
  /-- ENDLOOP (R237). ENDLOOP increments the index and repeats the body, or pops the level. -/
  | endloop (x : Chip)
  /-- MOVE (R224). MOVE starts a mover transfer of a MOVE descriptor, to complete by its DEADLINE. -/
  | move (d : XDie)
  /-- MOVE_COMPLETE (R238). A mover transfer completes its last unit. -/
  | moveComplete (d : XDie) (m : Fin 8)
  /-- CELLS (R240). CELLS runs the cell passes and slice passes of one sub-block of one channel. -/
  | cells (d : XDie) (faults : List CellFault)
  /-- HBMQ (R226). HBMQ starts an HBMS request list. -/
  | hbmq (d : XDie)
  /-- HBMS_ENTRY_SLOT (R226). An HBMS list entry reaches its slot cycle and issues its scheduled S0 or S1 request. -/
  | hbmsEntrySlot (d : XDie)
  /-- ACTION_UPDATE (R129). The UPDATE action adds the window's inner sums into the long-term accumulators and weights, or emits them into the dump area at the last window. -/
  | actionUpdate (d : XDie) (faults : List TaskFault)
  /-- ACTION_DRAIN_VIS (R155). DRAIN_VIS reads visibility frames from the dump area into the egress queue. -/
  | actionDrainVis (d : XDie)
  /-- ACTION_DRAIN_W (R155). DRAIN_W reads weight frames from the weights section into the egress queue. -/
  | actionDrainW (d : XDie)
  /-- ACTION_WINFO (R162). WINFO forms and reads the window information frame of a window into the egress queue. -/
  | actionWinfo (d : XDie)
  /-- ACTION_REGEN_SLICE (R174). REGEN_SLICE regenerates a slice's weight buffers for a channel from its banks. -/
  | actionRegenSlice (d : XDie)
  /-- ACTION_REGEN_CELL (R174). REGEN_CELL regenerates the cell beam table for a channel from the active cell bank. -/
  | actionRegenCell (d : XDie)
  /-- ACTION_BEAM_READ (R188). BEAM_READ reads a beam frame from the beam area into the egress queue. -/
  | actionBeamRead (d : XDie)
  /-- ACTION_RED_ENTER (R201). RED_ENTER enters the terms of a window into the reduction groups in key order. -/
  | actionRedEnter (d : XDie)
  /-- ACTION_RED_CLOSE (R208). RED_CLOSE closes a reduction interval, switches banks, finalises the groups and writes the event frames. -/
  | actionRedClose (d : XDie)
  /-- ACTION_RED_READ (R209). RED_READ reads a search event frame from the reduction area into the egress queue. -/
  | actionRedRead (d : XDie)
  /-- CONTRACT_DEADLINE_MISS (R268). A MOVE or action is not complete at its DEADLINE, so the monitor applies Table 11.5 and reports the miss. -/
  | contractDeadlineMiss (d : XDie) (mover : Option (Fin 8))
  /-- SETR (R242). SETR posts a mailbox write to the Chanter page, or is dropped when the queue is full. -/
  | setr (x : Chip)
  /-- SETR_APPLY (R242). A posted SETR write reaches its MBOX word and raises MBOX. -/
  | setrApply (x : Chip)
  /-- SYNC (R243). SYNC sends its barrier ID to the leading Chanter over the sideband. -/
  | sync (x : Chip)
  /-- BARRIER (R243). The IDs of a barrier do not arrive within the sideband latency, so BARRIER is raised and a Severe fault reported. -/
  | barrier (id : Byte)
  /-- MARK (R244). MARK records its ID, SCYC and ATB, and raises MARK with IRQ = 1. -/
  | mark (x : Chip)
  /-- PSTEP (R228). PSTEP starts a power-profile segment at the next cycle. -/
  | pstep
  /-- FRAME_END (R246). FRAME_END advances the die's frame counter, and the X Chanters hold here when HOLD or a step command is in force. -/
  | frameEnd (x : Chip)
  /-- WINDOW_END (R247). WINDOW_END advances the window counter; the IO die sends, and the X dies latch, the skip mask of the next window. -/
  | windowEnd (x : Chip) (late : Bool)
  /-- HALT (R245). HALT ends its program, and when every Chanter has halted the device enters QUIESCE. -/
  | halt (x : Chip)
  /-- HOLD (R249). CHN_CMD.HOLD stops the X Chanters at the end of their next FRAME_END in INSPECT, or records NOT_INSPECT. -/
  | hold (d : XDie)
  /-- STEP_FRAME (R249). CHN_CMD.STEP_FRAME runs the held X Chanters for one frame. -/
  | stepFrame (d : XDie)
  /-- STEP_WINDOW (R249). CHN_CMD.STEP_WINDOW runs the held X Chanters to the end of the current window. -/
  | stepWindow (d : XDie)
  /-- RUN (R249). CHN_CMD.RUN resumes the held X Chanters. -/
  | run (d : XDie)
  /-- CHN_CLR_CNT (R250). CHN_CMD.CLR_CNT clears the Chanter and contract counters. -/
  | chnClrCnt (x : Chip)
  /-- CELLS_CLR_CNT (R143). CELLS_CMD.CLR_CNT clears the X engine counters. -/
  | cellsClrCnt (d : XDie)
  /-- CLU_CLR_CNT (R144). CLR_CNT on a cluster page clears its counters and FAULTED. -/
  | cluClrCnt (d : XDie) (n : Fin 24)
  /-- INSPECT_SELECT (R145). A write to INSP_SEL or INSP_OFF selects an object and clears READY. -/
  | inspectSelect (i : Fin 16) (reg : Fin 3) (v : Word)
  /-- FETCH (R142). INSP_CMD.FETCH starts a 2 KiB snapshot of the selected object, or sets DENIED, BUSY_CELL or BAD_SEL. -/
  | fetch (i : Fin 16)
  /-- INSPECT_FETCH_DONE (R142). An INSPECT fetch completes its copy into the aperture and sets READY. -/
  | inspectFetchDone (i : Fin 16)
  /-- FRAME_AT_HEAD (R163). A frame reaches the head of its egress queue and is judged late, then discarded, sent with LATE, or held. -/
  | frameAtHead (d : XDie)
  /-- FRAME_LAUNCH (R327). A held frame is released once ATB reaches LAUNCH and goes to its lane or PCIe path, or is discarded there. -/
  | frameLaunch (d : XDie)
  /-- DUMP_CLR_CNT (R168). DUMP_CMD.CLR_CNT clears the dump and egress counters. -/
  | dumpClrCnt (d : XDie)
  /-- BANK_LOAD (R172). A BANK_LOAD descriptor copies a coefficient bank from the host, setting it LOADING, or is refused. -/
  | bankLoad (r : RingNo) (data : Option (List Byte))
  /-- BANK_SELECT (R172). A BANK_SELECT descriptor sets a target's active bank pointer while no schedule runs. -/
  | bankSelect (r : RingNo)
  /-- BEAM_SWAP (R177). A BEAM_SWAP descriptor accepts or refuses a bank swap for a set of targets. -/
  | beamSwap (r : RingNo)
  /-- BSL_CLR_CNT (R191). BSL_CMD.CLR_CNT clears the beam slice counters. -/
  | bslClrCnt (d : XDie) (j : Fin 2)
  /-- RED_CLR_CNT (R213). RED_CMD.CLR_CNT clears the reduction counters except CNT_TERMS. -/
  | redClrCnt (d : XDie)
  /-- IMAGE_CHUNK (R231). An IMAGE_CHUNK copies bytes into the retention bank, opening a load if none is open. -/
  | imageChunk (r : RingNo) (data : Option (List Byte))
  /-- IMAGE_COMMIT (R232). IMAGE_COMMIT sets VERIFYING and starts the checks of Table 10.14. -/
  | imageCommit (r : RingNo)
  /-- IMAGE_VERIFY_DONE (R232). Verification ends with the image LOADED and INIT applied, or rejected with its reason. -/
  | imageVerifyDone
  /-- NOP_COMMAND (R369). A NOP descriptor completes with ACCEPTED. -/
  | nopCommand (r : RingNo)
  /-- SLIDE (R320). A SLIDE descriptor queues an ATB correction or is refused. -/
  | slide (r : RingNo) (body : Option (List Byte))
  /-- TIME_SEND (R324). A TIME_SEND descriptor queues a TIME_REQ on a lane with a transmit timestamp entry. -/
  | timeSend (r : RingNo)
  /-- HOST_MSG (R43). A HOST_MSG descriptor queues a 52 B HOST message on a lane, or completes BUSY or INVALID. -/
  | hostMsg (r : RingNo) (body : Option (List Byte))
  /-- DMA (R379). A DMA descriptor takes a channel and starts a COPY, FILL or CIRC job, or completes INVALID. -/
  | dma (r : RingNo) (body : Option (List Byte))
  /-- INSPECT_READ (R369). An INSPECT_READ descriptor copies part of an HBM object to the host in INSPECT. -/
  | inspectRead (r : RingNo)
  /-- DESCRIPTOR_BAD_OP (R369). A descriptor with an unlisted OP or the wrong ring role completes with BAD_OP. -/
  | descriptorBadOp (r : RingNo)
  /-- DOORBELL_WRITE (R365). A doorbell write announces the producer count, or puts the ring into ERROR. -/
  | doorbellWrite (r : RingNo) (t : Word)
  /-- DESCRIPTOR_FETCH (R368). The device fetches a descriptor ahead of H and checks its generation. -/
  | descriptorFetch (r : RingNo) (desc : Option (List Byte))
  /-- OUTBOUND_ITEM_DELIVER (R370). An outbound item takes a posted buffer and is written, or is discarded as SHORT, ring-full or orphaned. -/
  | outboundItemDeliver (r : RingNo)
  /-- READBACK_COMPLETE (R384). The read-back of host writes returns, so the completion is written and interrupts are coalesced. -/
  | readbackComplete (r : RingNo) (ok : Bool)
  /-- IRQ_COALESCE_TIMEOUT (R371). COAL_US passes since the first unsignalled completion, so the ring sends its MSI-X message. -/
  | irqCoalesceTimeout (r : RingNo)
  /-- RING_CFG_WRITE (R372). A write of RING_CFG commits role and bases, increments GEN, zeroes H and T, and clears ERROR. -/
  | ringCfgWrite (v : Word)
  /-- RING_CLR_CNT (R388). RING_CMD.CLR_CNT clears the ring counters. -/
  | ringClrCnt
  /-- DMA_BURST (R381). A DMA burst of at most 4 KiB starts once its window and admission allow, and moves data. -/
  | dmaBurst (ch : Fin 64) (b : BurstIn)
  /-- ABORT (R385). CH_CMD.ABORT ends a DMA job at a burst boundary with ABORTED and its residue. -/
  | abort (ch : Fin 64)
  /-- DMAG_CLR_CNT (R389). DMAG_CMD.CLR_CNT clears the DMA counters. -/
  | dmagClrCnt
  /-- BAR2_READ (R360). A BAR2 read is served in a class [33] window, after earlier BAR2 writes to the same die, or ends under Table 15.4. -/
  | bar2Read (addr : Fin 68719476736) (n : Bar2Len)
  /-- BAR2_WRITE (R360). A BAR2 posted write is applied in a class [33] window, or is dropped or ignored under Table 15.4. -/
  | bar2Write (addr : Fin 68719476736) (data : List Byte)
  /-- LINK_CHANGE (R356). The PCIe link retrains to another rate or width, raising LINK_CHANGE with a Notice. -/
  | linkChange (gen width : Nat) (mps : Fin 3)
  /-- PCIEX_CLR_CNT (R390). PCIEX_CMD.CLR_CNT clears the PCIe counters. -/
  | pciexClrCnt
  /-- ACQUIRE (R393). LOCK_CMD.ACQUIRE takes a lock on a control-crossbar group, or queues the request. -/
  | acquire (m : Master) (g : Fin 16)
  /-- RELEASE (R394). LOCK_CMD.RELEASE ends the holder's lock and grants the highest queued ACQUIRE. -/
  | release (m : Master) (g : Fin 16)
  /-- LOCK_EXPIRED (R393). A lock reaches MAX_ACC accesses or MAX_US of window time and ends, raising LOCK_EXPIRED. -/
  | lockExpired (g : Fin 11)
  /-- CXB_AGE_PROMOTE (R392). A control-crossbar access at level 0 or 1 that has waited 20 µs is promoted to level 7. -/
  | cxbAgePromote (m : Master) (g : Fin 11)
  /-- BXB_AGE_PROMOTE (R397). A bulk burst at level 0 or 1 that has waited 20 µs is promoted to level 7. -/
  | bxbAgePromote (m t : Nat)
  /-- CXB_CLR_CNT (R408). CXB_CMD.CLR_CNT clears the control-crossbar counters. -/
  | cxbClrCnt
  /-- BXB_CLR_CNT (R408). BXB_CMD.CLR_CNT clears the bulk-crossbar counters. -/
  | bxbClrCnt
  /-- XDIE_CLR_CNT (R409). XDIE_CMD.CLR_CNT clears the die and leaf counters. -/
  | xdieClrCnt (d : XDie)
  /-- TRAIN_HBM (R342). HBM_CMD.TRAIN starts training of a stack, switching on its domain if needed, or is rejected. -/
  | trainHbm (d : XDie) (j : Fin 2)
  /-- HBM_TRAIN_DONE (R342). A stack training attempt ends TRAINED, is retried, or leaves the stack FAILED after three failures. -/
  | hbmTrainDone (d : XDie) (j : Fin 2) (ok : Bool)
  /-- SET_RATE (R343). HBM_CMD.SET_RATE retrains, queues or records a new pin rate. -/
  | setRate (d : XDie) (j : Fin 2) (rate : Fin 4)
  /-- INJECT_ARM (R349). HBM_CMD.INJECT_ARM arms symbol-error injection for the next whole-unit S2 write. -/
  | injectArm (d : XDie) (j : Fin 2)
  /-- HBM_CLR_CNT (R353). HBM_CMD.CLR_CNT clears the HBM counters. -/
  | hbmClrCnt (d : XDie) (j : Fin 2)
  /-- HBM_ASYNC_ADMIT (R336). A queued S2 or S3 request is admitted to its pseudo-channel inside a window when no scheduled unit is near. -/
  | hbmAsyncAdmit (d : XDie) (j : Fin 2) (pc : Fin 64)
  /-- HBM_AGE_PROMOTE (R337). An asynchronous request that has waited AGE_LIMIT moves to the head of its bank queue. -/
  | hbmAgePromote (d : XDie) (j : Fin 2) (pc : Fin 64)
  /-- REFRESH_DUE (R258). A refresh falls due every t_REFI and adds to the owed count, forcing a refresh when the limit would be passed. -/
  | refreshDue (d : XDie) (j : Fin 2) (pc : Fin 64)
  /-- REFRESH_SLOT_START (R258). At the start of a free refresh slot with owed refreshes, the controller starts one refresh. -/
  | refreshSlotStart (d : XDie) (j : Fin 2) (pc : Fin 64)
  /-- REFRESH_COMPLETE (R258). A refresh finishes and the pseudo-channel admits asynchronous requests again. -/
  | refreshComplete (d : XDie) (j : Fin 2) (pc : Fin 64)
  /-- HBM_TEMP_READ (R341). The stack temperature is read every 1 ms, adjusting refresh rules and setting or clearing HOT. -/
  | hbmTempRead (d : XDie) (j : Fin 2) (t : BitVec 16)
  /-- HBM_PERIODIC_CAL (R345). Every 100 ms the PHY calibrates in a free slot with nothing owed, or defers and counts CNT_CAL_DEFER. -/
  | hbmPeriodicCal (d : XDie) (j : Fin 2) (pc : Fin 64) (slot : Bool)
  /-- SCRUB_ROW (R350). Patrol scrub reads the next row, writes back corrected words and logs uncorrectable ones. -/
  | scrubRow (d : XDie) (j : Fin 2)
  /-- REQ_BRINGUP (R279). MODE_CMD.REQ = BRINGUP moves IDLE to BRINGUP with HBM powered down, or is rejected. -/
  | reqBringup
  /-- REQ_IDLE (R279). MODE_CMD.REQ = IDLE moves BRINGUP to IDLE when every stack is trained, or is rejected. -/
  | reqIdle
  /-- REQ_START (R280). MODE_CMD.REQ = START checks the start conditions and begins the start sequence, or is rejected. -/
  | reqStart (inspect : Bool)
  /-- REQ_STOP (R281). MODE_CMD.REQ = STOP enters QUIESCE and begins the stop sequence, or merges with a stop in hand. -/
  | reqStop
  /-- REQ_SHELVE (R279). MODE_CMD.REQ = SHELVE enters SHELVED from BRINGUP or IDLE, losing the PCIe link. -/
  | reqShelve
  /-- MODE_CLR_CNT (R304). MODE_CMD.CLR_CNT clears the mode page counters. -/
  | modeClrCnt
  /-- DOMAIN_SWITCH_ON (R283). A power domain switches on once the credit covers its idle power. -/
  | domainSwitchOn (n : Fin 178)
  /-- DOMAIN_READY (R283). A domain's gate ramp and local reset end, so its pages read POWERED and READY and auto-training may start. -/
  | domainReady (n : Fin 178)
  /-- DOMAIN_SWITCH_OFF (R283). A power domain switches off after its ports and pending fault slots have drained. -/
  | domainSwitchOff (n : Fin 178)
  /-- PRE_ROLL_START (R280). The image's domains are on, so the start sequence sets the clocks and runs the channeliser and Crook with ballast. -/
  | preRollStart
  /-- SCHEDULE_T0 (R280). STB reaches START_SAMPLE, so the synchronising reset takes place, the ballast stops, and every Chanter issues instruction 0. -/
  | scheduleT0
  /-- START_CEILING_TIMEOUT (R280). The ceiling stays below P_start for 10 s and the start is abandoned with CEILING. -/
  | startCeilingTimeout
  /-- START_LATE_ABANDON (R280). PRE_ROLL would not end by T0 − 1 ms and the start is abandoned with LATE. -/
  | startLateAbandon
  /-- STOP_POWER_DOWN_DONE (R281). The image's domains are off after the stop sequence and the device enters IDLE. -/
  | stopPowerDownDone
  /-- BREATH_TICK (R285). Every 1 ms the governor adds credit and makes the domain, ballast and ceiling changes the credit allows. -/
  | breathTick
  /-- FORECAST_TICK (R288). Every 250 ms the governor computes 16 forecast values, sends FORECAST and updates COOL_PWM. -/
  | forecastTick
  /-- PLANT_STATUS_TX (R289). Every second the device sends a STATUS message to the plant. -/
  | plantStatusTx
  /-- DEMAND (R289). A DEMAND message is sent when the target exceeds the ceiling, then every second while it does. -/
  | demand
  /-- POWER_TELEMETRY (R299). Every 250 ms with TELEM_EN, a POWER telemetry frame is sent to TELEM_RING. -/
  | powerTelemetry
  /-- GRANT (R290). A received GRANT sets the ramp and ceiling from the next 1 ms step. The operands are the received bytes, in two parts. -/
  | grant (head rest : List Byte)
  /-- COOLANT (R290). A received COOLANT message updates inlet, outlet and flow and refreshes PLANT_OK. The operands are the received bytes, in three parts. -/
  | coolant (head payload rest : List Byte)
  /-- ALARM (R292). A received ALARM sets ALARM_LATCH, reports a Severe fault, and sends a running schedule to QUIESCE. -/
  | alarm (bytes : List Byte)
  /-- PLANT_RX_INVALID (R290). A received plant message with a bad CRC, unknown TYPE or wrong LEN is discarded and counted. -/
  | plantRxInvalid (bytes : List Byte)
  /-- PLANT_RX_GAP (R289). More than 100 µs between bytes of one message discards it and the receiver hunts for 0xA5. -/
  | plantRxGap
  /-- PLANT_SILENT (R293). No valid plant message for 2 s makes the plant silent, limiting the ramp and reporting PLANT_SILENT. -/
  | plantSilent
  /-- COOLANT_STALE (R293). The last COOLANT message becomes older than 2 s and PLANT_OK ends. -/
  | coolantStale
  /-- CLR_ALARM (R292). PLANT_CMD.CLR_ALARM clears ALARM_LATCH. -/
  | clrAlarm
  /-- PLANT_CLR_CNT (R304). PLANT_CMD.CLR_CNT clears the plant counters. -/
  | plantClrCnt
  /-- FLOW_MEASURE (R295). Each 1 s FLOW_TACH window computes the flow and sets or clears FLOW_LOW. -/
  | flowMeasure (edges : Nat)
  /-- TJ_READ (R297). The junction sensors are read every 1 ms, updating TJ_MAX and setting or clearing THERM_WARN. -/
  | tjRead (readings : List (BitVec 16))
  /-- THERMTRIP (R297). A junction reading of 110 °C or more asserts THERMTRIP_N and reports a Fatal fault. -/
  | thermtrip (sensor : Fin 40) (reading : BitVec 16)
  /-- I2C_SENSOR_POLL (R298). Every 100 ms each enabled I2C sensor is read into EXT_T, and case temperature and sensor failure are judged. -/
  | i2cSensorPoll (readings : List (Option (BitVec 16)))
  /-- THERM_CLR_CNT (R304). THERM_CMD.CLR_CNT clears the thermal counters. -/
  | thermClrCnt
  /-- PILOT_START (R457). The Pilot domains come on once ENABLE and the lane condition hold, and the Pilot starts. -/
  | pilotStart
  /-- PILOT_CLOSE (R302). A Pilot integration closes 10 ms after the first packet of the next and sends its telemetry frames. -/
  | pilotClose
  /-- PILOT_STOP (R457). The Pilot ends on leaving BRINGUP, on clearing ENABLE or on loss of the lane condition. -/
  | pilotStop
  /-- REF_PPS_EDGE (R306). A reference PPS edge is checked for period and phase jump and steers the locked DPLL. -/
  | refPpsEdge (n : Fin 4) (cycles : Nat) (phase jump : Int)
  /-- REF_ACTIVITY_LOSS (R306). No reference clock edge for 1 µs disqualifies the reference with ACTIVITY. -/
  | refActivityLoss (n : Fin 4)
  /-- REF_PPS_MISSING (R306). No PPS within 1.1 s of the previous one disqualifies the reference. -/
  | refPpsMissing (n : Fin 4)
  /-- REF_FREQ_CHECK (R306). A 1 s frequency measurement disqualifies a reference whose offset exceeds FREQ_TOL. -/
  | refFreqCheck (n : Fin 4) (offset : Int)
  /-- REF_QUALIFIED (R306). A reference passes every test for QUAL_TIME and becomes qualified. -/
  | refQualified (n : Fin 4)
  /-- REF_WTR_END (R307). A requalified reference completes its wait-to-restore and becomes eligible. -/
  | refWtrEnd (n : Fin 4)
  /-- REF_SELECT (R308). Every second, or on disqualification of the active one, the active reference is chosen, which may switch or change the DPLL state. -/
  | refSelect
  /-- DISPUTE_WINDOW_END (R309). A dispute measurement window ends and the equal-rank reference is marked or cleared DISPUTED. -/
  | disputeWindowEnd (n : Fin 4) (diff : Int)
  /-- REF_CFG_WRITE (R306). A write of REF_CFGn enables, ranks, or disables a reference, disqualifying it with DISABLED. -/
  | refCfgWrite (n : Fin 4) (v : Word)
  /-- DPLL_LOCK (R311). The phase error stays within LOCK_WIN for 10 s, so the DPLL enters LOCKED, stepping ATB if no schedule runs. -/
  | dpllLock (err : Int)
  /-- PULL_COMPLETE (R312). The slope-limited phase correction ends and PULLING clears. -/
  | pullComplete
  /-- HOLDOVER_EXPIRE (R313). HOLD_TIME reaches HOLDOVER_MAX and the DPLL enters LOST. -/
  | holdoverExpire
  /-- OSC_FAIL (R314). OSC_OK falls, reporting OSC_FAIL and moving HOLDOVER to LOST. -/
  | oscFail
  /-- ARM_ATB (R315). TIME_CMD.ARM_ATB arms an ATB set at the next PPS or TC second, or is ignored while a schedule runs. -/
  | armAtb
  /-- ATB_SET_APPLY (R315). At the armed PPS, ATB becomes ATB_SET, Slide is cleared, and ATB_VALID is set. -/
  | atbSetApply
  /-- SET_EPOCH (R316). TIME_CMD.SET_EPOCH records the STB epoch, or is ignored while a schedule runs. -/
  | setEpoch
  /-- FCC_WRITE (R316). A write of FCC_NUM or FCC_DEN changes f_cc and recomputes STB, unless the value is 0 or an image is LOADED. -/
  | fccWrite (den : Bool) (v : Word)
  /-- TIME_CLR_CNT (R330). TIME_CMD.CLR_CNT clears the counters of TIME0 to TIME3. -/
  | timeClrCnt
  /-- LTB_TICK (R319). Each 32.768 kHz crystal tick advances LTB. -/
  | ltbTick
  /-- SLIDE_MS_BOUNDARY (R321). At each TC millisecond boundary Slide activates a pending correction and applies one slew step. -/
  | slideMsBoundary
  /-- TS_ENTRY_AGED (R324). A transmit timestamp entry waits TS_AGE and leaves the queue, delivering an event with NO_RESP. -/
  | tsEntryAged
  /-- PPS_OUT_EDGE (R328). PPS_OUT gives a rising edge at each whole second of its source plus PPS_OUT_DELAY. The command is the next edge. -/
  | ppsOutEdge
  /-- FAULT_ACCEPT (R414). The collector accepts a pending fault message in a class [34] window, escalates, records it and starts its class reaction. -/
  | faultAccept (page : Fin 4096)
  /-- FLT_ACK (R415). FLT_ACK clears the outstanding flags written as 1. -/
  | fltAck (v : Word)
  /-- CLR_FIRST (R416). FLT_CMD.CLR_FIRST clears the first-fault record. -/
  | clrFirst
  /-- CLR_HIST (R437). FLT_CMD.CLR_HIST clears the history and FATAL_VALID, but not the latch. -/
  | clrHist
  /-- FLT_CLR_CNT (R437). FLT_CMD.CLR_CNT clears the fault collector counters. -/
  | fltClrCnt
  /-- HIST_SEL (R437). A write of HIST_SEL copies the selected history entry into the HIST registers. -/
  | histSel (v : Word)
  /-- DEVRST (R425). RST_CMD.DEVRST with the key resets the device and starts a forced stop if a schedule runs. -/
  | devrst (key : BitVec 16)
  /-- PERST_N_ASSERT (R429). PERST_N resets all logic outside the Drone domain and enters SHELVED, keeping any ballast ramp-down. -/
  | perstNAssert
  /-- PERST_N_DEASSERT (R455). PERST_N deasserts, so the device enters BRINGUP and powers its domains, or SAFE when the Fatal latch is set. -/
  | perstNDeassert (lnrev : Bool)
  /-- RAIL_OUT_OF_TOLERANCE (R448). A rail of groups B to D leaves tolerance, leaving the device undefined until PERST_N. -/
  | railOutOfTolerance (rail : Rail)
  /-- FREEZE_N (R430). A falling edge of FREEZE_N held 100 ns freezes every clock unless PERST_N is asserted or debug is locked. -/
  | freezeN
  /-- FREEZE (R430). DBG_CMD.FREEZE with the key freezes the device. -/
  | freeze (key : BitVec 16)
  /-- BYPASS (R432). The TAP instruction BYPASS selects the 1-bit bypass register. -/
  | bypass (tdi : Bool)
  /-- IDCODE (R432). The TAP instruction IDCODE returns the 32-bit device identity. -/
  | idcode
  /-- SAMPLE_PRELOAD (R432). The TAP instruction SAMPLE/PRELOAD captures or preloads the boundary scan cells, unless locked. -/
  | samplePreload (bits : List Bool)
  /-- EXTEST (R432). The TAP instruction EXTEST drives the lands from the boundary scan register, unless locked. -/
  | extest (bits : List Bool)
  /-- DBG_REG (R433). Update-DR of DBG_REG issues a register access through the control crossbar, or returns DENIED. -/
  | dbgReg (req : DWord)
  /-- DBG_ACCESS_DONE (R433). A debug register access completes in its window and sets DONE with its data or error. -/
  | dbgAccessDone
  /-- FRZ_READ (R431). Each Capture-DR of FRZ_READ loads the next 64-bit word of the freeze read-out stream. -/
  | frzRead
  /-- CHALLENGE (R435). The TAP instruction CHALLENGE returns the 128-bit challenge in force. -/
  | challenge
  /-- UNLOCK (R435). An UNLOCK token shifted in starts verification, or is refused after eight failures. -/
  | unlock (token : List Byte)
  /-- UNLOCK_VERIFY_DONE (R435). Token verification ends by granting its scopes, or by counting a failure; a new challenge is drawn. -/
  | unlockVerifyDone
  /-- PCIE_LINK_UP (R355). The PCIe link completes training, so LINK_STS and PAYLOAD_BW are set and frames are no longer discarded at stage 6 for a link that is down. -/
  | pcieLinkUp (gen width : Nat) (mps : Fin 3)
  /-- PCIE_LINK_CREDIT (R271). The PCIe link returns credit, so a frame held at the head of an egress queue for want of credit issues its write TLPs and the frames behind it move on. -/
  | pcieLinkCredit (d : XDie)
  /-- FORCED_STOP_DONE (R425). A forced stop ends with the domains off and the device in IDLE, raising FORCED_STOP_DONE. -/
  | forcedStopDone
  /-- FLR (R377). A Function Level Reset resets ring contexts, increments GEN, stops DMA and forces a stop of any schedule. -/
  | flr
  /-- HOT_RESET (R377). A PCIe hot reset acts as FLR. -/
  | hotReset
  /-- PCIE_LINK_DOWN (R377). Loss of the PCIe link acts as FLR. -/
  | pcieLinkDown
  /-- D3HOT_ENTRY (R428). Entry to D3hot forces a stop if needed, puts the HBM into self-refresh and powers down all but the retained domains. -/
  | d3hotEntry
  /-- D3HOT_EXIT (R427). Return to D0 restores the HBM, fast-retrains the lanes and returns to the mode held at entry. -/
  | d3hotExit
  /-- DRONE_POWER_VALID (R454). VDD_DRONE becomes valid, so LTB starts and credit for BRINGUP accrues. -/
  | dronePowerValid
  /-- POWER_CYCLE (R447). Removal of VDD_DRONE for at least 100 ms clears the Fatal latch and every retained state. -/
  | powerCycle
  /-- OSC_IN_ACTIVITY (R312). The OSC_IN input shows activity while OSC_EN = 1, so OSC_OK sets and the local oscillator returns to OSC_IN. -/
  | oscInActivity
  /-- DEVRST_DONE (R438). A device reset in progress ends, so RST_STS.DEVRST_BUSY clears and DEVRST_DONE is raised. -/
  | devrstDone
  /-- RAIL_RESTORE (R448). Supply groups B to D, removed in SHELVED, are restored under R447 while PERST_N is asserted. -/
  | railRestore
deriving DecidableEq, Repr

end Sys2Proof
end

