-- ==== Sys2Proof/Decode.lean ====
section
/-! DEFINITION. Decode.lean: the words of the command table. No row of spec/opcode_table.json gives bits: commands come
from pins, links and registers, so no word spells one. -/

namespace Sys2Proof

/-- The command a word of the table spells: none, for no row has bits. -/
def decodeTableWord (_nbits _w : Nat) : Option Instr := none

end Sys2Proof
end

