-- ==== Sys2Proof/Machine/SMap.lean ====
section
/-! DEFINITION. Machine/SMap.lean: sparse maps on Nat keys in one canonical form: keys strictly rising and no
entry equal to what an unlisted key reads as. Registers, memories and every numbered collection use it. -/

namespace Sys2Proof.Machine

/-- A sparse map: the listed keys with their values, ascending. -/
abbrev SMap (α : Type) := List (Nat × α)

/-- The value of key `k`, `d k` where it is not listed. -/
def SMap.get {α : Type} (d : Nat → α) : SMap α → Nat → α
  | [], k => d k
  | (j, v) :: m, k => if j = k then v else SMap.get d m k

/-- Remove key `k`. -/
def SMap.erase {α : Type} (m : SMap α) (k : Nat) : SMap α := m.filter (fun e => e.1 != k)

/-- List `v` at key `k`, keeping the keys ascending. -/
def SMap.insert {α : Type} : SMap α → Nat → α → SMap α
  | [], k, v => [(k, v)]
  | (j, w) :: m, k, v =>
    if k < j then (k, v) :: (j, w) :: m
    else if k = j then (k, v) :: m
    else (j, w) :: SMap.insert m k v

/-- Write `v` at key `k`: the default value removes the entry. -/
def SMap.set {α : Type} [DecidableEq α] (d : Nat → α) (m : SMap α) (k : Nat) (v : α) : SMap α :=
  if v = d k then SMap.erase m k else SMap.insert m k v

/-- Keys strictly rising from above `lo` (`lo = none`: from anything). -/
def SMap.rising {α : Type} : Option Nat → SMap α → Bool
  | _, [] => true
  | none, (j, _) :: m => SMap.rising (some j) m
  | some i, (j, _) :: m => decide (i < j) && SMap.rising (some j) m

/-- The canonical form. -/
def SMap.wf {α : Type} [DecidableEq α] (d : Nat → α) (m : SMap α) : Bool :=
  SMap.rising none m && m.all (fun e => decide (e.2 ≠ d e.1))

/-- Change the value of one key. -/
def SMap.mod {α : Type} [DecidableEq α] (d : Nat → α) (m : SMap α) (k : Nat) (f : α → α) : SMap α :=
  SMap.set d m k (f (SMap.get d m k))

/-- The entries of a run of values from key `k` upward. -/
def SMap.blockOf {α : Type} [DecidableEq α] (d : Nat → α) : Nat → List α → SMap α
  | _, [] => []
  | k, v :: vs => if v = d k then SMap.blockOf d (k + 1) vs else (k, v) :: SMap.blockOf d (k + 1) vs

/-- Write a run of values from key `k` upward. -/
def SMap.setRun {α : Type} [DecidableEq α] (d : Nat → α) (m : SMap α) (k : Nat) (vs : List α) : SMap α :=
  m.filter (fun e => decide (e.1 < k)) ++ SMap.blockOf d k vs ++ m.filter (fun e => decide (k + vs.length ≤ e.1))

/-- The values of the `n` keys from `k` upward in a map that lists nothing below `k`. -/
def SMap.readFrom {α : Type} (d : Nat → α) : Nat → Nat → SMap α → List α
  | 0, _, _ => []
  | n + 1, k, [] => d k :: SMap.readFrom d n (k + 1) []
  | n + 1, k, (j, v) :: m =>
    if j = k then v :: SMap.readFrom d n (k + 1) m else d k :: SMap.readFrom d n (k + 1) ((j, v) :: m)

/-- Read `n` values from key `k` upward. -/
def SMap.getRun {α : Type} (d : Nat → α) (m : SMap α) (k n : Nat) : List α :=
  SMap.readFrom d n k (m.dropWhile (fun e => decide (e.1 < k)))

/-- Forget every listed key from `lo` to `hi - 1`. -/
def SMap.dropRange {α : Type} (m : SMap α) (lo hi : Nat) : SMap α :=
  m.filter (fun e => decide (e.1 < lo ∨ hi ≤ e.1))

end Sys2Proof.Machine
end

