-- ==== Sys2Proof/Machine/State.lean ====
section
/-! DEFINITION. Machine/State.lean: everything the spec gives the OTR4096, as plain data; its faults and refusals;
and the state after reset. A register that no structure below holds lies in `Core.regs`, keyed page * 4096 + offset. -/

namespace Sys2Proof.Machine

/-- The parts (R1). -/
inductive Part where
  | otr4096A | otr4096N | otr2048A
deriving DecidableEq, Repr

/-- The modes of Table 12.1. -/
inductive Mode where
  | shelved | bringup | idle | correlate | corrbeam | beam | zoom | search | calibrate | inspect | quiesce | safe
deriving DecidableEq, Repr

/-- MODE_STS.PHASE (Table 12.9). -/
inductive Phase where
  | steady | powering | preRoll | waitT0 | draining | powerDown
deriving DecidableEq, Repr

/-- The OTP contents of page SEC and GLB (R407, R440). DESIGN CHOICE, notes/assumptions/3.md -/
structure Otp where
  uid : DWord := 0
  requireSign : Bool := false
  debugLock : Bool := false
  bscanLock : Bool := false
  keyProg : Nat := 0
  keyRevoked : Nat := 0
  keyHash : List (List Byte) := []
deriving DecidableEq, Repr

/-- One accepted fault message as the collector records it (R415, R416, Table 17.4). -/
structure FaultRec where
  msg : DWord := 0
  ltb : DWord := 0
  seq : Word := 0
  coalesced : Nat := 0
  orig : Nat := 0
  esc : Bool := false
  first : Bool := false
  atbValid : Bool := false
  atbS : Word := 0
  atbNs : Word := 0
deriving DecidableEq, Repr

/-- The fault collector in the Drone domain (R414 to R416, R420). History newest first; `served` is the page it served last. -/
structure Collector where
  latch : Bool := false
  outN : Bool := false
  outD : Bool := false
  outS : Bool := false
  first : Option FaultRec := none
  fatal : Option FaultRec := none
  hist : List FaultRec := []
  histSel : Option FaultRec := none
  seq : Word := 0
  served : Option Nat := none
deriving DecidableEq, Repr

/-- The pending slot of a page (R414): the message, and repeats coalesced. -/
structure Pend where
  page : Nat
  kind : Nat
  cls : Nat
  addr : Nat
  coalesced : Nat
deriving DecidableEq, Repr

/-- What an unlisted byte of a memory reads as: zero, a repeated 32-bit word, or a free value (R342, Table 17.6). -/
inductive Fill where
  | zero
  | word (w : Nat)
  | freeSram (n : Nat)
  | freeHbm (n : Nat)
deriving DecidableEq, Repr

/-- A memory: the fill and the listed bytes, by byte address. -/
structure Mem where
  fill : Fill := .zero
  cells : SMap Byte := []
deriving DecidableEq, Repr

/-- The regions of IO-die SRAM (R20), each addressed by its IO-die SRAM byte address. -/
structure IoSram where
  hist : Mem := { fill := .freeSram 0 }
  gain : Mem := { fill := .freeSram 0 }
  elastic : Mem := { fill := .freeSram 0 }
  crook : Mem := { fill := .freeSram 0 }
  rqsat : Mem := { fill := .freeSram 0 }
  eye : Mem := { fill := .freeSram 0 }
  calbuf : Mem := { fill := .freeSram 0 }
  ctx : Mem := { fill := .freeSram 0 }
  ret : Mem := { fill := .freeSram 0 }
  gen : Nat := 0
deriving DecidableEq, Repr

/-- LANE_STS.STATE (Table 2.9). -/
inductive LaneSt where
  | off | acquire | negotiate | stepping | up | recal | retrain | failed
deriving DecidableEq, Repr

/-- Where a bring-up, a fast retrain or a recalibration stands (R48 to R53); in `markOwn` the partner's boundary of a rate
change is past and own marked blocks are still to leave. -/
inductive LanePh where
  | none | pll | align | waitCtrl | caps | ackWait | mark | markOwn | adapt | markPrbs | prbs | result
  | losWait | fastAlign | recalAdapt | recalAlign | recalScan
deriving DecidableEq, Repr

/-- Why a scan runs (R50, R53, R56). -/
inductive ScanWhy where
  | command | enterUp | recal
deriving DecidableEq, Repr

/-- A control block waiting to be sent: TYPE, the lane a relayed message concerns, COUNT and BODY (Table 2.1). -/
structure CtrlOut where
  type : Nat
  rel : Option Nat := none
  count : Nat := 0
  body : List Byte := []
deriving DecidableEq, Repr

/-- A time stamp: seconds, nanoseconds, fraction (R323). -/
structure Stamp where
  s : Nat := 0
  ns : Nat := 0
  frac : Nat := 0
deriving DecidableEq, Repr

/-- A Tsuhan lane (R29 to R60). `rxMark` is the number of control commas still to come before the partner's marked boundary,
`txMark` says that own marked blocks are still to leave, `txPrbs` that the transmitter sends PRBS31, `rxBits` is the bit
count that the partner stated (R42, R48); `scanDwell` and `scanThresh` are the exponents of the scan that runs (R56). -/
structure LaneS where
  st : LaneSt := .off
  ph : LanePh := .none
  step : Nat := 0
  txStep : Nat := 0
  top : Nat := 0
  target : Nat := 0
  retried : Bool := false
  falling : Bool := false
  fast : Bool := false
  pol : Bool := false
  los : Bool := false
  lol : Bool := false
  aligned : Bool := false
  failCode : Nat := 0
  settings : Bool := false
  partnerLane : Nat := 0
  features : Nat := 0
  partnerMax : Nat := 0
  ownPass : Option Bool := none
  peerPass : Option Bool := none
  rxMark : Option Nat := none
  txMark : Bool := false
  txPrbs : Bool := false
  rxBits : Nat := 0
  recalPending : Bool := false
  scan : Option ScanWhy := none
  scanMode : Nat := 1
  scanDwell : Nat := 7
  scanThresh : Nat := 6
  txSeq : Nat := 0
  txIdle : Bool := true
  rxK : Nat := 0
  txK : Nat := 0
  ctrlHeld : Bool := false
  ctlQ : List CtrlOut := []
  hostQ : List (List Byte) := []
  timeQ : List Nat := []
  respQ : List (Nat × Stamp) := []
  upSince : Nat := 0
deriving DecidableEq, Repr

/-- A lane group: its PLL, the LANE_EN value held for the domain's switch-on (R456), and the scan owner (R58). -/
structure LgrpS where
  pll : Bool := false
  enPend : Option Nat := none
  scanOwner : Nat := 0
deriving DecidableEq, Repr

/-- A packet held in an elastic-buffer slot (R67); its payload lies in the lane's buffer at slot `idx`. -/
structure Slot where
  lane : Nat
  pos : Nat
  blk : Nat
  mask : Nat
  dflags : Nat
  margin : Int
  idx : Nat
deriving DecidableEq, Repr

/-- Margin and lag statistics of one 100 ms interval; `outside` and `lagBad` are the sample index of the first packet
outside its limits; `old` where the interval began before T0 (R71 to R73, R318). -/
structure Interval where
  lo : Option (Int × Nat) := none
  hi : Option (Int × Nat) := none
  sum : Int := 0
  n : Nat := 0
  outside : Option Nat := none
  lagLo : Option Int := none
  lagHi : Option Int := none
  lagBad : Option Nat := none
  old : Bool := false
deriving DecidableEq, Repr

/-- The ingest unit (R61 to R74). -/
structure IngestS where
  slots : List Slot := []
  cur : Interval := {}
  means : List (Option (Int × Nat)) := []
  drift : Int := 0
  tts : Nat := 0xFFFFFFFF
  ttsArmed : Bool := true
  sinceStart : Nat := 0
  slip : Bool := false
  cnt : SMap Nat := []
deriving DecidableEq, Repr

/-- A delay segment (Table 4.2). -/
structure Seg where
  ba : Nat := 0
  act : Nat := 0
  a0 : Int := 0
  a1 : Int := 0
  a2 : Int := 0
  a3 : Int := 0
deriving DecidableEq, Repr

/-- The result of the evaluator for one input and block (R81). -/
structure Eval where
  blk : Nat := 0
  tau : Int := 0
  k : Int := 0
  fr : Int := 0
  bad : Bool := false
  expired : Bool := false
deriving DecidableEq, Repr

/-- The delay model of one input (R80, R81). -/
structure DelayS where
  active : Option Seg := none
  pending : List Seg := []
  lastBa : Option Nat := none
  expRaised : Bool := false
  rangeRaised : Bool := false
  eval : Option Eval := none
deriving DecidableEq, Repr

/-- A complex sample with its valid bit. -/
structure Samp where
  re : Int := 0
  im : Int := 0
  v : Bool := false
deriving DecidableEq, Repr

/-- The parts of one input stream that the layout of R459 does not place: the last source samples, newest first,
and the valid bits of the held delayed positions, newest first; `next` is the next position to form (R82). -/
structure StreamS where
  next : Nat := 0
  tail : List Samp := []
  vd : List Bool := []
deriving DecidableEq, Repr

/-- One part of a CIC and FIR chain (R93): integrators, comb delays oldest last, FIR inputs newest first. -/
structure CicS where
  integ : List Int := []
  comb : List (List Int) := []
  fir : List Int := []
deriving DecidableEq, Repr

/-- A zoom stream: CIC and FIR state, the last outputs newest first, the run of valid positions, and whether the state
was lost (R93, R459). -/
structure ZoomS where
  next : Nat := 0
  re : CicS := {}
  im : CicS := {}
  zh : List Samp := []
  run : Nat := 0
  lost : Bool := false
deriving DecidableEq, Repr

/-- A gain step accepted for a window (R98). -/
structure GStep where
  win : Nat
  entries : List (Nat × Nat × Nat)
deriving DecidableEq, Repr

/-- A requantiser calibration in progress (R101): pass, passes, first block of the pass, the sums and counts of the passes
ended, by entry, the gains computed, and the sum of err² as a float64 pattern with its count (R102). -/
structure CalS where
  pass : Nat := 0
  passes : Nat := 1
  start : Nat := 0
  sums : List (Nat × Nat) := []
  newGains : List (Nat × Nat) := []
  errSum : Nat := 0
  errN : Nat := 0
  ready : Bool := false
deriving DecidableEq, Repr

/-- The channeliser (R75 to R104). `slipBlks` and `holdBlks` are the runs of blocks, first and last, that fell due while a slip event
was open and while the DPLL was not LOCKED (Tables 7.4, 7.5, 8.7). -/
structure ChanS where
  evalBlk : List (Option Nat) := []
  delays : SMap DelayS := []
  streams : SMap StreamS := []
  zooms : SMap ZoomS := []
  gsteps : List GStep := []
  cal : Option CalS := none
  gstepWins : List Nat := []
  slipBlks : List (Nat × Nat) := []
  holdBlks : List (Nat × Nat) := []
  ceAt : Option Nat := none
deriving DecidableEq, Repr

/-- A 64 x 64 array of exact sums, index a * 64 + b, with the counts (R120). -/
structure Tile where
  acc : SMap (Int × Int) := []
  cnt : SMap Nat := []
deriving DecidableEq, Repr

/-- The outgoing half of a task waiting for the long-term update (R125, R129). -/
structure Done where
  tile : Tile := {}
  lost : Bool := false
  lostCount : Bool := false
deriving DecidableEq, Repr

/-- A cell (R120): the arrays; the parked slot that the live array goes back to at the next swap, and whether its task is counted;
the sums in the parked slots; and the two count slots, each with one more than the parked slot of the task whose count it holds,
0 where it is free. -/
structure CellS where
  live : Tile := {}
  liveSlot : Option (Nat × Bool) := none
  shadow : Tile := {}
  slots : SMap (SMap (Int × Int)) := []
  counts : SMap (Nat × SMap Nat) := []
deriving DecidableEq, Repr

/-- A bank of a beam target (R172). -/
inductive BankSt where
  | empty | loading | loaded
deriving DecidableEq, Repr

/-- A swap accepted or a fade in progress (R177 to R179): TARGETS, ACT_SPECTRUM, F, its COMMAND ring and descriptor, its
first block, and whether a target of it has begun. -/
structure Swap where
  mask : Nat
  act : Nat
  len : Nat
  ring : Nat
  idx : Nat
  kap : Nat
  begun : Bool := false
deriving DecidableEq, Repr

/-- A beam target: a slice or the cells of a die (R171, R172). -/
structure TargetS where
  a : BankSt := .empty
  b : BankSt := .empty
  activeB : Bool := false
  swap : Option Swap := none
  fading : Bool := false
  pos : Nat := 0
deriving DecidableEq, Repr

/-- A voltage frame under construction (R186); `from_` is the die cycle in which the pass of its first row began. -/
structure VoltS where
  from_ : Nat := 0
  samples : SMap (Int × Int) := []
  full : SMap Bool := []
  rows : Nat := 0
  flags : Nat := 0
deriving DecidableEq, Repr

/-- A stochastically rounded running sum (R195). -/
structure RSum where
  s : Nat := 0
  k : Nat := 0
  lapsed : Bool := false
  ovf : Bool := false
  hwe : Nat := 0
deriving DecidableEq, Repr

/-- A detection interval of one beam and channel (R183); `from_` is the die cycle in which the pass of its first row began. -/
structure DetS where
  from_ : Nat := 0
  q : Nat := 0
  n : Nat := 0
  sums : List RSum := []
  flags : Nat := 0
  closed : Bool := false
deriving DecidableEq, Repr

/-- A reduction group (R203, R204): the count, the greatest and least term as float64 patterns with their indices, the sums, the
shift, and whether a term was excluded or missed. -/
structure RedGrp where
  n : Nat := 0
  max : Option (Nat × Nat) := none
  min : Option (Nat × Nat) := none
  s1 : RSum := {}
  s2 : RSum := {}
  c : Option Nat := none
  part : Bool := false
deriving DecidableEq, Repr

/-- A term of a reduction unit (R198): selection, local channel, time offset, whether it is float32, the value,
and whether it is excluded (R200). -/
structure Term where
  win : Nat
  s : Nat
  k : Nat
  t : Nat
  isF : Bool
  x : Int
  excl : Bool
deriving DecidableEq, Repr

/-- The reduction unit of a die (R197): the bank and interval in accumulation, the groups, the terms that wait for RED_ENTER,
and for each interval not closed the WFLAGS of its windows, with bit 16 for a skip mask. `closing` is set while an interval
whose reads had ended when the schedule entered QUIESCE awaits its report (R208); the closed bank is in finalisation until die
cycle `finTo`. -/
structure RedS where
  bank : Bool := false
  interval : Nat := 0
  groups : SMap RedGrp := []
  terms : List Term := []
  flags : SMap Nat := []
  closing : Bool := false
  finTo : Nat := 0
deriving DecidableEq, Repr

/-- Destination and header of a frame (R158); `done` is the die cycle in which its scheduled read completes (R270). -/
structure Frame where
  dest : Nat
  type : Nat
  flags : Nat
  source : Nat
  tag : Nat
  seq : Nat
  launchS : Nat
  launchNs : Nat
  hdr : List Byte
  origin : Nat
  payload : List Byte
  gen : Nat := 0
  done : Nat := 0
  held : Bool := false
  wait : Bool := false
deriving DecidableEq, Repr

/-- A frame written to the beam or reduction area (R188, R208): where it lies, what its header will say, and the die cycles of a beam
frame's rows. -/
structure AreaFrame where
  addr : Nat
  len : Nat
  type : Nat
  flags : Nat
  dest : Nat
  hdr : List Byte
  from_ : Nat := 0
  to_ : Nat := 0
  used : Bool := true
deriving DecidableEq, Repr

/-- The window and integration record of a die: WFLAGS seen, and their OR over the integration (R161, R162). -/
structure WinRec where
  flags : Nat := 0
  integ : Nat := 0
  lastInteg : Nat := 0
  skipped : Bool := false
  intSkipped : Bool := false
  lastSkipped : Bool := false
deriving DecidableEq, Repr

/-- A mover transfer in progress (R224); `pc` is where its MOVE stands, `from_` its issue cycle, `deadline` the cycle by which it
completes. -/
structure MoveS where
  spaces : Nat
  src : Nat
  dst : Nat
  len : Nat
  win : Nat
  pc : Nat
  deadline : Nat
  from_ : Nat := 0
deriving DecidableEq, Repr

/-- A loop level of a Chanter (R237). -/
structure LoopS where
  count : Nat
  index : Nat
  body : Nat
deriving DecidableEq, Repr

/-- An HBMS list being issued (R226): list, next entry and its slot cycle, and the loop levels, window and program address
of its HBMQ. -/
structure ListS where
  list : Nat
  entry : Nat
  slot : Nat
  loops : List LoopS
  win : Nat
  pc : Nat
deriving DecidableEq, Repr

/-- CHN_STS.STATE (Table 10.19). -/
inductive ChnSt where
  | idle | running | held | halted
deriving DecidableEq, Repr

/-- A Chanter (R234) with its window (R241) and the TC, in ns, at which the window opened, SETR queue (R242), and stepping
request (R249). `last` is the die cycle of the last instruction issued or list entry served. -/
structure ChanterS where
  st : ChnSt := .idle
  pc : Nat := 0
  scyc : Nat := 0
  loops : List LoopS := []
  frame : Nat := 0
  window : Nat := 0
  win : Option (Nat × Nat) := none
  setrQ : List (Nat × Word) := []
  stepReq : Nat := 0
  winTc : Nat := 0
  last : Nat := 0
  mask : Nat := 0
  maskNext : Nat := 0
  syncs : List (Nat × Nat) := []
deriving DecidableEq, Repr

/-- An X die's data path (R120 to R213). `chanWin` gives for a channel one more than the window of its last CELLS, and that
window's skip mask; `updWin` is the window of the last long-term update (Table 6.4); `lastMiss` is one more than the latest die cycle
of a breach. The staging buffers, the parked and count
slots, the beam table and buffers and the reduction banks have places of their own here, apart from the addresses of `sram`, since
the spec gives no map of X-die SRAM (R19). DESIGN CHOICE, notes/assumptions/87.md -/
structure XDieS where
  sram : Mem := { fill := .freeSram 0 }
  buf : List Mem := [{ fill := .freeSram 0 }, { fill := .freeSram 0 }]
  bufBad : List Bool := [false, false]
  cells : SMap CellS := []
  done : SMap Done := []
  emit : SMap Nat := []
  abandon : Option Nat := none
  lateWins : List Nat := []
  lostNext : List Nat := []
  invalid : SMap Nat := []
  chanWin : SMap (Nat × Nat) := []
  updWin : Option Nat := none
  lastMiss : Nat := 0
  movers : SMap MoveS := []
  lists : List ListS := []
  acts : List ListS := []
  ovrRaised : Bool := false
  wsatRaised : Bool := false
  vsatRaised : List Nat := []
  winrec : WinRec := {}
  emitted : Option Nat := none
  left : SMap Nat := []
  egress : List Frame := []
  noticed : List Nat := []
  drained : Option Nat := none
  bslW : SMap Nat := []
  bslBad : List Nat := []
  cellW : Option (Nat × List Nat) := none
  volt : SMap VoltS := []
  det : SMap DetS := []
  area : List AreaFrame := []
  nBeam : Nat := 0
  redArea : List AreaFrame := []
  red : RedS := {}
  missed : List Nat := []
deriving DecidableEq, Repr

/-- HBM_STS.STATE (Table 14.4). -/
inductive HbmSt where
  | off | training | trained | failed | selfRefresh
deriving DecidableEq, Repr

/-- Who waits for an asynchronous HBM request. -/
inductive Origin where
  | bar2 (id : Nat) | dma (ch : Nat) | inspect (i : Nat)
deriving DecidableEq, Repr

/-- An S2 or S3 request in a bank queue (R336), at most 256 B of one pseudo-channel; `seq` numbers requests in order of
arrival, `off` is the place of its bytes in the access or burst that it is part of. -/
structure AsyncReq where
  seq : Nat
  off : Nat
  s3 : Bool
  write : Bool
  addr : Nat
  len : Nat
  data : List Byte
  aged : Bool := false
  origin : Origin
deriving DecidableEq, Repr

/-- A stack and its controller (R333 to R353). `phy` stands for the trained values in the PHY and `shadow` for the 2 KiB shadow of
them in the Drone domain (R342): training `n` gives the bytes `Config.freeHbm n`. -/
structure StackS where
  st : HbmSt := .off
  rate : Nat := 0
  ratePend : Option Nat := none
  tries : Nat := 0
  rateJob : Bool := false
  trainPend : Bool := false
  phy : Option Nat := none
  shadow : Option Nat := none
  mem : Mem := { fill := .freeHbm 0 }
  err : SMap (List Nat) := []
  lost : Nat := 0
  temp : Nat := 0
  hot : Bool := false
  fast : Bool := false
  owed : SMap Nat := []
  refr : List Nat := []
  forced : List Nat := []
  calFail : SMap Nat := []
  queue : List AsyncReq := []
  openRow : SMap Nat := []
  inOrder : List Nat := []
  inject : Bool := false
  ceAt : Option Nat := none
  ueLog : List (Nat × Bool) := []
  scrub : Nat := 0
deriving DecidableEq, Repr

/-- A fetched descriptor (Table 15.6) with its number; `dead` where its slot has been completed at the fetch (R374). -/
structure Desc where
  n : Nat
  op : Nat
  gen : Nat
  dflags : Nat
  tag : Nat
  addr : Nat
  len : Nat
  arg0 : Nat
  arg1 : Nat
  dead : Bool := false
deriving DecidableEq, Repr

/-- An outbound item (R370, R373): kind, generation, bytes, the frame's die when it is a frame, the ring it came from;
a KIND 4 item carries the status, tag, length and detail of the completion it stands for (R374). -/
structure Item where
  kind : Nat
  gen : Nat
  bytes : List Byte
  die : Nat
  orphan : Bool := false
  from_ : Nat
  status : Nat := 0
  tag : Nat := 0
  clen : Nat := 0
  detail : Nat := 0
deriving DecidableEq, Repr

/-- A completion that waits for its read-back (R384); `stale` where the ring's generation changed meanwhile (R374). -/
structure Compl where
  n : Nat
  tag : Nat
  status : Nat
  len : Nat
  kind : Nat
  gen : Nat
  detail : Nat
  irq : Bool
  orphan : Bool := false
  ring : Nat
  writes : Bool := false
  stale : Bool := false
deriving DecidableEq, Repr

/-- A ring context (R363 to R376). -/
structure RingS where
  role : Nat := 0
  k : Nat := 4
  dbase : Nat := 0
  cbase : Nat := 0
  stDbase : Nat := 0
  stCbase : Nat := 0
  vec : Nat := 0
  prio : Nat := 0
  coalCnt : Nat := 1
  coalUs : Nat := 0
  gen : Nat := 0
  error : Bool := false
  orphan : Bool := false
  head : Nat := 0
  tail : Nat := 0
  fetch : Nat := 0
  descs : List Desc := []
  busy : Bool := false
  stale : Option Nat := none
  items : List Item := []
  compl : List Compl := []
  unsig : Nat := 0
deriving DecidableEq, Repr

/-- What a DMA channel works for (R378, R386). -/
inductive Purpose where
  | host | chunk | bank (target : Nat) (b : Bool) | inspectRead | gain (win : Nat)
deriving DecidableEq, Repr

/-- A DMA job (R379) on a channel, or the transfer of a ring-engine command. -/
structure Job where
  ring : Nat
  n : Nat
  tag : Nat
  irq : Bool
  purpose : Purpose
  kind : Nat := 0
  srcSp : Nat
  dstSp : Nat
  len : Nat
  src : Nat
  dst : Nat
  pattern : Nat := 0
  circLog : Nat := 0
  circSrc : Bool := false
  done : Nat := 0
  pend : Nat := 0
  started : Bool := false
  blen : Nat := 0
  writing : Bool := false
  stopAs : Option Nat := none
  memErr : Bool := false
  buf : List Byte := []
deriving DecidableEq, Repr

/-- A DMA channel (Table 15.15). -/
structure DmaS where
  job : Option Job := none
  readback : Bool := false
  waiting : List Job := []
  lastStatus : Nat := 0
  lastRing : Nat := 0
  residue : Nat := 0
  tag : Nat := 0
  src : Nat := 0
  dst : Nat := 0
deriving DecidableEq, Repr

/-- A BAR2 read in progress: its number, its offset, the target and address that it was translated to when it arrived, the
bytes so far, the pieces outstanding, and whether an uncorrectable word was met (R359 to R361). -/
structure Bar2Rd where
  id : Nat
  addr : Nat
  target : Nat
  at_ : Nat
  data : List Byte
  left : Nat
  bad : Bool := false
deriving DecidableEq, Repr

/-- A BAR2 access to die SRAM that waits for its window: its number, its offset, target and address; the bytes of a write, or the
length of a read with the words in error that it will meet (R360, R423). -/
structure Bar2Op where
  id : Nat
  addr : Nat
  target : Nat
  at_ : Nat
  data : Option (List Byte)
  len : Nat
  ce : List Nat
  ue : List Nat
deriving DecidableEq, Repr

/-- Rings, DMA and PCIe (chapter 15). `fmask` and `msixTab` are the function mask and the addresses and data of the MSI-X table
(R362); `bar2W` are the BAR2 accesses to SRAM that wait (R360), `heldQ` the accesses that PCIe flow control holds, oldest
first (R264, R360); `cxbAged` and `bxbAged` are the pairs of master and group or target whose waiting access or burst age has
promoted (R392, R397); `aer` is the uncorrectable error status of AER (Table 15.1); `lastRing` the ring
whose job last got a channel (R368). -/
structure HostS where
  rings : SMap RingS := []
  dma : SMap DmaS := []
  linkUp : Bool := false
  gen : Nat := 0
  width : Nat := 0
  mps : Nat := 0
  lnrev : Bool := false
  mask : List Nat := List.range 2048
  pbits : List Nat := []
  fmask : Bool := false
  msixTab : SMap (Nat × Nat) := []
  bar2Q : List Bar2Rd := []
  bar2W : List Bar2Op := []
  heldQ : List (Chip × Instr) := []
  cxbAged : List (Nat × Nat) := []
  bxbAged : List (Nat × Nat) := []
  aer : Nat := 0
  asyncN : Nat := 0
  lastRing : Nat := 0
  poolQ : List Job := []
  engineQ : List Job := []
  d3 : Option Mode := none
  d3up : List Nat := []
  loadRing : Option Nat := none
  extent : Nat := 0
  commitRing : Option Nat := none
  seqs : SMap Nat := []
  seqOpen : List (Nat × Nat × Nat) := []
  tseqs : SMap Nat := []
  gens : SMap Nat := []
  challenge : Nat := 0
deriving DecidableEq, Repr

/-- A lock on a control-crossbar group (R393). -/
structure LockS where
  owner : Option Nat := none
  acc : Nat := 0
  wait : List Nat := []
deriving DecidableEq, Repr

/-- Mode, power domains and the Breath governor (chapter 12). Credits and `draw`, the ballast left to ramp down after a
stop, in 0.1 mW; `holds` are the draws, in 0.1 W, at which THERM_WARN, FLOW_LOW and CASE_TEMP began, `restore` where one of them has ended; `want` the switches
asked for; `stopDrain` where drains and reports are abandoned too; `ramp` the rate of an ALARM; `shelvedBy` where REQ =
SHELVE entered SHELVED; `keepRegs` the domains whose next local reset keeps the registers (R283, R427). -/
structure PowerS where
  mode : Mode := .shelved
  image : Option Mode := none
  phase : Phase := .steady
  reject : Nat := 0
  on : Nat := 0
  ready : Nat := 0
  want : List (Nat × Bool) := []
  credit : Nat := 0
  down : Nat := 0
  ballast : Nat := 0
  duty : Nat := 0
  runOn : Bool := false
  draw : Nat := 0
  holds : List (Option Nat) := [none, none, none]
  warnMs : Nat := 0
  startSample : Nat := 0
  ramp : Bool := false
  forced : Bool := false
  stopDrain : Bool := false
  restore : Bool := false
  fcSlot : Nat := 0
  seg : Nat := 0
  segAt : Nat := 0
  running : Bool := false
  mute : Bool := false
  shelvedBy : Bool := false
  keepRegs : List Nat := []
  stepped : Bool := false
  railsOff : Bool := false
deriving DecidableEq, Repr

/-- The plant port and the sensors (R289 to R298). -/
structure PlantS where
  silent : Bool := false
  latch : Bool := false
  granted : Bool := false
  code : Nat := 0
  ramp : Nat := 0
  ceiling : Nat := 0
  silCeil : Option Nat := none
  rx : List Byte := []
  inlet : Nat := 0
  outlet : Nat := 0
  flow : Nat := 0
  coolMs : Nat := 0xFFFF
  coolOk : Bool := false
  alarmRun : Bool := false
  pwm : Nat := 256
  pwmForced : Bool := true
  tach : Nat := 0
  flowLow : Bool := false
  flowSecs : Nat := 0
  tjMax : Nat := 0
  tjSensor : Nat := 0
  warn : Bool := false
  caseT : Nat := 0
  caseBad : Bool := false
  failRun : Nat := 0
  sensorFail : Bool := false
  tripped : Bool := false
  ext : List Nat := [0, 0, 0, 0, 0, 0, 0, 0]
deriving DecidableEq, Repr

/-- A Pilot integration: sums and counts of the autocorrelations and cross-correlations, the spectra held for the pairs
still to come, and the packets seen (R302). -/
structure PilotInt where
  q : Nat
  autos : SMap Nat := []
  autoN : SMap Nat := []
  held : SMap (List Samp) := []
  cross : SMap (Int × Int) := []
  crossN : SMap Nat := []
  seen : List (Nat × Nat × Nat) := []
deriving DecidableEq, Repr

/-- The Pilot service: running, its open integrations ascending, and the last one closed (R300 to R302). -/
structure PilotS where
  on : Bool := false
  ints : List PilotInt := []
  closed : Option Nat := none
deriving DecidableEq, Repr

/-- A reference input (R305 to R309); `vs` is the reference it is in dispute with, `raw` the phase before REF_DELAY. -/
structure RefS where
  activity : Bool := false
  qual : Bool := false
  everQual : Bool := false
  inWtr : Bool := false
  wtrLeft : Nat := 0
  disputed : Bool := false
  calm : Nat := 0
  fail : Nat := 0
  phase : Int := 0
  raw : Int := 0
  freq : Int := 0
  disqual : Nat := 0
  vs : Nat := 0
deriving DecidableEq, Repr

/-- TIME0.DPLL_STS.STATE (Table 13.2). -/
inductive DpllSt where
  | freerun | acquiring | locked | holdover | lost
deriving DecidableEq, Repr

/-- A Slide correction (Table 13.5). -/
structure SlideReq where
  actS : Nat
  actNs : Nat
  step : Nat
  off : Int
deriving DecidableEq, Repr

/-- A transmit timestamp entry (R324). -/
structure TsEntry where
  id : Nat
  lane : Nat
  t1 : Stamp
deriving DecidableEq, Repr

/-- The timing unit (chapter 13). TC, `ak`, `slew` and `rem` in 2^-16 ns; `clean` is set where the DPLL was LOCKED with
PULLING clear ever since the last PPS (R313); `ppsOutAt` is the TC, in ns, of the last edge on PPS_OUT; `tsOvfAt` that of the last TS_OVERFLOW report. -/
structure TimeS where
  dpll : DpllSt := .freerun
  acqFrom : DpllSt := .freerun
  pulling : Bool := false
  clean : Bool := false
  active : Option Nat := none
  oscOk : Bool := false
  atbValid : Bool := false
  phaseErr : Int := 0
  holdTime : Nat := 0
  freqOff : Int := 0
  freqLog : List Int := []
  tc : Nat := 0
  base : Int := 0
  ak : Int := 0
  slew : Int := 0
  slewAt : Nat := 0
  rem : Int := 0
  sstep : Nat := 0
  pend : Option SlideReq := none
  armed : Bool := false
  epochS : Nat := 0
  epochTc : Int := 0
  ltbTicks : Nat := 0
  ltbSub : Nat := 0
  refs : List RefS := [{}, {}, {}, {}]
  tsQ : List TsEntry := []
  ppsOutAt : Option Nat := none
  tsOvfAt : Option Nat := none
  t0Tc : Nat := 0
deriving DecidableEq, Repr

/-- Debug, unlock and freeze (R430 to R435). `tap` is set outside Test-Logic-Reset; `frzPos` is the next word of the stream. -/
structure DebugS where
  frozen : Bool := false
  trigger : Nat := 0
  trigMsg : DWord := 0
  frzLtb : DWord := 0
  frzPos : Option Nat := none
  tap : Bool := false
  ir : Nat := 1
  dr : List Bool := []
  req : Option DWord := none
  data : Word := 0
  done : Bool := false
  error : Bool := false
  denied : Bool := false
  open_ : Bool := false
  scope : Nat := 0
  fails : Nat := 0
  barred : Bool := false
  draws : Nat := 0
  token : Option (List Byte) := none
  bscan : List Bool := []
  driven : Option (List Bool) := none
deriving DecidableEq, Repr

/-- The INSPECT window pages (R145): the snapshot and the status bits. -/
structure InspS where
  ready : Bool := false
  denied : Bool := false
  busyCell : Bool := false
  badSel : Bool := false
  run : Bool := false
  data : List Byte := []
deriving DecidableEq, Repr

/-- A running sum of a mover or action's image: a PLAN ZOOM record (Table 4.4). -/
structure Zoom where
  fe : Nat := 0
  slot : Nat := 0
  preset : Nat := 0
  src : Nat := 0
  ftw : Int := 0
  pzLog : Nat := 2
  zgain : Nat := 0
  hz : List Int := []
deriving DecidableEq, Repr

/-- A beam output entry (Table 8.4). -/
structure BeamOut where
  vkind : Nat := 0
  dkind : Nat := 0
  vrows : Nat := 0
  det : Nat := 0
  vdest : Nat := 0
  ddest : Nat := 0
  shX : Nat := 0
  shY : Nat := 0
  scX : Nat := 0
  scY : Nat := 0
deriving DecidableEq, Repr

/-- A reduction entry (Table 9.2). -/
structure RedCfg where
  kind : Nat := 0
  source : Nat := 0
  grouping : Nat := 0
  log : Nat := 0
  prod : Nat := 0
  opts : Nat := 0
  selLo : Nat := 0
  selHi : Nat := 0
  chLo : Nat := 0
  chHi : Nat := 0
  dest : Nat := 0
  cInit : Nat := 0
  thresh : Nat := 0
deriving DecidableEq, Repr

/-- The HDR section (Table 10.4). -/
structure Hdr where
  device : Nat := 0
  mode : Nat := 0
  fref : Nat := 0
  kxNum : Nat := 0
  kxDen : Nat := 1
  kfNum : Nat := 0
  kfDen : Nat := 1
  mX : Nat := 1
  mF : Nat := 1
  seed : DWord := 0
  frameX : Nat := 0
  frameF : Nat := 0
  fpw : Nat := 0
deriving DecidableEq, Repr

/-- The ingest map, one entry per mapped stream: lane, position, group, coarse channel (R63). -/
structure MapEnt where
  lane : Nat
  pos : Nat
  group : Nat
  ch : Nat
deriving DecidableEq, Repr

/-- The PLAN section, expanded (R221, Table 10.6). -/
structure Plan where
  start : Nat := 0
  start0 : Nat := 0
  d0 : Nat := 0
  horizon : Nat := 0
  fillLat : Nat := 0
  lLog : Nat := 10
  pLog : Nat := 2
  pfb : Nat := 0
  rq : Nat := 0
  fft : Nat := 0
  coarse : Nat := 0
  inputs : Nat := 0
  h : List Int := []
  fc : List Int := []
  zooms : List Zoom := []
  map : List MapEnt := []
  ints : Nat := 1
  fmtQ : Bool := false
  visLog : Nat := 8
  delay : Nat := 0
  dest : List Nat := []
  regions : List (List Nat) := []
deriving DecidableEq, Repr

/-- A cell task entry (Table 6.1). -/
structure TaskEnt where
  p : Nat
  q : Nat
  slot : Nat
  kind : Nat
  first : Nat
  last : Nat
  split : Bool
  partner : Nat
deriving DecidableEq, Repr

/-- A TASK section (Table 10.7): the channel order with set numbers, and each set's 384 cell lists. -/
structure Tasks where
  order : List (Nat × Nat) := []
  sets : List (List (List TaskEnt)) := []
deriving DecidableEq, Repr

/-- An HBMS entry (Table 10.10) and a list. -/
structure HbmsEnt where
  delay : Nat
  write : Bool
  cls : Nat
  space : Nat
  len : Nat
  addr : Nat
deriving DecidableEq, Repr

structure HbmsList where
  stride : List Int := []
  entries : List HbmsEnt := []
deriving DecidableEq, Repr

/-- The BEAM section (Table 10.11). -/
structure BeamSec where
  fccHz : Nat := 0
  pair : Bool := false
  fullOnly : Bool := true
  outs : List BeamOut := []
  reds : List (Nat × RedCfg) := []
  banks : List (Nat × List Nat) := []
  areas : List (Nat × List Nat) := []
  actions : List (Nat × List (List Byte)) := []
deriving DecidableEq, Repr

/-- The POWR section (R228). -/
structure Powr where
  slotF : Nat := 1
  segs : List (Nat × Nat) := []
  vals : List Nat := []
  avgs : List Nat := []
  rep : Nat := 0
deriving DecidableEq, Repr

/-- A Chanter program: instructions and FIRST_FRAME (R222). -/
structure Prog where
  instrs : List Nat := []
  first : Nat := 0
deriving DecidableEq, Repr

/-- The working copies of a LOADED image (R232); per-die lists run X0 to X3, then the IO die. -/
structure Image where
  len : Nat := 0
  tag : Nat := 0
  hdr : Hdr := {}
  plan : Plan := {}
  progs : List Prog := []
  tasks : List Tasks := []
  moves : List (List (List Byte)) := []
  hbms : List (List HbmsList) := []
  beam : Option BeamSec := none
  powr : Powr := {}
deriving DecidableEq, Repr

/-- What the package has driven on its pins and links, in order. DESIGN CHOICE, notes/assumptions/4.md -/
inductive Output where
  | read (page off : Nat) (v : Option Word)
  | msix (vec addr data : Nat)
  | bar4 (off : Nat) (v : Word)
  | hostWrite (addr : Nat) (bytes : List Byte)
  | bar2 (addr : Nat) (bytes : Option (List Byte)) (poison : Bool)
  | laneCtrl (lane : Nat) (bytes : List Byte) (line : List Bool)
  | lanePacket (lane : Nat) (bytes : List Byte) (line : List Bool)
  | laneIdle (lane : Nat)
  | lanePrbs (lane : Nat) (bits : Nat)
  | plant (bytes : List Byte)
  | i2c (addr : Nat) (fast : Bool) (pointer : Byte) (read : Nat)
  | tdo (bits : List Bool)
  | thermtrip
  | ppsOut (tcNs widthUs : Nat)
  | linkLost
deriving DecidableEq, Repr

/-- Everything but the command queue and the fault collector. -/
structure Core where
  part : Part := .otr4096A
  otp : Otp := {}
  droneOn : Bool := true
  perst : Bool := true
  railBad : Bool := false
  railN : Nat := 0
  regs : SMap Word := []
  snap : SMap Word := []
  posted : List (Chip × Instr) := []
  pend : List Pend := []
  faulted : SMap Nat := []
  bxbPrio : SMap Word := []
  io : IoSram := {}
  lanes : SMap LaneS := []
  lgrps : SMap LgrpS := []
  ingest : IngestS := {}
  chan : ChanS := {}
  img : Option Image := none
  imgSt : Nat := 0
  imgReason : Nat := 0
  imgMode : Nat := 0
  links : List Bool := [false, false, false, false]
  chanters : SMap ChanterS := []
  xdies : SMap XDieS := []
  targets : SMap TargetS := []
  stacksOf : SMap StackS := []
  host : HostS := {}
  locks : SMap LockS := []
  power : PowerS := {}
  plant : PlantS := {}
  pilot : PilotS := {}
  time : TimeS := {}
  insp : SMap InspS := []
  dbg : DebugS := {}
  out : List Output := []
  free : Nat := 0
deriving DecidableEq, Repr, Inhabited

/-- The whole block: the waiting commands, first in, first out; the fault collector; the rest. -/
structure State where
  pending : List Instr := []
  col : Collector := {}
  core : Core := {}
deriving DecidableEq, Repr

/-- The machine never stops with a fault: every error of the spec is an effect on `State`. -/
inductive Fault where
  /-- Raised by nothing. Safe. -/
  | never
deriving DecidableEq, Repr

/-- Commands without a meaning. -/
inductive Refusal where
  /-- Raised by `exec` for a row that has no meaning yet. Safe. -/
  | notModelled (mnemonic : String)
deriving DecidableEq, Repr

/-- The block with its supplies up and PERST_N asserted: SHELVED, Drone domain alone powered (R278, R426).
Registers stand at the reset values of `Machine/Pages.lean`. What the spec leaves open: DESIGN CHOICE, notes/assumptions/3.md and 5.md. -/
def State.reset : State := {}

end Sys2Proof.Machine
end

