-- ==== Sys2Proof/Config.lean ====
section
/-! DEFINITION. Config.lean: what an implementation fixes and the values the spec leaves open.
Every constant here is opaque and has no body: no proof can see its value. -/

namespace Sys2Proof

/-- R342: training leaves the contents of a stack undefined. The byte at a die HBM address,
after the `n`-th loss of contents. DESIGN CHOICE, notes/assumptions/10.md -/
opaque Config.freeHbm : Nat → Nat → Byte

/-- Table 17.6: IO-die SRAM is undefined after D3hot; R424: and after power-on. DESIGN CHOICE, notes/assumptions/11.md -/
opaque Config.freeSram : Nat → Nat → Byte

/-- R435: the challenge drawn from the Drone random source at the `n`-th draw. DESIGN CHOICE, notes/assumptions/12.md -/
opaque Config.freeChallenge : Nat → BitVec 128

/-- R432: the manufacturer identity code assigned to Llynmos under JEP106; the spec gives no number.
DESIGN CHOICE, notes/assumptions/13.md -/
opaque Config.jep106 : BitVec 11

/-- R448: the device outside the Drone domain after a rail left its tolerance, at the `n`-th command since.
DESIGN CHOICE, notes/assumptions/14.md -/
opaque Config.freeDevice : Nat → Machine.Core

/-- R204, R207: the value of a float64 NaN in an exact difference, and the payload of the NaN that an operation on it gives.
DESIGN CHOICE, notes/assumptions/18.md -/
opaque Config.freeNonFinite : Nat → Int

/-- R346: three or more symbols in error. 0 clean, 1 CE with one more symbol altered, otherwise UE; a fixed
function of the stored data and the symbols in error. DESIGN CHOICE, notes/assumptions/15.md -/
opaque Config.freeEcc : List Byte → List Nat → Nat

/-- R346: the data a clean or CE outcome delivers when three or more symbols are in error. -/
opaque Config.freeEccData : List Byte → List Nat → List Byte

/-- R32: the serialisation of a lane's unit interval to nanoseconds, and other sub-nanosecond
instants of a timestamp: the fraction in units of 2^-16 ns (R44, R323). DESIGN CHOICE, notes/assumptions/16.md -/
opaque Config.freeFraction : Nat → BitVec 16

/-- A register value that the spec leaves without a number for some operands: the `n`-th such value.
DESIGN CHOICE, notes/assumptions/26.md -/
opaque Config.freeWord : Nat → Word

/-- R350: which of the rows not yet read in its pass patrol scrub reads next; the spec gives no order. DESIGN CHOICE,
notes/assumptions/33.md -/
opaque Config.scrubOrder : Nat → Nat

/-- R94: coefficient H[q] of a zoom band's filter bank for q ≥ 8P, where P_z > P; PLAN carries 8P of them.
DESIGN CHOICE, notes/assumptions/24.md -/
opaque Config.freeCoef : Nat → Int

/-- R106: FCLK cycles from the last due time of a turn unit to its last row leaving on the links. DESIGN CHOICE, notes/assumptions/37.md -/
opaque Config.turnLatency : Nat

/-- R262: die cycles with a conflict between counted accesses other than the movers'; the spec places none of them in a
sub-bank. DESIGN CHOICE, notes/assumptions/38.md -/
opaque Config.sramExtra : Machine.Image → Nat

end Sys2Proof
end

