-- ==== Sys2Proof/Machine/Bits.lean ====
section
/-! DEFINITION. Machine/Bits.lean: bit fields, byte order, saturation, rounding and the CRCs (R2 to R5, R7, R31, R289). -/

namespace Sys2Proof.Machine

/-- Bits `hi` down to `lo` of a word as a number (R2). -/
def bits (w : Nat) (hi lo : Nat) : Nat := (w >>> lo) % 2 ^ (hi + 1 - lo)

/-- Bit `i` of a word. -/
def bit (w i : Nat) : Bool := w.testBit i

/-- A Bool as a bit. -/
def b2n (b : Bool) : Nat := if b then 1 else 0

/-- The field `v` of `n` bits placed at bit `lo`. -/
def fld (v n lo : Nat) : Nat := (v % 2 ^ n) <<< lo

/-- A number as a register word. -/
def word (n : Nat) : Word := BitVec.ofNat 32 n

/-- The low and high words of a 64-bit value. -/
def lo32 (n : Nat) : Word := BitVec.ofNat 32 n
def hi32 (n : Nat) : Word := BitVec.ofNat 32 (n / 2 ^ 32)

/-- Two's-complement value of the low `n` bits (R4). -/
def toInt (n : Nat) (v : Nat) : Int :=
  let u := v % 2 ^ n
  if 2 * u < 2 ^ n then (u : Int) else (u : Int) - 2 ^ n

/-- The low `n` bits of an integer, two's complement. -/
def ofInt (n : Nat) (x : Int) : Nat := (x % 2 ^ n).toNat

/-- Little-endian value of bytes (R3). -/
def leNat : List Byte → Nat
  | [] => 0
  | b :: bs => b.toNat + 256 * leNat bs

/-- `n` little-endian bytes of a value (R3). -/
def leBytes : Nat → Nat → List Byte
  | 0, _ => []
  | n + 1, v => BitVec.ofNat 8 v :: leBytes n (v / 256)

/-- Big-endian value of bytes (R219, R435). -/
def beNat (bs : List Byte) : Nat := leNat bs.reverse

/-- `n` bytes of a list from offset `off`; bytes past its end read 0. -/
def slice (bs : List Byte) (off n : Nat) : List Byte :=
  let t := (bs.drop off).take n
  t ++ List.replicate (n - t.length) 0

/-- Little-endian field of `n` bytes at byte offset `off`. -/
def leAt (bs : List Byte) (off n : Nat) : Nat := leNat ((bs.drop off).take n)

/-- Signed little-endian field of `n` bytes at byte offset `off`. -/
def sleAt (bs : List Byte) (off n : Nat) : Int := toInt (8 * n) (leAt bs off n)

/-- Every byte of the range is 0 (reserved fields). -/
def zeroAt (bs : List Byte) (off n : Nat) : Bool := ((bs.drop off).take n).all (fun b => b == 0)

/-- Clamp (R7). -/
def sat (x lo hi : Int) : Int := if x < lo then lo else if hi < x then hi else x

/-- `x / d` to the nearest integer, halves to even; `d` positive (R7, R178). -/
def rneDiv (x : Int) (d : Nat) : Int :=
  let q := x / (d : Int)
  let r := 2 * (x % (d : Int))
  if r < (d : Int) then q
  else if (d : Int) < r then q + 1
  else if q % 2 = 0 then q else q + 1

/-- `x / 2^s` rounded to the nearest integer, halves to even (R7). -/
def rne (x : Int) (s : Nat) : Int := rneDiv x (2 ^ s)

/-- Ceiling division. -/
def cdiv (a b : Nat) : Nat := (a + b - 1) / b

/-- Wrap to `n` bits as two's complement (R93: 40-bit CIC registers). -/
def wrapInt (n : Nat) (x : Int) : Int := toInt n (ofInt n x)

/-- Saturating increment of a 32-bit counter. -/
def satInc (w : Word) (n : Nat := 1) : Word :=
  if w.toNat + n < 2 ^ 32 then word (w.toNat + n) else 0xFFFFFFFF

/-- A signed value saturated to 32 bits as a register word. -/
def satWord (x : Int) : Word := word (ofInt 32 (sat x (-(2 ^ 31)) (2 ^ 31 - 1)))

/-- The bits of a byte, least significant first (R30). -/
def byteBits (b : Byte) : List Bool := (List.range 8).map (fun i => b.getLsbD i)

/-- The serial bits of bytes in increasing offset order, least significant bit first (R30). -/
def serialBits (bs : List Byte) : List Bool := bs.flatMap byteBits

/-- The byte of up to 8 bits, first bit least significant. -/
def bitsByte (l : List Bool) : Byte :=
  BitVec.ofNat 8 (l.foldr (fun b acc => b2n b + 2 * acc) 0)

/-- The bytes of a serial bit sequence, `n` of them. -/
def serialBytes : Nat → List Bool → List Byte
  | 0, _ => []
  | n + 1, l => bitsByte (l.take 8) :: serialBytes n (l.drop 8)

/-- One bit step of a reflected CRC-32C register (R31: 0x1EDC6F41 reflected). -/
def crc32cStep : Nat → BitVec 32 → BitVec 32
  | 0, r => r
  | n + 1, r => crc32cStep n (if r.getLsbD 0 then (r >>> 1) ^^^ 0x82F63B78 else r >>> 1)

/-- CRC-32C: initial value and final XOR 0xFFFFFFFF (R31). -/
def crc32c (bs : List Byte) : BitVec 32 :=
  (bs.foldl (fun r b => crc32cStep 8 (r ^^^ b.zeroExtend 32)) 0xFFFFFFFF) ^^^ 0xFFFFFFFF

/-- One bit step of CRC-16/CCITT, not reflected (R289). -/
def crc16Step : Nat → BitVec 16 → BitVec 16
  | 0, r => r
  | n + 1, r => crc16Step n (if r.getLsbD 15 then (r <<< 1) ^^^ 0x1021 else r <<< 1)

/-- CRC-16/CCITT with initial value 0xFFFF, no reflection and no final XOR (R289). -/
def crc16 (bs : List Byte) : BitVec 16 :=
  bs.foldl (fun r b => crc16Step 8 (r ^^^ BitVec.ofNat 16 (b.toNat * 256))) 0xFFFF

/-- The least power: bits needed, `floor(log2 n)` for `n > 0`. -/
def log2 (n : Nat) : Nat := Nat.log2 n

/-- Reverse the low `n` bits (R83). -/
def bitrev : Nat → Nat → Nat
  | 0, _ => 0
  | n + 1, p => (p % 2) * 2 ^ n + bitrev n (p / 2)

/-- The greatest of a list of naturals, 0 where it is empty. -/
def maxL (l : List Nat) : Nat := l.foldl Nat.max 0

/-- The sum of a list of naturals. -/
def sumL (l : List Nat) : Nat := l.foldl (· + ·) 0

/-- The sum of a list of integers. -/
def sumI (l : List Int) : Int := l.foldl (· + ·) 0

/-- Element `i` of a list, the given value past its end. -/
def nth {α : Type} (d : α) (l : List α) (i : Nat) : α := (l[i]?).getD d

/-- No two elements of the list are equal. -/
def distinct {α : Type} [DecidableEq α] : List α → Bool
  | [] => true
  | x :: xs => !(xs.elem x) && distinct xs

/-- Insert in an order, and sort; equal elements keep their places. -/
def insertBy {α : Type} (lt : α → α → Bool) (x : α) : List α → List α
  | [] => [x]
  | y :: ys => if lt y x then y :: insertBy lt x ys else x :: y :: ys
def sortBy {α : Type} (lt : α → α → Bool) (l : List α) : List α := l.foldr (insertBy lt) []

/-- Indices of the set bits of a mask among the first `n`. -/
def setBits (mask n : Nat) : List Nat := (List.range n).filter (fun i => mask.testBit i)

end Sys2Proof.Machine
end

