-- ==== Sys2Proof/Machine/Pages.lean ====
section
/-! DEFINITION. Machine/Pages.lean: the page map (Table 16.8) and the writable fields and reset values of every page. -/

namespace Sys2Proof.Machine

/-- The kinds of register page, with their instance (Table 16.8). -/
inductive PageKind where
  | glb | mode | pwr | plant | therm | time (i : Nat) | flt | rst | dbg | sec | lgrp (g : Nat) | ingest
  | fst (s : Nat) | zoom (z : Nat) | crook | chn | dmag | ring | cxb | bxb | pciex | lane (n : Nat)
  | xdie (d : Nat) | xchn (d : Nat) | cells (d : Nat) | hbm (d j : Nat) | bsl (d j : Nat) | red (d : Nat)
  | clu (d n : Nat) | insp (i : Nat) | dma (n : Nat) | doorbell (b : Nat)
deriving DecidableEq, Repr

/-- X dies of a part (R27). -/
def Part.dies : Part → Nat
  | .otr4096A => 4 | .otr4096N => 4 | .otr2048A => 2

/-- Beam slices, reduction units and beam duty are fused off (R28). -/
def Part.beamFused : Part → Bool
  | .otr4096N => true | _ => false

/-- GLB.DEVICE (R407). -/
def Part.device : Part → Nat
  | .otr4096A => 0x40A0 | .otr4096N => 0x40A1 | .otr2048A => 0x20A0

/-- The page an X die has at index k of its range (Table 16.8). -/
def xPage (d k : Nat) : Option PageKind :=
  if k = 0 then some (.xdie d) else if k = 1 then some (.xchn d) else if k = 2 then some (.cells d)
  else if k = 4 ∨ k = 5 then some (.hbm d (k - 4)) else if k = 8 ∨ k = 9 then some (.bsl d (k - 8))
  else if k = 10 then some (.red d) else if 16 ≤ k ∧ k < 40 then some (.clu d (k - 16)) else none

/-- The page at a page number, in a part (R406; R27 for the pages of absent dies). -/
def pageAt (p : Part) (n : Nat) : Option PageKind :=
  if n = 0 then some .glb else if n = 1 then some .mode else if n = 2 then some .pwr
  else if n = 3 then some .plant else if n = 4 then some .therm
  else if 8 ≤ n ∧ n < 12 then some (.time (n - 8))
  else if n = 12 then some .flt else if n = 13 then some .rst else if n = 14 then some .dbg
  else if n = 15 then some .sec else if 16 ≤ n ∧ n < 32 then some (.lgrp (n - 16))
  else if n = 32 then some .ingest else if 40 ≤ n ∧ n < 48 then some (.fst (n - 40))
  else if n = 48 ∨ n = 49 then some (.zoom (n - 48)) else if n = 52 then some .crook
  else if n = 56 then some .chn else if n = 64 then some .dmag else if n = 68 then some .ring
  else if n = 72 then some .cxb else if n = 73 then some .bxb else if n = 76 then some .pciex
  else if 256 ≤ n ∧ n < 512 then some (.lane (n - 256))
  else if 512 ≤ n ∧ n < 512 + 64 * p.dies then xPage ((n - 512) / 64) ((n - 512) % 64)
  else if 768 ≤ n ∧ n < 784 then some (.insp (n - 768))
  else if 1024 ≤ n ∧ n < 1088 then some (.dma (n - 1024))
  else if 2048 ≤ n ∧ n < 2052 then some (.doorbell (n - 2048)) else none

/-- The page number of a page. -/
def PageKind.no : PageKind → Nat
  | .glb => 0 | .mode => 1 | .pwr => 2 | .plant => 3 | .therm => 4 | .time i => 8 + i | .flt => 12 | .rst => 13
  | .dbg => 14 | .sec => 15 | .lgrp g => 16 + g | .ingest => 32 | .fst s => 40 + s | .zoom z => 48 + z
  | .crook => 52 | .chn => 56 | .dmag => 64 | .ring => 68 | .cxb => 72 | .bxb => 73 | .pciex => 76
  | .lane n => 256 + n | .xdie d => 512 + 64 * d | .xchn d => 513 + 64 * d | .cells d => 514 + 64 * d
  | .hbm d j => 516 + 64 * d + j | .bsl d j => 520 + 64 * d + j | .red d => 522 + 64 * d
  | .clu d n => 528 + 64 * d + n | .insp i => 768 + i | .dma n => 1024 + n | .doorbell b => 2048 + b

/-- PAGE_ID.TYPE, the first page of the kind (R402). -/
def PageKind.type : PageKind → Nat
  | .time _ => 8 | .lgrp _ => 16 | .fst _ => 40 | .zoom _ => 48 | .lane _ => 256 | .xdie _ => 512 | .xchn _ => 513
  | .cells _ => 514 | .hbm _ _ => 516 | .bsl _ _ => 520 | .red _ => 522 | .clu _ _ => 528 | .insp _ => 768
  | .dma _ => 1024 | .doorbell _ => 2048 | k => k.no

/-- PAGE_ID.INSTANCE (R402). -/
def PageKind.instNo : PageKind → Nat
  | .time i => i | .lgrp g => g | .fst s => s | .zoom z => z | .lane n => n | .xdie d => d | .xchn d => d
  | .cells d => d | .hbm d j => 2 * d + j | .bsl d j => 2 * d + j | .red d => d | .clu d n => 24 * d + n
  | .insp i => i | .dma n => n | .doorbell b => b | _ => 0

/-- The X die of a page, none on the IO die. -/
def PageKind.die? : PageKind → Option Nat
  | .xdie d => some d | .xchn d => some d | .cells d => some d | .hbm d _ => some d | .bsl d _ => some d
  | .red d => some d | .clu d _ => some d | _ => none

/-- The power domain of a page, none in the Drone domain (Table 16.8). -/
def PageKind.domain : PageKind → Option Nat
  | .glb => some 36 | .mode => none | .pwr => none | .plant => none | .therm => none | .time _ => some 35
  | .flt => none | .rst => none | .dbg => some 37 | .sec => some 36 | .lgrp g => some g | .ingest => some 36
  | .fst s => some (16 + s) | .zoom z => some (26 + z) | .crook => some 36 | .chn => some 36 | .dmag => some 34
  | .ring => some 34 | .cxb => some 36 | .bxb => some 36 | .pciex => some 34 | .lane n => some (n / 16)
  | .xdie d => some (71 + 35 * d) | .xchn d => some (72 + 35 * d) | .cells d => some (71 + 35 * d)
  | .hbm d j => some (69 + 35 * d + j) | .bsl d j => some (62 + 35 * d + j) | .red d => some (64 + 35 * d)
  | .clu d n => some (38 + 35 * d + n) | .insp _ => some 36 | .dma _ => some 34 | .doorbell _ => some 34

/-- The control-crossbar group of a page (Table 16.8). -/
def PageKind.group : PageKind → Nat
  | .glb => 0 | .mode => 1 | .pwr => 1 | .plant => 1 | .therm => 1 | .time _ => 2 | .flt => 0 | .rst => 0
  | .dbg => 0 | .sec => 0 | .lgrp _ => 3 | .lane _ => 3 | .ingest => 4 | .fst _ => 4 | .zoom _ => 4 | .crook => 4
  | .chn => 4 | .dmag => 5 | .ring => 5 | .cxb => 5 | .bxb => 5 | .pciex => 5 | .dma _ => 5 | .doorbell _ => 5
  | .insp _ => 6 | k => 7 + k.die?.getD 0

/-- A lock never covers CHN, Xd_XCHN or CXB (R393). -/
def PageKind.lockable : PageKind → Bool
  | .chn => false | .xchn _ => false | .cxb => false | _ => true

/-- The W1C bits PAGE_IRQ defines on the page. -/
def PageKind.irqMask : PageKind → Nat
  | .lane _ => 0x3FF | .ingest => 0xF | .fst s => if s = 0 then 0x7F else 0x18 | .crook => 3 | .cells _ => 0x1F
  | .xdie _ => 0xFF | .bsl _ _ => 0x7F | .red _ => 0x3F | .chn => 0xFF | .xchn _ => 0x2F | .mode => 0xF
  | .pwr => 0x10 | .plant => 0xF | .therm => 7 | .time i => if i ≤ 1 then 0xF else if i = 2 then 3 else 7
  | .hbm _ _ => 0xFF | .ring => 0x1F | .dma _ => 0xF | .pciex => 3 | .cxb => 7 | .bxb => 3 | .flt => 0x3F
  | .rst => 3 | .sec => 3 | _ => 0

/-- The writable fields of a register: masks per access code, and its reset value. -/
structure Row where
  off : Nat
  rw : Nat := 0
  rws : Nat := 0
  rwl : Nat := 0
  reset : Nat := 0
deriving DecidableEq, Repr

/-- All 32 bits. -/
def m32 : Nat := 0xFFFFFFFF

/-- Block registers with writable fields, or a reset value other than 0, of a page: the chapters' register tables. -/
def PageKind.blockRows : PageKind → List Row
  | .glb => [{ off := 0x060, rw := m32 }, { off := 0x064, rw := m32 }, { off := 0x068, rw := m32 },
      { off := 0x06C, rw := m32 }]
  | .mode => [{ off := 0x048, rws := m32 }, { off := 0x04C, rws := m32 },
      { off := 0x058, rws := 0x01FFFFFF, reset := 0x00490000 }, { off := 0x05C, rws := 0xFFF },
      { off := 0x068, rws := 0xFFFF }]
  | .pwr => [{ off := 0x040, rws := 1 }, { off := 0x044, rws := 0xFFFF, reset := 500 },
      { off := 0x048, rws := 0xFFFF, reset := 1000 }, { off := 0x04C, rws := 0xFFFF, reset := 10000 },
      { off := 0x050, rwl := 0xFFFF, reset := 1900 }, { off := 0x054, rws := 0xFFFF, reset := 6200 },
      { off := 0x058, rws := 0x1FF, reset := 256 }, { off := 0x068, rws := 0xFFF }]
  | .plant => [{ off := 0x040, rws := 1 }, { off := 0x058, rws := 0x01FF01FF, reset := 0x01000040 },
      { off := 0x060, rws := m32, reset := 0x00C80064 }]
  | .therm => [{ off := 0x040, rws := 0xFFF }, { off := 0x050, rws := 0x7F7F7F7F, reset := 0x4B4A4948 },
      { off := 0x054, rws := 0x7F7F7F7F, reset := 0x4F4E4D4C },
      { off := 0x058, rws := 0x7F7F7F7F, reset := 0x53525150 },
      { off := 0x05C, rws := 0x7F7F7F7F, reset := 0x57565554 }]
  | .time 0 => [{ off := 0x040, rws := 0xF }, { off := 0x044, rwl := 0x7F01, reset := 0x0A00 },
      { off := 0x048, rwl := 0x03FFFFFF, reset := 0x000A000A }, { off := 0x04C, rwl := m32, reset := 0x00F0003C },
      { off := 0x050, rw := 0x0FFF0007, reset := 0x012C0000 },
      { off := 0x054, rw := 0x00FFFFFF, reset := 0x000A0032 }, { off := 0x090, rwl := m32 },
      { off := 0x094, rwl := m32 }, { off := 0x0A0, rwl := m32 }, { off := 0x0A4, rwl := m32 },
      { off := 0x0A8, rwl := m32 }, { off := 0x0B0, rwl := m32 }, { off := 0x0B4, rwl := m32 },
      { off := 0x0B8, rwl := m32, reset := 0x0017D784 }, { off := 0x0BC, rwl := m32, reset := 1 }]
  | .time 1 => ([0, 1, 2, 3] : List Nat).flatMap (fun n =>
      [{ off := 0x040 + 32 * n, rw := 0x1F }, { off := 0x044 + 32 * n, rw := m32 },
       { off := 0x048 + 32 * n, rw := m32, reset := 0x0A0A0064 }])
  | .time 3 => [{ off := 0x040, rw := 0x3FF01, reset := 0x6401 }, { off := 0x048, rw := 0xFFF },
      { off := 0x060, rw := 0x7FFFF, reset := 100000 }, { off := 0x064, rw := m32 }]
  | .flt => [{ off := 0x048, rws := 7, reset := 1 }, { off := 0x04C, rws := 0xFFF }, { off := 0x070, rw := 0x1F }]
  | .dbg => [{ off := 0x040, rws := 0x1FFF3F, reset := 0x10020 }]
  | .sec => [{ off := 0x044, rw := 0x3F }]
  | .lgrp g => [{ off := 0x040, rwl := 0xFFFF }, { off := 0x04C, reset := 0x0DA00000 + g * 0x10000 }]
  | .ingest => [{ off := 0x040, rwl := 0xFFFF0001, reset := 0x000C0000 }, { off := 0x050, rwl := m32, reset := 500 },
      { off := 0x064, reset := m32 }, { off := 0x068, rw := m32, reset := 600 }, { off := 0x070, rw := 0xFF }]
  | .fst 0 => [{ off := 0x044, rw := 1 }, { off := 0x058, rw := 0xFFFF, reset := 0x1800 },
      { off := 0x05C, rw := m32, reset := 4096 }, { off := 0x0A0, reset := 0x0D800000 },
      { off := 0x0A4, reset := 0x0A000000 }, { off := 0x0A8, reset := 0x0DB00000 }]
  | .fst _ => [{ off := 0x0A0, reset := 0x0D800000 }, { off := 0x0A4, reset := 0x0A000000 },
      { off := 0x0A8, reset := 0x0DB00000 }]
  | .chn => ([0, 1, 2, 3, 4, 5] : List Nat).map (fun i => { off := 0x1A4 + 4 * i, reset := m32 })
  | .xchn _ => ([0, 1, 2, 3, 4, 5] : List Nat).map (fun i => { off := 0x1A4 + 4 * i, reset := m32 })
  | .dmag => [{ off := 0x040, rwl := 0x7F, reset := 48 }]
  | .ring => [{ off := 0x040, rw := 0xFFF }, { off := 0x068, rw := 0xFFF }]
  | .cxb => ([0, 1, 2, 3, 4, 5, 6, 7, 8, 9, 10] : List Nat).map
        (fun g => { off := 0x040 + 4 * g, rwl := 0x7777, reset := 0x6723 }) ++
      [{ off := 0x07C, rwl := 0xF7F, reset := 0xA40 }]
  | .bxb => [{ off := 0x040, rw := 0xF }]
  | .pciex => { off := 0x048, rw := 1, reset := 1 } ::
      ([0, 1, 2, 3, 4, 5, 6, 7, 8, 9, 10, 11, 12, 13, 14, 15] : List Nat).map
        (fun s => { off := 0x080 + 4 * s, rw := 0x3FF })
  | .lane _ => [{ off := 0x040, rw := 0x40000, rwl := 0x1BFFF7, reset := 0xC0104 },
      { off := 0x050, rw := 0x0FFF3FF3, reset := 0x06002061 }]
  | .xdie _ => [{ off := 0x048, rwl := 0x1FFFFF, reset := 0x1FFFFF }, { off := 0x04C, rwl := 0x1FFFFF, reset := 0x1B6DB6 },
      { off := 0x050, rwl := 0x1FFFFF, reset := 0x1B6DB6 }, { off := 0x054, rwl := 0x1FFFFF, reset := 0xDB6DB },
      { off := 0x208, rw := 1 }, { off := 0x20C, rwl := 0xFFFF }, { off := 0x218, reset := m32 },
      { off := 0x21C, reset := m32 }]
  | .cells _ => [{ off := 0x044, rwl := 1, reset := 1 }]
  | .hbm _ _ => [{ off := 0x040, rwl := 0x3FFFF, reset := 0x6053 }, { off := 0x054, rw := 0x1FFF }]
  | .insp _ => [{ off := 0x040, rw := m32 }, { off := 0x044, rw := m32 }, { off := 0x048, rw := m32 }]
  | _ => []

/-- The header's writable fields (Table 16.7). PAGE_IRQ is W1C and is no row. -/
def headerRows : List Row :=
  [{ off := 0x008, rw := 5, reset := 1 }, { off := 0x014, rw := m32 }, { off := 0x018, rw := 0x7FF }]

/-- Move RW fields to RWS: the header of the Drone domain's pages, and pages MODE, PWR, PLANT and THERM (R304, R402). -/
def Row.drone (r : Row) : Row := { r with rw := 0, rws := r.rws ||| r.rw }

/-- All rows of a page, header included; the doorbell pages have none (R358). -/
def PageKind.rows (k : PageKind) : List Row :=
  match k with
  | .doorbell _ => []
  | _ => (if k.domain = none then headerRows.map Row.drone else headerRows) ++
      (if k.no ≤ 4 ∧ k.domain = none then k.blockRows.map Row.drone else k.blockRows)

/-- The row of an offset, a row without writable fields and reset 0 where none is listed (R10). -/
def PageKind.row (k : PageKind) (off : Nat) : Row :=
  (k.rows.find? (fun r => r.off == off)).getD { off := off }

/-- The reset value of the register at a key (R9). Pages of absent dies answer as those of the OTR4096-A. -/
def regReset (key : Nat) : Word :=
  match pageAt .otr4096A (key / 4096) with
  | some k => word (k.row (key % 4096)).reset
  | none => 0

/-- The default levels of PRIO_W0 to PRIO_W2 (Table 16.3): key 3 * master + word. -/
def bxbReset (key : Nat) : Word :=
  let lv := if key / 3 < 8 then 3 else if key / 3 < 12 then 6 else 1
  let n := if key % 3 = 2 then 7 else 10
  word ((List.range n).foldl (fun a t => a + lv * 8 ^ t) 0)

end Sys2Proof.Machine
end

