-- ==== Sys2Proof/Machine/Ops.lean ====
section
/-! DEFINITION. Machine/Ops.lean: the named operations over registers, memories, interrupts, fault messages, windows and
time that every meaning uses. -/

namespace Sys2Proof.Machine

/-! ### Numbered collections -/

def Core.lane (c : Core) (n : Nat) : LaneS := SMap.get (fun _ => {}) c.lanes n
def Core.setLane (c : Core) (n : Nat) (l : LaneS) : Core := { c with lanes := SMap.set (fun _ => {}) c.lanes n l }
def Core.modLane (c : Core) (n : Nat) (f : LaneS → LaneS) : Core := c.setLane n (f (c.lane n))
def Core.lgrp (c : Core) (g : Nat) : LgrpS := SMap.get (fun _ => {}) c.lgrps g
def Core.setLgrp (c : Core) (g : Nat) (x : LgrpS) : Core := { c with lgrps := SMap.set (fun _ => {}) c.lgrps g x }
def Core.chanter (c : Core) (x : Nat) : ChanterS := SMap.get (fun _ => {}) c.chanters x
def Core.setChanter (c : Core) (x : Nat) (t : ChanterS) : Core :=
  { c with chanters := SMap.set (fun _ => {}) c.chanters x t }
def Core.modChanter (c : Core) (x : Nat) (f : ChanterS → ChanterS) : Core := c.setChanter x (f (c.chanter x))
def Core.xdie (c : Core) (d : Nat) : XDieS := SMap.get (fun _ => {}) c.xdies d
def Core.setX (c : Core) (d : Nat) (x : XDieS) : Core := { c with xdies := SMap.set (fun _ => {}) c.xdies d x }
def Core.modX (c : Core) (d : Nat) (f : XDieS → XDieS) : Core := c.setX d (f (c.xdie d))
/-- Beam targets: 2d + j the slices, 8 + d the cells (R177). -/
def Core.target (c : Core) (t : Nat) : TargetS := SMap.get (fun _ => {}) c.targets t
def Core.setTarget (c : Core) (t : Nat) (x : TargetS) : Core :=
  { c with targets := SMap.set (fun _ => {}) c.targets t x }
def Core.modTarget (c : Core) (t : Nat) (f : TargetS → TargetS) : Core := c.setTarget t (f (c.target t))
/-- Stack M(2d + j) (R333). -/
def Core.stack (c : Core) (i : Nat) : StackS := SMap.get (fun _ => {}) c.stacksOf i
def Core.setStack (c : Core) (i : Nat) (x : StackS) : Core := { c with stacksOf := SMap.set (fun _ => {}) c.stacksOf i x }
def Core.modStack (c : Core) (i : Nat) (f : StackS → StackS) : Core := c.setStack i (f (c.stack i))
def Core.ring (c : Core) (r : Nat) : RingS := SMap.get (fun _ => {}) c.host.rings r
def Core.setRing (c : Core) (r : Nat) (x : RingS) : Core :=
  { c with host := { c.host with rings := SMap.set (fun _ => {}) c.host.rings r x } }
def Core.modRing (c : Core) (r : Nat) (f : RingS → RingS) : Core := c.setRing r (f (c.ring r))
def Core.dma (c : Core) (n : Nat) : DmaS := SMap.get (fun _ => {}) c.host.dma n
def Core.setDma (c : Core) (n : Nat) (x : DmaS) : Core :=
  { c with host := { c.host with dma := SMap.set (fun _ => {}) c.host.dma n x } }
def Core.modDma (c : Core) (n : Nat) (f : DmaS → DmaS) : Core := c.setDma n (f (c.dma n))
def Core.inspAt (c : Core) (i : Nat) : InspS := SMap.get (fun _ => {}) c.insp i
def Core.setInsp (c : Core) (i : Nat) (x : InspS) : Core := { c with insp := SMap.set (fun _ => {}) c.insp i x }
def Core.lock (c : Core) (g : Nat) : LockS := SMap.get (fun _ => {}) c.locks g
def Core.setLock (c : Core) (g : Nat) (x : LockS) : Core := { c with locks := SMap.set (fun _ => {}) c.locks g x }
def Core.emit (c : Core) (o : Output) : Core := { c with out := c.out ++ [o] }
def Core.delay (c : Core) (i : Nat) : DelayS := SMap.get (fun _ => {}) c.chan.delays i
def Core.setDelay (c : Core) (i : Nat) (x : DelayS) : Core :=
  { c with chan := { c.chan with delays := SMap.set (fun _ => {}) c.chan.delays i x } }

/-! ### Modes -/

/-- The mode codes of Table 12.1. -/
def Mode.code : Mode → Nat
  | .shelved => 0 | .bringup => 1 | .idle => 2 | .correlate => 3 | .corrbeam => 4 | .beam => 5 | .zoom => 6
  | .search => 7 | .calibrate => 8 | .inspect => 9 | .quiesce => 10 | .safe => 11

/-- MODE_STS.PHASE (Table 12.9). -/
def Phase.code : Phase → Nat
  | .steady => 0 | .powering => 1 | .preRoll => 2 | .waitT0 => 3 | .draining => 4 | .powerDown => 5

/-- The mode of HDR MODE 1 to 6 (Table 12.1). -/
def Mode.ofHdr (n : Nat) : Mode :=
  if n = 1 then .correlate else if n = 2 then .corrbeam else if n = 3 then .beam else if n = 4 then .zoom
  else if n = 5 then .search else .calibrate

/-- Modes 3 to 9. -/
def Mode.isSchedule (m : Mode) : Bool := decide (3 ≤ m.code ∧ m.code ≤ 9)

/-- A schedule runs: modes 3 to 10 (R9, R141, R412). -/
def Core.running (c : Core) : Bool := decide (3 ≤ c.power.mode.code ∧ c.power.mode.code ≤ 10)

/-- A start sequence is in progress (R280): IDLE with PHASE 1 to 3. -/
def Core.starting (c : Core) : Bool :=
  c.power.mode = .idle ∧ (c.power.phase = .powering ∨ c.power.phase = .preRoll ∨ c.power.phase = .waitT0)

/-- The image's own mode (R278). -/
def Core.imageMode (c : Core) : Mode := c.power.image.getD c.power.mode

/-! ### Power of pages -/

/-- Power domain `n` is on. -/
def Core.domOn (c : Core) (n : Nat) : Bool := c.power.on.testBit n

/-- PAGE_STS.READY: the gate ramp and the local reset have ended (R283, R405). -/
def Core.pageReady (c : Core) (k : PageKind) : Bool :=
  match k.domain with
  | none => true
  | some n => c.power.on.testBit n && c.power.ready.testBit n

/-- PAGE_STS.POWERED; ramp and local reset end in one event (R283, R405). -/
def Core.powered (c : Core) (k : PageKind) : Bool := c.pageReady k

/-! ### Registers -/

def Core.reg (c : Core) (key : Nat) : Word := SMap.get regReset c.regs key
def Core.setReg (c : Core) (key : Nat) (w : Word) : Core := { c with regs := SMap.set regReset c.regs key w }

/-- Key of a register: page * 4096 + offset. -/
def PageKind.key (k : PageKind) (off : Nat) : Nat := k.no * 4096 + off

def Core.rd (c : Core) (k : PageKind) (off : Nat) : Nat := (c.reg (k.key off)).toNat
def Core.wr (c : Core) (k : PageKind) (off : Nat) (v : Nat) : Core := c.setReg (k.key off) (word v)
/-- A `_LO`, `_HI` pair. -/
def Core.rd64 (c : Core) (k : PageKind) (off : Nat) : Nat := c.rd k off + 2 ^ 32 * c.rd k (off + 4)
def Core.wr64 (c : Core) (k : PageKind) (off : Nat) (v : Nat) : Core :=
  (c.wr k off v).wr k (off + 4) (v / 2 ^ 32)
/-- Add to a saturating counter. -/
def Core.inc (c : Core) (k : PageKind) (off : Nat) (n : Nat := 1) : Core :=
  c.setReg (k.key off) (satInc (c.reg (k.key off)) n)
/-- Set the registers of a page at the listed offsets to 0 (the CLR_CNT commands). -/
def Core.clear (c : Core) (k : PageKind) (offs : List Nat) : Core := offs.foldl (fun c o => c.wr k o 0) c
/-- Increment of a 64-bit wrapping counter. -/
def Core.inc64 (c : Core) (k : PageKind) (off : Nat) (n : Nat := 1) : Core := c.wr64 k off (c.rd64 k off + n)

/-- Return the registers of a page to reset, but the fields the mask function keeps. -/
def Core.resetPage (c : Core) (k : PageKind) (keep : Nat → Nat) : Core :=
  { c with regs := c.regs.filterMap (fun e =>
      if e.1 / 4096 = k.no then
        let m := keep (e.1 % 4096)
        let v := word ((e.2.toNat &&& m) ||| ((regReset e.1).toNat &&& (m32 ^^^ m)))
        if v = regReset e.1 then none else some (e.1, v)
      else some e) }

/-- The RWS bits of a register (R9). -/
def PageKind.rwsMask (k : PageKind) (off : Nat) : Nat := (k.row off).rws

/-! ### MSI-X and page interrupts (R362, R403) -/

/-- Address and data of a vector in the MSI-X table. -/
def Core.msixEntry (c : Core) (vec : Nat) : Nat × Nat := SMap.get (fun _ => (0, 0)) c.host.msixTab vec

/-- A message on a vector: the write that its table entry names, or its pending bit where the vector or the function is masked. -/
def Core.msix (c : Core) (vec : Nat) : Core :=
  if c.host.fmask || c.host.mask.elem vec then
    (if c.host.pbits.elem vec then c else { c with host := { c.host with pbits := c.host.pbits ++ [vec] } })
  else if c.host.linkUp then c.emit (.msix vec (c.msixEntry vec).1 (c.msixEntry vec).2) else c

/-- Y of R403. -/
def Core.irqY (c : Core) (k : PageKind) : Nat := c.rd k 0x010 &&& c.rd k 0x014

/-- PAGE_CTL.IRQ_EN. -/
def Core.irqOn (c : Core) (k : PageKind) : Bool := (c.rd k 0x008).testBit 2

/-- Send the page's message on VEC. -/
def Core.pageMsg (c : Core) (k : PageKind) : Core := c.msix (c.rd k 0x018 % 2048)

/-- Raise event bit `b` of the page (R403: a message when Y leaves 0). -/
def Core.raise (c : Core) (k : PageKind) (b : Nat) : Core :=
  let c' := c.wr k 0x010 (c.rd k 0x010 ||| 2 ^ b)
  if c.irqOn k ∧ c.irqY k = 0 ∧ c'.irqY k ≠ 0 then c'.pageMsg k else c'

/-! ### Fault messages (R410 to R414) -/

/-- Class codes of Table 17.1. -/
def clsN : Nat := 0
def clsD : Nat := 1
def clsS : Nat := 2
def clsF : Nat := 3

/-- R412: D/N kinds. -/
def Core.clsDN (c : Core) : Nat := if c.running then clsD else clsN

/-- Report a fault message to the collector: the page's pending slot, or one more repeat (R414). -/
def Core.report (c : Core) (k : PageKind) (kind cls addr : Nat) : Core :=
  if c.pend.any (fun p => p.page == k.no) then
    { c.inc .flt 0x090 with pend := c.pend.map (fun p =>
        if p.page = k.no then { p with coalesced := min (p.coalesced + 1) 0xFFFF } else p) }
  else { c with pend := c.pend ++ [⟨k.no, kind, cls, addr % 2 ^ 42, 0⟩] }

/-- Record a kind in PAGE_FLT and raise one Notice (R9, R101, R249, R404). The kind shows when the message is accepted
too (R413). -/
def Core.pageFlt (c : Core) (k : PageKind) (kind : Nat) : Core :=
  (c.wr k 0x01C kind).report k kind clsN 0

/-! ### Memories -/

/-- What an unlisted address of a memory reads as. -/
def Fill.byte : Fill → Nat → Byte
  | .zero, _ => 0
  | .word w, a => BitVec.ofNat 8 (w >>> (8 * (a % 4)))
  | .freeSram n, a => Config.freeSram n a
  | .freeHbm n, a => Config.freeHbm n a

def Mem.get (m : Mem) (a : Nat) : Byte := SMap.get m.fill.byte m.cells a
def Mem.set (m : Mem) (a : Nat) (b : Byte) : Mem := { m with cells := SMap.set m.fill.byte m.cells a b }
/-- Write bytes upward from an address. -/
def Mem.put (m : Mem) (a : Nat) (bs : List Byte) : Mem := { m with cells := SMap.setRun m.fill.byte m.cells a bs }
/-- Read `n` bytes upward from an address. -/
def Mem.read (m : Mem) (a n : Nat) : List Byte := SMap.getRun m.fill.byte m.cells a n
/-- The canonical form of a memory. -/
def Mem.wf (m : Mem) : Bool := SMap.wf m.fill.byte m.cells
/-- Little-endian value of `n` bytes (R3). -/
def Mem.le (m : Mem) (a n : Nat) : Nat := leNat (m.read a n)

/-- The IO-die SRAM region of an address (R20). -/
def IoSram.region (s : IoSram) (a : Nat) : Mem :=
  if a < 0x0A000000 then s.hist else if a < 0x0C000000 then s.gain else if a < 0x0D000000 then s.elastic
  else if a < 0x0D800000 then s.crook else if a < 0x0DA00000 then s.rqsat else if a < 0x0DB00000 then s.eye
  else if a < 0x0DE00000 then s.calbuf else if a < 0x0E000000 then s.ctx else s.ret

/-- Replace the region of an address. -/
def IoSram.setRegion (s : IoSram) (a : Nat) (m : Mem) : IoSram :=
  if a < 0x0A000000 then { s with hist := m } else if a < 0x0C000000 then { s with gain := m }
  else if a < 0x0D000000 then { s with elastic := m } else if a < 0x0D800000 then { s with crook := m }
  else if a < 0x0DA00000 then { s with rqsat := m } else if a < 0x0DB00000 then { s with eye := m }
  else if a < 0x0DE00000 then { s with calbuf := m } else if a < 0x0E000000 then { s with ctx := m }
  else { s with ret := m }

/-- All regions of IO-die SRAM are canonical. -/
def IoSram.wf (s : IoSram) : Bool :=
  s.hist.wf && s.gain.wf && s.elastic.wf && s.crook.wf && s.rqsat.wf && s.eye.wf && s.calbuf.wf && s.ctx.wf && s.ret.wf

def IoSram.get (s : IoSram) (a : Nat) : Byte := (s.region a).get a
def IoSram.set (s : IoSram) (a : Nat) (b : Byte) : IoSram := s.setRegion a ((s.region a).set a b)
/-- The regions of IO-die SRAM (R20). -/
def ioRegions : List (Nat × Nat) :=
  [(0, 0x0A000000), (0x0A000000, 0x0C000000), (0x0C000000, 0x0D000000), (0x0D000000, 0x0D800000),
   (0x0D800000, 0x0DA00000), (0x0DA00000, 0x0DB00000), (0x0DB00000, 0x0DE00000), (0x0DE00000, 0x0E000000),
   (0x0E000000, 0x10000000)]
/-- Read bytes upward, region by region. -/
def IoSram.read (s : IoSram) (a n : Nat) : List Byte :=
  ioRegions.flatMap (fun r =>
    let lo := max a r.1
    let hi := min (a + n) r.2
    if lo < hi then (s.region lo).read lo (hi - lo) else [])
/-- Write bytes upward, region by region. -/
def IoSram.put (s : IoSram) (a : Nat) (bs : List Byte) : IoSram :=
  ioRegions.foldl (fun s r =>
    let lo := max a r.1
    let hi := min (a + bs.length) r.2
    if lo < hi then s.setRegion lo ((s.region lo).put lo ((bs.drop (lo - a)).take (hi - lo))) else s) s
def Core.ioPut (c : Core) (a : Nat) (bs : List Byte) : Core := { c with io := c.io.put a bs }

/-- The stack of a die HBM address (Table 14.1): 2d + addr[14]. -/
def stackOf (d a : Nat) : Nat := 2 * d + (a >>> 14) % 2
/-- Pseudo-channel within the stack, bank, row of an address (Table 14.1). -/
def pcOf (a : Nat) : Nat := (a >>> 8) % 64
def rowOf (a : Nat) : Nat := bits a 36 23
def bankOf (a : Nat) : Nat := bits a 22 17 ^^^ bits a 28 23

def Core.hbmGet (c : Core) (d a : Nat) : Byte := (c.stack (stackOf d a)).mem.get a
def Core.hbmRead (c : Core) (d a n : Nat) : List Byte := (List.range n).map (fun i => c.hbmGet d (a + i))
def Core.hbmSet (c : Core) (d a : Nat) (b : Byte) : Core :=
  c.modStack (stackOf d a) (fun s => { s with mem := s.mem.set a b })
/-- Write bytes upward in die HBM, page of 16 KiB by page (Table 14.1), with fuel for the pages. -/
def Core.hbmPutGo : Nat → Core → Nat → Nat → List Byte → Core
  | 0, c, _, _, _ => c
  | f + 1, c, d, a, bs =>
    let n := 16384 - a % 16384
    if bs.isEmpty then c
    else Core.hbmPutGo f (c.modStack (stackOf d a) (fun s => { s with mem := s.mem.put a (bs.take n) })) d (a + n) (bs.drop n)
def Core.hbmPut (c : Core) (d a : Nat) (bs : List Byte) : Core := Core.hbmPutGo (bs.length / 16384 + 2) c d a bs
def Core.hbmLe (c : Core) (d a n : Nat) : Nat := leNat (c.hbmRead d a n)

/-- Symbols in error of the 144-bit word that holds an address (R346). -/
def Core.symErr (c : Core) (d a : Nat) : List Nat := SMap.get (fun _ => []) (c.stack (stackOf d a)).err (a / 16)
/-- Forget the errors of the words a whole-word write replaces (R348). -/
def Core.symClear (c : Core) (d a n : Nat) : Core :=
  (List.range (n / 16 + 2)).foldl (fun c i =>
    let w := a / 16 + i
    if a ≤ 16 * w ∧ 16 * w + 16 ≤ a + n then
      c.modStack (stackOf d (16 * w)) (fun s => { s with err := SMap.erase s.err w })
    else c) c
/-- A scheduled or device write to die HBM: the bytes, and the errors of whole words replaced. -/
def Core.hbmWrite (c : Core) (d a : Nat) (bs : List Byte) : Core := (c.hbmPut d a bs).symClear d a bs.length

/-- An access leaves the rows of its 256 B blocks open, by bank (R336). -/
def Core.openRows (c : Core) (d a n : Nat) : Core :=
  (List.range (cdiv (a % 256 + n) 256)).foldl (fun c k =>
    let b := a + 256 * k
    c.modStack (stackOf d b) (fun s => { s with openRow := SMap.set (fun _ => 0) s.openRow (pcOf b * 64 + bankOf b) (rowOf b + 1) })) c

/-- Code outcome of a word (Table 14.2): 0 clean, 1 CE, 2 UE. -/
def codeOutcome (data : List Byte) (syms : List Nat) : Nat :=
  match syms with
  | [] => 0
  | [_] => 1
  | [_, _] => 2
  | _ => Config.freeEcc data syms % 3

/-- The decoder's outcome for the word at a die HBM address. -/
def Core.wordOutcome (c : Core) (d a : Nat) : Nat :=
  codeOutcome (c.hbmRead d (a / 16 * 16) 16) (c.symErr d a)

/-- The 16 data bytes of a word with the listed symbols taken from other bytes: symbol `s` below 32 is half a byte (R346). -/
def mixSyms (w f : List Byte) (syms : List Nat) : List Byte :=
  (List.range 16).map (fun b =>
    let half (s : Nat) : Nat := bits ((nth 0 (if syms.elem s then f else w) b).toNat) (4 * (s % 2) + 3) (4 * (s % 2))
    BitVec.ofNat 8 (half (2 * b) + 16 * half (2 * b + 1)))

/-- The bytes a word delivers when it is not a UE: with three or more symbols in error it differs from what was written in those
symbols only, and for a CE in one more (R346). -/
def Core.wordData (c : Core) (d a : Nat) : List Byte :=
  let w := c.hbmRead d (a / 16 * 16) 16
  match c.symErr d a with
  | [] => w
  | [_] => w
  | s => mixSyms w (Config.freeEccData w s) (if codeOutcome w s = 1 then Config.freeEcc w s / 3 % 36 :: s else s)

/-! ### Asynchronous windows (R15, R264) -/

/-- The page's die as a Chanter index: 0 to 3 the X dies, 4 the IO die. -/
def PageKind.chip (k : PageKind) : Nat := k.die?.getD 4

/-- A window of CLASS bit `b` (32 to 37) is open on die `x`: always while no schedule runs, and in QUIESCE once every
Chanter has stopped (R15, R264). -/
def Core.winOpen (c : Core) (x b : Nat) : Bool :=
  if c.running ∧ c.power.running then
    (match (c.chanter x).win with
     | some (cls, _) => cls.testBit (b - 32)
     | none => false)
  else true

/-! ### Time (R315, R316, R319) -/

/-- TC in ns. -/
def TimeS.tcNs (t : TimeS) : Nat := t.tc / 65536
/-- A of R321, in 2^-16 ns. -/
def TimeS.acc (t : TimeS) : Int := t.ak + t.slew * ((t.tcNs : Int) - t.slewAt) / 1000000
/-- ATB in 2^-16 ns. -/
def TimeS.atb (t : TimeS) : Int := t.base + t.tc + t.acc
def TimeS.atbNsTotal (t : TimeS) : Nat := (t.atb / 65536).toNat
def TimeS.atbS (t : TimeS) : Nat := t.atbNsTotal / 1000000000
def TimeS.atbNs (t : TimeS) : Nat := t.atbNsTotal % 1000000000
def TimeS.atbFrac (t : TimeS) : Nat := (t.atb % 65536).toNat
def TimeS.stamp (t : TimeS) : Stamp := ⟨t.atbS, t.atbNs, t.atbFrac⟩
/-- LTB at a tick: 30 517.578125 ns each (R319). -/
def TimeS.ltbAt (ticks : Nat) : Nat := ticks * 1953125 / 64
/-- LTB as read: while the control domain is powered, 2 ns per MCLK cycle since the tick, capped (R319). -/
def Core.ltb (c : Core) : Nat :=
  let t := c.time
  if c.domOn 36 then min (TimeS.ltbAt t.ltbTicks + t.ltbSub / 2 * 2) (TimeS.ltbAt (t.ltbTicks + 1) - 1)
  else TimeS.ltbAt t.ltbTicks

/-- f_ref of an image header in Hz (R216). -/
def Hdr.fref_ (h : Hdr) : Nat := if h.fref = 1 then 100000000 else 10000000

/-- f_cc as numerator and denominator in Hz (R316). -/
def Core.fcc (c : Core) : Nat × Nat :=
  match c.img with
  | some i => (i.hdr.fref_ * i.hdr.kxNum, i.hdr.kxDen * i.hdr.mX)
  | none => (c.rd (.time 0) 0x0B8, c.rd (.time 0) 0x0BC)

/-- STB (R316). -/
def Core.stbAt (c : Core) (tcNs : Int) : Int :=
  (c.time.epochS : Int) + ((tcNs - c.time.epochTc) * (c.fcc.1 : Int)) / ((c.fcc.2 : Int) * 1000000000)
def Core.stb (c : Core) : Int := c.stbAt c.time.tcNs

/-- FCLK as numerator and denominator in Hz (R25). -/
def Image.fclk (i : Image) : Nat × Nat := (i.hdr.fref_ * i.hdr.kfNum, i.hdr.kfDen)
def Image.xclk (i : Image) : Nat × Nat := (i.hdr.fref_ * i.hdr.kxNum, i.hdr.kxDen)
/-- FCLK cycles to ns, toward zero. -/
def cyclesNs (f : Nat × Nat) (n : Int) : Int := (n * f.2 * 1000000000).tdiv f.1

/-- The FCLK cycle since T0 of the present instant (R66). -/
def Core.fcycle (c : Core) (i : Image) : Int :=
  (((c.time.tcNs : Int) - c.time.t0Tc) * i.fclk.1) / (i.fclk.2 * 1000000000 : Nat)

/-- SLIP_GUARD, at most 4 095 ns (Table 3.6). -/
def Core.guardNs (c : Core) : Nat := min (c.rd .ingest 0x050) 4095

/-! ### Small gates -/

/-- A register key of a Drone-domain page (R402). -/
def droneKey (key : Nat) : Bool :=
  match pageAt .otr4096A (key / 4096) with
  | some k => k.domain == none
  | none => false

/-- Apply a change only where a condition holds: an event that the device cannot show in its state has no effect.
DEDUCED, notes/assumptions/20.md -/
def Core.when (c : Core) (p : Bool) (f : Core → Core) : Core := if p then f c else c

/-- A read that completes with Completer Abort: AER records it (Table 15.1). PRESUMED, notes/assumptions/89.md -/
def Core.aborts (c : Core) (o : Output) : Core := { c with host := { c.host with aer := c.host.aer ||| 0x8000 } }.emit o

/-! ### Gate of a register command -/

/-- The lock of R393 that keeps master `m` off a page. -/
def Core.lockedOut (c : Core) (k : PageKind) (m : Nat) : Bool :=
  k.lockable && (match (c.lock k.group).owner with
    | some o => o != m
    | none => false)

/-- Master codes (Table 16.1). -/
def masterCode : Master → Nat
  | .pcie => 0 | .debug => 1 | .setr => 2 | .drone => 3

/-- The default target (R395): log, count, raise and report. -/
def Core.unmapped (c : Core) (m : Master) (page off : Nat) (write : Bool) : Core :=
  let log := page + off * 2 ^ 12 + masterCode m * 2 ^ 24 + b2n write * 2 ^ 26 + 2 ^ 31
  (((c.wr .cxb 0x080 log).inc .cxb 0x090).raise .cxb 2).report .cxb 0x02 clsN 0

/-- A register of the page acts: the domain is READY and PAGE_CTL.ENABLE is 1 (R402, R405). -/
def Core.acts (c : Core) (k : PageKind) : Bool := c.pageReady k && (c.rd k 0x008).testBit 0

/-- PRIO_Gg level of a master. -/
def Core.prioG (c : Core) (g m : Nat) : Nat := bits (c.rd .cxb (0x040 + 4 * g)) (4 * m + 2) (4 * m)

/-- The level of a master's waiting access to a group: 7 where age has promoted it (R392). -/
def Core.cxbLevel (c : Core) (g m : Nat) : Nat := if c.host.cxbAged.elem (m, g) then 7 else c.prioG g m

/-- The waiting access of a master to a group has been served, and its promotion with it. -/
def Core.cxbServed (c : Core) (g m : Nat) : Core :=
  { c with host := { c.host with cxbAged := c.host.cxbAged.filter (· != (m, g)) } }

/-- The page of the debug port's waiting request (R433). -/
def Core.debugPage (c : Core) : Option PageKind :=
  match c.dbg.req with
  | some r => pageAt c.part (bits r.toNat 55 44)
  | none => none

/-- A debug access to a page can be served now: its domains stand, the die's class [37] window is open, and no other master's
lock is in the way (R264, R393). -/
def Core.debugServed (c : Core) (k : PageKind) : Bool :=
  c.domOn 36 && c.domOn 37 && c.winOpen k.chip 37 && !c.lockedOut k 1

/-- A debug access to the group of a page waits that can be served now, at a higher level than the host's (R15, R392). -/
def Core.debugFirst (c : Core) (k : PageKind) : Bool :=
  match c.debugPage with
  | some q => q.group == k.group && c.debugServed q && decide (c.cxbLevel k.group 0 < c.cxbLevel k.group 1)
  | none => false

/-- What becomes of a host access to a page (R264, R393, R395, R405): no effect, the posted queue, or service at once. -/
inductive Route where
  | none | queue | serve
deriving DecidableEq, Repr

/-- Accesses wait while the die's class [32] window is closed, while earlier accesses to that die or accesses that flow
control holds wait, while another master's lock covers the page, or while the debug port goes first. In SHELVED the PCIe link
is down (R278); D3hot serves no access. -/
def Core.route (c : Core) (k : PageKind) : Route :=
  if c.power.mode = .shelved ∨ c.host.d3.isSome then .none
  else if c.winOpen k.chip 32 = false ∨ c.posted.any (fun p => p.1.val == k.chip) ∨ c.lockedOut k 0 ∨
      c.host.heldQ.isEmpty = false ∨ c.debugFirst k then .queue
  else .serve

/-- Writes in the posted queue of a die; the reads that wait behind them fill no entry (R264). -/
def Core.postedN (c : Core) (x : Nat) : Nat :=
  (c.posted.filter (fun p => p.1.val == x && (match p.2 with | .snapshotRead _ _ _ => false | .accessSize _ _ _ a => a.write | _ => true))).length

/-- A host access enters the posted queue of its die, or is held by PCIe flow control where 256 writes wait or an earlier access
is held (R264). Reads wait in the same order. DEDUCED, notes/assumptions/88.md -/
def Core.post (c : Core) (x : Nat) (i : Instr) : Core :=
  if c.host.heldQ.isEmpty = false ∨ 256 ≤ c.postedN x then
    { c with host := { c.host with heldQ := c.host.heldQ ++ [(Fin.ofNat 5 x, i)] } }
  else { c with posted := c.posted ++ [(Fin.ofNat 5 x, i)] }

/-! ### Levels of the bulk crossbar (R397) -/

/-- The level of a central master at a target (R397). -/
def Core.bulkLevel (c : Core) (m t : Nat) : Nat :=
  bits (SMap.get bxbReset c.bxbPrio (3 * m + t / 10)).toNat (3 * (t % 10) + 2) (3 * (t % 10))

/-- The level of a master's waiting burst: 7 where age has promoted it. -/
def Core.burstLevel (c : Core) (m t : Nat) : Nat := if c.host.bxbAged.elem (m, t) then 7 else c.bulkLevel m t

/-! ### Locks of the control crossbar (R393, R394) -/

/-- LOCK_CFG.MAX_ACC and MAX_US in force. -/
def Core.maxAcc (c : Core) : Nat := let v := bits (c.rd .cxb 0x07C) 6 0; if v = 0 ∨ 64 < v then 64 else v
def Core.maxUs (c : Core) : Nat := let v := bits (c.rd .cxb 0x07C) 11 8; if v = 0 ∨ 10 < v then 10 else v

/-- The waiting master of highest level, ties to the lower code. -/
def Core.bestWait (c : Core) (g : Nat) (ws : List Nat) : Option Nat :=
  ([0, 1, 2, 3] : List Nat).foldl (fun b m =>
    if ws.elem m then
      (match b with
       | none => some m
       | some o => if c.prioG g o < c.prioG g m then some m else b)
    else b) none

/-- Grant a lock: LOCK_GRANT is raised and counted (R394). -/
def Core.lockGrant (c : Core) (g m : Nat) : Core :=
  let l := c.lock g
  ((c.setLock g { owner := some m, acc := 0, wait := l.wait.filter (· != m) }).inc .cxb 0x088).raise .cxb 0

/-- A lock ends: the queued ACQUIRE of highest level is granted (R394). -/
def Core.lockEnd (c : Core) (g : Nat) : Core :=
  let l := c.lock g
  let c := c.setLock g { l with owner := none, acc := 0 }
  match c.bestWait g l.wait with
  | some m => c.lockGrant g m
  | none => c

/-- A lock ends other than by RELEASE (R393). -/
def Core.lockExpire (c : Core) (g : Nat) : Core :=
  (((c.inc .cxb 0x08C).raise .cxb 1).report .cxb 0x07 clsN 0).lockEnd g

/-- Count an access of the holder to its group (R393). -/
def Core.lockAccess (c : Core) (k : PageKind) (m : Nat) : Core :=
  let l := c.lock k.group
  if k.lockable ∧ l.owner = some m then
    (if c.maxAcc ≤ l.acc + 1 then c.lockExpire k.group else c.setLock k.group { l with acc := l.acc + 1 })
  else c

end Sys2Proof.Machine
end

