-- ==== Sys2Proof/Machine/PlanOps.lean ====
section
/-! DEFINITION. Machine/PlanOps.lean: what follows from a PLAN section: ranks, channels, owners, rows, units and layouts
(R17, R78, R92, R109, R110, R121, R128, R132, R150 to R153). -/

namespace Sys2Proof.Machine

def Plan.P (p : Plan) : Nat := 2 ^ p.pLog
def Plan.L (p : Plan) : Nat := 2 ^ p.lLog

/-- The used inputs in rank order (R109). -/
def Plan.ranks (p : Plan) : List Nat := setBits p.inputs 4096
def Plan.nIn (p : Plan) : Nat := p.ranks.length
def Plan.nPad (p : Plan) : Nat := 64 * cdiv p.nIn 64
/-- Blocks of 64 ranks (R121). -/
def Plan.B (p : Plan) : Nat := p.nPad / 64
/-- The rank of an input (R109). -/
def Plan.rank (p : Plan) (i : Nat) : Nat := (setBits p.inputs i).length
def Plan.uses (p : Plan) (i : Nat) : Bool := p.inputs.testBit i

/-- Used coarse channels, ascending (R78). -/
def Plan.coarseL (p : Plan) : List Nat := setBits p.coarse 128
def Plan.nReg (p : Plan) : Nat := p.coarseL.length * p.P

/-- Preset constants N, R, M, T, U, state bytes (Table 4.5). -/
def presetN (k : Nat) : Nat := if k = 0 then 3 else if k = 3 then 5 else 4
def presetR (k : Nat) : Nat := 4 * 2 ^ (k % 4)
def presetM (k : Nat) : Nat := if k < 2 then 1 else 2
def presetT (k : Nat) : Nat := if k = 0 then 31 else if k = 1 then 47 else if k = 2 then 63 else 95
def presetD (k : Nat) : Nat := 2 * presetR k
def presetU (k : Nat) : Nat := if k = 0 then 17 else if k = 1 then 25 else if k = 2 then 35 else 52
def presetS (k : Nat) : Nat := if k = 0 then 130 else if k = 1 then 397 else if k = 2 then 1117 else 3324
def presetState (k : Nat) : Nat := if k = 0 then 256 else if k = 1 then 384 else if k = 2 then 512 else 768
/-- G = N log2(R M) (R93). -/
def presetG (k : Nat) : Nat := presetN k * Nat.log2 (presetR k * presetM k)

def Zoom.Pz (z : Zoom) : Nat := 2 ^ z.pzLog
def Zoom.D (z : Zoom) : Nat := presetD z.preset
/-- Unsettled zoom spectra: 7 + ceil(U / P_z) (R94). -/
def Zoom.unsettled (z : Zoom) : Nat := 7 + cdiv (presetU z.preset) z.Pz

/-- Correlator channels (R78). -/
def Plan.nCh (p : Plan) : Nat := p.nReg + sumL (p.zooms.map Zoom.Pz)

/-- The first channel of zoom band `z`. -/
def Plan.zoomBase (p : Plan) (z : Nat) : Nat := p.nReg + sumL ((p.zooms.take z).map Zoom.Pz)

/-- A channel's coarse channel, fine channel, and zoom band. -/
structure ChInfo where
  c : Nat
  f : Nat
  z : Option Nat
deriving DecidableEq, Repr

/-- The zoom band that holds a channel, searched from band `z`. -/
def zoomFind : List Zoom → Nat → Nat → Option (Nat × Nat)
  | [], _, _ => none
  | z :: zs, i, f => if f < z.Pz then some (i, f) else zoomFind zs (i + 1) (f - z.Pz)

def Plan.info (p : Plan) (ch : Nat) : ChInfo :=
  if ch < p.nReg then ⟨nth 0 p.coarseL (ch / p.P), ch % p.P, none⟩
  else match zoomFind p.zooms 0 (ch - p.nReg) with
    | some (i, f) => ⟨(nth {} p.zooms i).src, f, some i⟩
    | none => ⟨0, 0, none⟩

/-- The X die that owns a channel (R17, R27). -/
def ownerOf (nd ch : Nat) : Nat := ch / 8 % nd
/-- A die's owned channels, ascending; local number k is the position (R110). -/
def Plan.owned (p : Plan) (nd d : Nat) : List Nat := (List.range p.nCh).filter (fun ch => ownerOf nd ch == d)
/-- The local number of a channel on its owner. -/
def localK (nd ch : Nat) : Nat := ch / (8 * nd) * 8 + ch % 8

/-- Rows of a channel in a window: L, or L P / (D P_z) (R110). -/
def Plan.rows (p : Plan) (ch : Nat) : Nat :=
  match (p.info ch).z with
  | none => p.L
  | some i => let z := nth {} p.zooms i; p.L * p.P / (z.D * z.Pz)

/-- Sub-blocks of a channel (R122). -/
def Plan.S (p : Plan) (ch : Nat) : Nat := let r := p.rows ch; if r < 1024 then 1 else r / 1024
/-- S of regular channels. -/
def Plan.Sreg (p : Plan) : Nat := p.L / 1024
/-- Rows of one sub-block of a channel. -/
def Plan.sbRows (p : Plan) (ch : Nat) : Nat := min (p.rows ch) 1024

/-- OFF(k) (R110). -/
def Plan.off (p : Plan) (nd d k : Nat) : Nat := sumL (((p.owned nd d).take k).map (fun ch => p.rows ch * p.nPad * 2))
/-- W_SIZE (R110). -/
def Plan.wsize (p : Plan) (nd d : Nat) : Nat := sumL ((p.owned nd d).map (fun ch => p.rows ch * p.nPad * 2))

/-- Region bases: STAGE, LT, W, DUMP, DUMPW (tag 0x0007). -/
def Plan.region (p : Plan) (d i : Nat) : Nat := nth 0 (nth [] p.regions d) i
/-- The staging address of rank `r` at row `t` of local channel `k` in window `w` (R110). -/
def Plan.stageAddr (p : Plan) (nd d k w t r : Nat) : Nat :=
  p.region d 0 + w % 2 * p.wsize nd d + p.off nd d k + (t * p.nPad + r) * 2

/-- n0 = START_SAMPLE / P (R89). -/
def Plan.n0 (p : Plan) : Nat := p.start / p.P
/-- b0 (R66). -/
def Plan.b0 (p : Plan) : Nat := p.start / 256

/-! ### Tasks (R121) and tile order (R128) -/

def tauOf (b p q : Nat) : Nat := p * b - p * (p - 1) / 2 + (q - p)
def Plan.T (p : Plan) : Nat := p.B * (p.B + 1) / 2
/-- All tasks (p, q) in order of tau. -/
def tasksOf (b : Nat) : List (Nat × Nat) :=
  (List.range b).flatMap (fun p => (List.range (b - p)).map (fun i => (p, p + i)))
/-- The entries kept of a task: all, or a <= b on the diagonal, in order (R128). -/
def keptOf (diag : Bool) : List (Nat × Nat) :=
  (List.range 64).flatMap (fun a => (List.range 64).filterMap (fun b => if diag ∧ b < a then none else some (a, b)))
/-- Entries of a task. -/
def keptN (diag : Bool) : Nat := if diag then 2080 else 4096
/-- Entries before a task in the tile order. -/
def entriesBefore (b tau : Nat) : Nat := sumL (((tasksOf b).take tau).map (fun e => keptN (e.1 == e.2)))
/-- E = N_pad (N_pad + 1) / 2 (R128). -/
def Plan.E (p : Plan) : Nat := p.nPad * (p.nPad + 1) / 2

/-! ### Weight units (R132, R151, R152) -/

/-- The unit of a channel. -/
def Plan.unitOf (p : Plan) (ch : Nat) : Nat :=
  match (p.info ch).z with
  | none => ch / p.P
  | some z => p.coarseL.length + z
/-- Channels of a unit and its first channel. -/
def Plan.unitP (p : Plan) (u : Nat) : Nat :=
  if u < p.coarseL.length then p.P else (nth {} p.zooms (u - p.coarseL.length)).Pz
def Plan.unitFirst (p : Plan) (u : Nat) : Nat :=
  if u < p.coarseL.length then u * p.P else p.zoomBase (u - p.coarseL.length)
def Plan.nUnits (p : Plan) : Nat := p.coarseL.length + p.zooms.length
/-- f_u of a channel. -/
def Plan.fu (p : Plan) (ch : Nat) : Nat := ch - p.unitFirst (p.unitOf ch)
/-- The channel counts the task (R132). -/
def Plan.counts (p : Plan) (ch tau : Nat) : Bool := tau % p.unitP (p.unitOf ch) == p.fu ch
/-- The home die of a unit (R152), and the units of a home die. -/
def Plan.home (p : Plan) (nd u : Nat) : Nat := ownerOf nd (p.unitFirst u)
def Plan.homeUnits (p : Plan) (nd d : Nat) : List Nat := (List.range p.nUnits).filter (fun u => p.home nd u == d)

/-- Weight entries of the counted tasks of a channel below task `tau` (R134). -/
def Plan.wBefore (p : Plan) (ch tau : Nat) : Nat :=
  sumL (((tasksOf p.B).zip (List.range tau)).map
    (fun e => if p.counts ch e.2 then keptN (e.1.1 == e.1.2) else 0))
/-- The weight address of entry `e` of a task of local channel `k` (R134). -/
def Plan.wAddr (p : Plan) (nd d k ch tau e : Nat) : Nat :=
  p.region d 2 + 4 * (sumL (((p.owned nd d).take k).map (fun c => p.wBefore c p.T)) + p.wBefore ch tau + e)
/-- The long-term address of entry `e` of a task (R128). -/
def Plan.ltAddr (p : Plan) (d k tau e : Nat) : Nat :=
  p.region d 1 + 12 * (p.E * k + entriesBefore p.B tau + e)

/-! ### Canonical order (R150, R153) -/

def Plan.nBl (p : Plan) : Nat := p.nIn * (p.nIn + 1) / 2
def Plan.index (p : Plan) (i j : Nat) : Nat := i * p.nIn - i * (i - 1) / 2 + (j - i)
/-- Bytes per baseline: 12 in format E, 8 in format Q. -/
def Plan.F (p : Plan) : Nat := if p.fmtQ then 8 else 12
def Plan.dumpAddr (p : Plan) (d k index : Nat) : Nat := p.region d 3 + (k * p.nBl + index) * p.F
def Plan.dumpwAddr (p : Plan) (nd d u index : Nat) : Nat :=
  p.region d 4 + ((((p.homeUnits nd d).findIdx (· == u)) * p.nBl + index) * 4)

/-- s_n: streams of a lane (R63). -/
def Plan.sn (p : Plan) (lane : Nat) : Nat := (p.map.filter (fun e => e.lane == lane)).length
/-- due(n, j, b) - T0 in FCLK cycles (R66). -/
def Plan.due (p : Plan) (mF lane pos : Nat) (b : Int) : Int :=
  p.d0 + (b - p.b0) * (256 * mF) + ((pos + 1) * (256 * mF) / p.sn lane : Nat)

/-- The windows of an integration and a window's place in it. -/
def Plan.winIn (p : Plan) (w : Nat) : Nat := w % p.ints

/-- The image's EPUWARD weight-frame entries (R160). -/
def visEntries (p : Plan) : Nat := 2 ^ p.visLog

/-- The image correlates: its mode runs stages 7 to 10 (R13, R123). -/
def Image.correlates (i : Image) : Bool :=
  let m := i.hdr.mode
  m == 1 || m == 2 || m == 4 || (m == 6 && i.tasks.any (fun t => t.sets.any (fun s => s.any (fun l => l.any (fun e => e.kind == 0)))))

/-- The passes of a cell: entry, start and length in cycles from cycle 0 of Table 6.2 (R240). -/
def passTimes (p : Plan) (rows : Nat) : Nat → List TaskEnt → List (TaskEnt × Nat × Nat)
  | _, [] => []
  | t, e :: es =>
    let n := if e.kind = 1 then 4 * p.nPad else 4 * rows
    (e, t, n) :: passTimes p rows (t + max n 4096 + 1) es

/-- The beam section of an image, empty where absent (R227). -/
def Image.beams (i : Image) : BeamSec := i.beam.getD {}
/-- The reduction entry of a die (R227). -/
def Image.redCfg (i : Image) (d : Nat) : RedCfg :=
  match i.beams.reds.find? (fun e => e.1 == d) with
  | some e => e.2
  | none => {}
/-- N_s, N_k and G of a reduction entry (R202); 0 groups where it is OFF. -/
def RedCfg.ns (g : RedCfg) : Nat := g.selHi + 1 - g.selLo
def RedCfg.nk (g : RedCfg) : Nat := g.chHi + 1 - g.chLo
def RedCfg.groups (g : RedCfg) : Nat :=
  if g.kind = 0 then 0 else if g.grouping = 0 then 1 else if g.grouping = 1 then g.ns else if g.grouping = 2 then g.nk
  else g.ns * g.nk
/-- BANKS and AREAS of a die. -/
def BeamSec.bank (b : BeamSec) (d i : Nat) : Nat :=
  match b.banks.find? (fun e => e.1 == d) with
  | some e => nth 0 e.2 i
  | none => 0
def BeamSec.area (b : BeamSec) (d i : Nat) : Nat :=
  match b.areas.find? (fun e => e.1 == d) with
  | some e => nth 0 e.2 i
  | none => 0
def BeamSec.action (b : BeamSec) (d i : Nat) : Option (List Byte) :=
  match b.actions.find? (fun e => e.1 == d) with
  | some e => e.2[i]?
  | none => none
/-- The output entry of a beam. -/
def BeamSec.beam (b : BeamSec) (n : Nat) : BeamOut := nth {} b.outs n

end Sys2Proof.Machine
end

