-- ==== Sys2Proof/Machine/Trig.lean ====
section
/-! DEFINITION. Machine/Trig.lean: the fixed tables Tc and Ts and the interpolated rotation (R84). -/

namespace Sys2Proof.Machine

/-- 65 536 cos(2 pi q / 1 024) rounded to nearest, q = 0 to 63 (R84). -/
def cosQuarter0 : List Nat :=
  [65536, 65535, 65531, 65525, 65516, 65505, 65492, 65476, 65457, 65436, 65413, 65387, 65358, 65328, 65294, 65259] ++
  [65220, 65180, 65137, 65091, 65043, 64993, 64940, 64884, 64827, 64766, 64704, 64639, 64571, 64501, 64429, 64354] ++
  [64277, 64197, 64115, 64031, 63944, 63854, 63763, 63668, 63572, 63473, 63372, 63268, 63162, 63054, 62943, 62830] ++
  [62714, 62596, 62476, 62353, 62228, 62101, 61971, 61839, 61705, 61568, 61429, 61288, 61145, 60999, 60851, 60700]

/-- The same for q = 64 to 127. -/
def cosQuarter1 : List Nat :=
  [60547, 60392, 60235, 60075, 59914, 59750, 59583, 59415, 59244, 59071, 58896, 58718, 58538, 58356, 58172, 57986] ++
  [57798, 57607, 57414, 57219, 57022, 56823, 56621, 56418, 56212, 56004, 55794, 55582, 55368, 55152, 54934, 54714] ++
  [54491, 54267, 54040, 53812, 53581, 53349, 53114, 52878, 52639, 52398, 52156, 51911, 51665, 51417, 51166, 50914] ++
  [50660, 50404, 50146, 49886, 49624, 49361, 49095, 48828, 48559, 48288, 48015, 47741, 47464, 47186, 46906, 46624]

/-- The same for q = 128 to 191. -/
def cosQuarter2 : List Nat :=
  [46341, 46056, 45769, 45480, 45190, 44898, 44604, 44308, 44011, 43713, 43412, 43110, 42806, 42501, 42194, 41886] ++
  [41576, 41264, 40951, 40636, 40320, 40002, 39683, 39362, 39040, 38716, 38391, 38064, 37736, 37407, 37076, 36744] ++
  [36410, 36075, 35738, 35401, 35062, 34721, 34380, 34037, 33692, 33347, 33000, 32652, 32303, 31952, 31600, 31248] ++
  [30893, 30538, 30182, 29824, 29466, 29106, 28745, 28383, 28020, 27656, 27291, 26925, 26558, 26190, 25821, 25451]

/-- The same for q = 192 to 255. -/
def cosQuarter3 : List Nat :=
  [25080, 24708, 24335, 23961, 23586, 23210, 22834, 22457, 22078, 21699, 21320, 20939, 20557, 20175, 19792, 19409] ++
  [19024, 18639, 18253, 17867, 17479, 17091, 16703, 16314, 15924, 15534, 15143, 14751, 14359, 13966, 13573, 13180] ++
  [12785, 12391, 11996, 11600, 11204, 10808, 10411, 10014, 9616, 9218, 8820, 8421, 8022, 7623, 7224, 6824] ++
  [6424, 6023, 5623, 5222, 4821, 4420, 4019, 3617, 3216, 2814, 2412, 2010, 1608, 1206, 804, 402]

/-- The same for q = 256 to 256. -/
def cosQuarter4 : List Nat :=
  [0]

/-- The first quarter of the cosine table, q = 0 to 256. -/
def cosTable : List Nat := cosQuarter0 ++ cosQuarter1 ++ cosQuarter2 ++ cosQuarter3 ++ cosQuarter4

/-- Tc[q]: 65 536 cos(2 pi q / 1 024), each rounded to the nearest integer (R84). -/
def Tc (q : Nat) : Int :=
  let r := q % 1024
  if r ≤ 256 then ((nth 0 cosTable r : Nat) : Int)
  else if r ≤ 512 then -((nth 0 cosTable (512 - r) : Nat) : Int)
  else if r ≤ 768 then -((nth 0 cosTable (r - 512) : Nat) : Int)
  else ((nth 0 cosTable (1024 - r) : Nat) : Int)

/-- Ts[q]: 65 536 sin(2 pi q / 1 024), each rounded to the nearest integer (R84). -/
def Ts (q : Nat) : Int := Tc (q + 768)

/-- R84: rot(theta), theta in units of 2^-32 turn; the pair (C, S). -/
def rot (theta : Nat) : Int × Int :=
  let u := ofInt 16 (rne (theta % 2 ^ 32 : Nat) 16)
  let q := u / 64
  let fr : Int := (u % 64 : Nat)
  let q1 := (q + 1) % 1024
  (Tc q + rne ((Tc q1 - Tc q) * fr) 6, Ts q + rne ((Ts q1 - Ts q) * fr) 6)

/-- An angle modulo 2^32 from an exact integer (the uint32 casts of R85, R93 and R173). -/
def turn32 (x : Int) : Nat := ofInt 32 x

end Sys2Proof.Machine
end

