-- ==== Sys2Proof/Machine/Dsp.lean ====
section
/-! DEFINITION. Machine/Dsp.lean: the integer arithmetic of the channeliser: delay evaluation, filter bank, FFT, phase
rotation, requantiser and zoom path (R81 to R96). -/

namespace Sys2Proof.Machine

/-- A clamp, and 1 where it changed the value. -/
def satC (x lo hi : Int) : Int × Nat := (sat x lo hi, b2n (decide (x < lo ∨ hi < x)))

/-- The 18-bit clamp of R83 and R85. -/
def sat18 (x : Int) : Int × Nat := satC x (-131071) 131071

/-- R81: the segment evaluated at block `b`. -/
def Seg.eval (g : Seg) (b : Nat) : Eval :=
  let t : Int := (b : Int) - g.ba
  let tau := g.a0 + rne (g.a1 * t) 16 + rne (g.a2 * t * t) 32 + rne (g.a3 * t * t * t) 48
  let k := (tau + 2 ^ 39) / 2 ^ 40
  { blk := b, tau := tau, k := sat k (-16) 16, fr := tau - k * 2 ^ 40, bad := decide (k < -16 ∨ 16 < k),
    expired := decide ((2 ^ 20 : Int) ≤ t) }

/-- R82: the delayed positions of a block, oldest first, from the 32 source samples before it and its own 256. -/
def delayed (src : List Samp) (e : Eval) : List Samp :=
  ((src.drop (16 - e.k).toNat).take 256).map (fun x =>
    { x with v := x.v && !e.bad && !e.expired })

/-- R83: the filter sums in bit-reversed order, with the saturations. -/
def filterBank (pLog : Nat) (h : List Int) (shift : Nat) (win : List Samp) : List (Int × Int) × Nat :=
  let P := 2 ^ pLog
  let sums := (List.range P).map (fun p =>
    (List.range 8).foldl (fun (a : Int × Int) t =>
      let x := nth {} win (t * P + p)
      let c := nth 0 h (t * P + p)
      (a.1 + c * x.re, a.2 + c * x.im)) (0, 0))
  (List.range P).foldl (fun a i =>
    let u := nth (0, 0) sums (bitrev pLog i)
    let re := sat18 (rne u.1 shift)
    let im := sat18 (rne u.2 shift)
    (a.1 ++ [(re.1, im.1)], a.2 + re.2 + im.2)) ([], 0)

/-- A butterfly of stage `s` at index j: both outputs and the saturations (R83). -/
def butterfly (s sh j : Nat) (a b : Int × Int) : (Int × Int) × (Int × Int) × Nat :=
  let idx := j * (1024 / 2 ^ (s + 1))
  let wr := Tc idx
  let wi := -Ts idx
  let tr := b.1 * wr - b.2 * wi
  let ti := b.1 * wi + b.2 * wr
  let p := sat18 (rne (a.1 * 65536 + tr) sh)
  let q := sat18 (rne (a.2 * 65536 + ti) sh)
  let u := sat18 (rne (a.1 * 65536 - tr) sh)
  let v := sat18 (rne (a.2 * 65536 - ti) sh)
  ((p.1, q.1), (u.1, v.1), p.2 + q.2 + u.2 + v.2)

/-- One stage over `n` groups of 2^(s+1) values. -/
def fftStage (s sh : Nat) : Nat → List (Int × Int) → List (Int × Int) × Nat
  | 0, l => (l, 0)
  | n + 1, l =>
    let h := 2 ^ s
    let bs := (List.range h).map (fun j => butterfly s sh j (nth (0, 0) l j) (nth (0, 0) l (j + h)))
    let (r, k) := fftStage s sh n (l.drop (2 * h))
    (bs.map (fun b => b.1) ++ bs.map (fun b => b.2.1) ++ r, sumL (bs.map (fun b => b.2.2)) + k)

/-- The stages from the first on (R83). -/
def fftGo (pLog mask : Nat) : Nat → List (Int × Int) → List (Int × Int) × Nat
  | 0, l => (l, 0)
  | s + 1, l =>
    let (a, k) := fftGo pLog mask s l
    let (b, m) := fftStage s (16 + b2n (mask.testBit s)) (2 ^ (pLog - (s + 1))) a
    (b, k + m)

/-- R83: the spectrum of a window, fine channel 0 first, with the saturations. -/
def spectrum (pLog : Nat) (h : List Int) (shift mask : Nat) (win : List Samp) : List (Int × Int) × Nat :=
  let (a, k) := filterBank pLog h shift win
  let (b, m) := fftGo pLog mask pLog a
  (b.drop (2 ^ pLog / 2) ++ b.take (2 ^ pLog / 2), k + m)

/-- R85: rotation of a sample by an angle, with the saturations. -/
def rotate (x : Int × Int) (theta : Nat) : (Int × Int) × Nat :=
  let (c, s) := rot theta
  let re := sat18 (rne (x.1 * c - x.2 * s) 16)
  let im := sat18 (rne (x.1 * s + x.2 * c) 16)
  ((re.1, im.1), re.2 + im.2)

/-- R85: the angle of fine channel f of a regular channel; R96 adds the zoom offset. -/
def thetaReg (fc : Int) (e : Eval) (f pLog : Nat) : Nat :=
  turn32 (-(rne (fc * e.tau) 40 + rne (((f : Int) - 2 ^ pLog / 2) * e.fr) (8 + pLog)))
def thetaZoom (fc : Int) (z : Zoom) (e : Eval) (f : Nat) : Nat :=
  turn32 (-(rne (fc * e.tau) 40 + (rne (z.ftw * e.fr) 40 +
    rne (((f : Int) - z.Pz / 2) * e.fr) (8 + z.pzLog + Nat.log2 z.D))))

/-- R87: a gain word applied to a sample; true where a part saturates. -/
def requant (y : Int × Int) (gain rq : Nat) : (Int × Int) × Bool :=
  let gr := toInt 16 gain
  let gi := toInt 16 (gain / 65536)
  let re := satC (rne (y.1 * gr - y.2 * gi) (12 + rq)) (-127) 127
  let im := satC (rne (y.1 * gi + y.2 * gr) (12 + rq)) (-127) 127
  ((re.1, im.1), re.2 + im.2 != 0)

/-! ### Zoom path (R93) -/

/-- The integrators of one part. -/
def cicInteg : List Int → Int → List Int
  | [], _ => []
  | i :: is, v => let x := wrapInt 40 (i + v); x :: cicInteg is x

/-- The comb stages: the value through, and the delays, newest first, `m` per stage. -/
def cicComb (m : Nat) : List (List Int) → Int → List (List Int) × Int
  | [], y => ([], y)
  | d :: ds, y =>
    let (r, o) := cicComb m ds (wrapInt 40 (y - nth 0 d (m - 1)))
    (((y :: d).take m) :: r, o)

/-- The chain of a preset after the reset (R89). -/
def CicS.zero (n : Nat) : CicS := { integ := List.replicate n 0, comb := List.replicate n [], fir := [] }

/-- One position through the chain of one part; the decimated value enters the FIR where q0 mod R = 0. -/
def CicS.push (k : Nat) (c : CicS) (q0 : Nat) (v : Int) : CicS :=
  let c := if c.integ.isEmpty then CicS.zero (presetN k) else c
  let is := cicInteg c.integ v
  if q0 % presetR k = 0 then
    let (cb, y) := cicComb (presetM k) c.comb (nth 0 is (presetN k - 1))
    let g := presetG k
    let x := if 8 ≤ g then rne y (g - 8) else y * 2 ^ (8 - g)
    { integ := is, comb := cb, fir := (x :: c.fir).take (presetT k) }
  else { c with integ := is }

/-- The FIR output of one part (R93). -/
def CicS.out (c : CicS) (hz : List Int) (zgain : Nat) : Int × Nat :=
  satC (rne (sumI ((hz.zip c.fir).map (fun e => e.1 * e.2))) (25 - zgain)) (-127) 127

/-- One delayed position through a zoom stream; the saturations (R93). -/
def ZoomS.push (z : Zoom) (s : ZoomS) (q0 : Nat) (x : Samp) : ZoomS × Nat :=
  let (c, w) := rot (turn32 (z.ftw * q0))
  let k := z.preset
  let s := { s with re := s.re.push k q0 (rne (x.re * c + x.im * w) 16),
                    im := s.im.push k q0 (rne (x.im * c - x.re * w) 16),
                    run := if x.v then s.run + 1 else 0 }
  if q0 % (2 * presetR k) = 0 then
    let re := s.re.out z.hz z.zgain
    let im := s.im.out z.hz z.zgain
    let v := decide (presetU k ≤ q0 / presetD k ∧ presetS k ≤ s.run) && !s.lost
    let o : Samp := if s.lost then {} else { re := re.1, im := im.1, v := v }
    ({ s with zh := (o :: s.zh).take (8 * z.Pz + 32) }, re.2 + im.2)
  else (s, 0)

end Sys2Proof.Machine
end

