-- ==== Sys2Proof/Machine/BreathOps.lean ====
section
/-! DEFINITION. Machine/BreathOps.lean: idle power, draw, credit rates, ceiling and duty of the Breath governor (R283 to
R288). Powers are in 0.1 mW unless a name says 0.1 W. DEDUCED, notes/assumptions/36.md -/

namespace Sys2Proof.Machine

/-- Idle power of a domain (Table 12.4). -/
def idleOf (n : Nat) : Nat :=
  if n < 16 then 30000 else if n < 24 then 4000 else if n < 28 then 3000 else if n < 34 then 5000
  else if n = 34 then 60000 else if n = 35 then 10000 else if n = 36 then 40000 else if n = 37 then 2000
  else
    let k := (n - 38) % 35
    if k < 24 then 2500 else if k < 26 then 3000 else if k = 26 then 1000 else if k < 31 then 3000
    else if k < 33 then 25000 else if k = 33 then 8000 else 1000

/-- P_powered. -/
def Core.pPowered (c : Core) : Nat := sumL ((setBits c.power.on 178).map idleOf)

/-! ### Domains per mode (Table 12.5) -/

/-- The domains of X die `d` with the given k. -/
def xDoms (nd : Nat) (ks : List Nat) : List Nat := (List.range nd).flatMap (fun d => ks.map (fun k => 38 + 35 * d + k))

/-- Lane groups with any LANE_EN bit. -/
def Core.lgrpsOn (c : Core) : List Nat := (List.range 16).filter (fun g => c.rd (.lgrp g) 0x040 != 0)

/-- The domains of IDLE. -/
def Core.idleDoms (c : Core) : List Nat :=
  c.lgrpsOn ++ [28, 29, 30, 31, 32, 33, 34, 35, 36, 37] ++ xDoms c.part.dies [27, 28, 29, 30, 31, 32, 33]

/-- A slice beam or cell beam of the image is used. -/
def Image.sliceUsed (i : Image) (j : Nat) : Bool :=
  (List.range 64).any (fun b => let o := i.beams.beam (64 * j + b); o.vkind != 0 || o.dkind != 0)
def Image.cellsUsed (i : Image) : Bool := (List.range 896).any (fun b => (i.beams.beam (128 + b)).dkind != 0)

/-- A cluster holds a task entry. -/
def Image.clusterUsed (i : Image) (d n : Nat) : Bool :=
  (nth {} i.tasks d).sets.any (fun s => (List.range 16).any (fun e => !(nth [] s (16 * n + e)).isEmpty))

/-- The domains that an image adds to IDLE, ascending (Table 12.5). -/
def Image.domains (i : Image) (nd : Nat) : List Nat :=
  let p := i.plan
  let used := p.coarseL ++ p.zooms.map Zoom.src
  (List.range 8).filterMap (fun s => if used.any (fun c => c % 8 == s) then some (16 + s) else none) ++
  (List.range 2).filterMap (fun h => if used.any (fun c => c % 8 / 4 == h) then some (24 + h) else none) ++
  (List.range 2).filterMap (fun z => if p.zooms.any (fun b => b.fe == z) then some (26 + z) else none) ++
  (List.range nd).flatMap (fun d =>
    ((List.range 24).filter (i.clusterUsed d) ++ (List.range 2).filterMap (fun j => if i.sliceUsed j then some (24 + j) else none) ++
     (if (i.redCfg d).kind = 0 then [] else [26]) ++ [34]).map (fun k => 38 + 35 * d + k))

/-! ### Draw -/

/-- BREATH_BASE. -/
def Core.pBase (c : Core) : Nat := c.rd .pwr 0x050 * 1000

/-- POWR average `n` in 0.1 W (R228). -/
def Image.avg (i : Image) (n : Nat) : Nat :=
  let l := i.powr.avgs
  let r := i.powr.rep
  if n < l.length then nth 0 l n else if r < l.length then nth 0 l (r + (n - l.length) % (l.length - r)) else 0

/-- P_start. -/
def Core.pStart (c : Core) : Nat := match c.img with
  | some i => i.avg 0 * 1000
  | none => 0

/-- P_run0, the span of the ballast, and the highest level: no ballast runs without a span (R285). -/
def Core.pRun0 (c : Core) : Nat := c.pBase - c.pPowered
def Core.ballastSpan (c : Core) : Nat := c.pStart - c.pPowered - c.pRun0
def Core.ballastTop (c : Core) : Nat := if c.ballastSpan = 0 then 0 else 64

/-- S of R135, and the average that covers the first frame of window `w` of the IO die (R246, R286). -/
def Core.sReg (c : Core) : Nat := match c.img with
  | some i => max i.plan.Sreg 1
  | none => 1
def Core.pWindow (c : Core) (w : Nat) : Nat :=
  match c.img with
  | some i => i.avg (((nth {} i.progs 4).first + w * i.hdr.fpw * i.hdr.frameF) * 4 * i.hdr.kfDen / (i.hdr.fref_ * i.hdr.kfNum)) * 1000
  | none => 0

/-- dP of window `w`, whose division truncates in 0.1 W (R7), and forecast(a) (R286). -/
def Core.dP (c : Core) (w : Nat) : Nat := (c.pWindow w - c.pBase) / 1000 / c.sReg * 1000
def Core.pForecast (c : Core) (w a : Nat) : Nat := c.pBase + a * c.dP w

/-- The forecast draw now; in a freeze that of SAFE (R430). -/
def Core.pDraw (c : Core) : Nat :=
  if c.dbg.frozen then c.pPowered
  else if c.power.running then c.pForecast (c.chanter 4).window c.power.duty
  else if c.power.runOn then c.pPowered + c.pRun0 + c.power.ballast * c.ballastSpan / 64
  else c.pPowered + c.power.draw

/-- The same in 0.1 W, to the nearest. -/
def Core.drawNow (c : Core) : Nat := (c.pDraw + 500) / 1000

/-! ### Rates and ceiling -/

/-- PLANT_CTL.PLANT_EN. -/
def Core.plantEn (c : Core) : Bool := bit (c.rd .plant 0x040) 0

/-- Ramp registers in 0.1 W/s, a value outside its range acting as the nearer limit. -/
def Core.rampUp (c : Core) : Nat := max 100 (min 20000 (c.rd .pwr 0x044))
def Core.rampDown (c : Core) : Nat :=
  if c.power.ramp then max 1000 (min 20000 (c.rd .pwr 0x04C)) else max 100 (min 20000 (c.rd .pwr 0x048))

/-- R_eff in 0.1 W/s (R285, R293). -/
def Core.rEff (c : Core) : Nat :=
  let r := c.rampUp
  if c.plantEn = false then r
  else
    let r := if c.plant.granted then min r c.plant.ramp else r
    if c.plant.silent then min r 100 else r

/-- The ceiling in 0.1 W (R287, R293). -/
def Core.ceiling (c : Core) : Nat :=
  let p := c.plant
  let plant := if c.plantEn then (if p.granted then p.ceiling else if p.silent then p.silCeil.getD 6200 else 6200)
    else c.rd .pwr 0x054
  (c.power.holds.foldl (fun (m : Nat) h => match h with
    | some x => min m x
    | none => m) (min plant 6200)) - (if p.warn then c.power.warnMs / 20 else 0)

/-- a_max of DUTY_MAX (R286). -/
def Core.dutyMax (c : Core) : Nat := min (c.rd .pwr 0x058) 256 * c.sReg / 256

/-- The skip mask of `a` executed sub-blocks of `s` (R286). -/
def maskFor (s a : Nat) : Nat :=
  let k := s - a
  maskBits ((List.range s).map (fun n => decide ((n * k + s / 2) / s < ((n + 1) * k + s / 2) / s)))
where
  maskBits (l : List Bool) : Nat := l.foldr (fun b a => b2n b + 2 * a) 0

end Sys2Proof.Machine
end

