-- ==== Sys2Proof/Machine/View.lean ====
section
/-! DEFINITION. Machine/View.lean: what every register reads as. Registers that show the state of a structure are
computed here; all others read their own storage. -/

namespace Sys2Proof.Machine

/-- Bits of one list, bit i from element i. -/
def maskOf (l : List Bool) : Nat := l.foldr (fun b a => b2n b + 2 * a) 0

/-- LANE_CFG fields (Table 2.7). -/
def Core.maxStep (c : Core) (n : Nat) : Nat := min (bits (c.rd (.lane n) 0x040) 2 0) 4
def Core.txMode (c : Core) (n : Nat) : Nat := bits (c.rd (.lane n) 0x040) 5 4
def Core.txStepCfg (c : Core) (n : Nat) : Nat := min (bits (c.rd (.lane n) 0x040) 8 6) 4
def Core.relayed (c : Core) (n : Nat) : Bool := bit (c.rd (.lane n) 0x040) 9
def Core.ctrlLane (c : Core) (n : Nat) : Nat := bits (c.rd (.lane n) 0x040) 17 10
def Core.autoRetrain (c : Core) (n : Nat) : Bool := bit (c.rd (.lane n) 0x040) 18

def LaneSt.code : LaneSt → Nat
  | .off => 0 | .acquire => 1 | .negotiate => 2 | .stepping => 3 | .up => 4 | .recal => 5 | .retrain => 6 | .failed => 7

/-- LANE_STS (Table 2.9). -/
def LaneS.sts (l : LaneS) : Nat :=
  fld l.st.code 3 0 + fld l.step 3 4 + fld (b2n l.pol) 1 7 + fld (b2n l.los) 1 8 + fld (b2n l.lol) 1 9 +
  fld (b2n l.aligned) 1 10 + fld (b2n l.recalPending) 1 11 + fld (b2n l.scan.isSome) 1 12 +
  fld l.failCode 4 16 + fld l.partnerLane 8 20

/-- The lane is UP, or UP but for its recalibration: counted as UP by LGRP_STS only when its STATE reads UP. -/
def LaneS.isUp (l : LaneS) : Bool := l.st == .up

/-- The line load of a lane's streams fits step `k` (check 5 of R64, R65). -/
def Image.fits (i : Image) (lane k : Nat) : Bool :=
  let num := i.hdr.fref_ * i.hdr.kxNum
  let den := i.hdr.kxDen * i.hdr.mX
  decide (i.plan.sn lane * num * 65888 * 24 + 5760000 * 256 * 23 * den ≤ 3515625000 * 2 ^ k * 256 * 23 * den)

/-- The destinations of an image: DEST, the beam entries in use and the reduction entries in use. -/
def Image.dests (i : Image) : List Nat :=
  i.plan.dest ++ i.beams.outs.flatMap (fun o =>
    (if o.vkind ≠ 0 then [o.vdest] else []) ++ (if o.dkind ≠ 0 then [o.ddest] else [])) ++
  i.beams.reds.filterMap (fun e => if e.2.kind ≠ 0 then some e.2.dest else none)

/-- A destination is a lane (R165). -/
def destLane (e : Nat) : Option Nat := if e.testBit 15 then none else some (e % 256)

/-- The envelope conditions (Table 11.1). -/
def Core.refOk (c : Core) : Bool := c.time.dpll = .locked ∨ (c.time.dpll = .holdover ∧ c.ingest.slip = false)
def Core.laneServes (c : Core) (i : Image) (n : Nat) : Bool :=
  let l := c.lane n
  (l.st == .up && i.fits n l.step) || l.st == .recal || l.st == .retrain
def Core.lanesOk (c : Core) : Bool :=
  match c.img with
  | none => true
  | some i =>
    i.dests.all (fun e => match destLane e with
      | some n => (c.lane n).st == .up && (c.lane n).txStep == c.txStepCfg n
      | none => true) &&
    (List.range 256).all (fun n => i.plan.sn n == 0 || c.laneServes i n)
def Core.tempOk (c : Core) : Bool :=
  decide (0 ≤ toInt 16 c.plant.caseT ∧ toInt 16 c.plant.caseT ≤ 8500 ∧ toInt 16 c.plant.tjMax < 10000) &&
  !c.plant.sensorFail
def Core.plantOk (c : Core) : Bool := !c.plantEn || (!c.plant.alarmRun && c.plant.coolOk)

/-- CT_STS (Table 11.8); BREACH_SEEN is stored. -/
def Core.ctSts (c : Core) (io : Bool) (stored : Nat) : Nat :=
  let r := c.refOk; let l := c.lanesOk; let t := c.tempOk; let p := c.plantOk
  (stored &&& 64) ||| fld (b2n c.power.running) 1 0 |||
  (if io then fld (b2n (r && l && t && p)) 1 1 ||| fld (b2n r) 1 2 ||| fld (b2n l) 1 3 ||| fld (b2n t) 1 4 |||
    fld (b2n p) 1 5 else 0)

/-- Payload bandwidth in bytes per second, over 8 * 256 * 130 * (MPS + 24) (R355). -/
def HostS.mpsBytes (h : HostS) : Nat := 128 * 2 ^ h.mps
def rateMbps (gen : Nat) : Nat :=
  if gen = 1 then 2500 else if gen = 2 then 5000 else if gen = 3 then 8000 else if gen = 4 then 16000
  else if gen = 5 then 32000 else if gen = 6 then 64000 else 0
def HostS.bw (h : HostS) : Nat :=
  let w := h.width * rateMbps h.gen * 1000000
  if h.linkUp = false then 0
  else if h.gen = 6 then w * 236 / 2048
  else if 3 ≤ h.gen then w * 128 * h.mpsBytes / (130 * (h.mpsBytes + 24) * 8)
  else w * 8 * h.mpsBytes / (10 * (h.mpsBytes + 24) * 8)

def DpllSt.code : DpllSt → Nat
  | .freerun => 0 | .acquiring => 1 | .locked => 2 | .holdover => 3 | .lost => 4
def HbmSt.code : HbmSt → Nat
  | .off => 0 | .training => 1 | .trained => 2 | .failed => 3 | .selfRefresh => 4
def ChnSt.code : ChnSt → Nat
  | .idle => 0 | .running => 1 | .held => 2 | .halted => 3
def BankSt.code : BankSt → Nat
  | .empty => 0 | .loading => 1 | .loaded => 2

/-- A reference is eligible: qualified, not disputed, not in its wait-to-restore (R307). -/
def RefS.eligible (r : RefS) : Bool := r.qual && !r.disputed && !r.inWtr
def Core.ref (c : Core) (n : Nat) : RefS := nth {} c.time.refs n

/-- PAGE_STS.BUSY: a command of the page is in progress (Table 16.7). DEDUCED, notes/assumptions/97.md -/
def Core.busy (c : Core) : PageKind → Bool
  | .lane n => let l := c.lane n; l.scan.isSome || l.ph != .none
  | .mode => c.power.phase != .steady
  | .chn => c.imgSt == 2
  | .hbm d j => (c.stack (2 * d + j)).st == .training
  | .dma n => (c.dma n).job.isSome
  | .insp i => (c.inspAt i).run
  | .fst s => s == 0 && c.chan.cal.isSome
  | .xchn d => (c.chanter d).stepReq != 0
  | .time 0 => c.time.armed
  | .rst => bit (c.rd .rst 0x044) 5
  | _ => false

/-- DMA channels of the host pool (R378). -/
def Core.hostChannels (c : Core) : Nat := min (c.rd .dmag 0x040 % 128) 63

/-- DMAn.CH_STS.STATE (Table 15.15). -/
def DmaS.state (d : DmaS) : Nat :=
  match d.job with
  | none => if d.readback then 3 else 0
  | some j => if d.readback then 3 else if j.started then 2 else 1

def Core.egressLevel (c : Core) (d : Nat) : Nat :=
  sumL ((c.xdie d).egress.map (fun f => 64 + f.payload.length))

/-- FRAME_LEN of a frame (R158). -/
def Frame.len (f : Frame) : Nat := 64 + f.payload.length

/-- DUMP_STS bits [2:0] (Table 7.9). -/
def Core.dumpSts (c : Core) (d : Nat) : Nat :=
  match c.img with
  | some i => fld (b2n c.power.running) 1 0 +
      fld (b2n (c.power.running && i.plan.winIn (c.chanter d).window + 1 == i.plan.ints)) 1 1 +
      fld (b2n !(c.xdie d).egress.isEmpty) 1 2
  | none => 0

/-- The Chanter registers (Tables 10.19, 11.8). -/
def Core.chnView (c : Core) (x off : Nat) : Option Nat :=
  let t := c.chanter x
  let k : PageKind := if x = 4 then .chn else .xchn x
  if off = 0x040 then some t.st.code else if off = 0x048 then some (t.pc % 65536)
  else if off = 0x04C then some t.loops.length
  else if off = 0x050 then some (t.scyc % 2 ^ 32) else if off = 0x054 then some (t.scyc / 2 ^ 32)
  else if off = 0x058 then some (t.frame % 2 ^ 32) else if off = 0x05C then some (t.frame / 2 ^ 32)
  else if off = 0x060 then some (t.window % 2 ^ 32) else if off = 0x064 then some (t.window / 2 ^ 32)
  else if off = 0x084 ∧ x = 4 then some (c.imgSt + c.imgReason * 256 + c.imgMode * 2 ^ 16)
  else if off = 0x180 then some (c.ctSts (x == 4) (c.rd k off)) else none

/-- The rate in force in lowest terms, as FCC_NUM and FCC_DEN show it while an image is LOADED (Table 13.10). -/
def Core.fccShown (c : Core) : Nat × Nat :=
  let g := Nat.gcd c.fcc.1 c.fcc.2
  (c.fcc.1 / max g 1, c.fcc.2 / max g 1)

/-- The computed registers of a page outside the collector; none where the register reads its own storage. -/
def Core.view (c : Core) (k : PageKind) (off : Nat) : Option Nat :=
  let plan (f : Image → Nat) : Option Nat := some (match c.img with | some i => f i | none => 0)
  let plan? (n : Nat) : Option Nat := if c.img.isSome then some n else none
  let nd := c.part.dies
  match k with
  | .glb =>
    if off = 0x040 then some (c.part.device + 0x10000)
    else if off = 0x044 then some (2 ^ nd - 1 + fld (b2n c.part.beamFused) 1 4 + (2 ^ (2 * nd) - 1) * 256)
    else if off = 0x048 then some (b2n c.host.lnrev)
    else if off = 0x04C then some (c.otp.uid.toNat % 2 ^ 32)
    else if off = 0x050 then some (c.otp.uid.toNat / 2 ^ 32) else none
  | .mode =>
    if off = 0x040 then some (fld c.power.mode.code 4 0 + 
      fld (if c.power.mode = .inspect then (c.power.image.map Mode.code).getD 0 else 0) 4 4 +
      fld c.power.phase.code 3 8 + fld (b2n c.pilot.on) 1 11 + fld c.power.reject 4 16) else none
  | .pwr =>
    if off = 0x05C then some (match c.img with
      | some i => if c.running then fld c.power.duty 7 0 + fld i.plan.Sreg 7 8 + fld c.power.ballast 16 16
        else fld c.power.ballast 16 16
      | none => fld c.power.ballast 16 16)
    else if off = 0x060 then some (fld c.drawNow 16 0 + fld c.ceiling 16 16)
    else if off = 0x064 then some (fld c.rEff 16 0)
    else if 0x070 ≤ off ∧ off ≤ 0x084 ∧ off % 4 = 0 then some (c.power.on / 2 ^ (8 * (off - 0x070)) % 2 ^ 32)
    else none
  | .plant =>
    let p := c.plant
    if off = 0x044 then some (fld (b2n p.silent) 1 0 + fld (b2n p.latch) 1 1 + fld (b2n p.granted) 1 2 +
      fld (b2n p.flowLow) 1 3 + fld p.code 8 8)
    else if off = 0x04C then some (fld p.ramp 16 0 + fld p.ceiling 16 16)
    else if off = 0x050 then some (fld p.inlet 16 0 + fld p.outlet 16 16)
    else if off = 0x054 then some (fld p.flow 16 0 + fld p.coolMs 16 16)
    else if off = 0x05C then some (fld (if p.pwmForced then 256 else p.pwm) 9 0)
    else if off = 0x064 then some (fld p.tach 16 0) else none
  | .therm =>
    let p := c.plant
    if off = 0x044 then some (fld p.tjMax 16 0 + fld p.tjSensor 6 16)
    else if off = 0x048 then some (fld p.caseT 16 0)
    else if off = 0x04C then some (fld (b2n p.warn) 1 0 + fld (b2n p.caseBad) 1 1 + fld (b2n p.sensorFail) 1 2 +
      fld (b2n p.tripped) 1 3)
    else if 0x060 ≤ off ∧ off ≤ 0x06C ∧ off % 4 = 0 then
      let i := (off - 0x060) / 2
      some (fld (nth 0 p.ext i) 16 0 + fld (nth 0 p.ext (i + 1)) 16 16)
    else none
  | .time 0 =>
    let t := c.time
    if off = 0x058 then some (fld t.dpll.code 3 0 + fld (b2n t.pulling) 1 3 + fld (t.active.getD 0) 2 4 +
      fld (b2n t.active.isSome) 1 6 + fld (b2n t.oscOk) 1 7 + fld (b2n t.atbValid) 1 8)
    else if off = 0x05C then some (satWord t.phaseErr).toNat
    else if off = 0x060 then some t.holdTime
    else if off = 0x064 then some (satWord t.freqOff).toNat
    else if off = 0x070 then some (t.atbS % 2 ^ 32)
    else if off = 0x078 then some t.atbNs
    else if off = 0x07C then some t.atbFrac
    else if off = 0x080 then some (c.ltb % 2 ^ 32)
    else if off = 0x088 then some (ofInt 32 c.stb)
    else if off = 0x0B8 then plan? c.fccShown.1
    else if off = 0x0BC then plan? c.fccShown.2 else none
  | .time 1 =>
    if off < 0x040 ∨ 0x0C0 ≤ off then none
    else
      let n := (off - 0x040) / 32
      let r := c.ref n
      let o := (off - 0x040) % 32
      if o = 0x0C then some (fld (b2n r.activity) 1 0 + fld (b2n r.qual) 1 1 + fld (b2n r.eligible) 1 2 +
        fld (b2n r.inWtr) 1 3 + fld (b2n r.disputed) 1 4 + fld (b2n (c.time.active == some n)) 1 5 + fld r.fail 4 8 +
        fld r.wtrLeft 16 16)
      else if o = 0x10 then some (satWord r.phase).toNat
      else if o = 0x14 then some (satWord r.freq).toNat
      else if o = 0x18 then some r.disqual else none
  | .time 2 =>
    let t := c.time
    if off = 0x040 then some (fld (b2n (t.rem != 0)) 1 0 + fld (b2n t.pend.isSome) 1 1)
    else if off = 0x044 then some (ofInt 64 t.acc % 2 ^ 32)
    else if off = 0x048 then some (ofInt 64 t.acc / 2 ^ 32)
    else if off = 0x04C then some (ofInt 64 t.rem % 2 ^ 32)
    else if off = 0x050 then some (ofInt 64 t.rem / 2 ^ 32)
    else if off = 0x054 then some t.sstep else none
  | .time 3 => if off = 0x044 then some c.time.tsQ.length else none
  | .dbg =>
    if off = 0x048 then some (fld (b2n c.dbg.tap) 1 0 + fld (b2n c.dbg.req.isSome) 1 1)
    else if off = 0x04C then some (0x10000000 + c.part.device * 4096 + Config.jep106.toNat * 2 + 1) else none
  | .sec =>
    if off = 0x040 then some (b2n c.otp.requireSign + fld (b2n c.otp.debugLock) 1 1 + fld (b2n c.otp.bscanLock) 1 2 +
      fld c.otp.keyProg 4 4 + fld c.otp.keyRevoked 4 8)
    else if off = 0x048 then
      let v := c.rd .sec 0x044
      some (leAt (nth [] c.otp.keyHash (v % 4)) (4 * bits v 5 2) 4)
    else if off = 0x04C then some (fld (b2n c.dbg.open_) 1 0 + fld c.dbg.scope 3 1 + fld c.dbg.fails 4 4 +
      fld (b2n c.dbg.barred) 1 8)
    else none
  | .lgrp g =>
    if off = 0x044 then some (maskOf ((List.range 16).map (fun i => (c.lane (16 * g + i)).isUp)) +
      fld (b2n (c.lgrp g).pll) 1 16)
    else if off = 0x048 then some (fld (c.lgrp g).scanOwner 4 0 +
      fld (b2n ((List.range 16).any (fun i =>
        (c.lane (16 * g + i)).scan == some .command && (c.lane (16 * g + i)).scanMode == 0))) 1 4)
    else none
  | .ingest =>
    if off = 0x044 then some (fld (b2n c.power.running) 1 0 + fld (b2n c.ingest.slip) 1 1 + fld (b2n c.img.isSome) 1 2)
    else if off = 0x048 then plan (fun i => i.plan.horizon)
    else if off = 0x04C then plan (fun i => i.plan.d0)
    else if off = 0x060 then some (satWord c.ingest.drift).toNat
    else if off = 0x064 then some c.ingest.tts else none
  | .fst s =>
    if off = 0x040 then plan (fun i => fld i.plan.pLog 4 0 + fld i.plan.pfb 4 4 + fld i.plan.rq 4 8 + fld i.plan.fft 8 12)
    else if off = 0x04C then some (fld (b2n c.power.running) 1 0 + (if s = 0 then match c.chan.cal with
      | some k => 2 + fld k.pass 5 2 + fld (k.passes - 1) 5 8
      | none => 0 else 0))
    else if off = 0x050 then some ((nth none c.chan.evalBlk s).getD 0 % 2 ^ 32)
    else if off = 0x054 then some ((nth none c.chan.evalBlk s).getD 0 / 2 ^ 32) else none
  | .zoom z =>
    if off = 0x040 then plan (fun i =>
      let zs := i.plan.zooms.filter (fun b => b.fe == z)
      match zs with
      | [] => 0
      | b :: _ => fld b.preset 2 0 + 4 + fld (zs.foldl (fun a b => a ||| 2 ^ b.slot) 0) 8 8) else none
  | .crook =>
    if off = 0x040 then plan (fun i => fld i.plan.lLog 5 0 + fld (i.plan.nPad / 64) 7 8)
    else if off = 0x044 then
      let w := c.rd64 .crook 0x048
      some (fld (b2n c.power.running) 1 0 + fld (b2n (c.domOn 24)) 1 1 + fld (b2n (c.domOn 25)) 1 2 +
        fld (if c.power.running then w % 2 else 0) 1 3 + fld (maskOf c.links) 4 4)
    else if off = 0x050 then plan (fun i => i.plan.fillLat) else none
  | .chn => c.chnView 4 off
  | .xchn d => c.chnView d off
  | .cells d =>
    if off = 0x040 then plan (fun i => fld i.plan.B 7 0 + fld i.plan.Sreg 7 8 +
      fld (b2n ((nth {} i.tasks d).sets.any (fun s => s.any (fun l => l.any (fun e => e.kind == 1))))) 1 15)
    else if off = 0x04C then plan (fun i => if c.power.running then
      1 + (match (c.xdie d).updWin with
        | some w => fld (b2n (i.plan.winIn w == 0)) 1 1 + fld (b2n (i.plan.winIn w + 1 == i.plan.ints)) 1 2
        | none => 0) else 0)
    else if off = 0x050 then some ((c.chanter d).mask % 2 ^ 32)
    else if off = 0x054 then some ((c.chanter d).mask / 2 ^ 32)
    else if off = 0x058 then plan (fun i => i.plan.region d 1 % 2 ^ 32)
    else if off = 0x05C then plan (fun i => i.plan.region d 1 / 2 ^ 32)
    else if off = 0x060 then plan (fun i => i.plan.region d 2 % 2 ^ 32)
    else if off = 0x064 then plan (fun i => i.plan.region d 2 / 2 ^ 32) else none
  | .xdie d =>
    if off = 0x040 then some (fld (b2n (c.domOn (71 + 35 * d))) 1 0 + fld (b2n (nth false c.links d)) 1 1 +
      fld (b2n (c.domOn (71 + 35 * d) && (c.xdie d).movers.isEmpty)) 1 2)
    else if off = 0x200 then plan (fun i => fld (i.plan.ints - 1) 20 0 + fld (b2n i.plan.fmtQ) 1 20 +
      fld i.plan.visLog 4 21)
    else if off = 0x204 then some ((c.rd (.xdie d) 0x204 &&& 0xF0) ||| c.dumpSts d)
    else if off = 0x210 then plan (fun i => if c.running then (c.chanter d).window / i.plan.ints % 2 ^ 32 else 0)
    else if off = 0x214 then plan (fun i => if c.running then (c.chanter d).window / i.plan.ints / 2 ^ 32 else 0)
    else if off = 0x218 then some (((c.xdie d).emitted.getD 0xFFFFFFFFFFFFFFFF) % 2 ^ 32)
    else if off = 0x21C then some (((c.xdie d).emitted.getD 0xFFFFFFFFFFFFFFFF) / 2 ^ 32)
    else if off = 0x220 then plan (fun i => i.plan.region d 3 % 2 ^ 32)
    else if off = 0x224 then plan (fun i => i.plan.region d 3 / 2 ^ 32)
    else if off = 0x228 then plan (fun i => i.plan.region d 4 % 2 ^ 32)
    else if off = 0x22C then plan (fun i => i.plan.region d 4 / 2 ^ 32)
    else if off = 0x230 then some (c.egressLevel d) else none
  | .bsl d j =>
    let t := c.target (2 * d + j)
    let cl := c.target (8 + d)
    if off = 0x040 then plan (fun i =>
      let us := (List.range 64).any (fun b => let o := i.beams.beam (64 * j + b); o.vkind != 0 || o.dkind != 0)
      let cu := (List.range 896).any (fun b => (i.beams.beam (128 + b)).dkind != 0)
      if i.beam.isNone then 0 else
      fld (b2n us) 1 0 + fld (b2n i.beams.pair) 1 1 + fld (b2n i.beams.fullOnly) 1 2 + fld (b2n (j == 0 && cu)) 1 3)
    else if off = 0x044 then some (fld t.a.code 2 0 + fld t.b.code 2 2 + fld (b2n t.activeB) 1 4 +
      fld (b2n t.fading) 1 5 + fld (b2n (t.swap.isSome && !t.fading)) 1 6 + (if j = 0 then fld cl.a.code 2 8 +
      fld cl.b.code 2 10 + fld (b2n cl.activeB) 1 12 + fld (b2n cl.fading) 1 13 else 0))
    else if off = 0x048 then some (match t.swap with | some s => s.act % 2 ^ 32 | none => 0)
    else if off = 0x04C then some (match t.swap with | some s => s.act / 2 ^ 32 | none => 0)
    else if off = 0x050 then some (match t.swap with | some s => s.len | none => 0)
    else if off = 0x054 then some (if t.fading then t.pos else 0) else none
  | .red d =>
    let r := (c.xdie d).red
    if off = 0x040 then plan (fun i => let g := i.redCfg d
      fld g.kind 2 0 + fld g.source 1 2 + fld g.grouping 2 3 + fld g.prod 3 5 + fld g.log 5 8 + fld g.opts 3 13)
    else if off = 0x044 then plan (fun i => fld (b2n (c.power.running && (i.redCfg d).kind != 0)) 1 0 +
      fld (b2n r.bank) 1 1 + fld (b2n (c.power.running && decide ((c.chanter d).scyc < r.finTo))) 1 2)
    else if off = 0x048 then plan (fun i => (i.redCfg d).groups)
    else if off = 0x050 then some (r.interval % 2 ^ 32)
    else if off = 0x054 then some (r.interval / 2 ^ 32) else none
  | .hbm d j =>
    let s := c.stack (2 * d + j)
    if off = 0x048 then some (fld s.st.code 3 0 + fld s.rate 2 3 + fld (b2n s.ratePend.isSome) 1 5 +
      fld (s.ratePend.getD 0) 2 6 + fld s.tries 2 8 + fld (b2n s.hot) 1 10 + fld (b2n s.inject) 1 11)
    else if off = 0x04C then some (fld s.temp 16 0)
    else if off = 0x058 then some (fld s.scrub 26 0)
    else if 0x090 ≤ off ∧ off ≤ 0x0CC then
      match s.ueLog[(off - 0x090) / 8]? with
      | some (a, sc) => some (if off % 8 = 0 then a % 2 ^ 32
          else fld (a / 2 ^ 32) 5 0 + fld (b2n sc) 1 30 + 2 ^ 31)
      | none => some 0
    else none
  | .insp i =>
    let s := c.inspAt i
    if off = 0x050 then some (fld (b2n s.ready) 1 0 + fld (b2n s.denied) 1 1 + fld (b2n s.busyCell) 1 2 +
      fld (b2n s.badSel) 1 3)
    else if 0x800 ≤ off then
      -- READY clear hides the last snapshot: DESIGN CHOICE, notes/assumptions/86.md
      some (if c.power.mode = .inspect ∧ s.ready then leAt s.data (off - 0x800) 4 else 0)
    else none
  | .ring =>
    let r := c.rd .ring 0x040
    let x := c.ring r
    if off = 0x044 then some (x.dbase % 2 ^ 32) else if off = 0x048 then some (x.dbase / 2 ^ 32)
    else if off = 0x04C then some (x.cbase % 2 ^ 32) else if off = 0x050 then some (x.cbase / 2 ^ 32)
    else if off = 0x054 then some (fld (if r = 0 then 0 else x.role) 3 0 + fld x.k 5 3)
    else if off = 0x058 then some (fld x.vec 11 0 + fld x.prio 3 11 + fld x.coalCnt 8 14 + fld x.coalUs 10 22)
    else if off = 0x05C then some (fld x.gen 8 0 + fld (b2n x.error) 1 8 + fld (b2n (r == 0 && x.orphan)) 1 9 +
      fld (b2n ((x.role != 0 || r == 0) && !x.error)) 1 10)
    else if off = 0x060 then some x.head else if off = 0x064 then some x.tail else none
  | .dmag =>
    if off = 0x044 then some (maskOf ((List.range 32).map (fun n => (c.dma n).job.isSome)))
    else if off = 0x048 then some (maskOf ((List.range 32).map (fun n => (c.dma (32 + n)).job.isSome))) else none
  | .dma n =>
    let x := c.dma n
    if off = 0x040 then some (fld x.state 3 0 + fld (b2n (decide (n < c.hostChannels))) 1 3 + fld x.lastStatus 8 8 +
      fld ((x.job.map Job.ring).getD x.lastRing) 12 16)
    else if off = 0x048 then some x.residue else if off = 0x04C then some x.tag
    else if off = 0x050 then some (x.src % 2 ^ 32) else if off = 0x054 then some (x.src / 2 ^ 32)
    else if off = 0x058 then some (x.dst % 2 ^ 32) else if off = 0x05C then some (x.dst / 2 ^ 32) else none
  | .pciex =>
    if off = 0x040 then some (if c.host.linkUp then fld c.host.gen 3 0 + fld c.host.width 5 3 +
      fld (b2n (c.host.gen == 6)) 1 8 + fld (b2n c.host.lnrev) 1 9 + fld c.host.mps 2 10 else 0)
    else if off = 0x044 then some ((c.host.bw + 5000000) / 10000000) else none
  | .cxb =>
    if off = 0x074 then some (maskOf ((List.range 11).map (fun g => (c.lock g).owner.isSome)) +
      maskOf ((List.range 11).map (fun g => !(c.lock g).wait.isEmpty)) * 2 ^ 16)
    else if off = 0x078 then some ((List.range 11).foldl (fun a g => a + fld ((c.lock g).owner.getD 0) 2 (2 * g)) 0)
    else none
  | .bxb =>
    let m := c.rd .bxb 0x040
    if off = 0x044 ∨ off = 0x048 ∨ off = 0x04C then
      (if m ≤ 12 then some (SMap.get bxbReset c.bxbPrio (3 * m + (off - 0x044) / 4)).toNat else some 0)
    else none
  | .lane n => if off = 0x048 then some (c.lane n).sts else none
  | _ => none

end Sys2Proof.Machine
end

