-- ==== Sys2Proof/Machine/Gate.lean ====
section
/-! DEFINITION. Machine/Gate.lean: what a command passes before its effect: freeze, a device left undefined, the window and
lock of a register write; and the count of departures from the envelope (R252, R264, R393, R430, R448). -/

namespace Sys2Proof.Machine

/-! ### What acts when: freeze, and a device left undefined -/

/-- R448: after a rail left its tolerance, everything outside the Drone domain is a free value. The Drone domain is the
mode and power controller, the plant port and sensors, the OTP shadow, the unlock verifier, LTB, the pending messages
and the Drone pages. DESIGN CHOICE, notes/assumptions/14.md -/
def Core.redraw (c : Core) : Core :=
  let f := Config.freeDevice c.railN
  { f with
    part := c.part, otp := c.otp, droneOn := c.droneOn, perst := c.perst, railBad := c.railBad, railN := c.railN + 1,
    power := c.power, plant := c.plant, dbg := c.dbg, pend := c.pend, faulted := c.faulted, free := c.free,
    regs := (c.regs.filter (fun e => droneKey e.1)).foldl (fun m e => SMap.insert m e.1 e.2)
      (f.regs.filter (fun e => !droneKey e.1)),
    time := { f.time with ltbTicks := c.time.ltbTicks, ltbSub := c.time.ltbSub },
    out := c.out ++ f.out }

/-- The envelope of R252. -/
def Core.envelope (c : Core) : Bool := c.refOk && c.lanesOk && c.tempOk && c.plantOk

/-- CNT_ENV_EXIT counts a departure from the envelope while a schedule runs (Table 11.8). -/
def Core.envNote (old new : Core) : Core :=
  if old.running ∧ new.running ∧ old.envelope ∧ new.envelope = false then new.inc .chn 0x194 else new

/-- The state after an effect: the envelope's count, and the redraw of a device left undefined. -/
def State.after (s t : State) : State :=
  let c := s.core.envNote t.core
  { t with core := if s.core.railBad then c.redraw else c }

/-- The effect of a command on the whole device: none while frozen (R430). -/
def State.live (f : State → State) (s : State) : State := if s.core.dbg.frozen then s else s.after (f s)

/-- The effect of a command on the Drone domain and the debug port, which a freeze does not stop (R430). -/
def State.drone (f : State → State) (s : State) : State := s.after (f s)

/-- Change the core alone. -/
def State.onCore (f : Core → Core) (s : State) : State := { s with core := f s.core }

/-- A command that acts on the core alone. -/
def act (f : Core → Core) (s : State) : Host.Outcome State Fault Refusal := .next (s.live (State.onCore f))

/-- A command that acts on the core in the Drone domain or the debug port. -/
def actDrone (f : Core → Core) (s : State) : Host.Outcome State Fault Refusal := .next (s.drone (State.onCore f))

/-! ### The gate of a register command of the host -/

/-- The offset of the register whose write the command is, for the pages that a part may lack and the page header. -/
def regOff (i : Instr) : Nat :=
  match i with
  | .unitReset _ => 0x008
  | .irqEnableWrite _ ctl _ => if ctl then 0x008 else 0x014
  | .pageIrqWrite _ _ => 0x010
  | .cellsClrCnt _ => 0x048
  | .dumpClrCnt _ => 0x238
  | .bslClrCnt _ _ => 0x058
  | .redClrCnt _ => 0x04C
  | _ => 0x044

/-- A host command on page `k`, written as `i`: dropped, queued, or served; `f` is its effect where the page's commands
act. -/
def regCmdF (i : Instr) (k : PageKind) (f : State → State) (s : State) : State :=
  match pageAt s.core.part k.no with
  | none => s.onCore (fun c => c.unmapped .pcie k.no (regOff i) true)
  | some _ =>
    match s.core.route k with
    | .none => s
    | .queue => s.onCore (fun c => c.post k.chip i)
    | .serve =>
      let s := s.onCore (fun c => c.lockAccess k 0)
      if s.core.acts k then f s else s

/-- The command of a host register write whose effect lies in the core. -/
def regCmd (i : Instr) (k : PageKind) (f : Core → Core) (s : State) : Host.Outcome State Fault Refusal :=
  .next (s.live (regCmdF i k (State.onCore f)))

/-- The same for an effect on the collector. -/
def regCmdS (i : Instr) (k : PageKind) (f : State → State) (s : State) : Host.Outcome State Fault Refusal :=
  .next (s.live (regCmdF i k f))

end Sys2Proof.Machine
end

