-- ==== Sys2Proof/Machine/Chan.lean ====
section
/-! DEFINITION. Machine/Chan.lean: the channeliser on the device's state: delay evaluation, history, spectra, zoom
outputs, requantisation, staging, and IO-die SRAM errors (R81 to R96, R107 to R112, R423, R459). -/

namespace Sys2Proof.Machine

/-! ### Layouts of IO-die SRAM -/

/-- The coarse channels with history: used or named by a zoom band (R97). -/
def Plan.histL (p : Plan) : List Nat :=
  (List.range 128).filter (fun c => p.coarse.testBit c || p.zooms.any (fun z => z.src == c))
def Plan.K (p : Plan) : Nat := p.histL.length
/-- Delayed positions held per stream, and the bytes of a stream (R82, R459). -/
def Plan.H (p : Plan) : Nat := 7 * p.P + 32
def Plan.Er (p : Plan) : Nat := 2 * p.H
/-- The first byte of the stream of rank `r` and coarse channel `c` (R459). -/
def Plan.histAddr (p : Plan) (r c : Nat) : Nat := (r * p.K + p.histL.findIdx (· == c)) * p.Er
/-- The first byte of the zoom part. -/
def Plan.zoomPart (p : Plan) : Nat := 16 * cdiv (p.nIn * p.K * p.Er) 16
def Zoom.Ez (z : Zoom) : Nat := 14 * z.Pz + presetState z.preset
/-- The first byte of the zoom stream of band `b` and rank `r`. -/
def Plan.zoomAddr (p : Plan) (b r : Nat) : Nat :=
  p.zoomPart + sumL ((p.zooms.take b).map (fun z => p.nIn * z.Ez)) + r * (nth {} p.zooms b).Ez
def gainBase : Nat := 0x0A000000
def rqsatBase : Nat := 0x0D800000
def calBase : Nat := 0x0DB00000
def elasticBase : Nat := 0x0C000000
/-- The gain entry of rank `r` and channel `ch` (R86). -/
def Plan.gainIdx (p : Plan) (r ch : Nat) : Nat := r * p.nCh + ch
def Core.gain (c : Core) (e : Nat) : Nat := leNat (c.io.read (gainBase + 4 * e) 4)
def Core.setGain (c : Core) (e g : Nat) : Core := c.ioPut (gainBase + 4 * e) (leBytes 4 g)

/-- The plan uses input `i` of coarse channel `ch` (R69). -/
def Plan.usesStream (p : Plan) (i ch : Nat) : Bool := p.uses i && p.histL.elem ch

def Core.stream (c : Core) (i ch : Nat) : StreamS := SMap.get (fun _ => {}) c.chan.streams (i * 128 + ch)
def Core.setStream (c : Core) (i ch : Nat) (x : StreamS) : Core :=
  { c with chan := { c.chan with streams := SMap.set (fun _ => {}) c.chan.streams (i * 128 + ch) x } }
def Core.zstream (c : Core) (b i : Nat) : ZoomS := SMap.get (fun _ => {}) c.chan.zooms (b * 4096 + i)
def Core.setZstream (c : Core) (b i : Nat) (x : ZoomS) : Core :=
  { c with chan := { c.chan with zooms := SMap.set (fun _ => {}) c.chan.zooms (b * 4096 + i) x } }

/-! ### Delay (R80, R81) -/

/-- EVAL_BLOCK of R80: the greatest of the slices. -/
def Core.evalBlock (c : Core) : Nat := maxL (c.chan.evalBlk.map (·.getD 0))

/-- The segments of an input at block `b`: those reached become active in turn. -/
def DelayS.reach (d : DelayS) (b : Nat) : DelayS :=
  let got := d.pending.filter (fun g => decide (g.act ≤ b))
  match got.getLast? with
  | some g => { d with active := some g, pending := d.pending.filter (fun g => decide (b < g.act)), expRaised := false,
                       rangeRaised := false }
  | none => d

/-- The shared evaluation of input `i` at block `b`, once per input and block (R81). -/
def Core.delayEval (c : Core) (i b : Nat) : Core :=
  let d := (c.delay i).reach b
  if (d.eval.map Eval.blk) = some b then c
  else
    let e := match d.active with
      | some g => g.eval b
      | none => { blk := b }
    let c := c.setDelay i { d with eval := some e, expRaised := d.expRaised || e.expired,
                                   rangeRaised := d.rangeRaised || e.bad }
    let c := if e.expired then c.inc (.fst 0) 0x088 else c
    let c := if e.expired && !d.expRaised then (c.raise (.fst 0) 2).report (.fst 0) 0x22 c.clsDN 0 else c
    let c := if e.bad then c.inc (.fst 0) 0x084 else c
    if e.bad && !d.rangeRaised then (c.raise (.fst 0) 1).report (.fst 0) 0x21 clsN 0 else c

/-- The evaluation of an input. -/
def Core.evalOf (c : Core) (i : Nat) : Eval := (c.delay i).eval.getD {}

/-! ### IO-die SRAM errors (R423, R459) -/

/-- One element of a list replaced. -/
def setAt {α : Type} (l : List α) (i : Nat) (f : α → α) : List α := (l.zip (List.range l.length)).map (fun e =>
  if e.2 = i then f e.1 else e.1)

/-- The delayed position at an even byte of the regular part becomes 0 with vd = 0. -/
def Core.killPos (c : Core) (p : Plan) (b : Nat) : Core :=
  let st := b / p.Er
  let i := nth 0 p.ranks (st / p.K)
  let ch := nth 0 p.histL (st % p.K)
  let s := c.stream i ch
  let idx := (s.next + p.H * p.P - 1 - b % p.Er / 2) % p.H
  (c.ioPut b [0, 0]).setStream i ch { s with vd := setAt s.vd idx (fun _ => false) }

/-- The zoom output or the state at a byte of the zoom part. -/
def Core.killZoom (c : Core) (p : Plan) (b : Nat) : Core :=
  let hit := (List.range p.zooms.length).find? (fun z =>
    decide (p.zoomAddr z 0 ≤ b ∧ b < p.zoomAddr z 0 + p.nIn * (nth {} p.zooms z).Ez))
  match hit with
  | none => c
  | some z =>
    let zb := nth {} p.zooms z
    let r := (b - p.zoomAddr z 0) / zb.Ez
    let o := (b - p.zoomAddr z 0) % zb.Ez
    let i := nth 0 p.ranks r
    let s := c.zstream z i
    if o < 14 * zb.Pz then
      let idx := (s.next + 7 * zb.Pz * 8 - 1 - o / 2) % (7 * zb.Pz)
      (c.ioPut b [0, 0]).setZstream z i { s with zh := setAt s.zh idx (fun _ => {}) }
    else c.setZstream z i { s with lost := true }

/-- The even bytes of the word that holds a byte. -/
def wordBytes (a : Nat) : List Nat := ([0, 2, 4, 6, 8, 10, 12, 14] : List Nat).map (fun x => a / 16 * 16 + x)

/-- A correctable word was read: reported at most once per second (R423). -/
def Core.sramCe (c : Core) : Core :=
  let due := match c.chan.ceAt with
    | some t => decide (t + 1000000000 ≤ c.ltb)
    | none => true
  if due then { c with chan := { c.chan with ceAt := some c.ltb } }.report (.fst 0) 0xA0 clsN 0 else c

/-- An uncorrectable word was read by the stream of group `g`, coarse channel `ch`: what it held is lost (R423). -/
def Core.sramUe (c : Core) (p : Plan) (a : Nat) : Core :=
  let c := c.report (.fst 0) 0xA1 clsD (a / 16 * 16)
  if a < p.zoomPart then
    (wordBytes a).foldl (fun c b => if b < p.nIn * p.K * p.Er then c.killPos p b else c) c
  else if a < gainBase then (wordBytes a).foldl (fun c b => c.killZoom p b) c
  else if a < 0x0C000000 then c
  else c.ioPut (a / 16 * 16) (List.replicate 16 0)

/-- The gain entries of the words in error. -/
def gainBadOf (ue : List Nat) : List Nat :=
  (ue.filter (fun a => decide (gainBase ≤ a ∧ a < 0x0C000000))).flatMap (fun a =>
    ([0, 1, 2, 3] : List Nat).map (fun x => (a - gainBase) / 16 * 4 + x))

/-- The IO-die SRAM ranges that a due packet reads: the lane's slots, the histories, gains and counters of its inputs,
and the calibration buffer. -/
def Plan.dueReads (p : Plan) (lane g ch : Nat) : List (Nat × Nat) :=
  let ins := ((List.range 16).map (fun i => 16 * g + i)).filter (fun i => p.usesStream i ch)
  let chans : List (Nat × Nat) := (if p.coarse.testBit ch then [(p.coarseL.findIdx (· == ch) * p.P, p.P)] else []) ++
    (List.range p.zooms.length).filterMap (fun z =>
      if (nth {} p.zooms z).src = ch then some (p.zoomBase z, (nth {} p.zooms z).Pz) else none)
  (elasticBase + lane * 0x10000, 0x10000) :: (calBase, 3 * 2 ^ 20) :: ins.flatMap (fun i =>
    let r := p.rank i
    (p.histAddr r ch, p.Er) :: (rqsatBase + 4 * (i * 128 + ch), 4) ::
    chans.map (fun e => (gainBase + 4 * p.gainIdx r e.1, 4 * e.2)) ++
    (List.range p.zooms.length).filterMap (fun z =>
      if (nth {} p.zooms z).src = ch then some (p.zoomAddr z r, (nth {} p.zooms z).Ez) else none))

/-- Words among those read. -/
def inReads (rs : List (Nat × Nat)) (a : Nat) : Bool :=
  rs.any (fun e => decide (e.1 < a / 16 * 16 + 16 ∧ a / 16 * 16 < e.1 + e.2))

/-! ### Output of a spectrum -/

/-- A staged sample written (R110, R111). -/
def Core.stage (c : Core) (p : Plan) (ch w t r : Nat) (bs : List Byte) : Core :=
  let nd := c.part.dies
  let d := ownerOf nd ch
  let a := p.stageAddr nd d (localK nd ch) w t r
  (c.hbmPut d a bs).modStack (stackOf d a) (fun s => { s with err := SMap.erase s.err (a / 16) })

/-- The word of an invalid sample or of padding (R111). -/
def invalidWord : List Byte := [0x80, 0x00]

/-- R101: a calibration sum gains a sample. -/
def Core.calAdd (c : Core) (p : Plan) (e blk : Nat) (y : Int × Int) : Core :=
  match c.chan.cal with
  | some k =>
    if e / 2 ^ 18 = k.pass ∧ k.start ≤ blk ∧ blk < k.start + 2 ^ 20 * p.P / 256 then
      let a := calBase + 12 * (e % 2 ^ 18)
      let s := leNat (c.io.read a 8) + (y.1 * y.1 + y.2 * y.2).toNat
      let n := leNat (c.io.read (a + 8) 4) + 1
      c.ioPut a (leBytes 8 s ++ leBytes 4 n)
    else c
  | none => c

/-- What a spectrum belongs to: its input rank, input, slice, coarse channel, first channel, window and row. -/
structure SpecAt where
  r : Nat
  i : Nat
  coarse : Nat
  first : Nat
  w : Nat
  t : Nat
  blk : Nat

/-- Rotation, requantisation, counters and staging of a spectrum (R85 to R88, R101, R107 to R111). -/
def Core.specOut (c : Core) (p : Plan) (q : SpecAt) (xs : List (Int × Int)) (theta : Nat → Nat) (valid : Bool) : Core :=
  let k : PageKind := .fst (q.coarse % 8)
  (List.range xs.length).foldl (fun c f =>
    let (y, rs) := rotate (nth (0, 0) xs f) (theta f)
    let e := p.gainIdx q.r (q.first + f)
    let (o, sat) := requant y (c.gain e) p.rq
    let c := c.inc k 0x074 rs
    let c := if valid && sat then
        (let a := rqsatBase + 4 * (q.i * 128 + q.coarse)
         (c.inc k 0x078).ioPut a (leBytes 4 (satInc (word (leNat (c.io.read a 4)))).toNat))
      else c
    let c := if valid then c.calAdd p e q.blk y else c
    let c := c.stage p (q.first + f) q.w q.t q.r
      (if valid then leBytes 1 (ofInt 8 o.1) ++ leBytes 1 (ofInt 8 o.2) else invalidWord)
    if q.r + 1 = p.nIn then
      (List.range (p.nPad - p.nIn)).foldl (fun c x => c.stage p (q.first + f) q.w q.t (p.nIn + x) invalidWord) c
    else c) c

/-! ### A stream at its due time -/

/-- Read the delayed positions from `m` on, `n` of them, with their valid bits; `m` lies among the held ones. -/
def Core.histRead (c : Core) (p : Plan) (r ch : Nat) (vd : List Bool) (m n : Nat) : List Samp :=
  let base := p.histAddr r ch
  (List.range n).map (fun x =>
    let a := base + 2 * ((m + x) % p.H)
    let b := c.io.read a 2
    { re := sleAt b 0 1, im := sleAt b 1 1, v := nth false vd (n - 1 - x) })

/-- Write delayed positions from `m` on: the last H of them, each at its place (R459). -/
def Core.histWrite (c : Core) (p : Plan) (r ch m : Nat) (xs : List Samp) : Core :=
  let base := p.histAddr r ch
  let skip := xs.length - p.H
  let ys := xs.drop skip
  let at_ := (m + skip) % p.H
  let bytes (l : List Samp) : List Byte := l.flatMap (fun x => leBytes 1 (ofInt 8 x.re) ++ leBytes 1 (ofInt 8 x.im))
  let fst := ys.take (p.H - at_)
  let c := c.ioPut (base + 2 * at_) (bytes fst)
  if fst.length = ys.length then c else c.ioPut base (bytes (ys.drop fst.length))

/-- The regular spectra of block `blk` (R83, R85, R90). -/
def Core.regular (c : Core) (p : Plan) (i ch blk : Nat) (e : Eval) (win : List Samp) (bad : List Nat) : Core :=
  let r := p.rank i
  let first := p.coarseL.findIdx (· == ch) * p.P
  let n1 := blk * 256 / p.P
  let gainOk := !(List.range p.P).any (fun f => bad.elem (p.gainIdx r (first + f)))
  (List.range (256 / p.P)).foldl (fun c x =>
    let n := n1 + x
    let w8 := (win.drop (x * p.P)).take (8 * p.P)
    let (xs, k) := spectrum p.pLog p.h p.pfb p.fft w8
    let valid := decide (p.n0 + 7 ≤ n) && w8.all (·.v) && !e.bad && !e.expired && gainOk
    let q : SpecAt := ⟨r, i, ch, first, (n - p.n0) / p.L, (n - p.n0) % p.L, blk⟩
    (c.inc (.fst (ch % 8)) 0x070 k).specOut p q xs (fun f => thetaReg (nth 0 p.fc ch) e f p.pLog) valid) c

/-- The filter coefficients of a zoom band: H[q], free past the 8P that PLAN carries (R94; DESIGN CHOICE, notes/assumptions/24.md). -/
def Plan.zoomH (p : Plan) (z : Zoom) : List Int :=
  p.h ++ ((List.range (8 * z.Pz)).drop p.h.length).map Config.freeCoef

/-- The zoom outputs and spectra of block `blk` (R93, R94, R96, R459). -/
def Core.zoomDue (c : Core) (p : Plan) (b i blk : Nat) (e : Eval) (pos : List Samp) (bad : List Nat) : Core :=
  let z := nth {} p.zooms b
  let r := p.rank i
  let q0 := blk * 256 - p.start
  let (s, k) := (pos.zip (List.range 256)).foldl (fun (a : ZoomS × Nat) x =>
    let (s, k) := ZoomS.push z a.1 (q0 + x.2) x.1
    (s, a.2 + k)) (c.zstream b i, 0)
  let j0 := q0 / z.D
  let n := 256 / z.D
  let s := { s with next := j0 + n }
  let c := (c.inc (.zoom z.fe) 0x044 k).setZstream b i s
  let base := p.zoomAddr b r
  let c := ((s.zh.take n).reverse.zip (List.range n)).foldl (fun c x =>
    c.ioPut (base + 2 * ((j0 + x.2) % (7 * z.Pz))) (leBytes 1 (ofInt 8 x.1.re) ++ leBytes 1 (ofInt 8 x.1.im))) c
  let first := p.zoomBase b
  let gainOk := !(List.range z.Pz).any (fun f => bad.elem (p.gainIdx r (first + f)))
  (List.range n).foldl (fun c x =>
    let j := j0 + x
    if (j + 1) % z.Pz ≠ 0 then c
    else
      let nz := (j + 1) / z.Pz - 1
      let got := (s.zh.drop (n - 1 - x)).take (8 * z.Pz)
      let w8 := (got ++ List.replicate (8 * z.Pz - got.length) ({} : Samp)).reverse
      let (xs, k) := spectrum z.pzLog (p.zoomH z) p.pfb p.fft w8
      let valid := decide (z.unsettled ≤ nz) && w8.all (·.v) && gainOk
      let lz := p.rows first
      let q : SpecAt := ⟨r, i, z.src, first, nz / lz, nz % lz, blk⟩
      (c.inc (.fst (z.src % 8)) 0x070 k).specOut p q xs (fun f => thetaZoom (nth 0 p.fc z.src) z e f) valid) c

/-- One input of a due packet: its 256 source samples through history, filter bank and zoom path. -/
def Core.streamDue (c : Core) (p : Plan) (i ch blk : Nat) (src : List Samp) (bad : List Nat) : Core :=
  let c := c.delayEval i blk
  let e := c.evalOf i
  let s := c.stream i ch
  let r := p.rank i
  let prev := s.tail.reverse
  let all := List.replicate (32 - prev.length) ({} : Samp) ++ prev ++ src
  let pos := delayed all e
  let hist := c.histRead p r ch s.vd (blk * 256 + p.H - 7 * p.P) (7 * p.P)
  let c := c.histWrite p r ch (blk * 256) pos
  let c := c.setStream i ch { next := blk * 256 + 256, tail := (src.reverse).take 32,
                              vd := ((pos.map (·.v)).reverse ++ s.vd).take p.H }
  let c := if p.coarse.testBit ch then c.regular p i ch blk e (hist ++ pos) bad else c
  (List.range p.zooms.length).foldl (fun c b =>
    if (nth {} p.zooms b).src = ch then c.zoomDue p b i blk e pos bad else c) c

end Sys2Proof.Machine
end

