-- ==== Sys2Proof/Machine/Float.lean ====
section
/-! DEFINITION. Machine/Float.lean: binary32 and binary64 by exact integers, and stochastic rounding
(R7, R102, R148, R192, R194, R195, R207). A float is held as its bit pattern; an exact real value is
`num * 2^exp`. -/

namespace Sys2Proof.Machine

/-- An exact value `num * 2^exp`. -/
structure Exact where
  num : Int
  exp : Int
deriving DecidableEq, Repr

/-- An integer as an exact value. -/
def Exact.ofInt (x : Int) : Exact := ⟨x, 0⟩

/-- The numerator at a smaller exponent. -/
def Exact.at (a : Exact) (e : Int) : Int := a.num * 2 ^ (a.exp - e).toNat

/-- Exact sum. -/
def Exact.add (a b : Exact) : Exact :=
  let e := min a.exp b.exp
  ⟨a.at e + b.at e, e⟩

/-- Exact product. -/
def Exact.mul (a b : Exact) : Exact := ⟨a.num * b.num, a.exp + b.exp⟩

/-- Exact difference. -/
def Exact.sub (a b : Exact) : Exact := a.add ⟨-b.num, b.exp⟩

/-- Exact comparison `a < b` (R203). -/
def Exact.lt (a b : Exact) : Bool :=
  let e := min a.exp b.exp
  decide (a.at e < b.at e)

/-- `a <= b`. -/
def Exact.le (a b : Exact) : Bool := !(b.lt a)

/-- `floor(log2(num * 2^exp))` of a positive numerator. -/
def floorLog2 (num : Nat) (exp : Int) : Int := (Nat.log2 num : Int) + exp

/-- `floor(num * 2^exp / 2^k)`. -/
def scaleFloor (num : Nat) (exp k : Int) : Nat :=
  if k ≤ exp then num <<< (exp - k).toNat else num >>> (k - exp).toNat

/-- R192: mix64, unsigned 64-bit. -/
def mix64 (z0 : DWord) : DWord :=
  let z := z0 + 0x6A3D91C4E72B0F55
  let z := (z ^^^ (z >>> 29)) * 0xC2B53E9D4F18A6E7
  let z := (z ^^^ (z >>> 32)) * 0x9F4A7C15D3E2B861
  z ^^^ (z >>> 27)

/-- R192: the random word of an accumulator, the top 32 bits of mix64(SEED ^ ((addr << 24) | step)). -/
def mixTop (seed : DWord) (addr step : Nat) : Nat :=
  ((mix64 (seed ^^^ BitVec.ofNat 64 ((addr * 2 ^ 24) ||| step))) >>> 32).toNat

/-- FLT_MAX = (2 - 2^-23) * 2^127 as an exact value (R194). -/
def fltMax : Exact := ⟨2 ^ 24 - 1, 104⟩

/-- The bit pattern of FLT_MAX. -/
def fltMaxBits : Nat := 0x7F7FFFFF

/-- The sign bit of an exact value at bit `n`. -/
def signBit (v : Exact) (n : Nat) : Nat := if v.num < 0 then 2 ^ n else 0

/-- Magnitude pattern of `lo * 2^(e-23)`, `lo <= 2^24`, `e >= -126`. -/
def f32Pack (lo : Nat) (e : Int) : Nat := (e + 126).toNat * 2 ^ 23 + lo

/-- R194: stochastic rounding to float32. The pair is the pattern and the OVF flag; a negative value that rounds to zero gives
+0.0, as R194's text says of its result. -/
def srBits (seed : DWord) (v : Exact) (addr step : Nat) : Nat × Bool :=
  let a := v.num.natAbs
  if a = 0 then (0, false)
  else if fltMax.lt ⟨a, v.exp⟩ then (signBit v 31 + fltMaxBits, true)
  else
    let e := max (floorLog2 a v.exp) (-126)
    let lo := scaleFloor a v.exp (e - 23)
    let f := scaleFloor a v.exp (e - 55) - lo * 2 ^ 32
    let lo' := if mixTop seed addr step < f then lo + 1 else lo
    (if lo' = 0 then 0 else signBit v 31 + f32Pack lo' e, false)

/-- R195: rne32, round to nearest with halves to even, saturating at FLT_MAX with OVF. -/
def rne32Bits (v : Exact) : Nat × Bool :=
  let a := v.num.natAbs
  if a = 0 then (0, false)
  else if fltMax.lt ⟨a, v.exp⟩ then (signBit v 31 + fltMaxBits, true)
  else
    let e := max (floorLog2 a v.exp) (-126)
    let lo := scaleFloor a v.exp (e - 23)
    let half : Exact := ⟨2 * lo + 1, e - 24⟩
    let x : Exact := ⟨a, v.exp⟩
    let lo' := if half.lt x ∨ (x.lt half = false ∧ lo % 2 = 1) then lo + 1 else lo
    let m := f32Pack lo' e
    if lo' = 0 then (0, false)
    else if m ≤ fltMaxBits then (signBit v 31 + m, false) else (signBit v 31 + fltMaxBits, true)

/-- The exact value of a finite float32 pattern. -/
def f32Exact (w : Nat) : Exact :=
  let b := bits w 30 23
  let m := bits w 22 0
  let s : Int := if bit w 31 then -1 else 1
  if b = 0 then ⟨s * m, -149⟩ else ⟨s * (m + 2 ^ 23 : Nat), (b : Int) - 150⟩

/-- R195: the biased exponent of |S|, bits [30:23]. -/
def f32Biased (w : Nat) : Nat := bits w 30 23

/-- A pattern is a NaN. -/
def f64IsNan (w : Nat) : Bool := decide (bits w 62 52 = 2047 ∧ bits w 51 0 ≠ 0)

/-- The exact value of a float64 pattern. An infinity stands as a value beyond the range of every operation, so that
comparisons, float64 sums and saturation (R194) give what an infinity gives (DEDUCED, notes/assumptions/102.md); the value of a
NaN in the exact difference of R204 is not stated: a free value (DESIGN CHOICE, notes/assumptions/18.md). -/
def f64Exact (w : Nat) : Exact :=
  let b := bits w 62 52
  let m := bits w 51 0
  let s : Int := if bit w 63 then -1 else 1
  if b = 2047 then (if m = 0 then ⟨s, 5000⟩ else ⟨Config.freeNonFinite w, 0⟩)
  else if b = 0 then ⟨s * m, -1074⟩ else ⟨s * (m + 2 ^ 52 : Nat), (b : Int) - 1075⟩

/-- Round `num / den * 2^exp` (positive) to a float64 magnitude pattern, nearest with halves to even. -/
def f64Mag (num den : Nat) (exp : Int) : Nat :=
  if num = 0 then 0
  else
    let e0 := (Nat.log2 num : Int) - (Nat.log2 den : Int)
    let up := if 0 ≤ e0 then decide (num < den * 2 ^ e0.toNat) else decide (num * 2 ^ (-e0).toNat < den)
    let e := max ((if up then e0 - 1 else e0) + exp) (-1022)
    let k := exp - (e - 52)
    let q := if 0 ≤ k then rneDiv (num * 2 ^ k.toNat : Nat) den else rneDiv (num : Nat) (den * 2 ^ (-k).toNat)
    let m := (e + 1022).toNat * 2 ^ 52 + q.toNat
    if m < 0x7FF0000000000000 then m else 0x7FF0000000000000

/-- An exact value rounded to float64. -/
def f64OfExact (v : Exact) : Nat := signBit v 63 + f64Mag v.num.natAbs 1 v.exp

/-- The quiet NaN that an operation on the NaN `w` gives; IEEE 754 leaves its payload open: a free value. DESIGN CHOICE,
notes/assumptions/18.md -/
def f64Quiet (w : Nat) : Nat := 0x7FF8000000000000 + (Config.freeNonFinite w).natAbs % 2 ^ 51

/-- float64 addition. -/
def f64Add (a b : Nat) : Nat :=
  if f64IsNan a then f64Quiet a else if f64IsNan b then f64Quiet b else f64OfExact ((f64Exact a).add (f64Exact b))

/-- float64 `a <= b`; false where either is a NaN. -/
def f64Le (a b : Nat) : Bool := !f64IsNan a && !f64IsNan b && (f64Exact a).le (f64Exact b)

/-- float64 subtraction. -/
def f64Sub (a b : Nat) : Nat := f64OfExact ((f64Exact a).sub (f64Exact b))

/-- float64 multiplication. -/
def f64Mul (a b : Nat) : Nat := f64OfExact ((f64Exact a).mul (f64Exact b))

/-- float64 division by a non-zero value. -/
def f64Div (a b : Nat) : Nat :=
  let x := f64Exact a
  let y := f64Exact b
  let neg := (x.num < 0) != (y.num < 0)
  (if neg ∧ x.num ≠ 0 then 2 ^ 63 else 0) + f64Mag x.num.natAbs y.num.natAbs (x.exp - y.exp)

/-- Integer square root by bits, from bit `n - 1` down. -/
def isqrtGo : Nat → Nat → Nat → Nat
  | 0, _, r => r
  | n + 1, x, r =>
    let t := r + 2 ^ n
    isqrtGo n x (if t * t ≤ x then t else r)

/-- `floor(sqrt x)`. -/
def isqrt (x : Nat) : Nat := isqrtGo (Nat.log2 x / 2 + 1) x 0

/-- float64 square root of a non-negative value: 64 fraction bits and a sticky bit, then one rounding. -/
def f64Sqrt (a : Nat) : Nat :=
  let x := f64Exact a
  let odd := x.exp % 2 = 1
  let n := (if odd then 2 * x.num.natAbs else x.num.natAbs) * 2 ^ 256
  let e := ((if odd then x.exp - 1 else x.exp) - 256) / 2
  let q := isqrt n
  f64Mag (2 * q + (if q * q = n then 0 else 1)) 1 (e - 1)

/-- float64 of a natural number. -/
def f64OfNat (n : Nat) : Nat := f64Mag n 1 0

/-- float64 of a float32 pattern; exact. -/
def f64OfF32 (w : Nat) : Nat := f64OfExact (f32Exact w)

/-- The nearest integer of a float64, halves to even (rne_int of R102). -/
def f64ToInt (a : Nat) : Int :=
  let x := f64Exact a
  if 0 ≤ x.exp then x.num * 2 ^ x.exp.toNat else rneDiv x.num (2 ^ (-x.exp).toNat)

/-- NaN64 of R207. -/
def nan64 : Nat := 0x7FF8000000000000

/-- A float64 strictly below zero. -/
def f64Neg (a : Nat) : Bool := decide ((f64Exact a).num < 0)

/-- R148: qconv, the conversion of an exact integer to float32 for format Q; the same rule as `srBits`. -/
def qconv (seed : DWord) (x : Int) (addr step : Nat) : Nat := (srBits seed (Exact.ofInt x) addr step).1

end Sys2Proof.Machine
end

