-- ==== Sys2Proof/Machine/Fst.lean ====
section
/-! DEFINITION. Machine/Fst.lean: gains, calibration and the commands of pages FSTs and ZOOMz (R86 to R104). -/

namespace Sys2Proof.Machine

/-! ### Gain steps (R98 to R100) -/

/-- Write gain entries of (input, channel, gain) in order; each counts on its slice (R99). -/
def Core.gainWrites (c : Core) (p : Plan) (es : List (Nat × Nat × Nat)) : Core :=
  es.foldl (fun (c : Core) (e : Nat × Nat × Nat) =>
    (c.setGain (p.gainIdx (p.rank e.1) e.2.1) e.2.2).inc (.fst ((p.info e.2.1).c % 8)) 0x08C) c

/-- GSTEP_DONE on FST0 and on the slices that applied an entry. DEDUCED, notes/assumptions/27.md -/
def Core.gstepDone (c : Core) (p : Plan) (chans : List Nat) : Core :=
  (List.range 8).foldl (fun c s =>
    if s = 0 ∨ chans.any (fun ch => (p.info ch).c % 8 == s) then c.raise (.fst s) 3 else c) c

/-- GAIN_STEP_APPLY: every list for window `w`, in arrival order (R99). -/
def Core.gainApply (c : Core) (p : Plan) (w : Nat) : Core :=
  let due := c.chan.gsteps.filter (fun g => g.win == w)
  if due.isEmpty then c
  else
    let es : List (Nat × Nat × Nat) := due.flatMap GStep.entries
    let c := c.gainWrites p es
    ({ c with chan := { c.chan with gsteps := c.chan.gsteps.filter (fun g => g.win != w),
                                    gstepWins := w :: c.chan.gstepWins } }).gstepDone p (es.map (fun (e : Nat × Nat × Nat) => e.2.1))

/-- GAIN_STEP_DISCARD: lists whose window was not reached (R100). -/
def Core.gainDiscard (c : Core) : Core :=
  let n := sumL (c.chan.gsteps.map (fun g => g.entries.length))
  if c.chan.gsteps.isEmpty then c
  else (({ c with chan := { c.chan with gsteps := [] } }).inc (.fst 0) 0x09C n).raise (.fst 0) 4

/-- The block of the first coarse sample of window `w`'s first spectrum, taken as the first of the P samples by which that
spectrum is newer than the one before it (R98; DESIGN CHOICE, notes/assumptions/98.md). -/
def Plan.winBlock (p : Plan) (w : Nat) : Nat := (p.start + w * p.L * p.P) / 256

/-- A fetched gain-step list: the status of R98, and the list where it is accepted. -/
def Core.gainList (c : Core) (w : Nat) (bs : List Byte) : Nat × Core :=
  match c.img with
  | none => (0x0B, c)
  | some i =>
    let p := i.plan
    let es := (List.range (bs.length / 8)).map (fun k =>
      let v := leAt bs (8 * k) 8
      (bits v 11 0, bits v 26 12, bits v 63 32))
    let room := decide (c.chan.gsteps.length < 4 ∧
      sumL (c.chan.gsteps.map (fun g => g.entries.length)) + es.length ≤ 65536)
    let refuse (st : Nat) : Nat × Core := (st, (c.raise (.fst 0) 4).report (.fst 0) 0x23 clsN 0)
    if c.running = false ∧ c.starting = false then refuse 0x0B
    else if es.any (fun e => !p.uses e.1 || decide (p.nCh ≤ e.2.1)) then refuse 0x05
    else if room = false ∨ c.chan.cal.isSome then refuse 0x02
    else if p.winBlock w ≤ c.evalBlock + 1 then refuse 0x03
    else (0x00, { c with chan := { c.chan with gsteps := c.chan.gsteps ++ [⟨w, es⟩] } })

/-! ### Delay segments (R80) -/

/-- SEG_REJECT with the given status. -/
def Core.segReject (c : Core) (st : Nat) : Nat × Core :=
  (st, ((c.inc (.fst 0) 0x080).raise (.fst 0) 0).report (.fst 0) 0x20 clsN 0)

/-- A delay segment: its completion status and its effect (Table 4.3). -/
def Core.segment (c : Core) (bs : List Byte) : Nat × Core :=
  let i := leAt bs 0 2
  let act := leAt bs 8 8
  let b := act / 256
  let d := c.delay i
  let used := match c.img with
    | some im => decide (i < 4096) && im.plan.uses i
    | none => false
  let g : Seg := { ba := b, act := b, a0 := sleAt bs 16 8, a1 := sleAt bs 24 8, a2 := sleAt bs 32 8, a3 := sleAt bs 40 8 }
  let queue (g : Seg) : Core :=
    (c.setDelay i { d with pending := d.pending ++ [g], lastBa := some b }).inc (.fst 0) 0x07C
  if used = false ∨ act % 256 ≠ 0 then c.segReject 0x05
  else if (match d.lastBa with | some x => decide (b ≤ x) | none => false) then c.segReject 0x06
  else if 3 ≤ d.pending.length then c.segReject 0x02
  else if b ≤ c.evalBlock + 1 then
    (if (c.rd (.fst 0) 0x044).testBit 0 then (0x04, queue { g with act := c.evalBlock + 2 }) else c.segReject 0x03)
  else (0x00, queue g)

/-- Delay segments are discarded (R100). -/
def Core.segDiscard (c : Core) : Core := { c with chan := { c.chan with delays := [] } }

/-! ### Calibration (R101, R102) -/

/-- Clear the calibration buffer for a pass. -/
def Core.calClear (c : Core) : Core :=
  { c with io := { c.io with calbuf := { fill := .zero, cells := [] } } }

/-- CAL_START. -/
def doCalStart (c : Core) : Core :=
  match c.img with
  | some i =>
    if c.power.mode = .calibrate ∧ c.chan.cal = none then
      { c.calClear with chan := { c.chan with cal := some { passes := cdiv (i.plan.nIn * i.plan.nCh) (2 ^ 18),
                                                            start := max (c.evalBlock + 1) i.plan.b0 } } }
    else c.pageFlt (.fst 0) 0x04
  | none => c.pageFlt (.fst 0) 0x04

def execCalStart : State → Host.Outcome State Fault Refusal := regCmd .calStart (.fst 0) doCalStart

/-- The calibration ends early (R102). -/
def Core.calEnd (c : Core) : Core :=
  if c.chan.cal.isSome then ({ c with chan := { c.chan with cal := none } }).raise (.fst 0) 6 else c

/-- CAL_ABORT. -/
def doCalAbort (c : Core) : Core := c.calEnd

def execCalAbort : State → Host.Outcome State Fault Refusal :=
  regCmd .calAbort (.fst 0) doCalAbort

/-- float64 of an integer, and |G| of a gain. -/
def f64OfInt (x : Int) : Nat := f64OfExact (Exact.ofInt x)
def gainAbs (re im : Int) : Nat := f64Sqrt (f64Add (f64OfInt (re * re)) (f64OfInt (im * im)))

/-- A part of the new gain: its value, and true where it saturated. -/
def gainPart (old : Int) (t rout : Nat) : Int × Bool :=
  let x := f64ToInt (f64Div (f64Mul (f64OfInt old) t) rout)
  (sat x (-32768) 32767, decide (x < -32768 ∨ 32767 < x))

/-- The sum and the count that the buffer holds of the `x`-th entry of a pass (R101). -/
def Core.calSum (c : Core) (x : Nat) : Nat × Nat :=
  let a := calBase + 12 * x
  (leNat (c.io.read a 8), leNat (c.io.read (a + 8) 4))

/-- The new gain of entry `e` from its sum `s` and count `n` (R102). -/
def Core.calEntry (c : Core) (rq : Nat) (k : CalS) (e s n : Nat) : Core × CalS :=
  let g := c.gain e
  let re := toInt 16 g
  let im := toInt 16 (g / 65536)
  if n < c.rd (.fst 0) 0x05C then (c.inc (.fst 0) 0x098, k)
  else if s = 0 ∨ n = 0 ∨ g = 0 then (c.inc (.fst 0) 0x094, k)
  else
    let rms := f64Sqrt (f64Div (f64OfNat s) (f64Mul (f64OfNat 2) (f64OfNat n)))
    let den := f64OfNat (2 ^ (12 + rq))
    let rout := f64Div (f64Mul rms (gainAbs re im)) den
    let t := f64Div (f64OfNat (c.rd (.fst 0) 0x058 % 65536)) (f64OfNat 256)
    let (nr, sr) := gainPart re t rout
    let (ni, si) := gainPart im t rout
    let err := f64Div (f64Sub (f64Div (f64Mul rms (gainAbs nr ni)) den) t) t
    (if sr || si then c.inc (.fst 0) 0x090 else c,
     { k with newGains := k.newGains ++ [(e, ofInt 16 nr + 65536 * ofInt 16 ni)],
              errSum := f64Add k.errSum (f64Mul err err), errN := k.errN + 1 })

/-- CAL_PASS_END: the sums of the pass are kept; at the end of the last pass the gains of all entries are computed and wait for
the next window boundary (R101, R102). -/
def doCalPassEnd (c : Core) : Core :=
  match c.chan.cal, c.img with
  | some k, some i =>
    if k.ready then c
    else
      let p := i.plan
      let lo := k.pass * 2 ^ 18
      let n := min (2 ^ 18) (p.nIn * p.nCh - lo)
      let k := { k with sums := k.sums ++ (List.range n).map c.calSum }
      if k.pass + 1 < k.passes then
        { c.calClear with chan := { c.chan with cal := some { k with pass := k.pass + 1,
                                                                     start := k.start + 2 ^ 20 * p.P / 256 } } }
      else
        let (c, k) := (k.sums.zip (List.range k.sums.length)).foldl (fun (a : Core × CalS) (e : (Nat × Nat) × Nat) =>
          a.1.calEntry p.rq a.2 e.2 e.1.1 e.1.2) (c, k)
        { c with chan := { c.chan with cal := some { k with ready := true } } }
  | _, _ => c

def execCalPassEnd : State → Host.Outcome State Fault Refusal := act doCalPassEnd

/-- CAL_QUAL: 100 sqrt(mean err²) in units of 0.001 %; a free value where CAL_TARGET is 0, so that err is no number.
DESIGN CHOICE, notes/assumptions/26.md -/
def Core.calQual (c : Core) (k : CalS) : Core :=
  if c.rd (.fst 0) 0x058 % 65536 = 0 then { c.setReg (PageKind.key (.fst 0) 0x060) (Config.freeWord c.free) with
    free := c.free + 1 }
  else if k.errN = 0 then c.wr (.fst 0) 0x060 0
  else c.wr (.fst 0) 0x060 (min (f64ToInt (f64Mul (f64OfNat 100000)
    (f64Sqrt (f64Div k.errSum (f64OfNat k.errN))))).toNat m32)

/-- CAL_GAINS_APPLY at a window boundary: the gains, the GAIN_STEP flag of window `w`, CAL_QUAL and CAL_DONE (R102). Each gain
written counts in CNT_GSTEP_APPLIED of its slice: DESIGN CHOICE, notes/assumptions/83.md -/
def Core.calApply (c : Core) (p : Plan) (w : Nat) : Core :=
  match c.chan.cal with
  | some k =>
    if k.ready then
      let c := k.newGains.foldl (fun c e => (c.setGain e.1 e.2).inc (.fst ((p.info (e.1 % p.nCh)).c % 8)) 0x08C) c
      let c := { c with chan := { c.chan with cal := none, gstepWins := w :: c.chan.gstepWins } }
      ((c.calQual k).gstepDone p (k.newGains.map (fun e => e.1 % p.nCh))).raise (.fst 0) 5
    else c
  | none => c

/-- The boundary of window `w` in the channeliser: the first due packet of its first block, before its first spectrum is
requantised (R99, R102). DEDUCED, notes/assumptions/50.md -/
def Core.winEnter (c : Core) (p : Plan) (w : Nat) : Core :=
  if c.evalBlock < p.winBlock w ∨ c.chan.evalBlk.all (·.isNone) then (c.gainApply p w).calApply p w else c

/-! ### Clear commands -/

/-- RQSAT_CLR (R88). -/
def doRqsatClr (c : Core) : Core := { c with io := { c.io with rqsat := { fill := .zero, cells := [] } } }

def execRqsatClr : State → Host.Outcome State Fault Refusal := regCmd .rqsatClr (.fst 0) doRqsatClr

/-- The counters of a page FSTs (Table 4.7). -/
def fstCounters : List Nat :=
  [0x070, 0x074, 0x078, 0x07C, 0x080, 0x084, 0x088, 0x08C, 0x090, 0x094, 0x098, 0x09C]

/-- FST_CLR_CNT. -/
def doFstClrCnt (s : Fin 8) (c : Core) : Core := c.clear (.fst s) fstCounters

def execFstClrCnt (s : Fin 8) : State → Host.Outcome State Fault Refusal :=
  regCmd (.fstClrCnt s) (.fst s) (doFstClrCnt s)

/-- ZOOM_CLR_CNT. -/
def doZoomClrCnt (z : Fin 2) (c : Core) : Core := c.clear (.zoom z) [0x044]

def execZoomClrCnt (z : Fin 2) : State → Host.Outcome State Fault Refusal :=
  regCmd (.zoomClrCnt z) (.zoom z) (doZoomClrCnt z)

end Sys2Proof.Machine
end

