-- ==== Sys2Proof/Machine/Operands.lean ====
section
/-! DEFINITION. Machine/Operands.lean: the operand fields of Chanter instructions, MOVE descriptors, action descriptors and
HBMS entries, and the addresses and channels they name (R224 to R226, R236, R237, R240). -/

namespace Sys2Proof.Machine

/-! ### Instructions (Table 10.15) -/

/-- The opcode of an instruction. -/
def insOp (i : Nat) : Nat := bits i 63 58

/-- Cycles that an instruction occupies (R235). -/
def insLen (i : Nat) : Nat := if insOp i = 1 then bits i 47 0 else 1

/-- The instruction at a program address. -/
def Prog.at (p : Prog) (pc : Nat) : Option Nat := p.instrs[pc]?

/-- The program of a Chanter: 0 to 3 the X dies, 4 the IO die. -/
def Image.prog (i : Image) (x : Nat) : Prog := nth {} i.progs x

/-! ### Loop levels (R237) -/

/-- The loop index of depth `l`; 0 where it is not open. -/
def loopIdx (ls : List LoopS) (l : Nat) : Nat :=
  match ls[l]? with
  | some x => x.index
  | none => 0

/-- ENDLOOP: the levels afterwards and the next address. -/
def loopEnd (ls : List LoopS) (pc : Nat) : List LoopS × Nat :=
  match ls.getLast? with
  | none => (ls, pc + 1)
  | some x =>
    if x.count = 0 ∨ x.index + 1 < x.count then
      (ls.dropLast ++ [{ x with index := (x.index + 1) % 2 ^ 32 }], x.body)
    else (ls.dropLast, pc + 1)

/-- The Chanter after its instruction `i` has issued: PC, loop levels and SCYC (R235, R237). -/
def ChanterS.advance (t : ChanterS) (i : Nat) : ChanterS :=
  let op := insOp i
  let (ls, pc) :=
    if op = 3 then (t.loops ++ [{ count := bits i 31 0, index := 0, body := t.pc + 1 }], t.pc + 1)
    else if op = 4 then loopEnd t.loops t.pc
    else (t.loops, t.pc + 1)
  { t with loops := ls, pc := pc, scyc := t.scyc + insLen i, last := t.scyc, st := if op = 63 then .halted else t.st }

/-! ### CELLS (R240) -/

/-- The operand values of a CELLS: channel, sub-block, buffer, SLICES. -/
structure CellsOp where
  k : Nat
  s : Nat
  b : Nat
  slices : Bool
deriving DecidableEq, Repr

def cellsOp (i : Nat) (ls : List LoopS) : CellsOp :=
  { k := bits i 13 0 + (if bit i 16 then loopIdx ls (bits i 15 14) else 0),
    s := bits i 22 17 + (if bit i 25 then loopIdx ls (bits i 24 23) else 0),
    b := (bits i 26 26 + (if bit i 29 then loopIdx ls (bits i 28 27) % 2 else 0)) % 2,
    slices := bit i 30 }

/-! ### Descriptors -/

/-- Base plus the signed strides of `n` bytes each at `off`, times the loop indices. -/
def strided (bs : List Byte) (base : Int) (off n : Nat) (ls : List LoopS) : Int :=
  base + sumI (([0, 1, 2, 3] : List Nat).map (fun l => sleAt bs (off + n * l) n * (loopIdx ls l : Int)))

/-- The mover descriptor (Table 10.8) with its addresses at given loop indices; addresses are 64-bit. -/
def mvSrc (bs : List Byte) (ls : List LoopS) : Nat := (strided bs (leAt bs 8 8) 24 4 ls % 2 ^ 64).toNat
def mvDst (bs : List Byte) (ls : List LoopS) : Nat := (strided bs (leAt bs 16 8) 40 4 ls % 2 ^ 64).toNat
def mvLen (bs : List Byte) : Nat := leAt bs 4 4
def mvDeadline (bs : List Byte) : Nat := leAt bs 56 4
def mvUnit (bs : List Byte) : Nat := leAt bs 2 1 % 8
def mvSpaces (bs : List Byte) : Nat := leAt bs 1 1

/-- KIND of a descriptor. -/
def descKind (bs : List Byte) : Nat := leAt bs 0 1

/-- The action descriptor (Table 10.9): channel and first frame (R225), list and deadline. -/
def actTarget (bs : List Byte) : Nat := leAt bs 1 1
def actChan (bs : List Byte) (ls : List LoopS) : Int := strided bs (leAt bs 4 2) 8 2 ls
def actFrame (bs : List Byte) (ls : List LoopS) (winIn : Nat) : Int :=
  strided bs ((leAt bs 16 4 : Int) + leAt bs 20 4 * winIn) 24 4 ls
def actList (bs : List Byte) : Option Nat := let v := leAt bs 40 4; if v = 0xFFFFFFFF then none else some v
def actDeadline (bs : List Byte) : Nat := leAt bs 44 4

/-- MOVE descriptor `n` of die `d`; action descriptor `n` of BEAM. -/
def Image.move (i : Image) (d n : Nat) : Option (List Byte) := (nth [] i.moves d)[n]?

/-- The action descriptor that a DUMP, BEAMQ or REDQ names. -/
def Image.actionOf (i : Image) (d ins : Nat) : Option (List Byte) :=
  let n := bits ins 23 0
  if insOp ins = 10 then i.move d n
  else if insOp ins = 8 ∨ insOp ins = 9 then i.beams.action d n else none

/-- KINDs that an instruction takes (Table 10.15). -/
def kindFor (op kind : Nat) : Bool :=
  op == 5 && kind == 0 || op == 10 && decide (1 ≤ kind ∧ kind ≤ 4) || op == 8 && decide (8 ≤ kind ∧ kind ≤ 10) ||
  op == 9 && decide (12 ≤ kind ∧ kind ≤ 14)

/-- HBMS list `n` of die `d` (R226). -/
def Image.hbmsList (i : Image) (d n : Nat) : Option HbmsList := (nth [] i.hbms d)[n]?
/-- The entries of a list in READ direction. -/
def HbmsList.reads (l : HbmsList) : List HbmsEnt := l.entries.filter (fun e => !e.write)

/-- The address of an HBMS entry at given loop indices, in the entry's space. -/
def HbmsList.addr (l : HbmsList) (e : HbmsEnt) (ls : List LoopS) : Nat :=
  (((e.addr : Int) + sumI (([0, 1, 2, 3] : List Nat).map (fun x => nth 0 l.stride x * (loopIdx ls x : Int)))) % 2 ^ 64).toNat

/-- The die HBM address of an address of space 1, the staging half being read; `sz` is W_SIZE of the die (R224). -/
def Plan.stageIn (p : Plan) (sz d w a : Nat) : Nat := p.region d 0 + (w % 2 * sz + a) % (2 * sz)
def Plan.stagePlace (p : Plan) (nd d w a : Nat) : Nat := p.stageIn (p.wsize nd d) d w a

/-- Sub-block buffer and offset of an address of space 3 (R224). -/
def bufOf (a : Nat) : Nat × Nat := (a / 0x800000 % 2, a % 0x800000)

/-! ### Completion times (R269, R270) -/

/-- The die clock of Chanter `x`: XCLK on the X dies, FCLK on the IO die, as numerator and denominator in Hz. -/
def Image.dieClk (i : Image) (x : Nat) : Nat × Nat := if x = 4 then i.fclk else i.xclk
/-- Die cycles per coarse sample (R269). -/
def Image.dieM (i : Image) (x : Nat) : Nat := if x = 4 then i.hdr.mF else i.hdr.mX
/-- Die cycles per frame (R246). -/
def Image.dieFrame (i : Image) (x : Nat) : Nat := if x = 4 then i.hdr.frameF else i.hdr.frameX

end Sys2Proof.Machine
end

