-- ==== Sys2Proof/Machine/RingOps.lean ====
section
/-! DEFINITION. Machine/RingOps.lean: completions, items and generations of the rings (R364 to R376, R384). -/

namespace Sys2Proof.Machine

/-! ### Status codes (Table 15.8) -/

def stAccepted : Nat := 0x00
def stInvalid : Nat := 0x01
def stBusy : Nat := 0x02
def stLate : Nat := 0x03
def stLateQueued : Nat := 0x04
def stInput : Nat := 0x05
def stOrder : Nat := 0x06
def stInUse : Nat := 0x07
def stFading : Nat := 0x08
def stNotReady : Nat := 0x09
def stAbandoned : Nat := 0x0A
def stMode : Nat := 0x0B
def stRange : Nat := 0x0C
def stRejected : Nat := 0x0D
def stBadOp : Nat := 0x0E
def stHostErr : Nat := 0x0F
def stShort : Nat := 0x10
def stAborted : Nat := 0x11
def stWithdrawn : Nat := 0x12
def stMemErr : Nat := 0x13
def stOrphaned : Nat := 0x14

/-! ### Completions -/

/-- Put bytes on the PCIe link toward the host, where it is up. -/
def Core.hostWrite (c : Core) (a : Nat) (bs : List Byte) : Core := if c.host.linkUp then c.emit (.hostWrite a bs) else c

/-- The 16 B of a completion (Table 15.7). -/
def Compl.bytes (x : Compl) (k : Nat) : List Byte :=
  leBytes 4 x.tag ++ leBytes 1 x.status ++ leBytes 1 (1 - (x.n >>> k) % 2 + 2 * b2n x.orphan) ++
  leBytes 2 (x.ring % 4096) ++ leBytes 4 x.len ++ leBytes 1 x.kind ++ leBytes 1 x.gen ++ leBytes 2 x.detail

/-- Statuses that interrupt regardless of coalescing (R371). -/
def alertStatus (st : Nat) : Bool := st == stAborted || st == stWithdrawn || st == stMemErr || st == stHostErr

/-- Count a completion toward the ring's interrupt (R371). -/
def Core.ringIrq (c : Core) (r : Nat) (alert : Bool) : Core :=
  let x := c.ring r
  let n := x.unsig + 1
  if alert ∨ max x.coalCnt 1 ≤ n then (c.setRing r { x with unsig := 0 }).msix x.vec else c.setRing r { x with unsig := n }

/-- H passes over slots that were completed at the fetch (R374). -/
def RingS.skipDead : Nat → RingS → RingS
  | 0, x => x
  | f + 1, x =>
    match x.descs with
    | d :: ds => if d.dead ∧ d.n = x.head then RingS.skipDead f { x with descs := ds, head := (x.head + 1) % 2 ^ 32 } else x
    | [] => x

/-- H advances by one completed descriptor. -/
def RingS.advance (x : RingS) : RingS := RingS.skipDead 8 { x with head := (x.head + 1) % 2 ^ 32 }

/-- Write a completion into slot n of ring `r`. -/
def Core.writeSlot (c : Core) (r : Nat) (x : Compl) : Core :=
  let g := c.ring r
  (c.hostWrite (g.cbase + 16 * (x.n % 2 ^ g.k)) (x.bytes g.k)).ringIrq r (x.irq || alertStatus x.status)

/-- Write the completion of the descriptor at H. -/
def Core.putCompl (c : Core) (r : Nat) (x : Compl) : Core := (c.writeSlot r x).modRing r RingS.advance

/-- A host read that failed: counted, and a Notice (R367). -/
def Core.hostErr (c : Core) : Core := (c.inc .dmag 0x05C).report .dmag 0x92 clsN 0

/-- Record a diversion to ring 0 (R374, R375). -/
def Core.diverted (c : Core) : Core := (c.modRing 0 (fun x => { x with orphan := true })).raise .ring 0

/-- Divert the completion of a descriptor to ring 0 as a KIND 4 item (R374). -/
def Core.divert (c : Core) (r gen tag status len detail : Nat) : Core :=
  let c := ((c.diverted.inc .ring 0x070).report .ring 0x93 clsN 0)
  let i : Item := { kind := 4, gen := gen, bytes := [], die := 0, orphan := true, from_ := r, status := status,
                    tag := tag, clen := len, detail := detail }
  c.modRing 0 (fun x => { x with items := x.items ++ [i] })

/-- End the command that inbound ring `r` executes, the front one: its completion goes to its own slot, or to ring 0
where the ring's generation changed since it began (R374). -/
def Core.finish (c : Core) (r status : Nat) (len detail : Nat := 0) : Core :=
  let x := c.ring r
  match x.descs with
  | [] => c
  | d :: ds =>
    let c := if status = stHostErr then c.hostErr else c
    match x.stale with
    | some g =>
      (c.setRing r (RingS.skipDead 9 { x with descs := ds, busy := false, stale := none })).divert r g d.tag status len detail
    | none =>
      (c.setRing r { x with descs := ds, busy := false }).putCompl r
        { n := d.n, tag := d.tag, status := status, len := len, kind := 0, gen := d.gen, detail := detail,
          irq := d.dflags.testBit 0, ring := r }

/-- The descriptor that inbound ring `r` may begin now: the front one, where nothing executes (R368). In ERROR the ring stops
fetching; what it has fetched it executes (R365). -/
def Core.front (c : Core) (r : Nat) : Option Desc :=
  let x := c.ring r
  if x.busy ∨ x.stale.isSome then none
  else match x.descs with
    | d :: _ => if d.dead then none else some d
    | [] => none

/-- The OP codes of Table 15.9 that a role executes. -/
def roleTakes (role op : Nat) : Bool := role == 1 && decide (op ≤ 0x0B) || role == 7 && op == 0x0C

/-- The front descriptor of ring `r` where it is command `op` on a ring of its role. -/
def Core.command (c : Core) (r op : Nat) : Option Desc :=
  match c.front r with
  | some d => if d.op = op ∧ roleTakes (c.ring r).role op then some d else none
  | none => none

/-- Execute command `op` of ring `r`: in SAFE every command but NOP completes with MODE (R422); in D3hot none executes
(R427). -/
def Core.exec (c : Core) (r op : Nat) (f : Desc → Core → Core) : Core :=
  match c.command r op with
  | none => c
  | some d =>
    if c.host.d3.isSome then c
    else if c.power.mode = .safe ∧ op ≠ 0 then c.finish r stMode
    else f d c

/-! ### Items -/

/-- Put an item on a ring that holds role `role`, with the ring's present generation (R373); `none` where it does not. -/
def Core.pushItem (c : Core) (r role kind : Nat) (bytes : List Byte) (die : Nat := 4) : Option Core :=
  if r ≠ 0 ∧ (c.ring r).role = role then
    let i : Item := { kind := kind, gen := (c.ring r).gen, bytes := bytes, die := die, from_ := r }
    some (c.modRing r (fun x => { x with items := x.items ++ [i] }))
  else none

/-- A completion is written in its slot, or goes to ring 0 where its generation has passed (R374). -/
def Core.complete (c : Core) (r : Nat) (q : Compl) : Core :=
  if q.stale then c.divert r q.gen q.tag q.status q.len q.detail else c.putCompl r q

/-- Flush the completions at the front that wait for no read-back. -/
def Core.flushCompl : Nat → Core → Nat → Core
  | 0, c, _ => c
  | f + 1, c, r =>
    let x := c.ring r
    match x.compl with
    | q :: qs => if q.writes then c else Core.flushCompl f ((c.setRing r { x with compl := qs }).complete r q) r
    | [] => c

end Sys2Proof.Machine
end

