-- ==== Sys2Proof/Machine/HbmOps.lean ====
section
/-! DEFINITION. Machine/HbmOps.lean: errors of HBM words, partial writes, the asynchronous queues of a stack and the
admission of their requests (R335 to R339, R346 to R349). -/

namespace Sys2Proof.Machine

/-- The page of stack `i`. -/
def hbmPage (i : Nat) : PageKind := .hbm (i / 2) (i % 2)

/-! ### Corrected and uncorrectable words (R348) -/

/-- A corrected word on stack `i`: CNT_CE, and CE with HBM_CE at most once per second. -/
def Core.ceFound (c : Core) (i : Nat) : Core :=
  let c := c.inc (hbmPage i) 0x060
  let due := match (c.stack i).ceAt with
    | some t => decide (t + 1000000000 ≤ c.ltb)
    | none => true
  if due then ((c.modStack i (fun s => { s with ceAt := some c.ltb })).raise (hbmPage i) 3).report (hbmPage i) 0x83 clsN 0
  else c

/-- An uncorrectable word at die HBM address `a`: CNT_UE, UE, UE_LOG and HBM_UE. -/
def Core.ueFound (c : Core) (d a : Nat) (scrub : Bool := false) : Core :=
  let i := stackOf d a
  let w := a / 16 * 16
  let c := c.modStack i (fun s => { s with ueLog := ((w, scrub) :: s.ueLog).take 8 })
  ((c.inc (hbmPage i) 0x064).raise (hbmPage i) 2).report (hbmPage i) 0x82 clsD w

/-- A die HBM range read word by word: the bytes with what `ue` gives for an uncorrectable word, and the numbers of the
uncorrectable words, with everything R348 does. -/
def Core.eccRead (c : Core) (d a n : Nat) (ue : List Byte := List.replicate 16 0) : Core × List Byte × List Nat :=
  let w0 := a / 16
  let c := c.openRows d a n
  let ws := (List.range (cdiv (a + n) 16 - w0)).map (· + w0)
  let r := ws.foldl (fun (x : Core × List Byte × List Nat) w =>
    let c := x.1
    let o := c.wordOutcome d (16 * w)
    if o = 0 then (c, x.2.1 ++ c.wordData d (16 * w), x.2.2)
    else if o = 1 then (c.ceFound (stackOf d (16 * w)), x.2.1 ++ c.wordData d (16 * w), x.2.2)
    else (c.ueFound d (16 * w), x.2.1 ++ ue, x.2.2 ++ [w])) (c, [], [])
  (r.1, (r.2.1.drop (a % 16)).take n, r.2.2)

/-! ### S2 writes (R339, R349) -/

/-- A write to part of one word: read-modify-write; true where it was dropped. The pair counts as one entry to in-order
mode (DEDUCED, notes/assumptions/29.md). -/
def Core.wordRmw (c : Core) (d a : Nat) (bs : List Byte) : Core × Bool :=
  let i := stackOf d a
  let w := a / 16 * 16
  let c := c.inc (hbmPage i) 0x074
  let o := c.wordOutcome d w
  if o = 2 then ((c.inc (hbmPage i) 0x078).ueFound d w, true)
  else
    let c' := if o = 1 then c.ceFound i else c
    ((c'.hbmPut d w (c.wordData d w)).hbmPut d a bs |>.symClear d w 16, false)

/-- The symbols an armed injection inverts; equal symbols count once (DEDUCED, notes/assumptions/28.md). -/
def Core.injSyms (c : Core) (i : Nat) : List Nat :=
  let v := c.rd (hbmPage i) 0x054
  let a := min (bits v 5 0) 35
  let b := min (bits v 11 6) 35
  if v.testBit 12 ∧ a ≠ b then [a, b] else [a]

/-- An S2 write of at most 256 B within one 256 B block; true where a partial word was dropped. -/
def Core.s2Write (c : Core) (d a : Nat) (bs : List Byte) : Core × Bool :=
  let i := stackOf d a
  let n := bs.length
  let h := if a % 16 = 0 then 0 else min n (16 - a % 16)
  let t := if n ≤ h then 0 else (a + n) % 16
  let mid := n - h - t
  let (c, x) := if h = 0 then (c, false) else c.wordRmw d a (bs.take h)
  let c := if mid = 0 then c else c.hbmWrite d (a + h) ((bs.drop h).take mid)
  let (c, y) := if t = 0 then (c, false) else c.wordRmw d (a + n - t) (bs.drop (n - t))
  let u := 64 * cdiv a 64
  if (c.stack i).inject ∧ u + 64 ≤ a + n then
    (c.modStack i (fun s => { s with inject := false, err := SMap.set (fun _ => []) s.err (u / 16) (c.injSyms i) }), x || y)
  else (c, x || y)

/-! ### The queues (R336 to R338) -/

/-- A range cut at 256 B blocks: address and length of each piece. -/
def blocks : Nat → Nat → Nat → List (Nat × Nat)
  | 0, _, _ => []
  | f + 1, a, n => if n = 0 then [] else let k := min n (256 - a % 256); (a, k) :: blocks f (a + k) (n - k)
def pieces (a n : Nat) : List (Nat × Nat) := blocks (n / 256 + 2) a n

/-- Same pseudo-channel, bank and row. -/
def sameRow (a b : Nat) : Bool := pcOf a == pcOf b && bankOf a == bankOf b && rowOf a == rowOf b
def sameBank (a b : Nat) : Bool := pcOf a == pcOf b && bankOf a == bankOf b

/-- The bank of an address is in in-order mode: a write that a read waits for is still in its queue (R338). -/
def StackS.ordered (s : StackS) (a : Nat) : Bool := s.queue.any (fun r => s.inOrder.elem r.seq && sameBank r.addr a)

/-- Put a request on its bank queue (R338). -/
def Core.enqueue (c : Core) (d : Nat) (r : AsyncReq) : Core :=
  let i := stackOf d r.addr
  let s := c.stack i
  let hit := if r.write then [] else (s.queue.filter (fun q => q.write && sameRow q.addr r.addr)).map AsyncReq.seq
  let c := if hit.isEmpty ∨ s.ordered r.addr then c else c.inc (hbmPage i) 0x074
  c.modStack i (fun s => { s with queue := s.queue ++ [r], inOrder := s.inOrder ++ hit })

/-- Queue the pieces of an access; answers how many there are. -/
def Core.enqueueAll (c : Core) (d a n : Nat) (s3 write : Bool) (data : List Byte) (base : Nat) (o : Origin) : Core × Nat :=
  let ps := pieces a n
  let c := ps.foldl (fun (c : Core) p =>
    let off := p.1 - a
    let q := c.host.asyncN
    let c := { c with host := { c.host with asyncN := q + 1 } }
    c.enqueue d { seq := q, off := base + off, s3 := s3, write := write, addr := p.1, len := p.2,
                  data := (data.drop off).take p.2, aged := false, origin := o }) c
  (c, ps.length)

/-- BAR2 reads of a die wait for every earlier BAR2 write to it (R360). -/
def Core.bar2Waits (c : Core) (d : Nat) (r : AsyncReq) : Bool :=
  match r.origin with
  | .bar2 _ => !r.write && (((c.stack (2 * d)).queue ++ (c.stack (2 * d + 1)).queue).any (fun q =>
      (match q.origin with | .bar2 _ => true | _ => false) && q.write && decide (q.seq < r.seq)) ||
      c.host.bar2W.any (fun e => e.target == 5 + d && e.data.isSome && decide (e.id < r.seq)))
  | _ => false

/-- A range of die HBM has a unit on a pseudo-channel of a stack. -/
def onPc (i pc a n : Nat) : Bool :=
  (List.range (cdiv (a % 256 + n) 256)).any (fun k => let b := a + 256 * k; stackOf (i / 2) b == i && pcOf b == pc)

/-- The die HBM address of an address in space 0 or 1, none in the others. -/
def Image.hbmPlace (i : Image) (nd d space w a : Nat) : Option Nat :=
  if space = 0 then some a else if space = 1 then some (i.plan.stagePlace nd d w a) else none

/-- Entries of a list with a slot from cycle `lo` and before `hi` that have a unit where `hit` says; `t` is the slot before. -/
def slotNear (lo hi : Nat) (hit : HbmsEnt → Bool) : Nat → List HbmsEnt → Bool
  | _, [] => false
  | t, e :: es => decide (lo ≤ t + e.delay ∧ t + e.delay < hi) && hit e || slotNear lo hi hit (t + e.delay) es

/-- A scheduled unit falls on the pseudo-channel within 100 ns + 2 ns × `units` of the last cycle known of the die: of a list
being issued, of an action's list, or of a mover (R256, R336). DEDUCED, notes/assumptions/94.md -/
def Core.unitSoon (c : Core) (i pc units : Nat) : Bool :=
  let d := i / 2
  let nd := c.part.dies
  match (if c.running then c.img else none) with
  | none => false
  | some m =>
    let lo := (c.chanter d).last
    let hi := lo + cdiv ((100 + 2 * units) * m.xclk.1) (m.xclk.2 * 1000000000)
    let at_ (space w a n : Nat) : Bool := match m.hbmPlace nd d space w a with
      | some b => onPc i pc b n
      | none => false
    let list (s : ListS) : Bool := match m.hbmsList d s.list with
      | none => false
      | some l =>
        let es := l.entries.drop s.entry
        let first := match es with
          | e :: _ => e.delay
          | [] => 0
        slotNear lo hi (fun e => at_ e.space s.win (l.addr e s.loops) (64 * e.len)) (s.slot - first) es
    let move (v : MoveS) : Bool := (List.range (v.len / 64)).any (fun n =>
      let t := v.from_ + 1 + n * (v.deadline - v.from_ - 1) / (v.len / 64)
      decide (lo ≤ t ∧ t < hi) && (at_ (v.spaces % 16) v.win (v.src + 64 * n) 64 || at_ (v.spaces / 16) v.win (v.dst + 64 * n) 64))
    let x := c.xdie d
    x.lists.any list || x.acts.any list || x.movers.any (fun e => move e.2)

/-- The request may be admitted now as far as windows, scheduled units and order go (R336, R338, R360). -/
def Core.admissible (c : Core) (d i : Nat) (r : AsyncReq) : Bool :=
  let s := c.stack i
  c.winOpen d (if r.s3 then 37 else 33) && !c.bar2Waits d r && !c.unitSoon i (pcOf r.addr) (cdiv (r.addr % 64 + r.len) 64) &&
  (!s.ordered r.addr || !s.queue.any (fun q => sameBank q.addr r.addr && decide (q.seq < r.seq)))

/-- Request `a` goes before `b`: aged ones first, then S2, then a hit on an open row, then the oldest (R336, R337). -/
def StackS.before (s : StackS) (a b : AsyncReq) : Bool :=
  let hit (r : AsyncReq) : Bool := SMap.get (fun _ => 0) s.openRow (pcOf r.addr * 64 + bankOf r.addr) == rowOf r.addr + 1
  let key (r : AsyncReq) : Nat := b2n (!r.aged) * 4 + b2n r.s3 * 2 + b2n (!hit r)
  decide (key a < key b) || key a == key b && decide (a.seq < b.seq)

/-- The request that pseudo-channel `pc` of stack `i` admits next. -/
def Core.nextAsync (c : Core) (i pc : Nat) : Option AsyncReq :=
  let s := c.stack i
  (s.queue.filter (fun r => pcOf r.addr == pc && c.admissible (i / 2) i r)).foldl (fun b r =>
    match b with
    | none => some r
    | some x => if s.before r x then some r else some x) none

/-- Take a request out of its queue and open its row. -/
def Core.dequeue (c : Core) (i : Nat) (r : AsyncReq) : Core :=
  c.modStack i (fun s => { s with
    queue := s.queue.filter (fun q => q.seq != r.seq),
    inOrder := s.inOrder.filter (· != r.seq),
    openRow := SMap.set (fun _ => 0) s.openRow (pcOf r.addr * 64 + bankOf r.addr) (rowOf r.addr + 1) })

/-- Drop the requests of an origin from both stacks of every die. -/
def Core.dropAsync (c : Core) (p : AsyncReq → Bool) : Core :=
  (List.range 8).foldl (fun c i =>
    if (c.stack i).queue.any p then c.modStack i (fun s => { s with queue := s.queue.filter (fun r => !p r) }) else c) c

end Sys2Proof.Machine
end

