-- ==== Sys2Proof/Machine/SpaceOps.lean ====
section
/-! DEFINITION. Machine/SpaceOps.lean: the device memories that DMA and BAR2 reach, their sizes, and the places that R140
and R141 guard (R20, R140, R141, R359, R361, R379, R380). A target is a BAR2 target: 0 to 3 HBM of X die d, 4 IO-die SRAM,
5 to 8 SRAM of X die d; DMA space n is target n - 1. -/

namespace Sys2Proof.Machine

/-- The size of a target (R359). -/
def targetSize (t : Nat) : Nat := if t < 4 then 2 ^ 37 else if t = 4 then 2 ^ 28 else 117440512

/-- The X die of a target. -/
def targetDie (t : Nat) : Option Nat := if t < 4 then some t else if t = 4 then none else some (t - 5)

/-- The Chanter index of the die that holds a target's memory; the IO die holds IO-die SRAM (R360). -/
def targetChip (t : Nat) : Nat := (targetDie t).getD 4

/-- The target lies in the part (R27). -/
def Core.targetPresent (c : Core) (t : Nat) : Bool :=
  t ≤ 8 && (match targetDie t with | some d => decide (d < c.part.dies) | none => true)

/-- The SRAM banks of the IO die that hold a range of addresses (R20): 0 to 3 the history, 4, 5. -/
def ioBanks (a n : Nat) : List Nat :=
  (if a < 0x0A000000 then [0, 1, 2, 3] else []) ++
  (if a < 0x0E000000 ∧ 0x0A000000 < a + n then [4] else []) ++ (if 0x0E000000 < a + n then [5] else [])

/-- The memory of a target that a range touches is powered and, in HBM, trained (R361, R380). -/
def Core.targetUp (c : Core) (t a n : Nat) : Bool :=
  if t < 4 then
    (pieces a (min n 32768)).all (fun p =>
      let i := stackOf t p.1
      c.domOn (69 + 35 * t + i % 2) && (c.stack i).st == .trained)
  else if t = 4 then (ioBanks a n).all (fun b => c.domOn (28 + b))
  else ([0, 1, 2, 3] : List Nat).all (fun b => c.domOn (65 + 35 * (t - 5) + b))

/-- The range may be accessed at all: first row of Table 15.4. -/
def Core.targetOk (c : Core) (t a n : Nat) : Bool :=
  c.targetPresent t && decide (a + n ≤ targetSize t) && c.targetUp t a n

/-! ### Guarded places -/

/-- Ranges cut by the removal of one range. -/
def cutOut (rs : List (Nat × Nat)) (lo hi : Nat) : List (Nat × Nat) :=
  rs.flatMap (fun r =>
    (if r.1 < min r.2 lo then [(r.1, min r.2 lo)] else []) ++ (if max r.1 hi < r.2 then [(max r.1 hi, r.2)] else []))

/-- What is left of a range outside the listed ones. -/
def outside (bad : List (Nat × Nat)) (a n : Nat) : List (Nat × Nat) :=
  bad.foldl (fun rs b => cutOut rs b.1 b.2) [(a, a + n)]

/-- A range meets one of the listed ones. -/
def meets (bad : List (Nat × Nat)) (a n : Nat) : Bool :=
  bad.any (fun b => decide (max a b.1 < min (a + n) b.2))

/-- The STAGE, LT and W regions of die `d` (R110, R128, R134, R140). -/
def Image.deniedRegions (i : Image) (nd d : Nat) : List (Nat × Nat) :=
  let p := i.plan
  let own := p.owned nd d
  let at_ (r size : Nat) : Nat × Nat := (p.region d r, p.region d r + size)
  [at_ 0 (2 * p.wsize nd d), at_ 1 (12 * p.E * own.length), at_ 2 (4 * sumL (own.map (fun ch => p.wBefore ch p.T)))]

/-- Bytes of a slice bank and of a cell bank (R171). -/
def bankSize (t : Nat) : Nat := if t < 8 then 0x301000 else 0x1001000
/-- The die of a beam target. -/
def bankDie (t : Nat) : Nat := if t < 8 then t / 2 else t - 8
/-- The HBM address of a bank: BANKS of the BEAM section (R227). -/
def BeamSec.bankAddr (b : BeamSec) (t : Nat) (isB : Bool) : Nat :=
  b.bank (bankDie t) ((if t < 8 then t % 2 * 2 else 4) + b2n isB)

/-- Every region of die `d` that PLAN or BEAM declares (R141). -/
def Image.declaredRegions (i : Image) (nd d : Nat) : List (Nat × Nat) :=
  let p := i.plan
  let own := p.owned nd d
  let at_ (r size : Nat) : Nat × Nat := (p.region d r, p.region d r + size)
  i.deniedRegions nd d ++
  [at_ 3 (own.length * p.nBl * p.F), at_ 4 ((p.homeUnits nd d).length * p.nBl * 4)] ++
  (match i.beam with
   | none => []
   | some b =>
     ([2 * d, 2 * d + 1, 8 + d] : List Nat).flatMap (fun t => ([false, true] : List Bool).map (fun x =>
       (b.bankAddr t x, b.bankAddr t x + bankSize t))) ++
     [(b.area d 0, b.area d 0 + b.area d 1 * b.area d 2), (b.area d 3, b.area d 3 + b.area d 4 * b.area d 5)])

/-- The ranges of a target that R140 denies now. -/
def Core.denied (c : Core) (t : Nat) : List (Nat × Nat) :=
  match c.img with
  | some i => if t < 4 ∧ c.power.mode ≠ .inspect then i.deniedRegions c.part.dies t else []
  | none => []

/-- The ranges of a target that a host write may not reach now (R141). -/
def Core.writeLocked (c : Core) (t : Nat) : List (Nat × Nat) :=
  if c.running then
    (if t < 4 then (match c.img with | some i => i.declaredRegions c.part.dies t | none => [])
     else if t = 4 then [(0, 0x0DA00000), (0x0DB00000, 0x10000000)] else [(0, targetSize t)])
  else []

/-- Bytes with zeros where the listed ranges lie. -/
def blank (bad : List (Nat × Nat)) (a : Nat) (bs : List Byte) : List Byte :=
  if meets bad a bs.length then
    (bs.zip (List.range bs.length)).map (fun e => if meets bad (a + e.2) 1 then 0 else e.1)
  else bs

/-! ### SRAM of the dies -/

/-- The stored bytes of SRAM. -/
def Core.sramGet (c : Core) (t a n : Nat) : List Byte :=
  if t = 4 then c.io.read a n else (c.xdie (t - 5)).sram.read a n
def Core.sramPut (c : Core) (t a : Nat) (bs : List Byte) : Core :=
  if t = 4 then c.ioPut a bs else c.modX (t - 5) (fun x => { x with sram := x.sram.put a bs })

/-- The Notices of a host access that meets guarded places: INSPECT_DENIED and REGION_LOCKED (R140, R141). -/
def Core.guardNotes (c : Core) (k : PageKind) (t a n : Nat) (write : Bool) : Core :=
  let c := if meets (c.denied t) a n then c.report k 0x06 clsN 0 else c
  if write && meets (c.writeLocked t) a n then c.report k 0x0B clsN 0 else c

/-- The ranges a host write or burst of `n` bytes may reach: none where it would reach a place of R141, else all but the places of
R140. DEDUCED, notes/assumptions/90.md -/
def Core.writable (c : Core) (t a n : Nat) : List (Nat × Nat) :=
  if meets (c.writeLocked t) a n then [] else outside (c.denied t) a n

/-- A host write to SRAM of a die, but for the guarded places. -/
def Core.sramHostPut (c : Core) (t a : Nat) (bs : List Byte) : Core :=
  (c.writable t a bs.length).foldl (fun c r => c.sramPut t r.1 ((bs.drop (r.1 - a)).take (r.2 - r.1))) c

/-- A host write to HBM of die `t` put on its bank queues, but for the guarded places; answers the number of pieces. -/
def Core.hbmHostPut (c : Core) (t a : Nat) (bs : List Byte) (s3 : Bool) (o : Origin) : Core × Nat :=
  (c.writable t a bs.length).foldl (fun (x : Core × Nat) r =>
    let (c, k) := x.1.enqueueAll t r.1 (r.2 - r.1) s3 true ((bs.drop (r.1 - a)).take (r.2 - r.1)) (r.1 - a) o
    (c, x.2 + k)) (c, 0)

end Sys2Proof.Machine
end

