-- ==== Sys2Proof/Machine/DmaOps.lean ====
section
/-! DEFINITION. Machine/DmaOps.lean: the life of a DMA job: its channel, bursts, stop, read-back and completion (R378 to
R387). -/

namespace Sys2Proof.Machine

/-! ### Reads of die SRAM (R19, R347, R423) -/

/-- Words of the list that a range reads. -/
def wordsIn (ws : List Nat) (a n : Nat) : List Nat :=
  (ws.map (fun x => x / 16 * 16)).filter (fun x => decide (x < a + n ∧ a < x + 16))

/-- An uncorrectable IO-die SRAM word met by a read of the host: SRAM_UE, and IMAGE_UE for a retention-bank word while a schedule
runs. -/
def Core.ioUe (c : Core) (a : Nat) : Core :=
  let c := c.report (.fst 0) 0xA1 clsD a
  if 0x0E000000 ≤ a ∧ c.running then c.report .chn 0xA2 clsS a else c

/-- A read of die SRAM by BAR2 or a DMA channel: `ce` and `ue` are the addresses of words with a correctable and an uncorrectable
error; the bytes, those of an uncorrectable word 0, and whether one was met. Errors of X-die SRAM report no kind
(DEDUCED, notes/assumptions/91.md). -/
def Core.sramRead (c : Core) (t a n : Nat) (ce ue : List Nat) : Core × List Byte × Bool :=
  let bad := wordsIn ue a n
  let c := if t ≠ 4 then c
    else bad.foldl Core.ioUe (if (wordsIn ce a n).isEmpty then c else c.sramCe)
  (c, blank (bad.map (fun x => (x, x + 16))) a (c.sramGet t a n), !bad.isEmpty)

/-! ### Geometry of a job (R381 to R383) -/

/-- The circular region's base and the first position in it. -/
def Job.circBase (j : Job) : Nat := let a := if j.circSrc then j.src else j.dst; a / 2 ^ j.circLog * 2 ^ j.circLog
def Job.circPos (j : Job) (o : Nat) : Nat :=
  ((if j.circSrc then j.src else j.dst) % 2 ^ j.circLog + o) % 2 ^ j.circLog

/-- The address of byte `o` of the job on its source and destination side. -/
def Job.srcAt (j : Job) (o : Nat) : Nat := if j.kind = 2 ∧ j.circSrc then j.circBase + j.circPos o else j.src + o
def Job.dstAt (j : Job) (o : Nat) : Nat := if j.kind = 2 ∧ !j.circSrc then j.circBase + j.circPos o else j.dst + o

/-- A COPY that runs downward (R383). -/
def Job.down (j : Job) : Bool :=
  decide (j.kind = 0 ∧ j.srcSp = j.dstSp ∧ j.srcSp ≠ 0 ∧ j.src < j.dst ∧ j.dst < j.src + j.len)

/-- The length of the next burst (R381). -/
def Job.next (j : Job) : Nat :=
  let n := min 4096 (j.len - j.done)
  if j.down then n
  else
    let n := if j.srcSp = 0 ∧ j.kind ≠ 1 then min n (4096 - j.srcAt j.done % 4096) else n
    let n := if j.dstSp = 0 then min n (4096 - j.dstAt j.done % 4096) else n
    if j.kind = 2 then min n (2 ^ j.circLog - j.circPos j.done) else n

/-- The offset at which a burst of `n` bytes starts. -/
def Job.offset (j : Job) (n : Nat) : Nat := if j.down then j.len - j.done - n else j.done

/-- What a FILL writes at address `a` (R382). -/
def fillByte (pattern a : Nat) : Byte := BitVec.ofNat 8 (pattern >>> (8 * (a % 8)))

/-! ### Channels -/

/-- The lowest idle channel from `lo` to `hi - 1`. -/
def Core.idleChannel (c : Core) (lo hi : Nat) : Option Nat :=
  ((List.range hi).drop lo).find? (fun n => (c.dma n).job.isNone)

/-- Show a job's progress in its channel's registers (Table 15.15). -/
def Core.showJob (c : Core) (ch : Nat) (j : Job) : Core :=
  c.modDma ch (fun x => { x with job := some j, tag := j.tag, src := j.srcAt (j.offset j.next), dst := j.dstAt (j.offset j.next) })

/-- The page of a beam target; the cells of a die show on Xd_BSL0 (R191). -/
def targetPage (t : Nat) : PageKind := if t < 8 then .bsl (t / 2) (t % 2) else .bsl (t - 8) 0

/-- The state of a bank of a target (R172). -/
def Core.setBank (c : Core) (t : Nat) (b : Bool) (s : BankSt) : Core :=
  c.modTarget t (fun x => if b then { x with b := s } else { x with a := s })

/-- A BANK_LOAD that ends without a completion leaves its bank EMPTY (R172). -/
def Core.bankDrop (c : Core) (j : Job) : Core :=
  match j.purpose with
  | .bank t b => c.setBank t b .empty
  | _ => c

/-- The completion of a job's command (R384 to R387). -/
def Core.jobEnd (c : Core) (j : Job) (st : Nat) : Core :=
  let rest := j.len - j.done
  match j.purpose with
  | .host => c.finish j.ring st rest
  | .inspectRead => c.finish j.ring st rest
  | .chunk => c.finish j.ring st rest
  | .bank t b =>
    let c := if st = stAccepted then c.raise (targetPage t) 4 else c
    (c.setBank t b (if st = stAccepted then .loaded else .empty)).finish j.ring st rest
  | .gain w =>
    if st = stAccepted then let (r, c) := c.gainList w j.buf; c.finish j.ring r else c.finish j.ring st

/-- Counters and interrupt bits of a channel at the end of its job (R389). -/
def Core.jobCount (c : Core) (ch st : Nat) : Core :=
  if st = stAccepted then c.raise (.dma ch) 0
  else if st = stAborted then (c.inc .dmag 0x050).raise (.dma ch) 1
  else if st = stWithdrawn then (c.inc .dmag 0x054).raise (.dma ch) 2
  else if st = stMemErr then (c.inc .dmag 0x058).raise (.dma ch) 3
  else c.raise (.dma ch) 3

/-- Put a job on a channel. -/
def Core.startJob (c : Core) (ch : Nat) (j : Job) : Core := c.showJob ch j

/-- The turn of a ring among those of its priority: the rings after the last one served come first (R368). -/
def Core.turn (c : Core) (r : Nat) : Nat := (r + 4095 - c.host.lastRing % 4096) % 4096

/-- Of the waiting jobs the one whose ring has the highest PRIO, and of equal ones the one whose turn comes first (R368). -/
def Core.firstJob (c : Core) (js : List Job) : Option Job :=
  js.foldl (fun b j =>
    match b with
    | none => some j
    | some x =>
      let p := (c.ring x.ring).prio
      let q := (c.ring j.ring).prio
      if p < q ∨ (p = q ∧ c.turn j.ring < c.turn x.ring) then some j else some x) none

/-- A channel that is idle takes the waiting job of highest priority: its own, or one of its pool (R368, R378). -/
def Core.nextJob (c : Core) (ch : Nat) : Core :=
  let own := (c.dma ch).waiting
  let pool := if ch < c.hostChannels then c.host.poolQ else c.host.engineQ
  match c.firstJob (own ++ pool) with
  | none => c
  | some j =>
    let c := c.modDma ch (fun x => { x with waiting := x.waiting.filter (fun k => k != j) })
    let c := { c with host := { c.host with poolQ := if ch < c.hostChannels then c.host.poolQ.filter (fun k => k != j) else c.host.poolQ,
                                            engineQ := if ch < c.hostChannels then c.host.engineQ else c.host.engineQ.filter (fun k => k != j),
                                            lastRing := j.ring } }
    c.startJob ch j

/-- The job of a channel completes with a status. -/
def Core.completeJob (c : Core) (ch st : Nat) : Core :=
  match (c.dma ch).job with
  | none => c
  | some j =>
    let c := c.modDma ch (fun x => { x with job := none, readback := false, lastStatus := st, lastRing := j.ring,
                                            residue := j.len - j.done })
    ((c.jobCount ch st).jobEnd j st).nextJob ch

/-- The job of a channel ends: where it wrote host memory the read-back comes first (R384). -/
def Core.endJob (c : Core) (ch st : Nat) : Core :=
  match (c.dma ch).job with
  | none => c
  | some j =>
    if j.dstSp = 0 ∧ 0 < j.done then
      c.modDma ch (fun x => { x with readback := true, job := some { j with pend := 0, stopAs := some st } })
    else c.completeJob ch st

/-- The class of asynchronous window that a job's bursts need (R369, R381). -/
def Purpose.window : Purpose → Nat
  | .inspectRead => 37
  | _ => 33

/-- The windows of the memories that a job touches are open (R381). -/
def Core.jobOpen (c : Core) (j : Job) : Bool :=
  let w := j.purpose.window
  (j.srcSp = 0 || j.kind == 1 || c.winOpen (targetChip (j.srcSp - 1)) w) &&
  (j.dstSp = 0 || c.winOpen (targetChip (j.dstSp - 1)) w)

/-- A burst is over: progress, and the end of the job where it is due (R385 to R387). -/
def Core.burstEnd (c : Core) (ch : Nat) : Core :=
  match (c.dma ch).job with
  | none => c
  | some j =>
    if j.memErr then (c.showJob ch { j with pend := 0, writing := false }).endJob ch stMemErr
    else
      let j := { j with done := j.done + j.blen, blen := 0, pend := 0, writing := false }
      let c := c.showJob ch j
      let c := match j.purpose with
        | .chunk => { c with host := { c.host with extent := max c.host.extent (j.dst - 0x0E000000 + j.done) } }
        | _ => c
      match j.stopAs with
      | some st => c.endJob ch st
      | none => if j.len ≤ j.done then c.endJob ch stAccepted else c

/-- The bytes of a burst go to their destination. -/
def Core.burstWrite (c : Core) (ch : Nat) (bs : List Byte) : Core :=
  match (c.dma ch).job with
  | none => c
  | some j =>
    let a := j.dstAt (j.offset j.blen)
    match j.purpose with
    | .gain _ => (c.showJob ch { j with buf := j.buf ++ bs }).burstEnd ch
    | .host =>
      if j.dstSp = 0 then (c.hostWrite a bs).burstEnd ch
      else
        let t := j.dstSp - 1
        let c := c.guardNotes (.dma ch) t a bs.length true
        if t < 4 then
          let (c, k) := c.hbmHostPut t a bs false (.dma ch)
          if k = 0 then c.burstEnd ch else c.showJob ch { j with pend := k, writing := true }
        else (c.sramHostPut t a bs).burstEnd ch
    | _ =>
      if j.dstSp = 0 then (c.hostWrite a bs).burstEnd ch
      else if j.dstSp ≤ 4 then
        let (c, k) := c.enqueueAll (j.dstSp - 1) a bs.length false true bs 0 (.dma ch)
        c.showJob ch { j with pend := k, writing := true }
      else (c.sramPut (j.dstSp - 1) a bs).burstEnd ch

/-- A burst reached a default target (R398): of the central switch for IO-die SRAM, of the leaf for an X die. -/
def Core.xbarDefault (c : Core) (t a ch : Nat) (write : Bool) : Core :=
  match targetDie t with
  | some d => ((c.inc (.xdie d) 0x058).raise (.xdie d) 7).report (.xdie d) 0x08 clsD 0
  | none =>
    let c := (c.wr .bxb 0x050 a).wr .bxb 0x054 (fld (a / 2 ^ 32) 8 0 + fld (ch % 8) 4 8 + fld (b2n write) 1 12 + 2 ^ 31)
    ((c.inc .bxb 0x05C).raise .bxb 0).report .bxb 0x08 clsD 0

/-- The memories of the next burst that lie in an unpowered domain: target, address, and whether the burst writes. -/
def Core.burstLost (c : Core) (j : Job) (n : Nat) : Option (Nat × Nat × Bool) :=
  let s := j.srcAt (j.offset n)
  let d := j.dstAt (j.offset n)
  if j.srcSp ≠ 0 ∧ j.kind ≠ 1 ∧ c.targetUp (j.srcSp - 1) s n = false then some (j.srcSp - 1, s, false)
  else if j.dstSp ≠ 0 ∧ c.targetUp (j.dstSp - 1) d n = false then some (j.dstSp - 1, d, true) else none

/-- The central target of an address of a space (Table 16.2): the PCIe requester, an IO SRAM bank, or the port of an X die. The
history's four banks count as one (DEDUCED, notes/assumptions/88.md). -/
def bulkTarget (sp a : Nat) : Nat :=
  if sp = 0 then 0 else if sp ≤ 4 then 22 + sp
  else if sp = 5 then (if a < 0x0A000000 then 17 else if a < 0x0E000000 then 21 else 22) else 17 + sp

/-- The central target where the next burst of a job arbitrates first: its source, or its destination where the data come from
host memory or a pattern. -/
def Job.port (j : Job) : Nat :=
  if j.srcSp = 0 ∨ j.kind = 1 then bulkTarget j.dstSp (j.dstAt (j.offset j.next)) else bulkTarget j.srcSp (j.srcAt (j.offset j.next))

/-- A burst of another channel waits at the target of this one with a higher level (R15, R397). -/
def Core.outranked (c : Core) (ch : Nat) (j : Job) : Bool :=
  (List.range 64).any (fun x =>
    match (c.dma x).job with
    | some k => x % 8 != ch % 8 && !(c.dma x).readback && k.pend == 0 && (k.srcSp != 0 || k.kind == 1) && c.jobOpen k &&
        k.port == j.port && decide (c.burstLevel (ch % 8) j.port < c.burstLevel (x % 8) j.port)
    | none => false)

/-- A burst of a channel starts (R381): `data` are the bytes that a read of host memory returned, `none` where it failed; `ce` and
`ue` the words in error of the die SRAM that it reads. -/
def Core.burst (c : Core) (ch : Nat) (data : Option (List Byte)) (ce ue : List Nat) : Core :=
  match (c.dma ch).job with
  | none => c
  | some j =>
    if (c.dma ch).readback ∨ j.pend ≠ 0 ∨ c.host.d3.isSome ∨ c.jobOpen j = false ∨ c.outranked ch j then c
    else
      let c := { c with host := { c.host with bxbAged := c.host.bxbAged.filter (· != (ch % 8, j.port)) } }
      let n := j.next
      let a := j.srcAt (j.offset n)
      let j' := { j with started := true, blen := n }
      match c.burstLost j n with
      | some (t, x, w) => ((c.xbarDefault t x ch w).showJob ch { j with started := true }).endJob ch stMemErr
      | none =>
      if j.kind = 1 then
        let b := j.dstAt (j.offset n)
        (c.showJob ch j').burstWrite ch ((List.range n).map (fun i => fillByte j.pattern (b + i)))
      else if j.srcSp = 0 then
        (match data with
         | none => (c.showJob ch { j with started := true }).endJob ch stHostErr
         | some bs => if bs.length < n then c else (c.showJob ch j').burstWrite ch (bs.take n))
      else if j.srcSp ≤ 4 then
        let t := j.srcSp - 1
        let c := if j.purpose = .host then c.guardNotes (.dma ch) t a n false else c
        let (c, k) := c.enqueueAll t a n (j.purpose == .inspectRead) false [] 0 (.dma ch)
        c.showJob ch { j' with pend := k, buf := List.replicate n 0 }
      else
        let r := c.sramRead (j.srcSp - 1) a n ce ue
        if r.2.2 then (r.1.showJob ch { j with started := true }).endJob ch stMemErr
        else (r.1.showJob ch j').burstWrite ch r.2.1

/-- Bytes replaced in a list from offset `off`. -/
def splice (l : List Byte) (off : Nat) (bs : List Byte) : List Byte := l.take off ++ bs ++ l.drop (off + bs.length)

/-- A piece of a burst was read from HBM (R387: the burst that holds an uncorrectable word is not written). -/
def Core.burstRead (c : Core) (ch : Nat) (r : AsyncReq) (bs : List Byte) (bad : Bool) : Core :=
  match (c.dma ch).job with
  | none => c
  | some j =>
    let j := { j with buf := splice j.buf r.off bs, pend := j.pend - 1, memErr := j.memErr || bad && !r.s3 }
    let c := c.showJob ch j
    if j.pend ≠ 0 then c
    else if j.memErr then c.endJob ch stMemErr
    else
      let t := j.srcSp - 1
      let bs := if j.purpose = .host then blank (c.denied t) (j.srcAt (j.offset j.blen)) j.buf else j.buf
      c.burstWrite ch bs

/-- A piece of a burst was written to HBM, or dropped (R339, R387). -/
def Core.burstWrote (c : Core) (ch : Nat) (dropped : Bool) : Core :=
  match (c.dma ch).job with
  | none => c
  | some j =>
    let j := { j with pend := j.pend - 1, memErr := j.memErr || dropped }
    let c := c.showJob ch j
    if j.pend ≠ 0 then c else c.burstEnd ch

/-- Bytes fetched by a ring-engine command move as its first part, where its channel holds it and its window is open. -/
def Core.feed (c : Core) (ch : Nat) (bs : List Byte) : Core :=
  match (c.dma ch).job with
  | none => c
  | some j =>
    if c.jobOpen j = false then c
    else
      let bs := bs.take j.len
      (c.showJob ch { j with blen := bs.length, started := true }).burstWrite ch bs

/-! ### Waiting for a channel -/

/-- The ring executes a command that has not completed. -/
def Core.setBusy (c : Core) (r : Nat) : Core := c.modRing r (fun x => { x with busy := true })

/-- A ring-engine job takes the lowest idle channel of its pool, or waits (R378); `data` are the bytes fetched so far. -/
def Core.engineJob (c : Core) (j : Job) (data : List Byte) : Core :=
  let c := c.setBusy j.ring
  match c.idleChannel c.hostChannels 64 with
  | some ch =>
    let c := c.startJob ch j
    if j.len = 0 then c.endJob ch stAccepted else if data.isEmpty then c else c.feed ch data
  | none => { c with host := { c.host with engineQ := c.host.engineQ ++ [j] } }

/-- A DMA command takes its channel or waits (R378). -/
def Core.hostJob (c : Core) (j : Job) (any : Bool) (n : Nat) : Core :=
  let c := c.setBusy j.ring
  if any then
    match c.idleChannel 0 c.hostChannels with
    | some ch => c.startJob ch j
    | none => { c with host := { c.host with poolQ := c.host.poolQ ++ [j] } }
  else if (c.dma n).job.isNone then c.startJob n j
  else c.modDma n (fun x => { x with waiting := x.waiting ++ [j] })

/-- ABORT of a channel (R385). -/
def Core.abortJob (c : Core) (ch : Nat) : Core :=
  match (c.dma ch).job with
  | none => c
  | some j =>
    if (c.dma ch).readback then c
    else if j.pend ≠ 0 then
      (if j.done + j.blen = j.len ∨ j.stopAs.isSome then c else c.showJob ch { j with stopAs := some stAborted })
    else c.endJob ch stAborted

/-- Ring-engine requesters withdraw (R386). -/
def Core.withdraw (c : Core) (p : Purpose → Bool) : Core :=
  let out := c.host.engineQ.filter (fun j => p j.purpose)
  let c := { c with host := { c.host with engineQ := c.host.engineQ.filter (fun j => !p j.purpose) } }
  let c := out.foldl (fun c j => (c.inc .dmag 0x054).jobEnd j stWithdrawn) c
  (List.range 64).foldl (fun c ch =>
    match (c.dma ch).job with
    | none => c
    | some j =>
      if p j.purpose ∧ (c.dma ch).readback = false then
        (if j.pend ≠ 0 then c.showJob ch { j with stopAs := some stWithdrawn } else c.endJob ch stWithdrawn)
      else c) c

/-- Every job ends without a completion, at its burst boundary (R377, R399). -/
def Core.dropJobs (c : Core) : Core :=
  let c := (List.range 64).foldl (fun c ch =>
    match (c.dma ch).job with
    | none => c
    | some j =>
      (c.bankDrop j).modDma ch (fun x => { x with job := none, readback := false, residue := j.len - j.done, lastRing := j.ring })) c
  let c := (List.range 64).foldl (fun c ch => c.modDma ch (fun x => { x with waiting := [] })) c
  let c := { c.host.engineQ.foldl Core.bankDrop c with host := { c.host with poolQ := [], engineQ := [] } }
  c.dropAsync (fun r => match r.origin with | .dma _ => true | _ => false)

/-! ### Objects of the INSPECT commands (R142, R145) -/

/-- The HBM object of a kind: its first byte and its size. -/
def Core.hbmObject (c : Core) (d kind half k : Nat) : Option (Nat × Nat) :=
  match c.img with
  | none => none
  | some i =>
    let p := i.plan
    let nd := c.part.dies
    let own := p.owned nd d
    if nd ≤ d ∨ own.length ≤ k then none
    else
      let ch := nth 0 own k
      if kind = 4 then some (p.ltAddr d k 0 0, 12 * p.E)
      else if kind = 5 then some (p.wAddr nd d k ch 0 0, 4 * p.wBefore ch p.T)
      else if kind = 6 then some (p.stageAddr nd d k half 0 0, p.rows ch * p.nPad * 2) else none

end Sys2Proof.Machine
end

