-- ==== Sys2Proof/Machine/Dma.lean ====
section
/-! DEFINITION. Machine/Dma.lean: the commands that DMA channels carry out: DMA, IMAGE_CHUNK, BANK_LOAD, GAIN_STEP and
INSPECT_READ, their bursts and ABORT (R98, R172, R231, R369, R378 to R389). -/

namespace Sys2Proof.Machine

/-! ### DMA (Table 15.11, R380) -/

/-- The job of a 64 B body. -/
def parseJob (r : Nat) (d : Desc) (bs : List Byte) : Job :=
  { ring := r, n := d.n, tag := d.tag, irq := d.dflags.testBit 0, purpose := .host, kind := leAt bs 0 1,
    srcSp := leAt bs 1 1 % 16, dstSp := leAt bs 1 1 / 16, len := leAt bs 4 4, src := leAt bs 8 8, dst := leAt bs 16 8,
    pattern := leAt bs 24 8, circLog := leAt bs 32 1, circSrc := leAt bs 33 1 == 1 }

/-- A space is present, powered and trained: both stacks of an HBM space (R380). -/
def Core.spaceUp (c : Core) (sp a n : Nat) : Bool :=
  sp == 0 || (c.targetPresent (sp - 1) && c.targetUp (sp - 1) (if sp ≤ 4 then 0 else a) (if sp ≤ 4 then 32768 else n))

/-- The end of a space. -/
def spaceSize (sp : Nat) : Nat := if sp = 0 then 2 ^ 64 else targetSize (sp - 1)

/-- Every condition of R380 holds. -/
def Core.jobOk (c : Core) (j : Job) (bs : List Byte) : Bool :=
  let circ := j.kind == 2
  let size := 2 ^ j.circLog
  let linSp := if j.circSrc then j.dstSp else j.srcSp
  let cirSp := if j.circSrc then j.srcSp else j.dstSp
  let lin := if j.circSrc then j.dst else j.src
  decide (j.kind ≤ 2 ∧ j.srcSp ≤ 9 ∧ j.dstSp ≤ 9) && zeroAt bs 2 2 && zeroAt bs 34 30 &&
  decide (j.len % 4 = 0 ∧ 4 ≤ j.len) && (j.kind == 1 || j.src % 4 == 0) && j.dst % 4 == 0 &&
  !(j.srcSp == 0 && j.dstSp == 0) && c.spaceUp j.srcSp j.src j.len && c.spaceUp j.dstSp j.dst j.len &&
  (if circ then
    decide (12 ≤ j.circLog ∧ j.circLog ≤ 36 ∧ leAt bs 33 1 ≤ 1 ∧ j.len ≤ size) &&
    decide (lin + j.len ≤ spaceSize linSp ∧ j.circBase + size ≤ spaceSize cirSp) &&
    !(linSp == cirSp && decide (max lin j.circBase < min (lin + j.len) (j.circBase + size)))
  else
    (j.kind == 1 || decide (j.src + j.len ≤ spaceSize j.srcSp)) && decide (j.dst + j.len ≤ spaceSize j.dstSp))

/-- INVALID of a job: ERROR on the channel it names, or would take (DEDUCED, notes/assumptions/30.md). -/
def Core.jobInvalid (c : Core) (r : Nat) (any : Bool) (n : Nat) : Core :=
  let ch := if any then c.idleChannel 0 c.hostChannels else if n < c.hostChannels then some n else none
  let c := match ch with
    | some n => (c.modDma n (fun x => { x with lastStatus := stInvalid, lastRing := r })).raise (.dma n) 3
    | none => c
  c.finish r stInvalid

/-- DMA (R378, R380). -/
def doDma (r : Nat) (body : Option (List Byte)) (d : Desc) (c : Core) : Core :=
  let any := d.arg0.testBit 6
  let n := d.arg0 % 64
  if d.len ≠ 64 then c.finish r stInvalid
  else
    match body with
    | none => c.finish r stHostErr
    | some bs =>
      let j := parseJob r d bs
      if c.hostChannels = 0 ∨ (any = false ∧ c.hostChannels ≤ n) ∨ c.jobOk j bs = false then c.jobInvalid r any n
      else c.hostJob j any n

def execDma (r : RingNo) (body : Option (List Byte)) : State → Host.Outcome State Fault Refusal :=
  act (fun c => c.exec r.val 0x0B (doDma r.val body))

/-! ### IMAGE_CHUNK (R231) -/

/-- Every coefficient bank EMPTY and every pointer A (R172). -/
def Core.banksReset (c : Core) : Core := { c with targets := [] }

/-- A load is opened by a chunk of ring `r`: image, retention bank, banks, segments and lists (R100, R172, R231, R386). -/
def Core.openLoad (c : Core) (r : Nat) : Core :=
  let c := c.withdraw (fun p => match p with | .bank _ _ => true | _ => false)
  let c := (c.gainDiscard.segDiscard).banksReset
  { c with img := none, imgSt := 1, imgReason := 0, imgMode := 0,
           io := { c.io with ret := { fill := .zero, cells := [] } },
           host := { c.host with loadRing := some r, extent := 0 } }

/-- IMAGE_CHUNK. A load stays that of the ring that opened it until its IMAGE_COMMIT is completed (DEDUCED,
notes/assumptions/99.md). -/
def doImageChunk (r : Nat) (data : Option (List Byte)) (d : Desc) (c : Core) : Core :=
  if d.len % 64 ≠ 0 ∨ d.arg0 % 64 ≠ 0 ∨ 2 ^ 22 < d.len then c.finish r stInvalid d.len
  else if c.power.mode ≠ .idle then c.finish r stMode d.len
  else if 0x2000000 < d.arg0 + d.len then c.finish r stRange d.len
  else if (match c.host.commitRing.or c.host.loadRing with | some q => q != r | none => false) then c.finish r stBusy d.len
  else
    match data with
    | none => c.finish r stHostErr d.len
    | some bs =>
      let c := if c.host.loadRing.isNone then c.openLoad r else c
      c.engineJob { ring := r, n := d.n, tag := d.tag, irq := d.dflags.testBit 0, purpose := .chunk, srcSp := 0, dstSp := 5,
                    len := d.len, src := d.addr, dst := 0x0E000000 + d.arg0 } bs

def execImageChunk (r : RingNo) (data : Option (List Byte)) : State → Host.Outcome State Fault Refusal :=
  act (fun c => c.exec r.val 0x01 (doImageChunk r.val data))

/-! ### BANK_LOAD (R172, R369) -/

/-- The target of a bank command is in the part, unfused, and the image places its banks (R28; DEDUCED, notes/assumptions/31.md). -/
def Core.bankPlaced (c : Core) (t : Nat) : Bool :=
  decide (t ≤ 11 ∧ bankDie t < c.part.dies) && !c.part.beamFused &&
  (match c.img with | some i => i.beam.isSome | none => false)

/-- The bank may not be loaded while the schedule runs (R172). -/
def Core.bankInUse (c : Core) (t : Nat) (b : Bool) : Bool :=
  c.running && ((c.target t).activeB == b || (c.target t).swap.isSome)

/-- BANK_LOAD. -/
def doBankLoad (r : Nat) (data : Option (List Byte)) (d : Desc) (c : Core) : Core :=
  let t := d.arg0 % 16
  let b := d.arg0.testBit 4
  if c.bankPlaced t = false ∨ d.len ≠ bankSize t then c.finish r stInvalid d.len
  else if c.domOn (71 + 35 * bankDie t) = false then c.finish r stMode d.len
  else if c.bankInUse t b then c.finish r stInUse d.len
  else
    match data, c.img with
    | some bs, some i =>
      let c := c.setBank t b .loading
      c.engineJob { ring := r, n := d.n, tag := d.tag, irq := d.dflags.testBit 0, purpose := .bank t b, srcSp := 0,
                    dstSp := 1 + bankDie t, len := d.len, src := d.addr, dst := i.beams.bankAddr t b } bs
    | _, _ => c.finish r stHostErr d.len

def execBankLoad (r : RingNo) (data : Option (List Byte)) : State → Host.Outcome State Fault Refusal :=
  act (fun c => c.exec r.val 0x05 (doBankLoad r.val data))

/-! ### GAIN_STEP (R98) -/

/-- GAIN_STEP: the list is fetched into the step buffer, then judged. -/
def doGainStep (r : Nat) (data : Option (List Byte)) (d : Desc) (c : Core) : Core :=
  if d.len % 8 ≠ 0 ∨ d.len < 8 ∨ 524288 < d.len then c.finish r stInvalid
  else if c.running = false ∧ c.starting = false then
    ((c.raise (.fst 0) 4).report (.fst 0) 0x23 clsN 0).finish r stMode
  else
    match data with
    | none => c.finish r stHostErr
    | some bs => c.engineJob { ring := r, n := d.n, tag := d.tag, irq := d.dflags.testBit 0, purpose := .gain d.arg1,
                               srcSp := 0, dstSp := 5, len := d.len, src := d.addr, dst := 0x0DE00000 } bs

def execGainStep (r : RingNo) (data : Option (List Byte)) : State → Host.Outcome State Fault Refusal :=
  act (fun c => c.exec r.val 0x04 (doGainStep r.val data))

/-! ### INSPECT_READ (R369) -/

/-- INSPECT_READ. -/
def doInspectRead (r : Nat) (d : Desc) (c : Core) : Core :=
  let die := d.arg0 % 4
  if c.power.mode ≠ .inspect then c.finish r stMode d.len
  else
    match c.hbmObject die (bits d.arg0 4 2) (bits d.arg0 5 5) (bits d.arg0 19 6) with
    | some (a, size) =>
      if size < d.arg1 + d.len then c.finish r stInvalid d.len
      else c.engineJob { ring := r, n := d.n, tag := d.tag, irq := d.dflags.testBit 0, purpose := .inspectRead,
                         srcSp := 1 + die, dstSp := 0, len := d.len, src := a + d.arg1, dst := d.addr } []
    | none => c.finish r stInvalid d.len

def execInspectRead (r : RingNo) : State → Host.Outcome State Fault Refusal :=
  act (fun c => c.exec r.val 0x0C (doInspectRead r.val))

/-! ### Bursts and stops -/

/-- DMA_BURST. -/
def execDmaBurst (ch : Fin 64) (b : BurstIn) : State → Host.Outcome State Fault Refusal :=
  act (fun c => c.burst ch.val b.data b.ce b.ue)

/-- ABORT (R385). -/
def doAbort (ch : Fin 64) (c : Core) : Core := c.abortJob ch.val

def execAbort (ch : Fin 64) : State → Host.Outcome State Fault Refusal :=
  regCmd (.abort ch) (.dma ch.val) (doAbort ch)

/-- DMAG_CLR_CNT (R389). -/
def doDmagClrCnt (c : Core) : Core := c.clear .dmag [0x050, 0x054, 0x058, 0x05C]

def execDmagClrCnt : State → Host.Outcome State Fault Refusal :=
  regCmd .dmagClrCnt .dmag doDmagClrCnt

end Sys2Proof.Machine
end

