-- ==== Sys2Proof/Machine/Bar2.lean ====
section
/-! DEFINITION. Machine/Bar2.lean: BAR2 accesses, the PCIe link, and INSPECT fetches (R140, R142, R145, R355, R356, R359 to
R361, R390). -/

namespace Sys2Proof.Machine

/-! ### BAR2 (R359 to R361) -/

/-- The target and the address in it of a BAR2 offset; none where its segment is disabled. -/
def Core.bar2At (c : Core) (o : Nat) : Option (Nat × Nat) :=
  let x := c.rd .pciex (0x080 + 4 * (o / 2 ^ 32))
  if x.testBit 0 ∧ bits x 4 1 ≤ 8 then some (bits x 4 1, bits x 9 5 * 2 ^ 32 + o % 2 ^ 32) else none

/-- First row of Table 15.4. -/
def Core.bar2Range (c : Core) : Core := ((c.inc .pciex 0x050).raise .pciex 1).report .pciex 0x09 clsN 0

/-- BAR2 is served at all: the link is up, and the function is in D0. -/
def Core.bar2On (c : Core) : Bool := c.host.linkUp && c.host.d3.isNone

/-- The origin of a BAR2 write to HBM. -/
def AsyncReq.bar2Write? (q : AsyncReq) : Option Nat :=
  match q.origin with
  | .bar2 id => if q.write then some id else none
  | _ => none

/-- The BAR2 writes to a die that have not been applied: to its HBM, and to its SRAM. -/
def Core.bar2Writing (c : Core) (x : Nat) : List Nat :=
  (if x < 4 then ((c.stack (2 * x)).queue ++ (c.stack (2 * x + 1)).queue).filterMap AsyncReq.bar2Write? else []) ++
  c.host.bar2W.filterMap (fun e => if targetChip e.target = x ∧ e.data.isSome then some e.id else none)

/-- The queue of 512 BAR2 writes to a die is full (R360). -/
def Core.bar2Full (c : Core) (x : Nat) : Bool := decide (512 ≤ (c.bar2Writing x).eraseDups.length)

/-- The completion of a BAR2 read (R361): the bytes, poisoned bytes, or Completer Abort. -/
def Core.bar2Reply (c : Core) (o : Nat) (data : List Byte) (bad : Bool) : Core :=
  if bad = false then c.emit (.bar2 o (some data) false)
  else if (c.rd .pciex 0x048).testBit 0 then (c.inc .pciex 0x054).emit (.bar2 o (some data) true)
  else c.aborts (.bar2 o none false)

/-- A waiting access to SRAM may be served now: its window is open, no earlier one to the die waits, and a read follows every
write to the die (R360). -/
def Core.bar2Ready (c : Core) (e : Bar2Op) : Bool :=
  c.winOpen (targetChip e.target) 33 &&
  !c.host.bar2W.any (fun f => targetChip f.target == targetChip e.target && decide (f.id < e.id)) &&
  (e.data.isSome || (c.bar2Writing (targetChip e.target)).all (fun n => decide (e.id < n)))

/-- An access to SRAM is served. -/
def Core.bar2Serve (c : Core) (e : Bar2Op) : Core :=
  match e.data with
  | some bs => (c.guardNotes .pciex e.target e.at_ bs.length true).sramHostPut e.target e.at_ bs
  | none =>
    let r := c.sramRead e.target e.at_ e.len e.ce e.ue
    r.1.bar2Reply e.addr r.2.1 r.2.2

/-- Every waiting access to SRAM that may be served now, oldest first. -/
def Core.bar2Run (c : Core) : Core :=
  c.host.bar2W.foldl (fun c e =>
    if c.bar2Ready e then { c with host := { c.host with bar2W := c.host.bar2W.filter (fun f => f.id != e.id) } }.bar2Serve e
    else c) c

/-- A new access to SRAM waits for its turn, and is served at once where it may be. -/
def Core.bar2Put (c : Core) (e : Bar2Op) : Core :=
  { c with host := { c.host with asyncN := e.id + 1, bar2W := c.host.bar2W ++ [e] } }.bar2Run

/-- BAR2_READ. -/
def doBar2Read (o n : Nat) (ce ue : List Nat) (c : Core) : Core :=
  if c.bar2On = false then c
  else if c.host.heldQ.isEmpty = false then
    { c with host := { c.host with heldQ := c.host.heldQ ++ [(4, .bar2Read (Fin.ofNat _ o) ⟨n, ce, ue⟩)] } }
  else
    match c.bar2At o with
    | none => c.bar2Range.aborts (.bar2 o none false)
    | some (t, a) =>
      if c.targetOk t a n = false then c.bar2Range.aborts (.bar2 o none false)
      else if t < 4 then
        let c := c.guardNotes .pciex t a n false
        let id := c.host.asyncN
        let (c, k) := { c with host := { c.host with asyncN := id + 1 } }.enqueueAll t a n false false [] 0 (.bar2 id)
        { c with host := { c.host with bar2Q := c.host.bar2Q ++
          [{ id := id, addr := o, target := t, at_ := a, data := List.replicate n 0, left := k }] } }
      else c.bar2Put { id := c.host.asyncN, addr := o, target := t, at_ := a, data := none, len := n, ce := ce, ue := ue }

def execBar2Read (addr : Fin 68719476736) (n : Bar2Len) : State → Host.Outcome State Fault Refusal :=
  act (doBar2Read addr.val n.len n.ce n.ue)

/-- BAR2_WRITE. -/
def doBar2Write (o : Nat) (bs : List Byte) (c : Core) : Core :=
  if c.bar2On = false then c
  else
    match c.bar2At o with
    | none => c.bar2Range
    | some (t, a) =>
      if c.targetOk t a bs.length = false then c.bar2Range
      else if c.host.heldQ.isEmpty = false ∨ c.bar2Full (targetChip t) then
        { c with host := { c.host with heldQ := c.host.heldQ ++ [(Fin.ofNat 5 (targetChip t), .bar2Write (Fin.ofNat _ o) bs)] } }
      else if t < 4 then
        let c := c.guardNotes .pciex t a bs.length true
        (c.hbmHostPut t a bs false (.bar2 c.host.asyncN)).1
      else c.bar2Put { id := c.host.asyncN, addr := o, target := t, at_ := a, data := some bs, len := bs.length, ce := [], ue := [] }

def execBar2Write (addr : Fin 68719476736) (data : List Byte) : State → Host.Outcome State Fault Refusal :=
  act (doBar2Write addr.val data)

/-- The access that flow control holds first moves on where its queue has room; one that is held still comes back as it was. -/
def Core.heldMove1 (c : Core) : Core :=
  match c.host.heldQ with
  | [] => c
  | (x, i) :: rest =>
    let d := { c with host := { c.host with heldQ := [] } }
    let back (d : Core) : Core := { d with host := { d.host with heldQ := d.host.heldQ ++ rest } }
    match i with
    | .bar2Write a bs => if c.bar2Full x.val then c else back (doBar2Write a.val bs d)
    | .bar2Read a n => back (doBar2Read a.val n.len n.ce n.ue d)
    | i => if 256 ≤ c.postedN x.val then c else back (d.post x.val i)

/-- Everything that flow control holds moves on as far as there is room (R264, R360). -/
def Core.heldMove (c : Core) : Core := (List.range c.host.heldQ.length).foldl (fun c _ => c.heldMove1) c

/-- Windows have opened: the BAR2 accesses to SRAM that wait are served, and what flow control holds moves on (R264, R360). -/
def Core.asyncOpen (c : Core) : Core := c.bar2Run.heldMove

/-- A piece of a BAR2 read was served; the last one sends the completion (R361). -/
def Core.bar2Piece (c : Core) (id : Nat) (r : AsyncReq) (bs : List Byte) (bad : Bool) : Core :=
  match c.host.bar2Q.find? (fun b => b.id == id) with
  | none => c
  | some b =>
    let b := { b with data := splice b.data r.off bs, left := b.left - 1, bad := b.bad || bad }
    if b.left ≠ 0 then
      { c with host := { c.host with bar2Q := c.host.bar2Q.map (fun x => if x.id = id then b else x) } }
    else
      let c := { c with host := { c.host with bar2Q := c.host.bar2Q.filter (fun x => x.id != id) } }
      c.bar2Reply b.addr (blank (c.denied b.target) b.at_ b.data) b.bad

/-! ### INSPECT fetches (R142, R145) -/

/-- The die that INSP_SEL names. -/
def Core.inspDie (c : Core) (i : Nat) : Nat := c.rd (.insp i) 0x040 % 4

/-- An entry's 8 or 4 bytes of a cell object (R142). -/
def Tile.bytes (t : Tile) (off n : Nat) : List Byte :=
  (List.range (n / 8)).flatMap (fun x =>
    let e := SMap.get (fun _ => (0, 0)) t.acc (off / 8 + x)
    leBytes 4 (ofInt 32 e.1) ++ leBytes 4 (ofInt 32 e.2))
def Tile.countBytes (t : Tile) (off n : Nat) : List Byte :=
  (List.range (n / 4)).flatMap (fun x => leBytes 4 (SMap.get (fun _ => 0) t.cnt (off / 4 + x)))

/-- Bytes of a cell's live array, shadow array, parked slot or count slot (R142). -/
def CellS.object (s : CellS) (kind slot : Nat) (off n : Nat) : List Byte :=
  if kind = 0 then s.live.bytes off n
  else if kind = 1 then s.shadow.bytes off n
  else if kind = 2 then ({ acc := SMap.get (fun _ => []) s.slots slot } : Tile).bytes off n
  else ({ cnt := (SMap.get (fun _ => (0, [])) s.counts slot).2 } : Tile).countBytes off n

/-- FETCH ends without a copy. -/
def Core.inspEnd (c : Core) (i : Nat) (f : InspS → InspS) : Core :=
  c.setInsp i (f { c.inspAt i with ready := false, denied := false, busyCell := false, badSel := false, data := [] })

/-- FETCH. While a copy of the window still runs it is ignored; a copy sets READY at its end though INSP_SEL or INSP_OFF was
written meanwhile; past the end of an HBM object the aperture holds zeros. DESIGN CHOICE, notes/assumptions/86.md -/
def doFetch (i : Nat) (c : Core) : Core :=
  let sel := c.rd (.insp i) 0x040
  let d := sel % 4
  let kind := bits sel 4 2
  let cell := bits sel 13 5
  let slot := bits sel 16 14
  let off := (c.rd (.insp i) 0x044 + 2 ^ 32 * c.rd (.insp i) 0x048) / 2048 * 2048
  let bad := c.inspEnd i (fun s => { s with badSel := true })
  if (c.inspAt i).run then c
  else if c.power.mode ≠ .inspect then (c.inspEnd i (fun s => { s with denied := true })).report (.insp i) 0x06 clsN 0
  else if c.part.dies ≤ d ∨ kind = 7 ∨ 384 ≤ cell then bad
  else if kind ≤ 3 then
    let size := if kind = 3 then 16384 else 32768
    if size ≤ off ∨ (kind = 2 ∧ 6 ≤ slot) ∨ (kind = 3 ∧ 2 ≤ slot) then bad
    else if (c.chanter d).st ≠ .held then c.inspEnd i (fun s => { s with busyCell := true })
    else
      let x := SMap.get (fun _ => {}) (c.xdie d).cells cell
      c.inspEnd i (fun s => { s with run := true, data := x.object kind slot off 2048 })
  else
    match c.hbmObject d kind (bits sel 17 17) (bits sel 31 18) with
    | none => bad
    | some (a, size) =>
      if size ≤ off then bad
      else
        let n := min 2048 (size - off)
        let c := c.inspEnd i (fun s => { s with run := true, data := List.replicate 2048 0 })
        (c.enqueueAll d (a + off) n true false [] 0 (.inspect i)).1

def execFetch (i : Fin 16) : State → Host.Outcome State Fault Refusal :=
  regCmd (.fetch i) (.insp i.val) (doFetch i.val)

/-- INSPECT_FETCH_DONE: the copy ends once every piece has been read. -/
def doFetchDone (i : Nat) (c : Core) : Core :=
  let s := c.inspAt i
  let waits := (List.range 8).any (fun k => (c.stack k).queue.any (fun r => r.origin == .inspect i))
  if s.run ∧ waits = false then c.setInsp i { s with run := false, ready := true } else c

def execInspectFetchDone (i : Fin 16) : State → Host.Outcome State Fault Refusal := act (doFetchDone i.val)

/-- A piece of an INSPECT fetch was read; an uncorrectable word reads 0 (Table 14.3). -/
def Core.inspPiece (c : Core) (i : Nat) (r : AsyncReq) (bs : List Byte) : Core :=
  c.setInsp i { c.inspAt i with data := splice (c.inspAt i).data r.off bs }

/-- INSPECT_SELECT: INSP_SEL, INSP_OFF_LO, INSP_OFF_HI. -/
def doInspSelect (i reg v : Nat) (c : Core) : Core :=
  (c.wr (.insp i) (0x040 + 4 * reg) v).setInsp i { c.inspAt i with ready := false }

def execInspectSelect (i : Fin 16) (reg : Fin 3) (v : Word) : State → Host.Outcome State Fault Refusal :=
  regCmd (.inspectSelect i reg v) (.insp i.val) (doInspSelect i.val reg.val v.toNat)

/-! ### The PCIe link (R355, R356, R390) -/

/-- A link setting that Table 15.1 lists: generation, width, MPS code. -/
def linkOk (gen width : Nat) : Bool := decide (1 ≤ gen ∧ gen ≤ 6) && ([1, 2, 4, 8, 16] : List Nat).elem width

/-- LINK_CHANGE. -/
def doLinkChange (gen width mps : Nat) (c : Core) : Core :=
  if c.host.linkUp ∧ linkOk gen width then
    let c := { c with host := { c.host with gen := gen, width := width, mps := mps } }
    (c.raise .pciex 0).report .pciex 0x90 clsN 0
  else c

def execLinkChange (gen width : Nat) (mps : Fin 3) : State → Host.Outcome State Fault Refusal :=
  act (doLinkChange gen width mps.val)

/-- PCIE_LINK_UP: not in SHELVED, and with PERST_N deasserted (R278, R355). -/
def doLinkUp (gen width mps : Nat) (c : Core) : Core :=
  if c.host.linkUp = false ∧ linkOk gen width ∧ c.perst = false ∧ c.power.mode ≠ .shelved ∧ c.domOn 34 then
    { c with host := { c.host with linkUp := true, gen := gen, width := width, mps := mps } }
  else c

def execPcieLinkUp (gen width : Nat) (mps : Fin 3) : State → Host.Outcome State Fault Refusal :=
  act (doLinkUp gen width mps.val)

/-- PCIEX_CLR_CNT. -/
def doPciexClrCnt (c : Core) : Core := c.clear .pciex [0x050, 0x054]

def execPciexClrCnt : State → Host.Outcome State Fault Refusal :=
  regCmd .pciexClrCnt .pciex doPciexClrCnt

end Sys2Proof.Machine
end

