-- ==== Sys2Proof/Machine/FrameOps.lean ====
section
/-! DEFINITION. Machine/FrameOps.lean: the bytes of Epuward frames and the counters of the egress stages (R158, R159, R163,
Tables 7.6, 7.9, 7.10). -/

namespace Sys2Proof.Machine

/-- The first 60 bytes of a frame's header (Table 7.1). -/
def Frame.head (f : Frame) : List Byte :=
  leBytes 2 0xE9A7 ++ leBytes 1 1 ++ leBytes 1 f.type ++ leBytes 2 f.flags ++ leBytes 2 f.source ++
  leBytes 4 (64 + f.payload.length) ++ leBytes 4 f.tag ++ leBytes 8 f.seq ++ leBytes 8 f.launchS ++ leBytes 4 f.launchNs ++
  leBytes 4 (crc32c f.payload).toNat ++ slice f.hdr 0 16 ++ leBytes 1 f.origin ++ leBytes 3 0

/-- A whole frame, HCRC computed as it leaves (R159). -/
def Frame.bytes (f : Frame) : List Byte := withCrcHead f.head ++ f.payload
where
  withCrcHead (h : List Byte) : List Byte := h ++ leBytes 4 (crc32c h).toNat

/-- A payload padded to a multiple of 8 B (R158). -/
def pad8 (bs : List Byte) : List Byte := bs ++ List.replicate ((8 - bs.length % 8) % 8) 0

/-- TYPE and TYPE_HDR of the bytes of a frame. -/
def frameType (bs : List Byte) : Nat := leAt bs 3 1
def frameHdr (bs : List Byte) : List Byte := slice bs 40 16

/-- One Notice of a kind per die and integration (R163). -/
def Core.frameNotice (c : Core) (d kind : Nat) : Core :=
  if (c.xdie d).noticed.elem kind then c
  else (c.modX d (fun x => { x with noticed := kind :: x.noticed })).report (.xdie d) kind clsN 0

/-- The visibility and weight frames of an integration of die `d`. -/
def Image.drainFrames (i : Image) (nd d : Nat) : Nat :=
  (i.plan.owned nd d).length * cdiv i.plan.nBl (2 ^ i.plan.visLog) +
  (i.plan.homeUnits nd d).length * cdiv i.plan.nBl 16384

/-- A frame has left or was discarded; DRAIN_DONE when every frame of its integration has (Table 7.10). -/
def Core.settle (c : Core) (d type : Nat) (hdr : List Byte) : Core :=
  match c.img with
  | none => c
  | some i =>
    if type = 0 ∨ 3 < type then c
    else
      let k := leAt hdr 0 8
      let n := SMap.get (fun _ => 0) (c.xdie d).left k + 1
      if n = i.drainFrames c.part.dies d then
        (c.modX d (fun x => { x with left := SMap.erase x.left k, drained := some k })).raise (.xdie d) 1
      else c.modX d (fun x => { x with left := SMap.set (fun _ => 0) x.left k n })

/-- Stage 1, and Mute under a Fatal fault. -/
def Core.frameMuted (c : Core) (d type : Nat) (hdr : List Byte) : Core := (c.inc (.xdie d) 0x260).settle d type hdr
/-- Stage 2. -/
def Core.frameFull (c : Core) (d type : Nat) (hdr : List Byte) : Core :=
  (((c.inc (.xdie d) 0x254).raise (.xdie d) 3).report (.xdie d) 0x40 clsD 0).settle d type hdr
/-- Stage 3: late and dropped. -/
def Core.frameLateDrop (c : Core) (d type : Nat) (hdr : List Byte) : Core :=
  (((c.inc (.xdie d) 0x24C).raise (.xdie d) 2).frameNotice d 0x42).settle d type hdr
/-- Stage 6. -/
def Core.framePathDown (c : Core) (d type : Nat) (hdr : List Byte) : Core :=
  (((c.inc (.xdie d) 0x258).raise (.xdie d) 3).frameNotice d 0x44).settle d type hdr
/-- Stage 7. -/
def Core.frameRingFull (c : Core) (d type : Nat) (hdr : List Byte) : Core :=
  (((c.inc (.xdie d) 0x250).raise (.xdie d) 3).frameNotice d 0x43).settle d type hdr
/-- Stage 8. -/
def Core.frameSent (c : Core) (d type : Nat) (hdr : List Byte) : Core := (c.inc64 (.xdie d) 0x240).settle d type hdr
/-- A drain read that was not made (R156). -/
def Core.drainMissed (c : Core) (d type : Nat) (hdr : List Byte) : Core :=
  (((c.inc (.xdie d) 0x25C).raise (.xdie d) 4).report (.xdie d) 0x41 (if (c.chanter d).st = .held then clsN else clsD) 0).settle d
    type hdr

end Sys2Proof.Machine
end

