-- ==== Sys2Proof/Machine/TimeOps.lean ====
section
/-! DEFINITION. Machine/TimeOps.lean: the states of the DPLL, the choice of the active reference, and Slide (R306 to R315,
R321). -/

namespace Sys2Proof.Machine

def Core.modTime (c : Core) (f : TimeS → TimeS) : Core := { c with time := f c.time }

/-- The timing domain is powered and out of reset. -/
def Core.timeOn (c : Core) : Bool := c.pageReady (.time 0)

/-- The phase error of the active reference is pulled at SLOPE, or no longer (R312); the second is then none of R313. -/
def TimeS.pull (t : TimeS) (b : Bool) : TimeS := { t with pulling := b, clean := t.clean && !b }

/-! ### DPLL states (R310 to R314) -/

/-- The frequency that HOLDOVER holds: the mean of the last HOLD_AVG seconds kept, or the one in force (R313). -/
def Core.holdFreq (c : Core) : Int :=
  let l := c.time.freqLog.take (max 10 (min 1000 (bits (c.rd (.time 0) 0x04C) 15 0)))
  if l.isEmpty then c.time.freqOff else rneDiv (sumI l) l.length

/-- Enter a DPLL state: STATE_CHANGE, and the reports of Table 13.4. -/
def Core.setDpll (c : Core) (st : DpllSt) : Core :=
  if c.time.dpll = st then c
  else
    let held := c.holdFreq
    let c := (c.modTime (fun t => { t with dpll := st, pulling := false, clean := false })).raise (.time 0) 0
    match st with
    | .holdover => (c.modTime (fun t => { t with holdTime := 0, freqOff := held })).report (.time 0) 0x73 clsN 0
    | .lost => c.report (.time 0) 0x74 c.clsDN 0
    | _ => c

/-- OSC_CFG.OSC_EN. -/
def Core.oscEn (c : Core) : Bool := bit (c.rd (.time 0) 0x044) 0

/-- OSC_OK becomes 0: HOLDOVER becomes LOST (R311). -/
def Core.oscDown (c : Core) : Core :=
  let c := c.modTime (fun t => { t with oscOk := false })
  if c.time.dpll = .holdover then c.setDpll .lost else c

/-! ### References (R306 to R309) -/

/-- REF_CFGn and its ENABLE, FREQ in Hz and RANK (Table 13.11). -/
def Core.refCfg (c : Core) (n : Nat) : Nat := c.rd (.time 1) (0x040 + 32 * n)
def Core.refEn (c : Core) (n : Nat) : Bool := bit (c.refCfg n) 0
def Core.refHz (c : Core) (n : Nat) : Nat := if bit (c.refCfg n) 1 then 100000000 else 10000000
def Core.refRank (c : Core) (n : Nat) : Nat := bits (c.refCfg n) 4 3
/-- A field within its range: the nearer limit for a value outside it. -/
def within (lo hi v : Int) : Int := max lo (min hi v)
/-- REF_DELAYn in ps. -/
def Core.refDelay (c : Core) (n : Nat) : Int := within (-100000000) 100000000 (toInt 32 (c.rd (.time 1) (0x044 + 32 * n)))
/-- REF_QUALn. -/
def Core.refQual (c : Core) (n : Nat) : Nat := c.rd (.time 1) (0x048 + 32 * n)

/-- Change a reference; one that becomes eligible raises ELIGIBLE (Table 13.13). -/
def Core.modRef (c : Core) (n : Nat) (f : RefS → RefS) : Core :=
  let r := c.ref n
  let c := c.modTime (fun t => { t with refs := t.refs.set n (f r) })
  if (f r).eligible ∧ r.eligible = false then c.raise (.time 1) 3 else c

/-- The reference that the rules of R308 choose. -/
def Core.chooseRef (c : Core) : Option Nat :=
  let el := ([0, 1, 2, 3] : List Nat).filter (fun n => (c.ref n).eligible)
  let sel := c.rd (.time 0) 0x050
  let best := el.foldl (fun (b : Option Nat) n =>
    match b with
    | none => some n
    | some o => if c.refRank n < c.refRank o then some n else b) none
  if bit sel 0 ∧ el.elem (bits sel 2 1) then some (bits sel 2 1)
  else
    match c.time.active, best with
    | some a, some b => if el.elem a ∧ c.refRank a ≤ c.refRank b then some a else some b
    | _, b => b

/-- Re-evaluate the active reference, with the transitions of Table 13.3 (R308, R311). -/
def Core.selectRef (c : Core) : Core :=
  let old := c.time.active
  let new := c.chooseRef
  let c' := c.modTime (fun t => { t with active := new, phaseErr := match new with
    | some n => (c.ref n).phase
    | none => t.phaseErr })
  match old, new with
  | some a, some b =>
    if a = b then c
    else
      let c' := ((c'.inc (.time 0) 0x0CC).raise (.time 0) 1).report (.time 0) 0x71 clsN b
      if c'.time.dpll = .locked then c'.modTime (·.pull true) else c'
  | none, some _ =>
    (match c.time.dpll with
     | .freerun => (c'.modTime (fun t => { t with acqFrom := .freerun })).setDpll .acquiring
     | .lost => (c'.modTime (fun t => { t with acqFrom := .lost })).setDpll .acquiring
     | .holdover => (c'.setDpll .locked).modTime (·.pull true)
     | _ => c')
  | some _, none =>
    (match c.time.dpll with
     | .acquiring => c'.setDpll c.time.acqFrom
     | .locked => c'.setDpll (if c.time.oscOk then .holdover else .lost)
     | _ => c')
  | none, none => c

/-- A reference fails the test of a FAIL_CODE: disqualified at once; marks of a dispute that it was part of clear; the
loss of the active one re-evaluates the choice (R306, R308, R309). -/
def Core.refFails (c : Core) (n code : Nat) : Core :=
  let was := (c.ref n).qual
  let c := c.modRef n (fun r => { r with fail := code, qual := false, inWtr := false, wtrLeft := 0, disputed := false,
                                         calm := 0, disqual := if was then min (r.disqual + 1) m32 else r.disqual })
  if was then
    let c := ([0, 1, 2, 3] : List Nat).foldl (fun c m =>
      if (c.ref m).disputed ∧ (c.ref m).vs = n then c.modRef m (fun r => { r with disputed := false, calm := 0 }) else c) c
    let c := (c.raise (.time 1) 0).report (.time 1) 0x70 clsN n
    if c.time.active = some n then c.selectRef else c
  else c

/-! ### Slide (R321) -/

/-- The TC, in ns, of the millisecond boundary that comes next. -/
def TimeS.nextMs (t : TimeS) : Nat :=
  let b := cdiv t.tcNs 1000000 * 1000000
  if b ≤ t.slewAt then (t.slewAt / 1000000 + 1) * 1000000 else b

/-- ACT of a correction, in 2^-16 ns of ATB (Table 13.5). -/
def SlideReq.act (q : SlideReq) : Int := ((q.actS * 1000000000 + q.actNs) * 65536 : Nat)

/-- A due correction activates: it adds to the remainder and replaces the step. -/
def TimeS.activate (t : TimeS) : TimeS :=
  match t.pend with
  | some q => if q.act ≤ t.atb then { t with rem := t.rem + q.off, sstep := q.step, pend := none } else t
  | none => t

/-- The step `s` of a remainder: at most `st` of it, toward 0. -/
def slewStep (st : Nat) (r : Int) : Int := if 0 < r then min (st : Int) r else if r < 0 then -(min (st : Int) (-r)) else 0

/-- One slew step begins at TC. -/
def TimeS.slewFrom (t : TimeS) : TimeS :=
  let s := slewStep t.sstep t.rem
  { t with ak := t.acc, slewAt := t.tcNs, slew := s, rem := t.rem - s }

/-- The boundary that comes next: TC stands there, a due correction activates, and one slew step begins. -/
def TimeS.boundary (t : TimeS) : TimeS := ({ t with tc := t.nextMs * 65536 } : TimeS).activate.slewFrom

/-- The boundary raises SLIDE_DONE: the remainder was not 0, or a correction activated, and it is 0 now. -/
def TimeS.slideDone (t : TimeS) : Bool :=
  let u := t.boundary
  u.rem == 0 && (t.rem != 0 || t.pend.isSome && u.pend.isNone)

/-- The timing unit as it stands once TC reaches `tc` (2^-16 ns), through the boundaries on the way, with fuel. -/
def TimeS.runTo : Nat → TimeS → Nat → TimeS
  | 0, t, tc => { t with tc := tc }
  | f + 1, t, tc =>
    if t.rem = 0 ∧ t.slew = 0 ∧ t.pend.isNone then { t with tc := tc }
    else if t.nextMs * 65536 ≤ tc then TimeS.runTo f t.boundary tc
    else { t with tc := tc }

/-- The fuel to TC `ns`. -/
def TimeS.fuelTo (t : TimeS) (ns : Nat) : Nat := ns / 1000000 - t.tcNs / 1000000 + 2

/-- A boundary on the way raises SLIDE_DONE, with fuel. -/
def TimeS.doneTo : Nat → TimeS → Nat → Bool
  | 0, _, _ => false
  | f + 1, t, tc =>
    if t.rem = 0 ∧ t.slew = 0 ∧ t.pend.isNone then false
    else t.nextMs * 65536 ≤ tc && (t.slideDone || TimeS.doneTo f t.boundary tc)

/-- TC, in ns, runs on, with what the boundaries on the way do. -/
def Core.timeTo (c : Core) (ns : Nat) : Core :=
  let t := c.time
  if ns ≤ t.tcNs then c
  else
    let c := c.modTime (fun t => t.runTo (t.fuelTo ns) (ns * 65536))
    if t.doneTo (t.fuelTo ns) (ns * 65536) then c.raise (.time 2) 0 else c

/-- ATB in 2^-16 ns at a TC. -/
def TimeS.atbAt (t : TimeS) (tc : Nat) : Int := (t.runTo (t.fuelTo (tc / 65536)) tc).atb

end Sys2Proof.Machine
end

