-- ==== Sys2Proof/Machine/Flags.lean ====
section
/-! DEFINITION. Machine/Flags.lean: WFLAGS, frame FLAGS, the contract monitor's report, and the queueing of scheduled frames
(R156, R158 to R165, R268 to R270, Tables 7.4, 8.7, 9.4). -/

namespace Sys2Proof.Machine

/-! ### WFLAGS (Table 7.5) -/

/-- The window holds unsettled spectra (R89, R94). -/
def Plan.unsettled (p : Plan) (w : Nat) : Bool :=
  w == 0 || (List.range p.zooms.length).any (fun b =>
    let z := nth {} p.zooms b
    decide (w * p.rows (p.zoomBase b) < z.unsettled))

/-- CONTRACT is set in every frame of a run that INSPECT has held (R249). -/
def wfContract : Nat := 4
def wfLost : Nat := 32

/-- A run of blocks meets the blocks `a` to `b`. -/
def spanHit (l : List (Nat × Nat)) (a b : Nat) : Bool := l.any (fun e => decide (e.1 ≤ b ∧ a ≤ e.2))

/-- Blocks of a window (R66). -/
def Plan.winBlks (p : Plan) : Nat := p.L * p.P / 256

/-- WFLAGS of window `w` on die `d`; `rec` are the CONTRACT and LOST bits that the die noted. -/
def Core.wflags (c : Core) (d w noted : Nat) : Nat :=
  let p := match c.img with
    | some i => i.plan
    | none => {}
  let in_ (l : List (Nat × Nat)) : Nat := b2n (spanHit l (p.b0 + w * p.winBlks) (p.b0 + (w + 1) * p.winBlks - 1))
  noted ||| b2n (c.chan.gstepWins.elem w) ||| fld (in_ c.chan.slipBlks) 1 1 |||
  fld (b2n c.power.stepped) 1 2 ||| fld (in_ c.chan.holdBlks) 1 3 |||
  fld (b2n ((c.xdie d).lateWins.elem w)) 1 4 ||| fld (b2n (p.unsettled w)) 1 6

/-- Note CONTRACT or LOST in the window that die `d` reads. -/
def Core.noteFlag (c : Core) (d f : Nat) : Core :=
  c.modX d (fun x => { x with winrec := { x.winrec with flags := x.winrec.flags ||| f } })

/-- WFLAGS of the window that die `d` reads now. -/
def Core.wflagsNow (c : Core) (d : Nat) : Nat := c.wflags d (c.chanter d).window (c.xdie d).winrec.flags

/-- The end of a window of die `d`: its flags enter the integration's, and a new integration begins after the last. -/
def Core.winrecNext (c : Core) (d ints : Nat) : Core :=
  let t := c.chanter d
  let f := c.wflagsNow d
  let sk := t.mask != 0
  c.modX d (fun x =>
    let r := x.winrec
    let last := (t.window + 1) % max ints 1 == 0
    { x with winrec := {
        flags := 0, skipped := false,
        integ := if last then 0 else r.integ ||| f, lastInteg := if last then r.integ ||| f else r.lastInteg,
        intSkipped := !last && (r.intSkipped || sk),
        lastSkipped := if last then r.intSkipped || sk else r.lastSkipped } })

/-- FLAGS [5:2] and [7] of the frames of integration `q` of die `d` (Table 7.4). -/
def Core.visFlags (c : Core) (d q ints : Nat) : Nat :=
  let r := (c.xdie d).winrec
  let t := c.chanter d
  let cur := t.window / max ints 1 == q
  let f := if cur then r.integ ||| c.wflagsNow d else r.lastInteg
  let sk := if cur then r.intSkipped || t.mask != 0 else r.lastSkipped
  fld (f % 2) 1 2 + fld (b2n sk) 1 3 + fld (f / 2) 1 4 + fld (b2n (c.power.stepped || (f / 4) % 2 == 1)) 1 5 + fld (f / 8) 1 7

/-! ### The contract monitor (R268, R269) -/

/-- The page of a Chanter: 0 to 3 the X dies, 4 the IO die. -/
def chanterPage (x : Nat) : PageKind := if x = 4 then .chn else .xchn x

/-- What a miss counts as. -/
inductive Miss where
  | start | deadline | read | forced | mask
deriving DecidableEq, Repr

/-- FLAGS.CONTRACT of a beam frame (Table 8.7). -/
def frameContract : Nat := 32

/-- Beam frames whose rows are in hand at a miss carry CONTRACT (R269, Table 8.7). -/
def Core.missRows (c : Core) (d n : Nat) : Core :=
  c.modX d (fun x => { x with
    lastMiss := max x.lastMiss (n + 1),
    area := x.area.map (fun a => if a.from_ ≤ n ∧ n ≤ a.to_ then { a with flags := a.flags ||| frameContract } else a),
    volt := x.volt.map (fun e => (e.1, if e.2.from_ ≤ n then { e.2 with flags := e.2.flags ||| frameContract } else e.2)),
    det := x.det.map (fun e => (e.1, if e.2.from_ ≤ n then { e.2 with flags := e.2.flags ||| frameContract } else e.2)) })

/-- A miss on die `x`: counted, FIRST_MISS where it is the first since the start, CONTRACT in the window, and the report:
a Notice while the X Chanters are held (R249). `kind` is that of FIRST_MISS. A frame read or a forced refresh has a report of its
own (Table 11.5). -/
def Core.breach (c : Core) (x : Nat) (m : Miss) (kind pc scyc : Nat) : Core :=
  let k := chanterPage x
  let c := match m with
    | .start => c.inc k 0x184
    | .deadline => c.inc k 0x188
    | .read => c.inc k 0x188
    | .forced => c
    | .mask => (c.inc k 0x184).inc k 0x190
  let c := if bit (c.rd k 0x180) 6 then c
    else ((c.wr k 0x180 64).wr k 0x198 (pc % 65536 + kind * 65536)).wr64 k 0x19C scyc
  let c := if x < 4 then (c.noteFlag x wfContract).missRows x scyc else c
  match c.img with
  | some i =>
    if m = .forced ∨ m = .read then c
    else c.report k 0x50 (if (c.chanter x).st = .held then clsN else clsD) (i.plan.start + scyc / i.dieM x)
  | none => c

/-! ### Launch times (R270, R275) -/

/-- ATB in 2^-16 ns at die cycle `n` since T0 of Chanter `x`, a fractional ns truncated. -/
def Core.atbOfCycle (c : Core) (i : Image) (x n : Nat) : Int :=
  let f := i.dieClk x
  c.time.atbAt (c.time.t0Tc * 65536 + n * 1000000000 * 65536 * f.2 / f.1)

/-- LAUNCH of a read that completes at a cycle: truncated to the ns, plus LAUNCH_DELAY; in ns. -/
def Core.launchOf (c : Core) (i : Image) (x n : Nat) : Nat := (c.atbOfCycle i x n / 65536).toNat + i.plan.delay

/-! ### Scheduled frames into the egress queue (R163, R164) -/

/-- The egress queue of a die. -/
def egressSize : Nat := 4194304

/-- The generation of the ring that a destination entry names, captured at the schedule start (R373). -/
def Core.destGen (c : Core) (dest : Nat) : Nat :=
  if dest.testBit 15 then SMap.get (fun _ => 0) c.host.gens (dest % 4096) else 0

/-- The key of a destination: one PCIe ring or one lane. -/
def destKey (dest : Nat) : Nat := if dest.testBit 15 then 32768 + dest % 4096 else dest % 256

/-- The read that completes at (done, die) comes after (done', die') (R164). -/
def after (a b : Nat × Nat) : Bool := decide (b.1 < a.1 ∨ (b.1 = a.1 ∧ b.2 < a.2))

/-- SEQ of a frame of die `d` whose read completes at cycle `done`: the frames of the destination that complete later and
were issued before it move up by one (R164). -/
def Core.takeSeq (c : Core) (dest d done : Nat) : Nat × Core :=
  let key := destKey dest
  let n := SMap.get (fun _ => 0) c.host.seqs key
  let later := (c.host.seqOpen.filter (fun e => e.1 == key && after e.2 (done, d))).length
  let live := c.host.seqOpen.filter (fun e => (List.range c.part.dies).any (fun x => decide ((c.chanter x).scyc ≤ e.2.1)))
  let c := { c with host := { c.host with seqs := SMap.set (fun _ => 0) c.host.seqs key (n + 1),
                                          seqOpen := (key, done, d) :: live } }
  (n - later, (List.range 4).foldl (fun c x => c.modX x (fun y => { y with egress := y.egress.map (fun f =>
    if destKey f.dest = key ∧ after (f.done, x) (done, d) then { f with seq := f.seq + 1 } else f) })) c)

/-- A frame of `len` payload bytes, padded, is read by die `d`, complete at cycle `done`: stages 1 and 2 of Table 7.6, or it
is read and joins the queue in order of completion; an uncorrectable word discards it (Table 14.3). It has its SEQ in every
case (R163, R164). `read` gives the payload, FLAGS bits that depend on it, and whether a word was uncorrectable. -/
def Core.queueFrame (c : Core) (i : Image) (d : Nat) (f : Frame) (len done : Nat)
    (read : Core → Core × List Byte × Nat × Bool) : Core :=
  let (seq, c) := c.takeSeq f.dest d done
  if c.power.mute then c.frameMuted d f.type f.hdr
  else if egressSize < c.egressLevel d + 64 + len then c.frameFull d f.type f.hdr
  else
    let (c, bs, fl, bad) := read c
    if bad then c.drainMissed d f.type f.hdr
    else
      let l := c.launchOf i d done
      let f := { f with seq := seq, launchS := l / 1000000000, launchNs := l % 1000000000, payload := pad8 bs,
                        flags := f.flags ||| fl, source := c.rd (.xdie d) 0x20C % 65536, tag := i.tag, origin := d,
                        gen := c.destGen f.dest, done := done }
      let q := (c.xdie d).egress
      let c := c.modX d (fun x => { x with egress := q.filter (fun g => decide (g.done ≤ done)) ++ [f] ++
                                           q.filter (fun g => decide (done < g.done)) })
      c.wr (.xdie d) 0x234 (max (c.rd (.xdie d) 0x234) (c.egressLevel d))

/-- A scheduled read that was not made: its frame has its SEQ and is discarded (R156, R164). -/
def Core.missFrame (c : Core) (d : Nat) (dest type : Nat) (hdr : List Byte) (done : Nat) : Core :=
  (c.takeSeq dest d done).2.drainMissed d type hdr

end Sys2Proof.Machine
end

