-- ==== Sys2Proof/Machine/Registers.lean ====
section
/-! DEFINITION. Machine/Registers.lean: reads and writes of register pages: R9, R10, R264, R330, R358, R362, R395, R402 to
R405. -/

namespace Sys2Proof.Machine

/-! ### Reads -/

/-- The common page header (Table 16.7). -/
def Core.header (c : Core) (k : PageKind) (off : Nat) : Nat :=
  if off = 0x000 then k.type * 2 ^ 16 + k.instNo * 256 + 1
  else if off = 0x004 then
    fld (b2n (k.irqMask != 0)) 1 0 + fld (b2n (k.domain == none)) 1 1 + fld (b2n k.lockable) 1 2 +
      fld (b2n k.die?.isSome) 1 3 + fld (k.die?.getD 0) 2 4 + fld (k.domain.getD 0xFF) 8 8
  else if off = 0x00C then
    fld (b2n (c.pageReady k)) 1 0 + fld (b2n (c.busy k)) 1 1 + fld (b2n (SMap.get (fun _ => 0) c.faulted k.no != 0)) 1 2 +
      fld (b2n (c.powered k)) 1 3
  else c.rd k off

/-- The registers of page FLT that show the collector (Table 17.12). -/
def Collector.view (l : Collector) (off : Nat) : Option Nat :=
  let msg (r : Option FaultRec) (h : Nat) : Nat :=
    match r with
    | some r => r.msg.toNat / 2 ^ (32 * h) % 2 ^ 32
    | none => 0
  let ltb (r : Option FaultRec) (h : Nat) : Nat :=
    match r with
    | some r => r.ltb.toNat / 2 ^ (32 * h) % 2 ^ 32
    | none => 0
  if off = 0x040 then some (fld (b2n l.outN) 1 0 + fld (b2n l.outD) 1 1 + fld (b2n l.outS) 1 2 + fld (b2n l.latch) 1 3 +
    fld (b2n l.first.isSome) 1 4 + fld (b2n l.fatal.isSome) 1 5 + fld l.hist.length 6 8)
  else if off = 0x050 ∨ off = 0x054 then some (msg l.first ((off - 0x050) / 4))
  else if off = 0x058 ∨ off = 0x05C then some (ltb l.first ((off - 0x058) / 4))
  else if off = 0x060 ∨ off = 0x064 then some (msg l.fatal ((off - 0x060) / 4))
  else if off = 0x068 ∨ off = 0x06C then some (ltb l.fatal ((off - 0x068) / 4))
  else if off = 0x074 ∨ off = 0x078 then some (msg l.histSel ((off - 0x074) / 4))
  else if off = 0x07C ∨ off = 0x080 then some (ltb l.histSel ((off - 0x07C) / 4))
  else if off = 0x084 then some (match l.histSel with
    | some r => fld r.coalesced 16 0 + fld r.orig 2 16 + fld (b2n r.esc) 1 18 + 2 ^ 19
    | none => 0)
  else if off = 0x088 then some l.seq.toNat else none

/-- Registers that a read of their `_LO` partner snapshots (R330). -/
def PageKind.isSnap (k : PageKind) (off : Nat) : Bool :=
  match k with
  | .time 0 => off == 0x074 || off == 0x078 || off == 0x07C || off == 0x084 || off == 0x08C
  | .time 2 => off == 0x048 || off == 0x050
  | _ => false

/-- The registers that a read of an offset snapshots, with their present values (R330). -/
def Core.snapOf (c : Core) (k : PageKind) (off : Nat) : List (Nat × Nat) :=
  let t := c.time
  match k with
  | .time 0 =>
    if off = 0x070 then [(0x074, t.atbS / 2 ^ 32), (0x078, t.atbNs), (0x07C, t.atbFrac)]
    else if off = 0x080 then [(0x084, c.ltb / 2 ^ 32)]
    else if off = 0x088 then [(0x08C, ofInt 64 c.stb / 2 ^ 32)] else []
  | .time 2 =>
    if off = 0x044 then [(0x048, ofInt 64 t.acc / 2 ^ 32)]
    else if off = 0x04C then [(0x050, ofInt 64 t.rem / 2 ^ 32)] else []
  | _ => []

/-- What a read of a mapped register returns (R9, R10, R405). -/
def State.readReg (s : State) (k : PageKind) (off : Nat) : Nat :=
  let c := s.core
  (match k with
   | .doorbell b => (c.ring (1024 * b + off / 4)).head
   | _ =>
     if off < 0x020 then c.header k off
     else if c.powered k = false then 0
     else if k.isSnap off then (SMap.get (fun _ => (0 : Word)) c.snap (k.key off)).toNat
     else match (match k with
                 | .flt => s.col.view off
                 | .rst => if off = 0x044 then some ((c.rd .rst 0x044 &&& 0xEF) ||| fld (b2n s.col.latch) 1 4) else none
                 | _ => none) with
       | some v => v
       | none => (c.view k off).getD (c.rd k off)) % 2 ^ 32

/-- Take the snapshots of a read. -/
def Core.takeSnaps (c : Core) (k : PageKind) (off : Nat) : Core :=
  (c.snapOf k off).foldl (fun c e => { c with snap := SMap.set (fun _ => (0 : Word)) c.snap (k.key e.1) (word e.2) }) c

/-- A debug access may act (R434). -/
def Core.debugOpenFor (c : Core) (scope : Nat) : Bool := !c.otp.debugLock || c.dbg.open_ && c.dbg.scope.testBit scope

/-- The request word of a debug access (Table 17.10). -/
def debugReq (page off : Nat) (write : Bool) (v : Nat) : DWord :=
  BitVec.ofNat 64 (v % 2 ^ 32 + fld (off / 4) 10 34 + fld page 12 44 + fld (b2n write) 1 63)

/-- A debug access that cannot be served now waits as the debug port's request, where none waits yet (R264, R433). -/
def Core.debugWait (c : Core) (r : DWord) : Core :=
  if c.dbg.req.isSome then c
  else { c with dbg := { c.dbg with req := some r, done := false, error := false, denied := false } }

/-- A read of an INSPECT window's aperture outside INSPECT sets DENIED and raises a Notice (R140). -/
def Core.aperture (c : Core) (k : PageKind) (off : Nat) : Core :=
  match k with
  | .insp i =>
    if 0x800 ≤ off ∧ c.power.mode ≠ .inspect ∧ c.pageReady k then
      (c.setInsp i { c.inspAt i with denied := true }).report k 0x06 clsN 0
    else c
  | _ => c

/-- A read of a register is served for master `m`: the value, the snapshots that it takes, and its place in a lock. -/
def State.serveRead (s : State) (k : PageKind) (m page off : Nat) : State :=
  let v := word (s.readReg k off)
  s.onCore (fun c => (((c.lockAccess k m).takeSnaps k off).aperture k off).emit (.read page off (some v)))

/-- SNAPSHOT_READ: served now, or waiting for its window (R264). -/
def readAccess (m : Master) (page off : Fin 4096) (s : State) : State :=
  match pageAt s.core.part page.val with
  | none => s
  | some k =>
    if off.val % 4 ≠ 0 then s
    else match m with
      | .pcie =>
        (match s.core.route k with
         | .none => s
         | .queue => s.onCore (fun c => c.post k.chip (.snapshotRead .pcie page off))
         | .serve => s.serveRead k 0 page.val off.val)
      | .debug =>
        if s.core.debugOpenFor 0 = false then s
        else if s.core.debugServed k then s.serveRead k 1 page.val off.val
        else s.onCore (fun c => c.debugWait (debugReq page.val off.val false 0))
      | .setr => s
      | .drone => if s.core.lockedOut k 3 then s else s.serveRead k 3 page.val off.val

def execSnapshotRead (m : Master) (page off : Fin 4096) (s : State) : Host.Outcome State Fault Refusal :=
  .next (s.live (readAccess m page off))

/-- UNMAPPED_ACCESS: the default target (R395). -/
def doUnmapped (m : Master) (page off : Nat) (write : Bool) (c : Core) : Core :=
  if (pageAt c.part page).isSome ∨ m = .setr then c
  else
    let c := c.unmapped m page off write
    if write ∨ m ≠ .pcie then c else c.aborts (.read page off none)

def execUnmappedAccess (m : Master) (page off : Fin 4096) (write : Bool) : State → Host.Outcome State Fault Refusal :=
  act (doUnmapped m page.val off.val write)

/-- Offsets of the `_LO` registers. -/
def PageKind.loOffs : PageKind → List Nat
  | .glb => [0x04C] | .mode => [0x048, 0x050] | .time 0 => [0x070, 0x080, 0x088, 0x090, 0x0A0, 0x0B0]
  | .time 2 => [0x044, 0x04C] | .flt => [0x050, 0x058, 0x060, 0x068, 0x074, 0x07C] | .fst _ => [0x050]
  | .crook => [0x048] | .chn => [0x050, 0x058, 0x060, 0x06C, 0x19C, 0x1D0] | .xchn _ => [0x050, 0x058, 0x060, 0x06C, 0x19C]
  | .ring => [0x044, 0x04C] | .bxb => [0x050] | .lane _ => [0x078, 0x080] | .cells _ => [0x050, 0x058, 0x060]
  | .xdie _ => [0x210, 0x218, 0x220, 0x228, 0x240] | .clu _ _ => [0x048] | .bsl _ _ => [0x048] | .red _ => [0x050, 0x058]
  | .hbm _ _ => [0x090, 0x098, 0x0A0, 0x0A8, 0x0B0, 0x0B8, 0x0C0, 0x0C8] | .insp _ => [0x044] | .dma _ => [0x050, 0x058]
  | _ => []

/-- Sizes and alignments that BAR0 accepts: aligned 4 B, and aligned 8 B at a `_LO` register (R358). -/
def Core.bar0Ok (c : Core) (page off size : Nat) : Bool :=
  size == 4 && off % 4 == 0 ||
  size == 8 && off % 8 == 0 && (match pageAt c.part page with
    | some k => k.loOffs.elem off
    | none => false)

/-- An access that BAR0 does not accept: ignored on write, zero on read (R358). -/
def doAccessSize (page off : Nat) (write : Bool) (c : Core) : Core :=
  let c := c.report .pciex 0x03 clsN 0
  if write then c else c.emit (.read page off (some 0))

/-! ### Writes -/

/-- Registers whose write has a row of its own in the command table. -/
def PageKind.ownRow (k : PageKind) (off : Nat) : Bool :=
  off == 0x010 ||
  (match k with
   | .lgrp _ => off == 0x040
   | .time 0 => off == 0x0B8 || off == 0x0BC
   | .time 1 => off % 32 == 0 && decide (0x040 ≤ off)
   | .flt => off == 0x070
   | .insp _ => off == 0x040 || off == 0x044 || off == 0x048
   | .ring => off == 0x054
   | .doorbell _ => true
   | _ => false)

/-- The stored fields of a register take a value by their access codes; a write that would change an RWL field while a
schedule runs records LOCKED_WRITE (R9). -/
def Core.writeFields (c : Core) (k : PageKind) (off v : Nat) : Core :=
  let r := k.row off
  let mask := r.rw ||| r.rws ||| (if c.running then 0 else r.rwl)
  let old := c.rd k off
  let c' := c.wr k off ((v &&& mask) ||| (old &&& (m32 ^^^ mask)))
  if c.running ∧ (v &&& r.rwl) ≠ (old &&& r.rwl) then c'.pageFlt k 0x01 else c'

/-- A write of an interrupt enable that leaves the enabled pending set non-zero sends a message (R403). -/
def Core.irqEnable (c : Core) (k : PageKind) (off v : Nat) : Core :=
  let c' := c.writeFields k off v
  if c'.irqOn k ∧ c'.irqY k ≠ 0 then c'.pageMsg k else c'

/-- BXB.PRIO_Wn of the selected master (R408). PRIO_SEL 13 to 15 names no master: the write is dropped without LOCKED_WRITE, and
the registers read 0. DESIGN CHOICE, notes/assumptions/84.md -/
def Core.writePrioW (c : Core) (n v : Nat) : Core :=
  let m := c.rd .bxb 0x040
  let key := 3 * m + n
  let old := (SMap.get bxbReset c.bxbPrio key).toNat
  let new := v &&& (if n = 2 then 0x1FFFFF else 0x3FFFFFFF)
  if 12 < m then c
  else if c.running then (if new = old then c else c.pageFlt .bxb 0x01)
  else { c with bxbPrio := SMap.set bxbReset c.bxbPrio key (word new) }

/-- The registers of the ring selected by RING_SEL (R372, Table 15.13). -/
def Core.writeRing (c : Core) (off v : Nat) : Core :=
  let r := c.rd .ring 0x040
  c.modRing r (fun x =>
    if off = 0x044 then { x with stDbase := x.stDbase / 2 ^ 32 * 2 ^ 32 + v }
    else if off = 0x048 then { x with stDbase := x.stDbase % 2 ^ 32 + v * 2 ^ 32 }
    else if off = 0x04C then { x with stCbase := x.stCbase / 2 ^ 32 * 2 ^ 32 + v }
    else if off = 0x050 then { x with stCbase := x.stCbase % 2 ^ 32 + v * 2 ^ 32 }
    else { x with vec := bits v 10 0, prio := bits v 13 11, coalCnt := bits v 21 14, coalUs := bits v 31 22 })

/-- What a change of registers of TIME0 and TIME1 brings about: without OSC_EN, OSC_OK falls (R311, R312); a reference
without ENABLE fails its test (R306); a new REF_DELAY of the active reference is pulled (R312). -/
def Core.timeFollow (old c : Core) (k : PageKind) : Core :=
  match k with
  | .time 0 => if c.oscEn = false ∧ c.time.oscOk then c.oscDown else c
  | .time 1 =>
    let c := if c.time.dpll = .locked ∧ c.time.active.any (fun n => c.refDelay n != old.refDelay n) then c.modTime (·.pull true) else c
    (List.range 4).foldl (fun c n => if old.refEn n ∧ c.refEn n = false then c.refFails n 6 else c) c
  | _ => c

/-- The effect of a write on every register field that has no row of its own (R9). -/
def Core.writeReg (c : Core) (k : PageKind) (off v : Nat) : Core :=
  if k.ownRow off then c
  else if off = 0x008 ∨ off = 0x014 then c.irqEnable k off v
  else
    match k with
    | .bxb => if off = 0x044 ∨ off = 0x048 ∨ off = 0x04C then c.writePrioW ((off - 0x044) / 4) v
              else c.writeFields .bxb off v
    | .ring => if 0x044 ≤ off ∧ off ≤ 0x058 then c.writeRing off v else c.writeFields .ring off v
    | .plant =>
      let c := if off = 0x040 then { c with plant := { c.plant with pwmForced := false } } else c
      c.writeFields .plant off v
    | k => c.timeFollow (c.writeFields k off v) k

/-- A register write acts: header registers wait for READY alone, block registers for ENABLE too (R402, R405). -/
def Core.writeActs (c : Core) (k : PageKind) (off : Nat) : Bool := if off < 0x020 then c.pageReady k else c.acts k

/-- The effect of a served register write. -/
def Core.serveWrite (c : Core) (k : PageKind) (m off v : Nat) : Core :=
  let c := c.lockAccess k m
  if c.writeActs k off then c.writeReg k off v else c

/-- REGISTER_WRITE: served now, or waiting for its window (R264). -/
def doRegisterWrite (m : Master) (page off : Fin 4096) (v : Word) (c : Core) : Core :=
  match pageAt c.part page.val with
  | none => if m = .setr then c else c.unmapped m page.val off.val true
  | some k =>
    match m with
    | .pcie =>
      (match c.route k with
       | .none => c
       | .queue => c.post k.chip (.registerWrite .pcie page off v)
       | .serve => c.serveWrite k 0 off.val v.toNat)
    | .debug =>
      if c.debugOpenFor 0 = false then c
      else if c.debugServed k then c.serveWrite k 1 off.val v.toNat
      else c.debugWait (debugReq page.val off.val true v.toNat)
    | .setr => c
    | .drone => if c.lockedOut k 3 then c else c.serveWrite k 3 off.val v.toNat

def execRegisterWrite (m : Master) (page off : Fin 4096) (v : Word) : State → Host.Outcome State Fault Refusal :=
  act (doRegisterWrite m page off v)

/-- The gate of a command on the header of a page: as `regCmdF`, without ENABLE. -/
def hdrCmdF (i : Instr) (page : Nat) (f : PageKind → State → State) (s : State) : State :=
  match pageAt s.core.part page with
  | none => s.onCore (fun c => c.unmapped .pcie page (regOff i) true)
  | some k =>
    match s.core.route k with
    | .none => s
    | .queue => s.onCore (fun c => c.post k.chip i)
    | .serve =>
      let s := s.onCore (fun c => c.lockAccess k 0)
      if s.core.pageReady k then f k s else s

def hdrCmd (i : Instr) (page : Nat) (f : PageKind → State → State) (s : State) : Host.Outcome State Fault Refusal :=
  .next (s.live (hdrCmdF i page f))

/-- PAGE_IRQ_WRITE: bits written 1 clear; a message follows if enabled bits remain (R403). -/
def doPageIrq (k : PageKind) (v : Nat) (c : Core) : Core :=
  let c' := c.wr k 0x010 (c.rd k 0x010 &&& (m32 ^^^ v))
  if c'.irqOn k ∧ c'.irqY k ≠ 0 then c'.pageMsg k else c'

def execPageIrqWrite (page : Fin 4096) (v : Word) : State → Host.Outcome State Fault Refusal :=
  hdrCmd (.pageIrqWrite page v) page.val (fun k => State.onCore (doPageIrq k v.toNat))

/-- IRQ_ENABLE_WRITE: PAGE_CTL when `ctl`, else PAGE_IRQ_EN. -/
def doIrqEnable (k : PageKind) (ctl : Bool) (v : Nat) (c : Core) : Core := c.irqEnable k (if ctl then 0x008 else 0x014) v

def execIrqEnableWrite (page : Fin 4096) (ctl : Bool) (v : Word) : State → Host.Outcome State Fault Refusal :=
  hdrCmd (.irqEnableWrite page ctl v) page.val (fun k => State.onCore (doIrqEnable k ctl v.toNat))

/-- What UNIT_RESET keeps of a register (R404). -/
def PageKind.keepOnReset (k : PageKind) (off : Nat) : Nat := if off = 0x01C then m32 else k.rwsMask off

/-- The registers of a page that lie outside `regs`. -/
def State.resetSide (s : State) (k : PageKind) : State :=
  match k with
  | .bxb => s.onCore (fun c => { c with bxbPrio := [] })
  | .insp i => s.onCore (fun c => c.setInsp i {})
  | .flt => { s with col := { s.col with histSel := none } }
  | .hbm d j => s.onCore (fun c => c.modStack (2 * d + j) (fun x => { x with inject := false, ueLog := [], scrub := 0 }))
  | .ingest => s.onCore (fun c => { c with ingest := { c.ingest with drift := 0, tts := 0xFFFFFFFF } })
  | .time 1 => s.onCore (fun c => { c with time := { c.time with refs := c.time.refs.map (fun r => { r with disqual := 0 }) } })
  | _ => s

/-- UNIT_RESET (R404). -/
def doUnitReset (k : PageKind) (s : State) : State :=
  if s.core.running then s.onCore (fun c => c.pageFlt k 0x01)
  else ((s.onCore (fun c => c.resetPage k k.keepOnReset)).resetSide k).onCore (fun c => s.core.timeFollow c k)

def execUnitReset (page : Fin 4096) : State → Host.Outcome State Fault Refusal :=
  hdrCmd (.unitReset page) page.val doUnitReset

/-! ### The MSI-X table (R357, R362). PRESUMED, notes/assumptions/89.md -/

/-- A vector may have become free: the message of its pending bit is sent. -/
def Core.msixFree (c : Core) (vec : Nat) : Core :=
  if c.host.pbits.elem vec ∧ c.host.fmask = false ∧ c.host.mask.elem vec = false then
    { c with host := { c.host with pbits := c.host.pbits.filter (· != vec) } }.msix vec
  else c

/-- A vector is unmasked: the message of a set pending bit is sent. -/
def Core.unmask (c : Core) (vec : Nat) : Core :=
  { c with host := { c.host with mask := c.host.mask.filter (· != vec) } }.msixFree vec

/-- A vector is masked. -/
def Core.maskVec (c : Core) (vec : Nat) : Core :=
  if c.host.mask.elem vec then c else { c with host := { c.host with mask := vec :: c.host.mask } }

/-- A write of word `w` of a vector's table entry: address low and high, data, vector control. -/
def Core.msixWrite (c : Core) (vec w v : Nat) : Core :=
  let e := c.msixEntry vec
  let put (e : Nat × Nat) : Core := { c with host := { c.host with msixTab := SMap.set (fun _ => (0, 0)) c.host.msixTab vec e } }
  if w = 0 then put (e.1 / 2 ^ 32 * 2 ^ 32 + v / 4 * 4, e.2)
  else if w = 1 then put (e.1 % 2 ^ 32 + v * 2 ^ 32, e.2)
  else if w = 2 then put (e.1, v)
  else if v.testBit 0 then c.maskVec vec else c.unmask vec

/-- The word of BAR4 at word offset `o`: the table, the pending bits, else 0 (Table 15.3). -/
def Core.bar4Word (c : Core) (o : Nat) : Nat :=
  if o < 8192 then
    let e := c.msixEntry (o / 4)
    if o % 4 = 0 then e.1 % 2 ^ 32 else if o % 4 = 1 then e.1 / 2 ^ 32 else if o % 4 = 2 then e.2
    else b2n (c.host.mask.elem (o / 4))
  else if o < 8256 then maskOf ((List.range 32).map (fun i => c.host.pbits.elem (32 * (o - 8192) + i)))
  else 0

/-- MSIX_UNMASK: an access to BAR4, or the function mask, whose end frees every vector that is not masked itself (R362). -/
def doMsixUnmask (a : MsixAcc) (c : Core) : Core :=
  match a with
  | .write o v => if o.val < 8192 then c.msixWrite (o.val / 4) (o.val % 4) v.toNat else c
  | .read o => c.emit (.bar4 (4 * o.val) (word (c.bar4Word o.val)))
  | .mask on =>
    let c := { c with host := { c.host with fmask := on } }
    c.host.pbits.foldl Core.msixFree c

def execMsixUnmask (a : MsixAcc) : State → Host.Outcome State Fault Refusal := act (doMsixUnmask a)

end Sys2Proof.Machine
end

