-- ==== Sys2Proof/Machine/Hbm.lean ====
section
/-! DEFINITION. Machine/Hbm.lean: training, rate, refresh, temperature, calibration, scrub and the asynchronous requests of
the HBM stacks (R258, R336 to R353). -/

namespace Sys2Proof.Machine

/-- Stack M(2d + j). -/
def stackNo (d : XDie) (j : Fin 2) : Nat := 2 * d.val + j.val

/-- The stack is in the part, powered and TRAINED. -/
def Core.stackUp (c : Core) (i : Nat) : Bool :=
  decide (i < 2 * c.part.dies) && (c.stack i).st == .trained

/-! ### Training and rate (R342, R343) -/

/-- The contents of a stack are lost (R342, R351, R352). -/
def Core.stackLose (c : Core) (i : Nat) : Core :=
  { c.modStack i (fun s => { s with mem := { fill := .freeHbm c.free, cells := [] }, err := [], openRow := [] }) with
    free := c.free + 1 }

/-- One attempt to train. -/
def Core.trainTry (c : Core) (i : Nat) : Core :=
  ((c.modStack i (fun s => { s with st := .training, phy := none })).stackLose i).inc (hbmPage i) 0x080

/-- Training starts from the first attempt; `job` where a rate change asked for it. -/
def Core.trainStart (c : Core) (i : Nat) (job : Bool) : Core :=
  (c.modStack i (fun s => { s with tries := 0, rateJob := job, trainPend := false })).trainTry i

/-- A command of the HBM page that is refused (R342, R343). -/
def Core.hbmReject (c : Core) (i : Nat) : Core := (c.raise (hbmPage i) 6).report (hbmPage i) 0x0A clsN 0

/-- BRINGUP or IDLE. -/
def Core.hbmMode (c : Core) : Bool := c.power.mode == .bringup || c.power.mode == .idle

/-- TRAIN. -/
def doTrainHbm (i : Nat) (c : Core) : Core :=
  if c.hbmMode = false then c.hbmReject i
  else
    match (c.stack i).st with
    | .training => c.hbmReject i
    | .selfRefresh => c.hbmReject i
    | _ => c.trainStart i false

/-- A served TRAIN: of a pair whose domain is off, it requests the switch-on (R342). -/
def serveTrain (i : Nat) (c : Core) : Core :=
  let k := hbmPage i
  let dom := 69 + 35 * (i / 2) + i % 2
  if c.powered k = false then
    (if c.hbmMode then
      let c := c.modStack i (fun s => { s with trainPend := true })
      if c.domOn dom ∨ c.power.want.elem (dom, true) then c
      else { c with power := { c.power with want := c.power.want ++ [(dom, true)] } }
     else c)
  else if c.acts k then doTrainHbm i c else c

def doTrainHbmCmd (d : XDie) (j : Fin 2) (c : Core) : Core :=
  let k : PageKind := .hbm d.val j.val
  if c.part.dies ≤ d.val then c.unmapped .pcie k.no 0x044 true
  else
    match c.route k with
    | .none => c
    | .queue => c.post d.val (.trainHbm d j)
    | .serve => serveTrain (stackNo d j) (c.lockAccess k 0)

def execTrainHbm (d : XDie) (j : Fin 2) : State → Host.Outcome State Fault Refusal := act (doTrainHbmCmd d j)

/-- The end of self-refresh after D3hot: the shadow restored, every pseudo-channel calibrated (R345), and TRAINED with contents
kept; or FAILED with contents lost (R351). -/
def Core.refreshExit (c : Core) (i : Nat) (ok : Bool) : Core :=
  if ok then c.modStack i (fun s => { s with st := .trained, phy := s.shadow, calFail := [] })
  else (((c.modStack i (fun s => { s with st := .failed })).stackLose i).raise (hbmPage i) 1).report (hbmPage i) 0x80 clsD 0

/-- HBM_TRAIN_DONE: TRAINED, another attempt, FAILED, or training again at a queued rate (R342, R343). -/
def doTrainDone (i : Nat) (ok : Bool) (c : Core) : Core :=
  let s := c.stack i
  let k := hbmPage i
  if s.st = .selfRefresh then (if c.host.d3.isSome ∨ c.pageReady k = false then c else c.refreshExit i ok)
  else if s.st ≠ .training then c
  else if ok then
    let c := (c.modStack i (fun s => { s with st := .trained, rateJob := false, phy := some c.free, shadow := some c.free })).raise k 0
    let c := { c with free := c.free + 1 }
    let c := if s.rateJob then c.raise k 5 else c
    match s.ratePend with
    | some r => (c.modStack i (fun s => { s with rate := r, ratePend := none })).trainStart i true
    | none => c
  else if s.tries < 2 then (c.modStack i (fun s => { s with tries := s.tries + 1 })).trainTry i
  else
    let c := c.modStack i (fun s => { s with st := .failed, rate := s.ratePend.getD s.rate, ratePend := none, rateJob := false })
    (c.raise k 1).report k 0x80 clsD 0

def execHbmTrainDone (d : XDie) (j : Fin 2) (ok : Bool) : State → Host.Outcome State Fault Refusal :=
  act (doTrainDone (stackNo d j) ok)

/-- SET_RATE. -/
def doSetRate (i rate : Nat) (c : Core) : Core :=
  if c.hbmMode = false ∨ rate = 3 then c.hbmReject i
  else
    match (c.stack i).st with
    | .trained => (c.modStack i (fun s => { s with rate := rate })).trainStart i true
    | .training => c.modStack i (fun s => { s with ratePend := some rate })
    | .off => c.modStack i (fun s => { s with rate := rate })
    | .failed => c.modStack i (fun s => { s with rate := rate })
    | .selfRefresh => c.hbmReject i

def execSetRate (d : XDie) (j : Fin 2) (rate : Fin 4) : State → Host.Outcome State Fault Refusal :=
  regCmd (.setRate d j rate) (.hbm d.val j.val) (doSetRate (stackNo d j) rate.val)

/-- INJECT_ARM (R349). -/
def doInjectArm (d : XDie) (j : Fin 2) (c : Core) : Core := c.modStack (stackNo d j) (fun s => { s with inject := true })

def execInjectArm (d : XDie) (j : Fin 2) : State → Host.Outcome State Fault Refusal :=
  regCmd (.injectArm d j) (.hbm d.val j.val) (doInjectArm d j)

/-! ### Refresh and temperature (R258, R340, R341) -/

/-- The owed count of a pseudo-channel. -/
def StackS.owedOf (s : StackS) (pc : Nat) : Nat := SMap.get (fun _ => 0) s.owed pc
def StackS.setOwed (s : StackS) (pc n : Nat) : StackS := { s with owed := SMap.set (fun _ => 0) s.owed pc n }

/-- OWED_PEAK follows the highest owed count, saturating at 31. -/
def Core.owedPeak (c : Core) (i : Nat) : Core :=
  let m := min 31 (maxL ((c.stack i).owed.map (fun e => e.2)))
  if c.rd (hbmPage i) 0x050 < m then c.wr (hbmPage i) 0x050 m else c

/-- The rules above 85 °C end below 83 °C with every owed count at 8 or less. -/
def StackS.cool (s : StackS) : StackS :=
  if toInt 16 s.temp < 8300 ∧ s.owed.all (fun e => decide (e.2 ≤ 8)) then { s with fast := false } else s

/-- HBM_CLR_CNT (R353). OWED_PEAK starts again from the present owed counts. -/
def doHbmClrCnt (i : Nat) (c : Core) : Core :=
  (c.clear (hbmPage i) [0x050, 0x05C, 0x060, 0x064, 0x068, 0x06C, 0x070, 0x074, 0x078, 0x07C, 0x080]).owedPeak i

def execHbmClrCnt (d : XDie) (j : Fin 2) : State → Host.Outcome State Fault Refusal :=
  regCmd (.hbmClrCnt d j) (.hbm d.val j.val) (doHbmClrCnt (stackNo d j))

/-- REFRESH_DUE: one more owed, or a forced refresh where the limit would be passed, which the contract monitor of a running
schedule records (R258, R269, Table 11.5). -/
def doRefreshDue (i pc : Nat) (c : Core) : Core :=
  let s := c.stack i
  if c.stackUp i = false then c
  else if (if s.fast then 24 else 8) < s.owedOf pc + 1 then
    let k : PageKind := .xchn (i / 2)
    let t := c.chanter (i / 2)
    let c := c.modStack i (fun s => { s with forced := pc :: s.forced.filter (· != pc) })
    ((c.inc k 0x18C).report k 0x52 clsD 0).when c.power.running (fun c => c.breach (i / 2) .forced 5 t.pc t.scyc)
  else (c.modStack i (fun s => s.setOwed pc (s.owedOf pc + 1))).owedPeak i

def execRefreshDue (d : XDie) (j : Fin 2) (pc : Fin 64) : State → Host.Outcome State Fault Refusal :=
  act (doRefreshDue (stackNo d j) pc.val)

/-- The open rows once the banks of a pseudo-channel have closed for a refresh, which is all-bank (R340). -/
def StackS.closed (s : StackS) (pc : Nat) : SMap Nat := s.openRow.filter (fun e => e.1 / 64 != pc)

/-- REFRESH_SLOT_START: a forced refresh starts in any slot and pays the due one; another one in a free slot (R258). -/
def doRefreshSlot (i pc : Nat) (c : Core) : Core :=
  let s := c.stack i
  if c.stackUp i = false ∨ s.refr.elem pc then c
  else if s.forced.elem pc then
    c.modStack i (fun s => { s with forced := s.forced.filter (· != pc), refr := pc :: s.refr, openRow := s.closed pc })
  else if s.owedOf pc = 0 ∨ c.winOpen (i / 2) 35 = false then c
  else c.modStack i (fun s => ({ s.setOwed pc (s.owedOf pc - 1) with refr := pc :: s.refr, openRow := s.closed pc }).cool)

def execRefreshSlotStart (d : XDie) (j : Fin 2) (pc : Fin 64) : State → Host.Outcome State Fault Refusal :=
  act (doRefreshSlot (stackNo d j) pc.val)

/-- REFRESH_COMPLETE. -/
def doRefreshEnd (i pc : Nat) (c : Core) : Core := c.modStack i (fun s => { s with refr := s.refr.filter (· != pc) })

def execRefreshComplete (d : XDie) (j : Fin 2) (pc : Fin 64) : State → Host.Outcome State Fault Refusal :=
  act (doRefreshEnd (stackNo d j) pc.val)

/-- A temperature in 0.01 °C at the sensor's resolution of 0.25 °C: the multiple at or below it, or the least that the register
holds (R341; DESIGN CHOICE, notes/assumptions/101.md). -/
def tempStep (t : Nat) : Nat := ofInt 16 (max (-32750) (toInt 16 t / 25 * 25))

/-- HBM_TEMP_READ: a crossing of 85 °C doubles every owed count; HOT from 95 °C to 90 °C (R258, R341). -/
def doTempRead (i t : Nat) (c : Core) : Core :=
  let s := c.stack i
  let t := tempStep t
  let x := toInt 16 t
  if i < 2 * c.part.dies ∧ c.pageReady (hbmPage i) then
    let up := decide (8500 < x) && !s.fast
    let c := c.modStack i (fun s => ({ s with
      temp := t,
      owed := if up then s.owed.map (fun (e : Nat × Nat) => (e.1, 2 * e.2)) else s.owed,
      fast := s.fast || up,
      hot := if 9500 ≤ x then true else if x < 9000 then false else s.hot }).cool)
    let c := c.owedPeak i
    if 9500 ≤ x ∧ s.hot = false then (c.raise (hbmPage i) 4).report (hbmPage i) 0x81 clsD 0 else c
  else c

def execHbmTempRead (d : XDie) (j : Fin 2) (t : BitVec 16) : State → Host.Outcome State Fault Refusal :=
  act (doTempRead (stackNo d j) t.toNat)

/-- HBM_PERIODIC_CAL: `slot` where a free slot with nothing owed was found in this 100 ms; ten without one are a second
(R345). -/
def doPeriodicCal (i pc : Nat) (slot : Bool) (c : Core) : Core :=
  let s := c.stack i
  if c.stackUp i = false then c
  else if slot ∧ s.owedOf pc = 0 ∧ c.winOpen (i / 2) 35 then
    c.modStack i (fun s => { s with calFail := SMap.erase s.calFail pc })
  else
    let n := SMap.get (fun _ => 0) s.calFail pc
    let c := c.modStack i (fun s => { s with calFail := SMap.set (fun _ => 0) s.calFail pc (min (n + 1) 10) })
    if n + 1 = 10 then (c.inc (hbmPage i) 0x07C).raise (hbmPage i) 7 else c

def execHbmPeriodicCal (d : XDie) (j : Fin 2) (pc : Fin 64) (slot : Bool) : State → Host.Outcome State Fault Refusal :=
  act (doPeriodicCal (stackNo d j) pc.val slot)

/-! ### Patrol scrub (R350) -/

/-- A word of the row that scrub reads: its pseudo-channel, bank and row are those of row number `n`. -/
def inScrubRow (n w : Nat) : Bool :=
  let a := 16 * w
  pcOf a == n % 64 && bankOf a == n / 64 % 64 && rowOf a == n / 4096

/-- A word with errors as scrub finds it. -/
def Core.scrubWord (c : Core) (i w : Nat) : Core :=
  let d := i / 2
  let a := 16 * w
  let k := hbmPage i
  let o := c.wordOutcome d a
  if o = 0 then c
  else if o = 1 then
    let data := c.wordData d a
    ((((c.inc k 0x068).ceFound i).inc k 0x074).hbmPut d a data).symClear d a 16
  else (c.inc k 0x06C).ueFound d a true

/-- The `k`-th number that an ascending list leaves out. -/
def kthFree : List Nat → Nat → Nat
  | [], k => k
  | v :: vs, k => if v ≤ k then kthFree vs (k + 1) else k

/-- The rows that a pass has read before a position, ascending, and the row at it: each row of the stack once. -/
def scrubSeen : Nat → List Nat
  | 0 => []
  | p + 1 => insertBy (fun (a b : Nat) => decide (a < b)) (kthFree (scrubSeen p) (Config.scrubOrder p % (2 ^ 26 - p))) (scrubSeen p)
def scrubRow (p : Nat) : Nat := kthFree (scrubSeen p) (Config.scrubOrder p % (2 ^ 26 - p))

/-- SCRUB_ROW: S3 traffic of 16 units, held like any other while a refresh or a scheduled unit is near (R336). -/
def doScrub (i : Nat) (c : Core) : Core :=
  let s := c.stack i
  let n := scrubRow s.scrub
  let pc := n % 64
  if c.stackUp i = false ∨ bit (c.rd (hbmPage i) 0x040) 1 = false ∨ c.winOpen (i / 2) 35 = false ∨ s.refr.elem pc ∨ s.forced.elem pc ∨
      c.unitSoon i pc 16 then c
  else
    let c := c.modStack i (fun s => { s with openRow := SMap.set (fun _ => 0) s.openRow (pc * 64 + n / 64 % 64) (n / 4096 + 1) })
    let ws := (s.err.map (fun e => e.1)).filter (inScrubRow n)
    let c := ws.foldl (fun c w => c.scrubWord i w) c
    if s.scrub + 1 < 2 ^ 26 then c.modStack i (fun s => { s with scrub := s.scrub + 1 })
    else (c.modStack i (fun s => { s with scrub := 0 })).inc (hbmPage i) 0x05C

def execScrubRow (d : XDie) (j : Fin 2) : State → Host.Outcome State Fault Refusal := act (doScrub (stackNo d j))

/-! ### Asynchronous requests (R336 to R339) -/

/-- An admitted request is served. -/
def Core.serveAsync (c : Core) (i : Nat) (r : AsyncReq) : Core :=
  let d := i / 2
  let c := c.dequeue i r
  if r.write then
    let (c, dropped) := c.s2Write d r.addr r.data
    match r.origin with
    | .dma ch => c.burstWrote ch dropped
    | _ => c.asyncOpen
  else
    let (c, bs, bad) := c.eccRead d r.addr r.len
    match r.origin with
    | .dma ch => c.burstRead ch r bs (!bad.isEmpty)
    | .bar2 id => c.bar2Piece id r bs (!bad.isEmpty)
    | .inspect k => c.inspPiece k r bs

/-- HBM_ASYNC_ADMIT. -/
def doAdmit (i pc : Nat) (c : Core) : Core :=
  if c.stackUp i = false ∨ (c.stack i).refr.elem pc ∨ (c.stack i).forced.elem pc then c
  else
    match c.nextAsync i pc with
    | some r => c.serveAsync i r
    | none => c

def execHbmAsyncAdmit (d : XDie) (j : Fin 2) (pc : Fin 64) : State → Host.Outcome State Fault Refusal :=
  act (doAdmit (stackNo d j) pc.val)

/-- HBM_AGE_PROMOTE: the oldest request of the pseudo-channel not yet promoted (R337). -/
def doHbmAge (i pc : Nat) (c : Core) : Core :=
  match (c.stack i).queue.find? (fun r => pcOf r.addr == pc && !r.aged) with
  | none => c
  | some r =>
    (c.modStack i (fun s => { s with queue := s.queue.map (fun q => if q.seq = r.seq then { q with aged := true } else q) })).inc
      (hbmPage i) 0x070

def execHbmAgePromote (d : XDie) (j : Fin 2) (pc : Fin 64) : State → Host.Outcome State Fault Refusal :=
  act (doHbmAge (stackNo d j) pc.val)

end Sys2Proof.Machine
end

