-- ==== Sys2Proof/Machine/LaneOps.lean ====
section
/-! DEFINITION. Machine/LaneOps.lean: line code, control blocks, and the transitions of a Tsuhan lane that several
commands share (R29 to R60, R458). -/

namespace Sys2Proof.Machine

/-! ### Line code (R30 to R38) -/

/-- The additive scrambler x^31 + x^28 + 1, which also descrambles (R34). -/
def scramble : Nat → List Bool → List Bool
  | _, [] => []
  | st, d :: ds =>
    let s := (st.testBit 30) != (st.testBit 27)
    (d != s) :: scramble ((2 * st + b2n s) % 2 ^ 31) ds

/-- The seed of a control block, and of packet block `k` of a lane (R34). -/
def ctrlSeed : Nat := 2 ^ 30
def packetSeed (lane k : Nat) : Nat := 2 ^ 30 + lane % 256 * 2 ^ 22 + k % 2 ^ 22

/-- Bit stuffing after a run of `run` bits equal to `last` (R36). -/
def stuffFrom : Option Bool → Nat → List Bool → List Bool
  | _, _, [] => []
  | last, run, b :: bs =>
    let run' := if last = some b then run + 1 else 1
    if run' = 24 then b :: (!b) :: stuffFrom (some !b) 1 bs else b :: stuffFrom (some b) run' bs
def stuff (bs : List Bool) : List Bool := stuffFrom none 0 bs

/-- Hunting: the first valid comma of a raw bit stream, true for a packet comma, and the bits after its boundary; `v` is the
value of the run that ends here and `n` its length. The boundary lies 32 bits after the transition (R37, R38). -/
def commaFrom : Bool → Nat → List Bool → Option (Bool × List Bool)
  | _, _, [] => none
  | v, n, b :: bs =>
    if b = v then commaFrom v (n + 1) bs
    else if 32 ≤ n ∧ (b :: bs).take 32 = List.replicate 32 b then some (v, (b :: bs).drop 32)
    else commaFrom b 1 bs

/-- A run of 24 bits `b` and the bits that follow it open with a valid comma (R37). -/
def commaAhead (b : Bool) (l : List Bool) : Bool :=
  let k := (l.takeWhile (· == b)).length
  decide (8 ≤ k) && (l.drop k).take 32 == List.replicate 32 (!b)

/-- Why a receiver discards a block: a code violation (R38), or a comma, or the end of what arrived, before its length (R39). -/
inductive BlockErr where
  | code | align
deriving DecidableEq, Repr

/-- The `n` data bits of a block: the bit after each run of 24 is deleted and opens the next run; where it does not end the
run, the block is broken off by a comma, or by a code violation (R38, R39). -/
def destuffFrom : Nat → Option Bool → Nat → List Bool → Except BlockErr (List Bool)
  | 0, _, _, [] => .ok []
  | 0, last, run, b :: bs =>
    if run = 24 ∧ last = some b then .error (if commaAhead b (b :: bs) then .align else .code) else .ok []
  | _ + 1, _, _, [] => .error .align
  | n + 1, last, run, b :: bs =>
    if run = 24 then
      (if last = some b then .error (if commaAhead b (b :: bs) then .align else .code) else destuffFrom (n + 1) (some b) 1 bs)
    else (destuffFrom n (some b) (if last = some b then run + 1 else 1) bs).map (b :: ·)

/-- A received block, true for a packet block, and its scrambled bits or what discards it; `pol` is the receive polarity
(R37 to R40). -/
def rxBlock (pol : Bool) (line : List Bool) : Option (Bool × Except BlockErr (List Bool)) :=
  (commaFrom false 0 (line.map (· != pol))).map (fun e => (e.1, destuffFrom (if e.1 then 65824 else 512) none 0 e.2))

/-- The commas (R32). -/
def packetComma : List Bool := List.replicate 32 true ++ List.replicate 32 false
def ctrlComma : List Bool := List.replicate 32 false ++ List.replicate 32 true

/-- A control block and a packet block as they leave on the line (R33). -/
def ctrlLine (bs : List Byte) : List Bool := ctrlComma ++ stuff (scramble ctrlSeed (serialBits bs))
def packetLine (lane k : Nat) (bs : List Byte) : List Bool :=
  packetComma ++ stuff (scramble (packetSeed lane k) (serialBits bs))

/-- The bytes of a received packet block and of a control block from their scrambled bits (R34, R37). -/
def packetBytes (lane k : Nat) (bs : List Bool) : List Byte := serialBytes 8228 (scramble (packetSeed lane k) bs)
def ctrlBlockBytes (bs : List Bool) : List Byte := serialBytes 64 (scramble ctrlSeed bs)

/-- Bytes with the CRC-32C over them appended (R31). -/
def withCrc (bs : List Byte) : List Byte := bs ++ leBytes 4 (crc32c bs).toNat

/-- The 64 B of a control block (Table 2.1). -/
def ctrlBytes (m : CtrlOut) (seq : Nat) : List Byte :=
  withCrc (leBytes 1 m.type ++ leBytes 1 (b2n m.rel.isSome) ++ leBytes 2 (m.rel.getD 0xFFFF) ++ leBytes 2 seq ++
    leBytes 2 m.count ++ slice m.body 0 52)

/-- A control block that passed its CRC: TYPE, FLAGS, LANE, COUNT and BODY (Table 2.1). No rule reads SEQ. -/
structure CtrlBlk where
  type : Nat
  flags : Nat
  lane : Nat
  count : Nat
  body : List Byte
deriving DecidableEq, Repr

/-- The fields of the 64 bytes of a control block; none where the CRC fails (R39). -/
def parseCtrl (bs : List Byte) : Option CtrlBlk :=
  if (crc32c (bs.take 60)).toNat = leAt bs 60 4 then
    some ⟨leAt bs 0 1, leAt bs 1 1, leAt bs 2 2, leAt bs 6 2, slice bs 8 52⟩
  else none

/-! ### Fields and channels of a lane -/

/-- The lane's group is powered and its local reset has ended. -/
def Core.laneOn (c : Core) (n : Nat) : Bool := c.pageReady (.lane n)

/-- RETURN or RETURN_OUTPUT. -/
def Core.txReturn (c : Core) (n : Nat) : Bool := decide (c.txMode n ≤ 1)

/-- Both directions step and test together on RETURN and RETURN_OUTPUT; a relayed lane steps its receive direction
only (R48). -/
def Core.bothWays (c : Core) (n : Nat) : Bool := c.txReturn n && !c.relayed n

/-- The lane that carries the control messages of lane `n` (R46). -/
def Core.ctrlOf (c : Core) (n : Nat) : Nat := if c.relayed n then c.ctrlLane n else n

/-- The lane a received control block concerns: the named lane of a relayed message, where that lane negotiates through
this one (R46). -/
def Core.concerns (c : Core) (l : Nat) (b : CtrlBlk) : Option Nat :=
  if b.flags.testBit 0 then
    let t := b.lane
    if t < 256 ∧ c.relayed t ∧ c.ctrlLane t = l then some t else none
  else if c.relayed l then none else some l

/-- Queue a control message for lane `n` on its control lane. -/
def Core.sendCtl (c : Core) (n type : Nat) (body : List Byte) : Core :=
  let m : CtrlOut := { type := type, rel := if c.relayed n then some n else none, body := body }
  c.modLane (c.ctrlOf n) (fun l => { l with ctlQ := l.ctlQ ++ [m] })

/-- Queue the eight marked blocks of a boundary on the lane itself, COUNT 7 to 0 (R42). -/
def Core.sendMarks (c : Core) (n type : Nat) (body : List Byte) : Core :=
  let ms := ([7, 6, 5, 4, 3, 2, 1, 0] : List Nat).map (fun k => ({ type := type, count := k, body := body } : CtrlOut))
  c.modLane n (fun l => { l with ctlQ := l.ctlQ ++ ms, txMark := true })

/-- The CAPS body the device sends for lane `n` (Table 2.3). ENDPOINT_ID is the device identity. -/
def Core.capsBody (c : Core) (n : Nat) : List Byte :=
  leBytes 8 c.otp.uid.toNat ++ [0x01, BitVec.ofNat 8 (c.maxStep n), 0x00, 0x07] ++ leBytes 2 n ++
    leBytes 2 (if c.relayed n then c.ctrlLane n else 0xFFFF)

/-- The STATUS body of lane `n` (Table 2.2). -/
def Core.statusBody (c : Core) (n : Nat) (safe : Bool) : List Byte :=
  let l := c.lane n
  leBytes 1 l.st.code ++ leBytes 1 l.step ++ leBytes 1 (b2n safe) ++ leBytes 4 (c.rd (.lane n) 0x04C) ++ leBytes 2 n

/-- The bit count of the PRBS31 test of a lane (R48, R52). -/
def LaneS.prbsCount (l : LaneS) : Nat :=
  if l.fast then 10 ^ 9 else if l.step = l.top then 10 ^ 10 else 703125000 * 2 ^ l.step / 2

/-- The stamp of the present instant; its fraction is a free value (R44; DESIGN CHOICE, notes/assumptions/16.md). -/
def Core.stampNow (c : Core) : Stamp × Core :=
  (⟨c.time.atbS, c.time.atbNs, (Config.freeFraction c.free).toNat⟩, { c with free := c.free + 1 })

/-! ### Transitions -/

/-- Address of the scan table of a group (R58). -/
def scanTable (g : Nat) : Nat := 0x0DA00000 + g * 0x10000

/-- The table of a FULL scan that ends early: the counts of the entries it reached are free values, the others read 0 (R59).
How many it reached is a free value too: DESIGN CHOICE, notes/assumptions/77.md -/
def Core.scanPart (c : Core) (g : Nat) : Core :=
  let n := (Config.freeWord c.free).toNat % 16321
  { c with free := c.free + 1 + n }.ioPut (scanTable g)
    ((List.range n).flatMap (fun i => leBytes 4 (Config.freeWord (c.free + 1 + i)).toNat))

/-- A running scan ends early (R59). -/
def Core.scanStop (c : Core) (n : Nat) : Core :=
  match (c.lane n).scan with
  | none => c
  | some _ =>
    let c := if (c.lane n).scanMode = 0 then c.scanPart (n / 16) else c
    (c.modLane n (fun l => { l with scan := none })).raise (.lane n) 6

/-- Whatever a lane held that only an UP lane holds ends: scan, pending and running recalibration (R55, R59). -/
def Core.laneQuit (c : Core) (n : Nat) : Core :=
  (c.scanStop n).modLane n (fun l => { l with recalPending := false, ph := .none })

/-- A full bring-up starts at step 1 of R48. -/
def Core.bringUp (c : Core) (n : Nat) : Core :=
  (c.laneQuit n).modLane n (fun l =>
    { l with st := .acquire, ph := .pll, step := 0, txStep := if c.bothWays n then 0 else c.txStepCfg n, top := 0,
             target := 0, retried := false, falling := false, fast := false, pol := false, aligned := false,
             failCode := 0, ownPass := none, peerPass := none, rxMark := none, txMark := false, txPrbs := false,
             ctlQ := l.ctlQ.filter (fun m => m.rel.isSome), txIdle := c.txMode n == 3, rxK := 0 })

/-- The lane ends in FAILED (R48). -/
def Core.laneFail (c : Core) (n code : Nat) : Core :=
  (((c.laneQuit n).modLane n (fun l => { l with st := .failed, failCode := code })).raise (.lane n) 9).report
    (.lane n) 0x14 clsN 0

/-- Return to step 2 of R48 at step 0 (R458). -/
def Core.reAcquire (c : Core) (n : Nat) : Core :=
  c.modLane n (fun l => { l with st := .acquire, ph := .align, step := 0, txStep := if c.bothWays n then 0 else l.txStep,
                                 retried := false, falling := false, aligned := false, ownPass := none, peerPass := none,
                                 rxMark := none, txMark := false, txPrbs := false, ctlQ := l.ctlQ.filter (fun m => m.rel.isSome) })

/-- The lane starts a fast retrain, or waits for loss of signal to clear (R52). -/
def Core.fastRetrain (c : Core) (n : Nat) : Core :=
  (c.laneQuit n).modLane n (fun l =>
    { l with st := .retrain, ph := if l.los then .losWait else .fastAlign, fast := true, aligned := false,
             ctlQ := l.ctlQ.filter (fun m => m.rel.isSome), retried := false, falling := false, failCode := 0, ownPass := none, peerPass := none, rxMark := none,
             txMark := false, txPrbs := false, txIdle := c.txMode n == 3 })

/-- A lane leaves UP under R51: a fast retrain, or FAILED without AUTO_RETRAIN (R52, R55). -/
def Core.leaveUp (c : Core) (n : Nat) (los : Bool) : Core :=
  if c.autoRetrain n then c.fastRetrain n
  else ((c.laneQuit n).modLane n (fun l => { l with st := .failed, failCode := if los then 1 else 2, aligned := false })).raise
    (.lane n) 9

/-- The lane goes to OFF and its transmitter to electrical idle (R60). -/
def Core.laneDown (c : Core) (n : Nat) : Core :=
  let idle := (c.lane n).txIdle
  let c := (c.laneQuit n).modLane n (fun l =>
    { l with st := .off, aligned := false, txIdle := true, ctlQ := l.ctlQ.filter (fun m => m.rel.isSome) })
  if idle then c else c.emit (.laneIdle n)

/-- LANE_SCAN_CFG fields (Table 2.10). -/
def Core.scanCfg (c : Core) (n : Nat) : Nat := c.rd (.lane n) 0x050
def Core.dwellExp (c : Core) (n : Nat) : Nat := max 6 (min 10 (bits (c.scanCfg n) 7 4))
def Core.threshExp (c : Core) (n : Nat) : Nat := bits (c.scanCfg n) 27 24

/-- A scan starts; its dwell and threshold are those of its start (R56; DEDUCED, notes/assumptions/78.md). -/
def LaneS.scanFrom (l : LaneS) (why : ScanWhy) (mode dwell thresh : Nat) : LaneS :=
  { l with scan := some why, scanMode := mode, scanDwell := dwell, scanThresh := thresh }

/-- The CROSS scan of R50, with a dwell of 10^7 bits. -/
def LaneS.cross (l : LaneS) (thresh : Nat) (why : ScanWhy) : LaneS := l.scanFrom why 1 7 thresh

/-- The lane enters UP and starts a CROSS scan (R50); `below` under R49. -/
def Core.enterUp (c : Core) (n : Nat) (below : Bool) : Core :=
  let c := c.modLane n (fun l => { l with st := .up, ph := .none, settings := true, fast := false, falling := false,
                                          retried := false, rxK := 0, upSince := c.time.tcNs }.cross (c.threshExp n) .enterUp)
  let c := c.raise (.lane n) 3
  if below then (c.raise (.lane n) 8).report (.lane n) 0x13 clsN 0 else c

/-- Request a change to another step (R48, R49). -/
def Core.stepReq (c : Core) (n target : Nat) : Core :=
  (c.modLane n (fun l => { l with st := .stepping, ph := .ackWait, target := target, rxMark := none, txMark := false, txPrbs := false })).sendCtl
    n 0x02 (leBytes 1 target)

/-- Receiver adaptation of 2 ms before a test (R48, R49, R52). -/
def Core.adapt (c : Core) (n : Nat) : Core :=
  c.modLane n (fun l => { l with ph := .adapt, st := if l.fast then .retrain else .stepping, ownPass := none,
                                 peerPass := none, rxMark := none, txMark := false, txPrbs := false })

/-- After CAPS or a passed test: the next step, or the top-step test (R48). -/
def Core.stepOn (c : Core) (n : Nat) : Core :=
  let l := c.lane n
  if l.step < l.top then (c.modLane n (fun l => { l with retried := false })).stepReq n (l.step + 1) else c.adapt n

/-- What follows once both results of a test are known (R48, R49, R52). -/
def Core.prbsDecide (c : Core) (n : Nat) : Core :=
  let l := c.lane n
  match l.ownPass, l.peerPass with
  | some own, some peer =>
    if own && peer then
      (if l.fast ∨ l.step = l.top then c.enterUp n false else c.stepOn n)
    else if l.fast then c.bringUp n
    else if l.retried = false then (c.modLane n (fun l => { l with retried := true })).adapt n
    else if l.step = 0 then c.laneFail n 4
    else (c.modLane n (fun l => { l with falling := true })).stepReq n (l.step - 1)
  | _, _ => c

/-! ### What arrives -/

/-- A receiver takes blocks: its lane is powered and not OFF, and no PRBS test suspends comma detection (R48). -/
def Core.rxOn (c : Core) (l : Nat) : Bool := c.laneOn l && (c.lane l).st != .off && (c.lane l).ph != .prbs

/-- A comma arrives: packet counting starts again at a control comma, which is also one comma nearer to the marked boundary,
and goes on by one at a packet comma (R34, R42). A discarded block counts by its comma (DEDUCED, notes/assumptions/21.md). -/
def LaneS.comma (x : LaneS) (packet : Bool) : LaneS :=
  if packet then { x with rxK := x.rxK + 1 } else { x with rxK := 0, rxMark := x.rxMark.map (· - 1) }

/-- A block arrives on lane `l`: its comma counts, then `f` acts. -/
def rxBlk (l : Nat) (packet : Bool) (f : Core → Core) (c : Core) : Core :=
  c.when (c.rxOn l) (fun c => f (c.modLane l (fun x => x.comma packet)))

/-- A control block arrives whole. -/
def rxCtrl (l : Nat) (f : Core → Core) (c : Core) : Core := rxBlk l false f c

/-- A block is discarded and counted (R38, R39). -/
def rxBad (l off : Nat) (packet : Bool) (c : Core) : Core := rxBlk l packet (fun c => c.inc (.lane l) off) c

/-- The counter of what discards a block. -/
def BlockErr.cnt : BlockErr → Nat
  | .code => 0x060 | .align => 0x068

/-- A lane of the group recalibrates (R54). -/
def Core.groupRecal (c : Core) (g : Nat) : Bool :=
  (List.range 16).any (fun i =>
    let p := (c.lane (16 * g + i)).ph
    p == .recalAdapt || p == .recalAlign || p == .recalScan)

/-! ### Eye scans (R56 to R58) -/

/-- A point passes: mismatches <= dwell * 10^-THRESH_EXP (R56). -/
def pointPass (dwell thresh m : Nat) : Bool := decide (m * 10 ^ thresh ≤ dwell)

/-- Passing points in a row from the front. -/
def passRun (dwell thresh : Nat) : List Nat → Nat
  | [] => 0
  | m :: ms => if pointPass dwell thresh m then 1 + passRun dwell thresh ms else 0

/-- Contiguous passing points that include index `i`. -/
def passAround (dwell thresh : Nat) (l : List Nat) (i : Nat) : Nat :=
  if pointPass dwell thresh (nth 1 l i) then
    passRun dwell thresh (l.drop i) + passRun dwell thresh (l.take i).reverse
  else 0

/-- LANE_QUAL from the points at v = 0 and the points at p = 32 (R57). -/
def eyeQual (dwell thresh : Nat) (row col : List Nat) : Nat :=
  let w := passAround dwell thresh row 32
  let h := passAround dwell thresh col 127
  if w = 0 ∨ h = 0 then 0 else w * 1000 / 64 + h * 2 * 2 ^ 16

end Sys2Proof.Machine
end

