-- ==== Sys2Proof/Machine/Ingest.lean ====
section
/-! DEFINITION. Machine/Ingest.lean: packets, due times, margins and slip (R61 to R74, R318), and the packets of the
Pilot (R300 to R302). -/

namespace Sys2Proof.Machine

/-! ### Counters (R74) -/

/-- Per-lane counters in the order of the window registers from 0x080 (Table 3.6). -/
inductive InCnt where
  | accepted | missing | laneDown | late | early | dup | misrouted | format | crc | flagged | guard
deriving DecidableEq, Repr

def InCnt.no : InCnt → Nat
  | .accepted => 0 | .missing => 1 | .laneDown => 2 | .late => 3 | .early => 4 | .dup => 5 | .misrouted => 6
  | .format => 7 | .crc => 8 | .flagged => 9 | .guard => 10

def Core.ingCount (c : Core) (lane n : Nat) : Nat := SMap.get (fun _ => 0) c.ingest.cnt (lane * 16 + n)

/-- Count an outcome on a lane, saturating. -/
def Core.ingInc (c : Core) (lane : Nat) (k : InCnt) : Core :=
  let n := min (c.ingCount lane k.no + 1) m32
  { c with ingest := { c.ingest with cnt := SMap.set (fun _ => 0) c.ingest.cnt (lane * 16 + k.no) n } }

/-- SNAP. -/
def doSnap (c : Core) : Core :=
  let n := c.rd .ingest 0x070 % 256
  (List.range 11).foldl (fun c k => c.wr .ingest (0x080 + 4 * k) (c.ingCount n k)) c

def execSnap : State → Host.Outcome State Fault Refusal := regCmd .snap .ingest doSnap

/-- CLR_ALL. -/
def doClrAll (c : Core) : Core := { c with ingest := { c.ingest with cnt := [] } }

def execClrAll : State → Host.Outcome State Fault Refusal := regCmd .clrAll .ingest doClrAll

/-! ### Slip events (R73) -/

/-- SLIP_SET: a slip event begins. -/
def Core.slipSet (c : Core) (sample : Nat) : Core :=
  if c.ingest.slip then c
  else ((({ c with ingest := { c.ingest with slip := true } }).inc .ingest 0x06C).raise .ingest 0).report
    .ingest 0x15 c.clsDN sample

/-- SLIP_CLEAR: an open slip event ends. -/
def Core.slipClear (c : Core) : Core :=
  if c.ingest.slip then ({ c with ingest := { c.ingest with slip := false } }).raise .ingest 1 else c

/-- SLIP_GUARD in FCLK cycles, rounded up (R69). -/
def Core.guardCyc (c : Core) (i : Image) : Int := cdiv (c.guardNs * i.fclk.1) (i.fclk.2 * 1000000000)

/-- A margin lies in [G, H - G] (R69). -/
def Core.inBand (c : Core) (i : Image) (m : Int) : Bool :=
  decide (c.guardCyc i ≤ m ∧ m ≤ (i.plan.horizon : Int) - c.guardCyc i)

/-! ### Packets (R61, R67, R68) -/

/-- The header fields of a packet (Table 3.1). -/
structure Packet where
  group : Nat
  ch : Nat
  mask : Nat
  sample : Nat
  dflags : Nat
  payload : List Byte

/-- A packet that passes tests 2 and 3, or the counter of the test it fails. -/
def parsePacket (bs : List Byte) : Except InCnt Packet :=
  if (crc32c (bs.take 8224)).toNat ≠ leAt bs 8224 4 then .error .crc
  else
    let g := leAt bs 2 2
    let ch := leAt bs 4 2
    let s := leAt bs 8 8
    if leAt bs 0 1 ≠ 0xC3 ∨ leAt bs 1 1 ≠ 0x01 ∨ 255 < g ∨ 127 < ch ∨ s % 256 ≠ 0 then .error .format
    else .ok ⟨g, ch, leAt bs 6 2, s, leAt bs 16 2, slice bs 32 8192⟩

/-- The sample of input `i` of the group at payload sample `s` (R62). -/
def payloadSamp (pl : List Byte) (i s : Nat) (v : Bool) : Samp :=
  if v then { re := sleAt pl (32 * s + 2 * i) 1, im := sleAt pl (32 * s + 2 * i + 1) 1, v := true } else {}

/-- The 256 samples of an input; zeros where it is invalid (R69). -/
def payloadInput (pl : List Byte) (i : Nat) (v : Bool) : List Samp :=
  let col := pl.drop (2 * i)
  if v then (List.range 256).map (fun s => payloadSamp col 0 s true) else List.replicate 256 {}

/-- The order position of a stream on a lane; test 4 of Table 3.4, with the identity map of R68 in BRINGUP and with no
image LOADED. -/
def Core.position (c : Core) (lane g ch : Nat) : Option Nat :=
  match (if c.power.mode = .bringup then none else c.img) with
  | some i => (i.plan.map.find? (fun e => e.lane == lane && e.group == g && e.ch == ch)).map MapEnt.pos
  | none => if g = lane then some ch else none

/-- The lag of a packet in ns (R318). -/
def Core.lag (c : Core) (sample : Nat) : Int :=
  let f := c.fcc
  (((c.time.tcNs : Int) - c.time.epochTc) * f.1 - ((sample : Int) + 256 - c.time.epochS) * f.2 * 1000000000) / (f.1 : Int)

def Core.modInt (c : Core) (f : Interval → Interval) : Core :=
  { c with ingest := { c.ingest with cur := f c.ingest.cur } }

/-- The lag enters the interval (R318). -/
def Core.lagIn (c : Core) (sample : Nat) : Core :=
  let x := c.lag sample
  c.modInt (fun u => { u with
    lagLo := some (match u.lagLo with | some y => min y x | none => x)
    lagHi := some (match u.lagHi with | some y => max y x | none => x)
    lagBad := if (x < 0 ∨ 1000000 < x) ∧ u.lagBad = none then some sample else u.lagBad })

/-- The margin enters the interval (R66, R71). Of lanes that share the least or the greatest margin the first packet's lane
stands: DESIGN CHOICE, notes/assumptions/81.md -/
def Core.marginIn (c : Core) (i : Image) (lane : Nat) (m : Int) (sample : Nat) : Core :=
  let ns := sat (cyclesNs i.fclk m) (-(2 ^ 31)) (2 ^ 31 - 1)
  let out := !c.inBand i m
  c.modInt (fun u => { u with
    lo := some (match u.lo with | some (y, l) => if ns < y then (ns, lane) else (y, l) | none => (ns, lane))
    hi := some (match u.hi with | some (y, l) => if y < ns then (ns, lane) else (y, l) | none => (ns, lane))
    sum := u.sum + ns, n := u.n + 1
    outside := if out ∧ u.outside = none then some sample else u.outside })

/-- The lowest free slot of a lane (R67). Which free slot a packet takes is a choice: DESIGN CHOICE, notes/assumptions/25.md -/
def Core.freeSlot (c : Core) (lane : Nat) : Option Nat :=
  (List.range 8).find? (fun x => !c.ingest.slots.any (fun s => s.lane == lane && s.idx == x))

def slotAddr (lane idx : Nat) : Nat := elasticBase + lane * 0x10000 + idx * 8192

/-- Tests 5 to 8 of Table 3.4 while a schedule runs. -/
def Core.place (c : Core) (i : Image) (lane pos : Nat) (p : Packet) : Core :=
  let b := p.sample / 256
  let m := i.plan.due i.hdr.mF lane pos b - c.fcycle i
  let c := c.marginIn i lane m p.sample
  if m < 0 then c.ingInc lane .late
  else if (i.plan.horizon : Int) < m then c.ingInc lane .early
  else if c.ingest.slots.any (fun s => s.lane == lane && s.pos == pos && s.blk == b) then c.ingInc lane .dup
  else match c.freeSlot lane with
    | none => c
    | some x =>
      let s : Slot := ⟨lane, pos, b, p.mask, p.dflags, m, x⟩
      ({ c with ingest := { c.ingest with slots := c.ingest.slots ++ [s] } }.ioPut (slotAddr lane x) p.payload).ingInc
        lane .accepted

/-! ### Pilot packets (R300 to R302) -/

/-- PILOT_CFG (Table 12.11). Fields outside their range act as the nearest value in it. -/
def Core.pilotGroup (c : Core) : Nat := bits (c.rd .mode 0x058) 7 0
def Core.pilotCh (c : Core) : Nat := min (bits (c.rd .mode 0x058) 14 8) 112
def Core.pilotLog (c : Core) : Nat := max 10 (min 20 (bits (c.rd .mode 0x058) 19 15))
def Core.pilotShift (c : Core) : Nat := bits (c.rd .mode 0x058) 23 20
def Core.pilotEn (c : Core) : Bool := bit (c.rd .mode 0x058) 24

/-- The 16 groups of the cross-correlations, ascending (R302). -/
def Core.pilotGroups (c : Core) : List Nat :=
  (List.range 256).filter (fun g => decide ((g + 256 - c.pilotGroup) % 256 < 16))

/-- The 64 spectra of an input, 4 fine channels each, requantised (R301). -/
def pilotSpectra (shift : Nat) (src : List Samp) : List Samp :=
  (List.range 64).flatMap (fun s =>
    let w := (src.drop (4 * s)).take 4
    let v := w.all (·.v)
    let h := List.replicate 28 0 ++ [1, 1, 1, 1]
    let (xs, _) := spectrum 2 h 0 0 (List.replicate 28 ({} : Samp) ++ w)
    xs.map (fun x => if v then { re := sat (rne x.1 shift) (-7) 7, im := sat (rne x.2 shift) (-7) 7, v := true } else {}))

/-- Baseline (i, j) of 256 ranks (R150). -/
def pilotIndex (i j : Nat) : Nat := i * 256 - i * (i - 1) / 2 + (j - i)

/-- The products of ranks i <= j in the 4 channels of a coarse channel (R126, R302). -/
def PilotInt.pair (q : PilotInt) (cc i j : Nat) (xs ys : List Samp) : PilotInt :=
  (List.range 4).foldl (fun q f =>
    let key := (cc * 4 + f) * 32896 + pilotIndex i j
    let (re, im, n) := (List.range 64).foldl (fun (a : Int × Int × Nat) s =>
      let x := nth {} xs (4 * s + f)
      let y := nth {} ys (4 * s + f)
      if x.v && y.v then
        (a.1 + x.re * y.re + x.im * y.im, a.2.1 + x.im * y.re - x.re * y.im, a.2.2 + 1)
      else a) (0, 0, 0)
    let o := SMap.get (fun _ => ((0 : Int), (0 : Int))) q.cross key
    { q with cross := SMap.set (fun _ => (0, 0)) q.cross key (o.1 + re, o.2 + im),
             crossN := SMap.set (fun _ => 0) q.crossN key (SMap.get (fun _ => 0) q.crossN key + n) }) q

/-- A packet enters an integration: autocorrelations, and the pairs with every rank already held (R302). -/
def PilotInt.enter (q : PilotInt) (groups : List Nat) (ch0 shift : Nat) (p : Packet) (ok : Bool) : PilotInt :=
  let b := p.sample / 256
  (List.range 16).foldl (fun q i =>
    let inp := 16 * p.group + i
    let sp := pilotSpectra shift (payloadInput p.payload i (ok && p.mask.testBit i))
    let q := (List.range 4).foldl (fun q f =>
      let key := (inp * 128 + p.ch) * 4 + f
      let s := (List.range 64).foldl (fun a s => let x := nth {} sp (4 * s + f); a + (x.re * x.re + x.im * x.im).toNat) 0
      { q with autos := SMap.set (fun _ => 0) q.autos key (SMap.get (fun _ => 0) q.autos key + s) }) q
    let n := ((List.range 64).filter (fun s => (nth {} sp (4 * s)).v)).length
    let q := { q with autoN := SMap.set (fun _ => 0) q.autoN (inp * 128 + p.ch)
                        (SMap.get (fun _ => 0) q.autoN (inp * 128 + p.ch) + n) }
    if groups.elem p.group ∧ ch0 ≤ p.ch ∧ p.ch < ch0 + 16 then
      let rk := groups.findIdx (· == p.group) * 16 + i
      let cc := p.ch - ch0
      let base := (b * 16 + cc) * 256
      let q := { q with held := SMap.insert q.held (base + rk) sp }
      (q.held.filter (fun e => decide (base ≤ e.1 ∧ e.1 < base + 256))).foldl (fun q e =>
        let o := e.1 - base
        if o < rk then q.pair cc o rk e.2 sp else q.pair cc rk o sp e.2) q
    else q) { q with seen := q.seen ++ [(p.group, p.ch, b)] }

/-- A packet of the Pilot: late, a repeat, or entered in its integration (R68, R302). -/
def Core.pilotIn (c : Core) (lane : Nat) (p : Packet) : Core :=
  let b := p.sample / 256
  let q := p.sample / 4 / 2 ^ c.pilotLog
  let late := match c.pilot.closed with
    | some x => decide (q ≤ x)
    | none => false
  if late then c.inc .mode 0x060
  else
    let have_ := c.pilot.ints.find? (fun x => x.q == q)
    let cur := have_.getD { q := q }
    if cur.seen.elem (p.group, p.ch, b) then c.ingInc lane .dup
    else
      let bad := (p.dflags &&& bits (c.rd .ingest 0x040) 31 16) != 0
      let c := if bad then c.ingInc lane .flagged else c
      let cur := cur.enter c.pilotGroups c.pilotCh c.pilotShift p (!bad)
      { c with pilot := { c.pilot with
          ints := c.pilot.ints.filter (fun x => decide (x.q < q)) ++ [cur] ++
                  c.pilot.ints.filter (fun x => decide (q < x.q)) } }

/-! ### PACKET_BLOCK_RECEIVED -/

/-- A packet of a lane that passed test 1. -/
def Core.packetIn (c : Core) (lane : Nat) (bs : List Byte) : Core :=
  match parsePacket bs with
  | .error k => c.ingInc lane k
  | .ok p =>
    match c.position lane p.group p.ch with
    | none => c.ingInc lane .misrouted
    | some pos =>
      let c := c.lagIn p.sample
      match (if c.power.running then c.img else none) with
      | some i => c.place i lane pos p
      | none => if c.pilot.on ∧ c.power.mode = .bringup then c.pilotIn lane p else c

/-- The R65 exception: ALLOW_DOWN_LANES lets a schedule run with the lane below the step it needs. -/
def Core.belowStep (c : Core) (lane : Nat) : Bool :=
  match (if c.power.running ∧ bit (c.rd .ingest 0x040) 0 then c.img else none) with
  | some i => !i.fits lane (c.lane lane).step
  | none => false

/-- PACKET_BLOCK_RECEIVED: `line` holds the bits from the packet comma on. A block broken off is discarded and counted; a whole
one passes to ingest in UP (R37 to R39, R50, R67). -/
def doPacket (l : Nat) (line : List Bool) (c : Core) : Core :=
  match rxBlock (c.lane l).pol line with
  | some (true, .error e) => rxBad l e.cnt true c
  | some (true, .ok bs) =>
    let k := (c.lane l).rxK + 1
    rxBlk l true (fun c =>
      if (c.lane l).st = .up ∧ c.belowStep l = false ∧ c.domOn 36 then c.packetIn l (packetBytes l k bs) else c) c
  | _ => c

def execPacketBlockReceived (l : Lane) (line : List Bool) : State → Host.Outcome State Fault Refusal :=
  act (doPacket l line)

/-! ### PACKET_DUE (R68 to R70) -/

/-- The lane was down or recalibrating at some moment of the HORIZON before now (R68); a recalibration lasts until RECAL_DONE
(R54). -/
def Core.laneWasDown (c : Core) (i : Image) (lane : Nat) : Bool :=
  let x := c.lane lane
  x.st != .up || x.ph == .recalScan || decide ((c.time.tcNs : Int) < x.upSince + cyclesNs i.fclk i.plan.horizon)

/-- The slot is read and released: the valid mask of the group's inputs and the payload. -/
def Core.readSlot (c : Core) (i : Image) (lane pos blk : Nat) : Core × Nat × List Byte :=
  match c.ingest.slots.find? (fun s => s.lane == lane && s.pos == pos && s.blk == blk) with
  | none => (if blk < i.plan.b0 then c else if c.laneWasDown i lane then c.ingInc lane .laneDown
             else c.ingInc lane .missing, 0, [])
  | some s =>
    let pl := c.io.read (slotAddr lane s.idx) 8192
    let c := { c with ingest := { c.ingest with slots := c.ingest.slots.filter (fun x => decide (x ≠ s)) } }
    let guard := !c.inBand i s.margin
    let flag := (s.dflags &&& bits (c.rd .ingest 0x040) 31 16) != 0
    let c := if guard then (c.ingInc lane .guard).slipSet (c.ingest.cur.outside.getD (blk * 256)) else c
    let c := if flag then c.ingInc lane .flagged else c
    (c, if guard || flag then 0 else s.mask, pl)

/-- A block enters a list of runs. -/
def spanAdd (b : Nat) : List (Nat × Nat) → List (Nat × Nat)
  | [] => [(b, b)]
  | (lo, hi) :: l => if lo ≤ b + 1 ∧ b ≤ hi + 1 then (min lo b, max hi b) :: l else (lo, hi) :: spanAdd b l

/-- A block that falls due while a slip event is open, or while the DPLL is not LOCKED (R161, R162, Table 8.7). -/
def Core.noteBlk (c : Core) (b : Nat) : Core :=
  let add (l : List (Nat × Nat)) (p : Bool) : List (Nat × Nat) := if p then spanAdd b l else l
  { c with chan := { c.chan with slipBlks := add c.chan.slipBlks c.ingest.slip,
                                 holdBlks := add c.chan.holdBlks (c.time.dpll != .locked) } }

/-- Spectra pass through the corner-turn buffers, whose contents the spec does not lay out (R106): they are free values.
DESIGN CHOICE, notes/assumptions/37.md -/
def Core.turned (c : Core) : Core :=
  { c with io := { c.io with crook := { fill := .freeSram c.free, cells := [] } }, free := c.free + 1 }

/-- PACKET_DUE. -/
def doPacketDue (l pos blk : Nat) (ce ue : List Nat) (c : Core) : Core :=
  match (if c.power.running then c.img else none) with
  | none => c
  | some i =>
    match i.plan.map.find? (fun e => e.lane == l && e.pos == pos) with
    | none => c
    | some m =>
      let p := i.plan
      let rs := p.dueReads l m.group m.ch
      let ue := ue.filter (inReads rs)
      let c := if ce.any (inReads rs) then c.sramCe else c
      let c := ue.foldl (fun c a => c.sramUe p a) c
      let (c, mask, pl) := c.readSlot i l pos blk
      if blk < p.b0 ∨ p.histL.elem m.ch = false then c
      else
        let w := (blk - p.b0) * 256 / (p.L * p.P)
        let c := c.winEnter p w
        let evs := (List.range 8).map (fun s => if s = m.ch % 8 then some blk else nth none c.chan.evalBlk s)
        let c := { c with chan := { c.chan with evalBlk := evs } }
        let c := ((c.wr64 .crook 0x048 w).noteBlk blk).turned
        let bad := gainBadOf ue
        (List.range 16).foldl (fun c x =>
          let inp := 16 * m.group + x
          if p.uses inp then c.streamDue p inp m.ch blk (payloadInput pl x (mask.testBit x)) bad else c) c

def execPacketDue (l : Lane) (pos blk : Nat) (ce ue : List Nat) : State → Host.Outcome State Fault Refusal :=
  act (doPacketDue l pos blk ce ue)

/-! ### INGEST_INTERVAL_END (R71 to R73, R318) -/

/-- Margins and DRIFT of the interval (R71). After an interval without a packet the margin registers keep their values:
DESIGN CHOICE, notes/assumptions/81.md -/
def Core.marginEnd (c : Core) : Core :=
  let u := c.ingest.cur
  let c := match u.lo, u.hi with
    | some (a, l), some (b, h) =>
      ((c.wr .ingest 0x054 (ofInt 32 a)).wr .ingest 0x058 (ofInt 32 b)).wr .ingest 0x05C (l + 256 * h)
    | _, _ => c
  let mean := if u.n = 0 then none else some (u.sum, u.n)
  let drift := match mean, nth none c.ingest.means 9 with
    | some (s, n), some (s0, n0) => ((s * n0 - s0 * n) * 1000).tdiv (n * n0 : Nat)
    | _, _ => c.ingest.drift
  { c with ingest := { c.ingest with drift := drift, means := (mean :: c.ingest.means).take 10 } }

/-- TTS and TTS_LOW (R72). -/
def Core.ttsEnd (c : Core) : Core :=
  let g := c.ingest
  let n := if c.power.running then (if g.cur.old then g.sinceStart else g.sinceStart + 1) else 0
  let lo := toInt 32 (c.rd .ingest 0x054)
  let hi := toInt 32 (c.rd .ingest 0x058)
  let h : Int := match c.img with
    | some i => cyclesNs i.fclk i.plan.horizon
    | none => 0
  let t : Int := if n < 11 ∨ g.drift = 0 then 0xFFFFFFFF
    else if g.drift < 0 then max 0 (lo - c.guardNs) * 1000 / (-g.drift)
    else max 0 (h - c.guardNs - hi) * 1000 / g.drift
  let t := if 0xFFFFFFFE < t then 0xFFFFFFFF else t.toNat
  let warn := c.rd .ingest 0x068
  let low := g.ttsArmed && decide (t < warn)
  let c := { c with ingest := { g with tts := t, sinceStart := n,
                                       ttsArmed := if low then false else g.ttsArmed || decide (warn < t) } }
  if low then c.raise .ingest 2 else c

/-- The slip decision of the interval (R73). -/
def Core.slipEnd (c : Core) : Core :=
  let u := c.ingest.cur
  match u.outside with
  | some s => c.slipSet s
  | none => if u.n = 0 then c else c.slipClear

/-- The lags of the interval (R318). -/
def Core.lagEnd (c : Core) : Core :=
  let u := c.ingest.cur
  let c := match u.lagLo, u.lagHi with
    | some a, some b => (c.wr (.time 0) 0x0C0 (satWord a).toNat).wr (.time 0) 0x0C4 (satWord b).toNat
    | _, _ => c
  match u.lagBad with
  | some s => (c.raise (.time 0) 3).report (.time 0) 0x77 clsN s
  | none => c

/-- INGEST_INTERVAL_END. -/
def doIntervalEnd (c : Core) : Core :=
  c.when (c.domOn 36) (fun c => (c.marginEnd.ttsEnd.slipEnd.lagEnd).modInt (fun _ => {}))

def execIngestIntervalEnd : State → Host.Outcome State Fault Refusal := act doIntervalEnd

end Sys2Proof.Machine
end

