-- ==== Sys2Proof/Machine/Lanes.lean ====
section
/-! DEFINITION. Machine/Lanes.lean: the commands of the Tsuhan lanes (R38 to R60, R325, R326, R456, R458). -/

namespace Sys2Proof.Machine

/-! ### Register commands -/

/-- TRAIN (R48). -/
def doTrain (l : Lane) (c : Core) : Core := c.bringUp l

def execTrain (l : Lane) : State → Host.Outcome State Fault Refusal :=
  regCmd (.train l) (.lane l) (doTrain l)

/-- RETRAIN: a fast retrain, or a full bring-up without settings last in use (R52). -/
def doRetrain (l : Nat) (c : Core) : Core := if (c.lane l).settings then c.fastRetrain l else c.bringUp l

def execRetrain (l : Lane) : State → Host.Outcome State Fault Refusal := regCmd (.retrain l) (.lane l) (doRetrain l)

/-- RECAL: merged, rejected, or pending (R54, R55). -/
def doRecal (l : Nat) (c : Core) : Core :=
  let x := c.lane l
  if x.recalPending ∨ x.ph = .recalAdapt ∨ x.ph = .recalAlign ∨ x.ph = .recalScan then c.inc (.lane l) 0x070
  else if x.st ≠ .up then c.raise (.lane l) 7
  else c.modLane l (fun x => { x with recalPending := true })

def execRecal (l : Lane) : State → Host.Outcome State Fault Refusal := regCmd (.recal l) (.lane l) (doRecal l)

/-- DOWN (R60). -/
def doDown (l : Lane) (c : Core) : Core := c.laneDown l

def execDown (l : Lane) : State → Host.Outcome State Fault Refusal :=
  regCmd (.down l) (.lane l) (doDown l)

/-- A FULL scan runs in the lane's group (R59). -/
def Core.tableBusy (c : Core) (l : Nat) : Bool :=
  (List.range 16).any (fun i =>
    let x := c.lane (l / 16 * 16 + i)
    x.scan.isSome && x.scanMode == 0)

/-- SCAN_START (R58, R59). -/
def doScanStart (l : Nat) (c : Core) : Core :=
  let x := c.lane l
  let m := bits (c.scanCfg l) 1 0
  let mode := if m = 3 then 1 else m
  if x.scan.isSome ∨ (mode = 0 ∧ c.tableBusy l) ∨ x.st ≠ .up then c.raise (.lane l) 7
  else
    let c := c.modLane l (fun x => x.scanFrom .command mode (c.dwellExp l) (c.threshExp l))
    if mode = 0 then
      (c.setLgrp (l / 16) { c.lgrp (l / 16) with scanOwner := l % 16 }).ioPut (scanTable (l / 16))
        (List.replicate 65280 0)
    else c

def execScanStart (l : Lane) : State → Host.Outcome State Fault Refusal :=
  regCmd (.scanStart l) (.lane l) (doScanStart l)

/-- RECAL_DONE: a recalibration ends (R53, R54). -/
def Core.recalDone (c : Core) (l : Nat) : Core :=
  ((c.modLane l (fun x => { x with ph := .none, upSince := c.time.tcNs })).inc (.lane l) 0x06C).raise (.lane l) 4

/-- SCAN_ABORT (R59). Of the CROSS scan of a recalibration it ends the recalibration too: RECAL_DONE follows, LANE_QUAL keeps
its value. DESIGN CHOICE, notes/assumptions/79.md -/
def doScanAbort (l : Lane) (c : Core) : Core :=
  let c' := c.scanStop l
  if (c.lane l).scan = some .recal then c'.recalDone l else c'

def execScanAbort (l : Lane) : State → Host.Outcome State Fault Refusal :=
  regCmd (.scanAbort l) (.lane l) (doScanAbort l)

/-- The counters of a lane page (Table 2.6). -/
def laneCounters : List Nat := [0x060, 0x064, 0x068, 0x06C, 0x070]

/-- LANE_CLR_CNT (R60). -/
def doLaneClrCnt (l : Lane) (c : Core) : Core := c.clear (.lane l) laneCounters

def execLaneClrCnt (l : Lane) : State → Host.Outcome State Fault Refusal :=
  regCmd (.laneClrCnt l) (.lane l) (doLaneClrCnt l)

/-- Apply a LANE_EN value: bring-up of the lanes set, DOWN for the lanes cleared (R48, R60); a group without a LANE_EN bit
goes off (Table 12.5). -/
def Core.applyLaneEn (c : Core) (g v : Nat) : Core :=
  let old := c.rd (.lgrp g) 0x040
  let c := c.wr (.lgrp g) 0x040 (v % 65536)
  let c := { c with power := { c.power with want := c.power.want.filter (fun e => e.1 != g) ++
                                                    (if v % 65536 = 0 then [(g, false)] else []) } }
  (List.range 16).foldl (fun c i =>
    if v.testBit i = old.testBit i then c
    else if v.testBit i then c.bringUp (16 * g + i) else c.laneDown (16 * g + i)) c

/-- LANE_EN_WRITE on a powered group: RWL (R9, R48). -/
def doLaneEn (g v : Nat) (c : Core) : Core :=
  if c.running then (if v % 65536 = c.rd (.lgrp g) 0x040 then c else c.pageFlt (.lgrp g) 0x01) else c.applyLaneEn g v

/-- R456: a non-zero value for a group whose domain is off requests the switch-on and waits for it; zero is ignored. -/
def Core.requestLgrp (c : Core) (g v : Nat) : Core :=
  if v % 65536 = 0 then c
  else
    let c := c.setLgrp g { c.lgrp g with enPend := some (v % 65536) }
    if c.domOn g ∨ c.power.want.elem (g, true) then c else { c with power := { c.power with want := c.power.want ++ [(g, true)] } }

/-- A LANE_EN write that is served. -/
def serveLaneEn (g v : Nat) (c : Core) : Core :=
  if c.powered (.lgrp g) = false then c.requestLgrp g v
  else if c.acts (.lgrp g) then doLaneEn g v c else c

def doLaneEnWrite (g : Fin 16) (v : Word) (c : Core) : Core :=
  match c.route (.lgrp g) with
  | .none => c
  | .queue => c.post 4 (.laneEnWrite g v)
  | .serve => serveLaneEn g v.toNat (c.lockAccess (.lgrp g) 0)

def execLaneEnWrite (g : Fin 16) (v : Word) : State → Host.Outcome State Fault Refusal := act (doLaneEnWrite g v)

/-! ### Bring-up -/

/-- LANE_PLL_LOCKED: step 2 begins (R48). -/
def doPllLocked (l : Nat) (c : Core) : Core :=
  c.when (c.laneOn l && (c.lane l).ph == .pll) (fun c =>
    (c.setLgrp (l / 16) { c.lgrp (l / 16) with pll := true }).modLane l (fun x => { x with ph := .align }))

def execLanePllLocked (l : Lane) : State → Host.Outcome State Fault Refusal := act (doPllLocked l)

/-- A relayed lane has a control lane that can carry its messages (R46). -/
def Core.relayOk (c : Core) (n : Nat) : Bool := c.relayed n && c.ctrlLane n != n && c.txReturn (c.ctrlLane n)

/-- Step 3 begins: CAPS are exchanged, over the control lane for a relayed lane (R46, R48). -/
def Core.startCaps (c : Core) (n : Nat) : Core :=
  let c := c.modLane n (fun x => { x with st := .negotiate, ph := .caps })
  if c.relayed n then c.sendCtl n 0x01 (c.capsBody n) else c

/-- LANE_ALIGNED (R40, R46, R48, R52). -/
def doLaneAligned (l : Nat) (inv : Bool) (c : Core) : Core :=
  let x := c.lane l
  let pol := if bit (c.rd (.lane l) 0x040) 19 then inv else bit (c.rd (.lane l) 0x040) 20
  if c.laneOn l = false then c
  else if x.ph = .fastAlign then (c.modLane l (fun x => { x with aligned := true, lol := false })).adapt l
  else if x.ph = .align then
    let c := c.modLane l (fun x => { x with pol := pol, aligned := true, lol := false })
    if c.relayed l then
      (if c.relayOk l = false then c.laneFail l 5
       else if (c.lane (c.ctrlLane l)).st = .up then c.startCaps l
       else c.modLane l (fun x => { x with st := .negotiate, ph := .waitCtrl }))
    else if c.txReturn l then c.startCaps l
    else c.laneFail l 5
  else c

def execLaneAligned (l : Lane) (inv : Bool) : State → Host.Outcome State Fault Refusal := act (doLaneAligned l inv)

/-- LANE_ALIGN_TIMEOUT (R48). -/
def doAlignTimeout (l : Nat) (los : Bool) (c : Core) : Core :=
  c.when (c.laneOn l && (c.lane l).ph == .align) (fun c => c.laneFail l (if los then 1 else 2))

def execLaneAlignTimeout (l : Lane) (los : Bool) : State → Host.Outcome State Fault Refusal := act (doAlignTimeout l los)

/-- RELAYED_LANE_CONTINUE (R46). -/
def doRelayed (l : Nat) (c : Core) : Core :=
  let s := (c.lane (c.ctrlLane l)).st
  c.when (c.laneOn l && (c.lane l).ph == .waitCtrl) (fun c =>
    if s = .up then c.startCaps l else if s = .failed then c.laneFail l 5 else c)

def execRelayedLaneContinue (l : Lane) : State → Host.Outcome State Fault Refusal := act (doRelayed l)

/-- LANE_ADAPT_DONE: the transmitter under test sends PRBS_MARK (R42, R48). -/
def doAdaptDone (l : Nat) (c : Core) : Core :=
  c.when (c.laneOn l && (c.lane l).ph == .adapt) (fun c =>
    let c := c.modLane l (fun x => { x with ph := .markPrbs, peerPass := if c.bothWays l then none else some true })
    if c.bothWays l then c.sendMarks l 0x05 (leBytes 5 (c.lane l).prbsCount) else c)

def execLaneAdaptDone (l : Lane) : State → Host.Outcome State Fault Refusal := act (doAdaptDone l)

/-- PRBS_TEST_DONE: the result is recorded and sent (R48); no more bits are checked than the partner's PRBS_MARK stated. -/
def doPrbsDone (l nbits errs : Nat) (c : Core) : Core :=
  c.when (c.laneOn l && (c.lane l).ph == .prbs && !(c.lane l).txMark) (fun c =>
    let nbits := min nbits (c.lane l).rxBits
    let c := (c.wr (.lane l) 0x074 (min errs m32)).wr64 (.lane l) 0x078 nbits
    let c := c.modLane l (fun x => { x with ph := .result, ownPass := some (errs == 0), txPrbs := false })
    (c.sendCtl l 0x06 (leBytes 1 (c.lane l).step ++ [0, 0, 0, 0] ++ leBytes 8 nbits ++ leBytes 8 errs)).prbsDecide l)

def execPrbsTestDone (l : Lane) (bits errs : Nat) : State → Host.Outcome State Fault Refusal := act (doPrbsDone l bits errs)

/-- FAST_RETRAIN_LOCK_TIMEOUT (R52). -/
def doFastTimeout (l : Nat) (c : Core) : Core :=
  c.when (c.laneOn l && (c.lane l).ph == .fastAlign) (fun c => c.bringUp l)

def execFastRetrainLockTimeout (l : Lane) : State → Host.Outcome State Fault Refusal := act (doFastTimeout l)

/-- A rate change is complete in both directions: the lane adapts for the test of its new step, or enters UP there on its way
down (R48, R49). -/
def Core.stepped (c : Core) (l : Nat) : Core := if (c.lane l).falling then c.enterUp l true else c.adapt l

/-- MARKED_BOUNDARY of the partner: the receiver takes the target step, or suspends comma detection for the PRBS test (R42,
R48, R49), which ends an adaptation that has not ended (DEDUCED, notes/assumptions/80.md). Own marked blocks that still wait
leave first, and the transmitter follows at their own boundary. -/
def doBoundary (l : Nat) (c : Core) : Core :=
  let x := c.lane l
  c.when (c.laneOn l && x.rxMark == some 0) (fun c =>
    if x.ph = .mark then
      let c := c.modLane l (fun x => { x with rxMark := none, step := x.target, ph := if x.txMark then .markOwn else x.ph })
      if x.txMark then c else c.stepped l
    else if x.ph = .markPrbs ∨ x.ph = .adapt then
      (doAdaptDone l c).modLane l (fun x => { x with rxMark := none, ph := .prbs })
    else c)

def execMarkedBoundary (l : Lane) : State → Host.Outcome State Fault Refusal := act (doBoundary l)

/-! ### Received control blocks -/

/-- The bits of a control block arrive on lane `l`, from its comma on: the block is found, destuffed, descrambled and checked
(R37 to R39, R41). A block broken off, one whose CRC fails and one of unknown TYPE are counted; `f` is the effect of a block
of one of the types `ts`, the types of the command's row; bits that spell a block of another row are no command of this one. -/
def rxLine (l : Nat) (line : List Bool) (ts : Nat → Bool) (f : CtrlBlk → Core → Core) (c : Core) : Core :=
  match rxBlock (c.lane l).pol line with
  | some (false, .error e) => rxBad l e.cnt false c
  | some (false, .ok bs) =>
    (match parseCtrl (ctrlBlockBytes bs) with
     | none => rxCtrl l (fun c => c.inc (.lane l) 0x064) c
     | some b =>
       if 0x0A < b.type then rxCtrl l (fun c => c.inc (.lane l) 0x064) c
       else c.when (ts b.type) (rxCtrl l (f b)))
  | _ => c

/-- CTRL_IDLE: keep-alive only (R41). -/
def execCtrlIdle (l : Lane) (line : List Bool) : State → Host.Outcome State Fault Refusal :=
  act (rxLine l line (· == 0x00) (fun _ c => c))

/-- CAPS: the partner's identity and the agreed top step (R48). -/
def Core.takeCaps (c : Core) (t : Nat) (body : List Byte) : Core :=
  c.when ((c.lane t).ph == .caps) (fun c =>
    if leAt body 8 1 ≠ 1 then c.laneFail t 3
    else
      let pm := leAt body 9 1
      let c := c.wr64 (.lane t) 0x080 (leAt body 0 8)
      let c := c.modLane t (fun x =>
        { x with features := leAt body 11 1, partnerMax := pm, partnerLane := leAt body 12 1,
                 top := min (min (c.maxStep t) pm) 4, st := .stepping })
      c.stepOn t)

def execCaps (l : Lane) (line : List Bool) : State → Host.Outcome State Fault Refusal :=
  act (rxLine l line (· == 0x01) (fun b c => match c.concerns l b with
    | some t => c.takeCaps t b.body
    | none => c))

/-- STEP_ACK: marks are sent, or a refusal ends stepping (R48, R49). -/
def Core.takeAck (c : Core) (t : Nat) (body : List Byte) : Core :=
  let x := c.lane t
  c.when (x.ph == .ackWait && leAt body 0 1 == x.target) (fun c =>
    if leAt body 1 1 = 0 then
      let c := c.modLane t (fun x => { x with ph := .mark })
      if c.bothWays t then c.sendMarks t 0x04 (leBytes 1 x.target) else c
    else (c.modLane t (fun x => { x with top := x.step, falling := false, retried := false })).adapt t)

def execStepAck (l : Lane) (line : List Bool) : State → Host.Outcome State Fault Refusal :=
  act (rxLine l line (· == 0x03) (fun b c => match c.concerns l b with
    | some t => c.takeAck t b.body
    | none => c))

/-- STEP_MARK and PRBS_MARK place the marked boundary COUNT control commas later; PRBS_MARK states the bit count (R42, R48).
A mark that comes while the receiver still adapts counts too. -/
def Core.takeMark (c : Core) (l : Nat) (phs : List LanePh) (b : CtrlBlk) : Core :=
  c.when (phs.elem (c.lane l).ph) (fun c => c.modLane l (fun x =>
    { x with rxMark := some b.count, rxBits := if b.type = 0x05 then leAt b.body 0 5 else x.rxBits }))

def execStepMark (l : Lane) (line : List Bool) : State → Host.Outcome State Fault Refusal :=
  act (rxLine l line (· == 0x04) (fun b c => c.takeMark l [.mark] b))

def execPrbsMark (l : Lane) (line : List Bool) : State → Host.Outcome State Fault Refusal :=
  act (rxLine l line (· == 0x05) (fun b c => c.takeMark l [.adapt, .markPrbs] b))

/-- PRBS_RESULT: the partner's count of errors (R48). -/
def Core.takeResult (c : Core) (t : Nat) (body : List Byte) : Core :=
  let x := c.lane t
  c.when (x.ph == .result && c.bothWays t && leAt body 0 1 == x.step) (fun c =>
    (c.modLane t (fun x => { x with peerPass := some (leAt body 13 8 == 0) })).prbsDecide t)

def execPrbsResult (l : Lane) (line : List Bool) : State → Host.Outcome State Fault Refusal :=
  act (rxLine l line (· == 0x06) (fun b c => match c.concerns l b with
    | some t => c.takeResult t b.body
    | none => c))

/-- STATUS: no register of the device shows the partner's report (R41). -/
def execStatus (l : Lane) (line : List Bool) : State → Host.Outcome State Fault Refusal :=
  act (rxLine l line (· == 0x07) (fun _ c => c))

/-- A dropped time message (R325, R326). -/
def Core.timeDrop (c : Core) : Core := (c.inc (.time 3) 0x050).raise (.time 3) 1

/-- TIME_REQ: stamped and queued for its answer, or dropped (R325). -/
def Core.takeTimeReq (c : Core) (l : Nat) (body : List Byte) : Core :=
  let c := c.inc (.time 3) 0x054
  if bit (c.rd (.time 3) 0x040) 0 ∧ c.txReturn l ∧ (c.lane l).respQ.length < 4 then
    let (st, c) := c.stampNow
    c.modLane l (fun x => { x with respQ := x.respQ ++ [(leAt body 0 2, st)] })
  else c.timeDrop

def execTimeReq (l : Lane) (line : List Bool) : State → Host.Outcome State Fault Refusal :=
  act (rxLine l line (· == 0x08) (fun b c => c.takeTimeReq l b.body))

/-- The 16 B of a timestamp (R323). -/
def Stamp.bytes (t : Stamp) : List Byte := leBytes 8 t.s ++ leBytes 4 t.ns ++ leBytes 2 t.frac ++ [0, 0]

/-- A TIME_EXCHANGE event goes to its ring; EXCHANGE follows its delivery (R326, Table 13.8). -/
def Core.timeEvent (c : Core) (lane id eflags : Nat) (t1 : List Byte) (t23 : List Byte) (t4 : List Byte) : Core :=
  let body := leBytes 2 lane ++ leBytes 2 id ++ leBytes 4 eflags ++ t1 ++ t23 ++ t4
  match c.pushItem (c.rd (.time 3) 0x048) 4 2 body with
  | some c => c
  | none => c.timeDrop

/-- TIME_RESP: the exchange completes (R324, R326). -/
def Core.takeTimeResp (c : Core) (l : Nat) (body : List Byte) : Core :=
  let c := c.inc (.time 3) 0x058
  let id := leAt body 0 2
  let (t4, c) := c.stampNow
  let e := c.time.tsQ.find? (fun e => e.id == id && e.lane == l)
  let fl := b2n e.isNone + 4 * (leAt body 2 1 % 2) + 8 * b2n (c.time.dpll == .locked)
  let c := { c with time := { c.time with tsQ := c.time.tsQ.filter (fun e => !(e.id == id && e.lane == l)) } }
  let t1 := match e with
    | some e => e.t1.bytes
    | none => List.replicate 16 0
  c.timeEvent l id fl t1 (slice body 8 32) t4.bytes

def execTimeResp (l : Lane) (line : List Bool) : State → Host.Outcome State Fault Refusal :=
  act (rxLine l line (· == 0x09) (fun b c => c.takeTimeResp l b.body))

/-- HOST: to the EVENT ring of HOSTMSG_RING (R43, R370). -/
def Core.takeHost (c : Core) (l : Nat) (body : List Byte) : Core :=
  match c.pushItem (c.rd .ring 0x068) 4 1 (leBytes 2 l ++ [0, 0] ++ slice body 0 52) with
  | some c => c
  | none => c.inc .ring 0x084

def execHost (l : Lane) (line : List Bool) : State → Host.Outcome State Fault Refusal :=
  act (rxLine l line (· == 0x0A) (fun b c => c.takeHost l b.body))

/-- RX_CTRL_UNKNOWN_TYPE and RX_CTRL_CRC_FAIL: discarded and counted (R39, R41). A STEP_REQ is no message that the device
takes (Table 2.2). -/
def execRxCtrlUnknownType (l : Lane) (line : List Bool) : State → Host.Outcome State Fault Refusal :=
  act (rxLine l line (· == 0x02) (fun _ c => c))

def execRxCtrlCrcFail (b : LaneLine) : State → Host.Outcome State Fault Refusal :=
  act (rxLine b.lane b.line (fun _ => false) (fun _ c => c))

/-- CODE_VIOLATION (R38). -/
def execCodeViolation (b : LaneBad) : State → Host.Outcome State Fault Refusal := act (rxBad b.lane 0x060 (!b.ctrl))

/-- BLOCK_ALIGN_ERROR (R39). -/
def execBlockAlignError (b : LaneBad) : State → Host.Outcome State Fault Refusal := act (rxBad b.lane 0x068 (!b.ctrl))

/-! ### The transmitter -/

/-- Put a control block on the line. -/
def Core.putCtrl (c : Core) (l : Nat) (m : CtrlOut) : Core :=
  let bs := ctrlBytes m (c.lane l).txSeq
  (c.modLane l (fun x => { x with txSeq := (x.txSeq + 1) % 65536, txK := 0 })).emit (.laneCtrl l bs (ctrlLine bs))

/-- TFLAGS (R323). -/
def Core.tflags (c : Core) : Nat := b2n (c.time.dpll == .locked)

/-- Record the transmit time of a TIME_REQ; TS_OVERFLOW is reported once per second at most (R314, R324). -/
def Core.tsRecord (c : Core) (id l : Nat) : Core :=
  let (st, c) := c.stampNow
  if 16 ≤ c.time.tsQ.length then
    let c := (c.inc (.time 3) 0x04C).raise (.time 3) 0
    if (match c.time.tsOvfAt with
        | some t => decide (t + 1000000000 ≤ c.time.tcNs)
        | none => true) then
      { c with time := { c.time with tsOvfAt := some c.time.tcNs } }.report (.time 3) 0x78 clsN l
    else c
  else { c with time := { c.time with tsQ := c.time.tsQ ++ [⟨id, l, st⟩] } }

/-- A marked block has left. After COUNT 0 the transmitter takes the target step, or sends PRBS31 for the stated bit count; a
lane whose receiver has changed already goes on (R42, R48). -/
def Core.markLeft (c : Core) (l : Nat) (m : CtrlOut) : Core :=
  c.when ((c.lane l).txMark && m.count == 0 && m.rel.isNone) (fun c =>
    if m.type = 0x04 then
      let own := (c.lane l).ph == .markOwn
      let c := c.modLane l (fun x => { x with txMark := false, txStep := leAt m.body 0 1 })
      if own then c.stepped l else c
    else if m.type = 0x05 then
      (c.modLane l (fun x => { x with txMark := false, txPrbs := true })).emit (.lanePrbs l (leAt m.body 0 5))
    else c)

/-- The control block that a lane sends next: negotiation messages, a TIME_RESP, a TIME_REQ, a HOST message, CAPS in
steps 2 and 3, and STATUS or IDLE (R35, R43, R45, R48, R324, R325). The order among queued kinds is a choice:
DESIGN CHOICE, notes/assumptions/22.md -/
def Core.ctrlDue (c : Core) (l : Nat) : Core :=
  let x := c.lane l
  if c.txMode l = 2 then c.putCtrl l { type := 0x07, body := c.statusBody l false }
  else match x.ctlQ with
  | m :: ms => ((c.modLane l (fun x => { x with ctlQ := ms })).putCtrl l m).markLeft l m
  | [] =>
    match x.respQ with
    | (id, t2) :: rs =>
      let (t3, c) := c.stampNow
      (c.modLane l (fun x => { x with respQ := rs })).putCtrl l
        { type := 0x09, body := leBytes 2 id ++ leBytes 1 c.tflags ++ [0, 0, 0, 0, 0] ++ t2.bytes ++ t3.bytes }
    | [] =>
      match x.timeQ with
      | id :: ts =>
        ((c.modLane l (fun x => { x with timeQ := ts })).tsRecord id l).putCtrl l
          { type := 0x08, body := leBytes 2 id ++ leBytes 1 c.tflags }
      | [] =>
        match x.hostQ with
        | b :: hs => (c.modLane l (fun x => { x with hostQ := hs })).putCtrl l { type := 0x0A, body := b }
        | [] =>
          if x.ph = .align ∨ x.ph = .caps then c.putCtrl l { type := 0x01, body := c.capsBody l }
          else c.putCtrl l { type := 0x00 }

/-- LAUNCH in ns. -/
def Frame.launch (f : Frame) : Nat := f.launchS * 1000000000 + f.launchNs

/-- A control block that starts now would still be on the line at the LAUNCH of a frame that waits for the lane (R271). The block
takes 72 bytes with the worst stuffing of R36, in units of ATB. -/
def Core.launchNear (c : Core) (l : Nat) : Bool :=
  let on : Int := 72 * 8 * 24 * 1000000000 * 65536 / (23 * 3515625000 * 2 ^ (c.lane l).txStep)
  (List.range c.part.dies).any (fun d => (c.xdie d).egress.any (fun f =>
    f.dest.testBit 15 == false && f.dest % 256 == l &&
      decide (c.time.atb ≤ (f.launch : Int) * 65536 ∧ (f.launch : Int) * 65536 < c.time.atb + on)))

/-- CTRL_BLOCK_DUE: nothing is sent by a transmitter that is OFF, idle, or in a PRBS test; with a LAUNCH near, the block follows
that frame's packet (R271). -/
def doCtrlDue (l : Nat) (c : Core) : Core :=
  let x := c.lane l
  c.when (c.laneOn l && c.txMode l != 3 && x.st != .off && !x.txIdle && !x.txPrbs)
    (fun c => if c.launchNear l then c.modLane l (fun x => { x with ctrlHeld := true }) else c.ctrlDue l)

def execCtrlBlockDue (l : Lane) : State → Host.Outcome State Fault Refusal := act (doCtrlDue l)

/-! ### Supervision -/

/-- What loss of signal or of lock does to a lane (R51, R52, R458). -/
def Core.lossOf (c : Core) (l : Nat) (los : Bool) : Core :=
  let x := c.lane l
  let kind := if los then 0x10 else 0x11
  let c := if x.st = .off then c else c.raise (.lane l) (if los then 0 else 1)
  if x.st = .up ∨ x.st = .recal then (c.report (.lane l) kind c.clsDN 0).leaveUp l los
  else if x.st = .retrain then (if x.ph = .losWait then c else c.bringUp l)
  else if x.st = .negotiate ∨ x.st = .stepping then c.reAcquire l
  else c

/-- LOSS_OF_SIGNAL. -/
def doLos (l : Nat) (c : Core) : Core :=
  c.when (c.laneOn l && !(c.lane l).los) (fun c => (c.modLane l (fun x => { x with los := true })).lossOf l true)

def execLossOfSignal (l : Lane) : State → Host.Outcome State Fault Refusal := act (doLos l)

/-- LOS_CLEAR: a lane that waits for it starts its fast retrain (R52). -/
def doLosClear (l : Nat) (c : Core) : Core :=
  c.when (c.laneOn l) (fun c =>
    c.modLane l (fun x => { x with los := false, ph := if x.ph = .losWait then .fastAlign else x.ph }))

def execLosClear (l : Lane) : State → Host.Outcome State Fault Refusal := act (doLosClear l)

/-- LOSS_OF_LOCK. -/
def doLol (l : Nat) (c : Core) : Core :=
  c.when (c.laneOn l) (fun c => (c.modLane l (fun x => { x with lol := true, aligned := false })).lossOf l false)

def execLossOfLock (l : Lane) : State → Host.Outcome State Fault Refusal := act (doLol l)

/-- TIMEOUT: checked only in UP (R51, R458). -/
def doTimeout (l : Nat) (c : Core) : Core :=
  c.when (c.laneOn l && (c.lane l).st == .up) (fun c =>
    ((c.raise (.lane l) 2).report (.lane l) 0x12 c.clsDN 0).leaveUp l false)

def execTimeout (l : Lane) : State → Host.Outcome State Fault Refusal := act (doTimeout l)

/-! ### Recalibration and scans -/

/-- FCLK cycles of 2.5 ms fit a window of `n` cycles of the IO die (R54). -/
def Core.recalWindow (c : Core) (n : Nat) : Bool :=
  match c.img with
  | some i => decide (25 * i.fclk.1 ≤ n * i.fclk.2 * 10000)
  | none => true

/-- A recalibration may start now: in a schedule only at the opening of a window for it (R15, R54). -/
def Core.recalNow (c : Core) : Bool :=
  if c.running ∧ c.power.running ∧ c.power.mode ≠ .calibrate ∧ c.imageMode ≠ .calibrate then
    (match (c.chanter 4).win with
     | some (cls, len) => cls.testBit 4 && c.recalWindow len && (c.chanter 4).winTc == c.time.tcNs
     | none => false)
  else true

/-- RECAL_START: one lane of a group at a time, in ascending number (R53, R54). -/
def doRecalStart (l : Nat) (c : Core) : Core :=
  let x := c.lane l
  let earlier := (List.range (l % 16)).any (fun i =>
    let y := c.lane (l / 16 * 16 + i)
    y.recalPending && y.st == .up)
  c.when (c.laneOn l && x.recalPending && x.st == .up && !c.groupRecal (l / 16) && !earlier && c.recalNow) (fun c =>
    (c.scanStop l).modLane l (fun x => { x with recalPending := false, st := .recal, ph := .recalAdapt, aligned := false }))

def execRecalStart (l : Lane) : State → Host.Outcome State Fault Refusal := act (doRecalStart l)

/-- RECAL_ADAPT_DONE: the shadow settings become the live set (R53). -/
def doRecalAdapt (l : Nat) (c : Core) : Core :=
  c.when (c.laneOn l && (c.lane l).ph == .recalAdapt) (fun c => c.modLane l (fun x => { x with ph := .recalAlign }))

def execRecalAdaptDone (l : Lane) : State → Host.Outcome State Fault Refusal := act (doRecalAdapt l)

/-- RECAL_REALIGNED: the outage ends and the CROSS scan starts (R53). -/
def doRecalAligned (l : Nat) (c : Core) : Core :=
  c.when (c.laneOn l && (c.lane l).ph == .recalAlign) (fun c =>
    c.modLane l (fun x =>
      { x with st := .up, ph := .recalScan, aligned := true, upSince := c.time.tcNs }.cross (c.threshExp l) .recal))

def execRecalRealigned (l : Lane) : State → Host.Outcome State Fault Refusal := act (doRecalAligned l)

/-- EYE_SCAN_DONE: `counts` are the mismatches of the points in the order of Table 2.5 (R56 to R58). -/
def doScanDone (l : Nat) (counts : List Nat) (c : Core) : Core :=
  let x := c.lane l
  match x.scan with
  | none => c
  | some why =>
    if c.laneOn l = false then c
    else
      let dwell := 10 ^ x.scanDwell
      let th := x.scanThresh
      let full := (List.range 16320).map (nth 0 counts)
      let c := c.modLane l (fun x => { x with scan := none })
      let c :=
        if x.scanMode = 2 then c.wr (.lane l) 0x054 (min (nth 0 counts 0) m32)
        else if x.scanMode = 0 then
          (c.wr (.lane l) 0x04C (eyeQual dwell th ((List.range 64).map (fun p => nth 0 counts (p * 255 + 127)))
            ((full.drop (32 * 255)).take 255))).ioPut (scanTable (l / 16)) (full.flatMap (fun m => leBytes 4 (min m m32)))
        else c.wr (.lane l) 0x04C (eyeQual dwell th ((List.range 64).map (nth 0 counts))
            ((List.range 255).map (fun i => nth 0 counts (64 + i))))
      let c := c.raise (.lane l) 5
      if why = .recal then c.recalDone l else c

def execEyeScanDone (l : Lane) (counts : List Nat) : State → Host.Outcome State Fault Refusal := act (doScanDone l counts)

end Sys2Proof.Machine
end

