-- ==== Sys2Proof/Machine/Rings.lean ====
section
/-! DEFINITION. Machine/Rings.lean: doorbells, descriptors, outbound items, completions and the ring registers (R363 to R376,
R384, R388). -/

namespace Sys2Proof.Machine

/-- A ring that moves data toward the device (R363). -/
def RingS.inbound (x : RingS) : Bool := x.role == 1 || x.role == 7
/-- The ring's doorbell is acted on (RING_STS.ACTIVE). -/
def Core.ringActive (c : Core) (r : Nat) : Bool := (r == 0 || (c.ring r).role != 0) && !(c.ring r).error

/-! ### Doorbell (R364, R365) -/

/-- DOORBELL_WRITE. -/
def doDoorbell (r t : Nat) (c : Core) : Core :=
  let x := c.ring r
  let size := 2 ^ x.k
  let ahead (a b : Nat) : Nat := (a + 2 ^ 32 - b % 2 ^ 32) % 2 ^ 32
  if c.ringActive r = false then c
  else if ahead t x.head ≤ size ∧ ahead t x.tail ≤ size then c.setRing r { x with tail := t }
  else (((c.setRing r { x with error := true }).inc .ring 0x078).raise .ring 1).report .ring 0x91 clsN 0

def execDoorbellWrite (r : RingNo) (t : Word) : State → Host.Outcome State Fault Refusal :=
  hdrCmd (.doorbellWrite r t) (2048 + r.val / 1024) (fun _ => State.onCore (doDoorbell r.val t.toNat))

/-! ### Descriptor fetch (R368, R374, R376) -/

/-- A descriptor of 32 B with number `n` (Table 15.6). -/
def parseDesc (n : Nat) (bs : List Byte) : Desc :=
  { n := n, op := leAt bs 0 1, gen := leAt bs 1 1, dflags := leAt bs 2 1, tag := leAt bs 4 4, addr := leAt bs 8 8,
    len := leAt bs 16 4, arg0 := leAt bs 20 4, arg1 := leAt bs 24 8 }

/-- A descriptor of a stale generation: ORPHANED in its own slot, and off to ring 0 (R374); not from ring 0 (R376). -/
def Core.staleDesc (c : Core) (r : Nat) (d : Desc) : Core :=
  let own : Compl := { n := d.n, tag := 0, status := stOrphaned, len := 0, kind := 0, gen := d.gen, detail := 0, irq := false,
                       orphan := true, ring := r }
  let c := (c.writeSlot r own).modRing r (fun x =>
    RingS.skipDead 9 { x with descs := x.descs ++ [{ d with dead := true }], fetch := (d.n + 1) % 2 ^ 32 })
  if r = 0 then c else c.divert r d.gen d.tag stOrphaned 0 0

/-- DESCRIPTOR_FETCH. A host read of a descriptor that fails changes nothing: the device fetches it again
(DEDUCED, notes/assumptions/32.md). -/
def doFetchDesc (r : Nat) (desc : Option (List Byte)) (c : Core) : Core :=
  let x := c.ring r
  match desc with
  | none => c
  | some bs =>
    if c.ringActive r = false ∨ c.host.linkUp = false ∨ c.host.d3.isSome ∨ x.fetch = x.tail ∨
        8 ≤ (x.fetch + 2 ^ 32 - x.head) % 2 ^ 32 then c
    else
      let d := parseDesc x.fetch bs
      if d.gen ≠ x.gen then c.staleDesc r d
      else c.setRing r { x with descs := x.descs ++ [d], fetch := (x.fetch + 1) % 2 ^ 32 }

def execDescriptorFetch (r : RingNo) (desc : Option (List Byte)) : State → Host.Outcome State Fault Refusal :=
  act (doFetchDesc r.val desc)

/-! ### Commands without a body (R369) -/

/-- NOP. -/
def execNopCommand (r : RingNo) : State → Host.Outcome State Fault Refusal :=
  act (fun c => c.exec r.val 0x00 (fun _ c => c.finish r.val stAccepted))

/-- DELAY_SEG (R80, R369). -/
def doDelaySeg (r : Nat) (body : Option (List Byte)) (d : Desc) (c : Core) : Core :=
  if d.len ≠ 48 then c.finish r stInvalid
  else
    match body with
    | none => c.finish r stHostErr
    | some bs => let (st, c) := c.segment bs; c.finish r st

def execDelaySeg (r : RingNo) (body : Option (List Byte)) : State → Host.Outcome State Fault Refusal :=
  act (fun c => c.exec r.val 0x03 (doDelaySeg r.val body))

/-- A 52 B message may be sent on a lane: UP, RETURN or RETURN_OUTPUT, the partner takes HOST messages (Table 15.9). -/
def Core.hostMsgLane (c : Core) (l : Nat) : Bool :=
  let x := c.lane l
  x.st == .up && c.txReturn l && x.features.testBit 1

/-- HOST_MSG (R43): four messages wait per lane at most. -/
def doHostMsg (r : Nat) (body : Option (List Byte)) (d : Desc) (c : Core) : Core :=
  let l := d.arg0 % 256
  if d.len ≠ 52 ∨ c.hostMsgLane l = false then c.finish r stInvalid
  else if 4 ≤ (c.lane l).hostQ.length then c.finish r stBusy
  else
    match body with
    | none => c.finish r stHostErr
    | some bs => (c.modLane l (fun x => { x with hostQ := x.hostQ ++ [slice bs 0 52] })).finish r stAccepted

def execHostMsg (r : RingNo) (body : Option (List Byte)) : State → Host.Outcome State Fault Refusal :=
  act (fun c => c.exec r.val 0x0A (doHostMsg r.val body))

/-- The front descriptor of ring `r` is one that the ring's role does not take (R369). -/
def Core.badFront (c : Core) (r : Nat) : Option Desc :=
  match c.front r with
  | some d => if (if (c.ring r).inbound then roleTakes (c.ring r).role d.op else d.op == 0x80) then none else some d
  | none => none

/-- DESCRIPTOR_BAD_OP. In SAFE an inbound command completes with MODE (R422). -/
def doBadOp (r : Nat) (c : Core) : Core :=
  match c.badFront r with
  | none => c
  | some d =>
    let x := c.ring r
    if c.host.d3.isSome then c
    else if x.inbound then
      (if c.power.mode = .safe then c.finish r stMode else ((c.inc .ring 0x07C).raise .ring 4).finish r stBadOp)
    else
      let q : Compl := { n := d.n, tag := d.tag, status := stBadOp, len := 0, kind := 0, gen := d.gen, detail := 0,
                         irq := d.dflags.testBit 0, ring := r }
      let c := c.setRing r { x with descs := x.descs.drop 1, compl := x.compl ++ [q] }
      ((c.inc .ring 0x07C).raise .ring 4).flushCompl 9 r

def execDescriptorBadOp (r : RingNo) : State → Host.Outcome State Fault Refusal := act (doBadOp r.val)

/-! ### Outbound items (R370, R374 to R376) -/

/-- The drop rule of an item that no buffer takes (R163, R299, R326, R370, R417). -/
def Core.itemDrop (c : Core) (i : Item) : Core :=
  if i.kind = 0 then
    (if i.die < 4 then c.frameRingFull i.die (frameType i.bytes) (frameHdr i.bytes) else c.inc .mode 0x064)
  else if i.kind = 1 then c.inc .ring 0x084
  else if i.kind = 2 then c.timeDrop
  else if i.kind = 3 then (c.inc .flt 0x09C).raise .flt 5
  else c

/-- An item whose buffer is too short (R370, R417). -/
def Core.itemShort (c : Core) (i : Item) : Core :=
  let c := (c.inc .ring 0x080).raise .ring 3
  if i.kind = 0 ∧ i.die < 4 then c.frameRingFull i.die (frameType i.bytes) (frameHdr i.bytes)
  else if i.kind = 3 then (c.inc .flt 0x09C).raise .flt 5
  else c

/-- The completion of a buffer that takes an item. -/
def Item.compl (i : Item) (d : Desc) (status len : Nat) (writes : Bool) : Compl :=
  if i.kind = 4 then { n := d.n, tag := i.tag, status := i.status, len := i.clen, kind := 4, gen := i.gen, detail := i.detail,
                       irq := d.dflags.testBit 0, orphan := true, ring := i.from_ }
  else { n := d.n, tag := d.tag, status := status, len := len, kind := i.kind, gen := i.gen, detail := 0,
         irq := d.dflags.testBit 0, orphan := i.orphan, ring := i.from_, writes := writes }

/-- An item takes the buffer `d` of ring `r`. -/
def Core.itemTake (c : Core) (r : Nat) (i : Item) (d : Desc) (rest : List Desc) : Core :=
  let n := i.bytes.length
  let short := decide (i.kind ≠ 4 ∧ d.len < n)
  let c := c.modRing r (fun x => { x with descs := rest, compl := x.compl ++
    [i.compl d (if short then stShort else stAccepted) n (!short && i.kind != 4)] })
  let c := if short then c.itemShort i
    else if i.kind = 4 then c
    else
      let c := c.hostWrite d.addr i.bytes
      if i.kind = 0 ∧ i.die < 4 then c.frameSent i.die (frameType i.bytes) (frameHdr i.bytes)
      else if i.kind = 2 then c.raise (.time 3) 2
      else c
  c.flushCompl 9 r

/-- An item that Mute keeps from the host: all but completions and fault records (R421). -/
def Core.itemMuted (c : Core) (i : Item) : Core :=
  if i.kind = 0 ∧ i.die < 4 then c.frameMuted i.die (frameType i.bytes) (frameHdr i.bytes) else c

/-- A TELEMETRY or Pilot frame crosses the bulk crossbar under class [33] of the IO die (R299). -/
def Core.telemShut (c : Core) (i : Item) : Bool := i.kind == 0 && decide (4 ≤ i.die) && !c.winOpen 4 33

/-- OUTBOUND_ITEM_DELIVER: the front item goes to a buffer, to ring 0, or is dropped; it waits while a posted buffer is
still to be fetched, and a TELEMETRY frame for its window. -/
def doDeliver (r : Nat) (c : Core) : Core :=
  let x := c.ring r
  match x.items with
  | [] => c
  | i :: is =>
    let c' := c.setRing r { x with items := is }
    if c.host.linkUp = false ∨ c.host.d3.isSome then c
    else if c.power.mute ∧ i.kind ≠ 3 ∧ i.kind ≠ 4 then c'.itemMuted i
    else if c.telemShut i then c
    else if r ≠ 0 ∧ i.gen ≠ x.gen then
      let c := ((c'.diverted.inc .ring 0x070).report .ring 0x93 clsN 0)
      c.modRing 0 (fun y => { y with items := y.items ++ [{ i with orphan := true, from_ := r }] })
    else
      match x.descs with
      | d :: ds => if d.dead ∨ d.op ≠ 0x80 ∨ x.busy then c else c'.itemTake r i d ds
      | [] =>
        if x.fetch ≠ x.tail ∧ x.error = false then c
        else
          let c := if r = 0 then (c'.inc .ring 0x074).raise .ring 2 else c'
          c.itemDrop i

def execOutboundItemDeliver (r : RingNo) : State → Host.Outcome State Fault Refusal := act (doDeliver r.val)

/-! ### Read-back and interrupts (R371, R384) -/

/-- The channel whose job of ring `r` waits for its read-back. -/
def Core.readbackChannel (c : Core) (r : Nat) : Option Nat :=
  (List.range 64).find? (fun ch => (c.dma ch).readback && (match (c.dma ch).job with | some j => j.ring == r | none => false))

/-- READBACK_COMPLETE. -/
def doReadback (r : Nat) (ok : Bool) (c : Core) : Core :=
  match c.readbackChannel r with
  | some ch =>
    let st := match (c.dma ch).job with
      | some j => j.stopAs.getD stAccepted
      | none => stAccepted
    c.completeJob ch (if ok then st else stHostErr)
  | none =>
    let x := c.ring r
    match x.compl with
    | q :: qs =>
      if q.writes then
        let c := c.setRing r { x with compl := qs }
        let c := if ok then c.complete r q else c.hostErr.complete r { q with status := stHostErr }
        c.flushCompl 9 r
      else c
    | [] => c

def execReadbackComplete (r : RingNo) (ok : Bool) : State → Host.Outcome State Fault Refusal := act (doReadback r.val ok)

/-- IRQ_COALESCE_TIMEOUT. -/
def doCoalesce (r : Nat) (c : Core) : Core :=
  let x := c.ring r
  if x.unsig = 0 ∨ x.coalUs = 0 then c else (c.setRing r { x with unsig := 0 }).msix x.vec

def execIrqCoalesceTimeout (r : RingNo) : State → Host.Outcome State Fault Refusal := act (doCoalesce r.val)

/-! ### Ring registers (R372, R374, R388) -/

/-- What becomes of the fetched descriptors of a ring whose generation changes (R374): those not begun go to ring 0, the
one in execution runs on. -/
def Core.orphanFetched (c : Core) (r gen : Nat) : Core :=
  let x := c.ring r
  let keep := if x.busy then x.descs.take 1 else []
  let go := (if x.busy then x.descs.drop 1 else x.descs).filter (fun d => !d.dead)
  let c := c.setRing r { x with descs := keep, stale := if x.busy then some (x.stale.getD gen) else none,
                                compl := x.compl.map (fun q => { q with stale := true }) }
  if r = 0 then c else go.foldl (fun c d => c.divert r d.gen d.tag stOrphaned 0 0) c

/-- RING_CFG_WRITE: commit, new generation, counts to 0 (R372). The number of the descriptor in execution is not of the new
generation. -/
def doRingCfg (v : Nat) (c : Core) : Core :=
  let r := c.rd .ring 0x040
  let old := (c.ring r).gen
  let c := c.orphanFetched r old
  c.modRing r (fun x => { x with
    role := if r = 0 then 0 else bits v 2 0, k := max 4 (min 20 (bits v 7 3)),
    dbase := x.stDbase / 4096 * 4096, cbase := x.stCbase / 4096 * 4096, gen := (x.gen + 1) % 256,
    head := 0, tail := 0, fetch := 0, error := false, orphan := if r = 0 then false else x.orphan })

def execRingCfgWrite (v : Word) : State → Host.Outcome State Fault Refusal :=
  regCmd (.ringCfgWrite v) .ring (doRingCfg v.toNat)

/-- The counters of page RING. -/
def ringCounters : List Nat := [0x070, 0x074, 0x078, 0x07C, 0x080, 0x084]

/-- RING_CLR_CNT. -/
def doRingClrCnt (c : Core) : Core := c.clear .ring ringCounters

def execRingClrCnt : State → Host.Outcome State Fault Refusal :=
  regCmd .ringClrCnt .ring doRingClrCnt

end Sys2Proof.Machine
end

