-- ==== Sys2Proof/Machine/Timing.lean ====
section
/-! DEFINITION. Machine/Timing.lean: references, the DPLL, ATB, STB, LTB, Slide and time exchange (R305 to R332). -/

namespace Sys2Proof.Machine

/-! ### References -/

/-- An event of an enabled reference. -/
def refEvent (n : Nat) (f : Core → Core) (c : Core) : Core := c.when (c.timeOn && c.refEn n) f

/-- REF_PPS_EDGE: `cycles` of the reference's clock since its last PPS, `phase` in ps against the TC second before
REF_DELAY, `jump` in ps with the frequency offset removed. The active reference steers the loop (R306, R312); the
frequency that results is a free value (DESIGN CHOICE, notes/assumptions/35.md), kept for HOLDOVER where the whole second
since the last PPS was LOCKED without PULLING (R313). -/
def doRefPps (n cycles : Nat) (phase jump : Int) (c : Core) : Core :=
  let ph := phase - c.refDelay n
  let c := c.modRef n (fun r => { r with activity := true, phase := ph, raw := phase })
  if cycles + 1 < c.refHz n ∨ c.refHz n + 1 < cycles then c.refFails n 4
  else if bits (c.refQual n) 31 24 * 10000 < jump.natAbs then c.refFails n 5
  else if c.time.active = some n ∧ (c.time.dpll = .locked ∨ c.time.dpll = .acquiring) then
    let fr := (Config.freeWord c.free).toInt
    { c.modTime (fun t => { t with
        phaseErr := ph, freqOff := fr,
        clean := t.dpll == .locked && !t.pulling,
        freqLog := if t.clean then (fr :: t.freqLog).take 1000 else t.freqLog }) with
      free := c.free + 1 }
  else c

def execRefPpsEdge (n : Fin 4) (cycles : Nat) (phase jump : Int) : State → Host.Outcome State Fault Refusal :=
  act (refEvent n.val (doRefPps n.val cycles phase jump))

/-- REF_ACTIVITY_LOSS. -/
def execRefActivityLoss (n : Fin 4) : State → Host.Outcome State Fault Refusal :=
  act (refEvent n.val (fun c => (c.modRef n.val (fun r => { r with activity := false })).refFails n.val 1))

/-- REF_PPS_MISSING. -/
def execRefPpsMissing (n : Fin 4) : State → Host.Outcome State Fault Refusal :=
  act (refEvent n.val (fun c => c.refFails n.val 3))

/-- REF_FREQ_CHECK: `offset` in 0.01 ppb over the last second against FREQ_TOL in 0.01 ppm. -/
def doRefFreq (n : Nat) (offset : Int) (c : Core) : Core :=
  let c := c.modRef n (fun r => { r with activity := true, freq := offset })
  if bits (c.refQual n) 15 0 * 1000 < offset.natAbs then c.refFails n 2 else c

def execRefFreqCheck (n : Fin 4) (offset : Int) : State → Host.Outcome State Fault Refusal :=
  act (refEvent n.val (doRefFreq n.val offset))

/-- REF_QUALIFIED: a reference qualified once before serves WTR (R306, R307). -/
def doRefQualified (n : Nat) (c : Core) : Core :=
  if (c.ref n).qual then c
  else
    let wtr := min (bits (c.rd (.time 0) 0x050) 27 16) 3600
    (c.modRef n (fun r => { r with activity := true, qual := true, everQual := true,
                                   inWtr := r.everQual && wtr != 0, wtrLeft := if r.everQual then wtr else 0 })).raise
      (.time 1) 1

def execRefQualified (n : Fin 4) : State → Host.Outcome State Fault Refusal := act (refEvent n.val (doRefQualified n.val))

/-- REF_WTR_END (R307). -/
def execRefWtrEnd (n : Fin 4) : State → Host.Outcome State Fault Refusal :=
  act (refEvent n.val (fun c =>
    if (c.ref n.val).inWtr then c.modRef n.val (fun r => { r with inWtr := false, wtrLeft := 0 }) else c))

/-- REF_SELECT: the event of each second: HOLD_TIME and WTR_LEFT count, and the choice is made again (R307, R308, R313). -/
def doRefSelect (c : Core) : Core :=
  (c.modTime (fun t => { t with
    holdTime := if t.dpll = .holdover then min (t.holdTime + 1) m32 else t.holdTime,
    refs := t.refs.map (fun r => { r with wtrLeft := r.wtrLeft - 1 }) })).selectRef

def execRefSelect : State → Host.Outcome State Fault Refusal := act (fun c => c.when c.timeOn doRefSelect)

/-- DISPUTE_WINDOW_END: `diff` in 0.01 ppb between the active reference and `n`, both qualified, of equal rank (R309). -/
def doDispute (n : Nat) (diff : Int) (c : Core) : Core :=
  let thr := max 1 (min 10000 (bits (c.rd (.time 0) 0x054) 15 0)) * 10
  match c.time.active with
  | none => c
  | some a =>
    let r := c.ref n
    if a = n ∨ r.qual = false ∨ (c.ref a).qual = false ∨ c.refRank a ≠ c.refRank n then c
    else if thr < diff.natAbs then
      (if r.disputed then c.modRef n (fun r => { r with calm := 0, vs := a })
       else ((c.modRef n (fun r => { r with disputed := true, calm := 0, vs := a })).raise (.time 1) 2).report
         (.time 1) 0x72 clsN n)
    else if r.disputed = false then c
    else if thr < 2 * diff.natAbs then c.modRef n (fun r => { r with calm := 0 })
    else if r.calm + 1 = 3 then c.modRef n (fun r => { r with disputed := false, calm := 0 })
    else c.modRef n (fun r => { r with calm := r.calm + 1 })

def execDisputeWindowEnd (n : Fin 4) (diff : Int) : State → Host.Outcome State Fault Refusal :=
  act (refEvent n.val (doDispute n.val diff))

/-- REF_CFG_WRITE: clearing ENABLE disqualifies with DISABLED (R306). -/
def doRefCfg (n v : Nat) (c : Core) : Core :=
  let was := c.refEn n
  let c := c.wr (.time 1) (0x040 + 32 * n) (v &&& 0x1F)
  if was ∧ c.refEn n = false then c.refFails n 6 else c

def execRefCfgWrite (n : Fin 4) (v : Word) : State → Host.Outcome State Fault Refusal :=
  regCmd (.refCfgWrite n v) (.time 1) (doRefCfg n.val v.toNat)

/-! ### The DPLL -/

/-- DPLL_LOCK: `err` in ps, the active PPS against the TC second. With no schedule running TC steps by whole ns and a
sub-nanosecond phase; else the rest is pulled at SLOPE (R312). -/
def doDpllLock (err : Int) (c : Core) : Core :=
  if c.time.dpll ≠ .acquiring ∨ c.time.active.isNone then c
  else
    let c := c.setDpll .locked
    if c.running then c.modTime (fun t => { t.pull (err != 0) with phaseErr := err })
    else if err = 0 then c.modTime (fun t => { t with phaseErr := 0 })
    else
      let d := rneDiv (-err) 1000
      let c := c.modTime (fun t => { t with phaseErr := 0, tc := ((t.tc : Int) + d * 65536).toNat })
      ((c.inc (.time 0) 0x0C8).raise (.time 0) 2).report (.time 0) 0x76 clsN (ofInt 42 d)

def execDpllLock (err : Int) : State → Host.Outcome State Fault Refusal :=
  act (fun c => c.when c.timeOn (doDpllLock err))

/-- PULL_COMPLETE. -/
def execPullComplete : State → Host.Outcome State Fault Refusal :=
  act (fun c => c.when c.timeOn (fun c => c.modTime (fun t =>
    { t with pulling := false, phaseErr := if t.pulling then 0 else t.phaseErr })))

/-- HOLDOVER_EXPIRE: HOLD_TIME has reached HOLDOVER_MAX minutes; 0 is no limit (R313). -/
def doHoldExpire (c : Core) : Core :=
  let m := bits (c.rd (.time 0) 0x04C) 31 16
  if c.time.dpll = .holdover ∧ m ≠ 0 then
    (c.modTime (fun t => { t with holdTime := max t.holdTime (60 * m) })).setDpll .lost
  else c

def execHoldoverExpire : State → Host.Outcome State Fault Refusal := act (fun c => c.when c.timeOn doHoldExpire)

/-- OSC_FAIL: OSC_OK falls while OSC_EN = 1 (R314). -/
def doOscFail (c : Core) : Core :=
  if c.time.oscOk then (c.report (.time 0) 0x75 clsN 0).oscDown else c

def execOscFail : State → Host.Outcome State Fault Refusal := act (fun c => c.when (c.timeOn && c.oscEn) doOscFail)

/-- OSC_IN_ACTIVITY (R312). -/
def execOscInActivity : State → Host.Outcome State Fault Refusal :=
  act (fun c => c.when (c.timeOn && c.oscEn) (fun c => c.modTime (fun t => { t with oscOk := true })))

/-! ### ATB, STB and LTB -/

/-- A command that only acts while no schedule runs: else PAGE_FLT records LOCKED_WRITE (R315, R316). -/
def Core.unlessRunning (c : Core) (k : PageKind) (f : Core → Core) : Core := if c.running then c.pageFlt k 0x01 else f c

/-- ARM_ATB. -/
def doArmAtb (c : Core) : Core := c.unlessRunning (.time 0) (fun c => c.modTime (fun t => { t with armed := true }))

def execArmAtb : State → Host.Outcome State Fault Refusal := regCmd .armAtb (.time 0) doArmAtb

/-- ATB_SET_APPLY: at the PPS of the active reference, or at the next whole TC second (R315, R322). -/
def doAtbSet (c : Core) : Core :=
  if c.time.armed = false then c
  else
    let t := c.time
    let tc := if t.active.isSome then t.tc else cdiv t.tcNs 1000000000 * 1000000000 * 65536
    let drop := t.pend.isSome
    let c := c.modTime (fun t => { t with
      tc := tc, base := (c.rd64 (.time 0) 0x090 * 1000000000 * 65536 : Nat) - (tc : Int), ak := 0, slew := 0,
      slewAt := tc / 65536, rem := 0, pend := none, armed := false, atbValid := true })
    if drop then c.inc (.time 2) 0x05C else c

def execAtbSetApply : State → Host.Outcome State Fault Refusal := act (fun c => c.when c.timeOn doAtbSet)

/-- SET_EPOCH: TC_E is the TC at which ATB − A equals EPOCH_ATB (R316). -/
def doSetEpoch (c : Core) : Core :=
  c.unlessRunning (.time 0) (fun c =>
    let e : Int := ((c.rd64 (.time 0) 0x0A0 * 1000000000 + c.rd (.time 0) 0x0A8) * 65536 : Nat)
    c.modTime (fun t => { t with epochS := c.rd64 (.time 0) 0x0B0, epochTc := (e - t.base) / 65536 }))

def execSetEpoch : State → Host.Outcome State Fault Refusal := regCmd .setEpoch (.time 0) doSetEpoch

/-- FCC_WRITE: RWL; ignored while an image is LOADED, and where the value is 0 (R316). -/
def doFcc (den : Bool) (v : Nat) (c : Core) : Core :=
  let off := if den then 0x0BC else 0x0B8
  let now := if c.img.isSome then (if den then c.fccShown.2 else c.fccShown.1) % 2 ^ 32 else c.rd (.time 0) off
  if c.running then (if v = now then c else c.pageFlt (.time 0) 0x01)
  else if c.img.isSome ∨ v = 0 then c else c.wr (.time 0) off v

def execFccWrite (den : Bool) (v : Word) : State → Host.Outcome State Fault Refusal :=
  regCmd (.fccWrite den v) (.time 0) (doFcc den v.toNat)

/-- TIME_CLR_CNT: the counters of the four pages (R330). -/
def doTimeClr (c : Core) : Core :=
  (((c.clear (.time 0) [0x0C8, 0x0CC]).clear (.time 2) [0x058, 0x05C]).clear (.time 3) [0x04C, 0x050, 0x054, 0x058]).modTime
    (fun t => { t with refs := t.refs.map (fun r => { r with disqual := 0 }) })

def execTimeClrCnt : State → Host.Outcome State Fault Refusal := regCmd .timeClrCnt (.time 0) doTimeClr

/-- LTB_TICK (R319). -/
def execLtbTick : State → Host.Outcome State Fault Refusal :=
  actDrone (fun c => c.when c.droneOn (fun c => c.modTime (fun t => { t with ltbTicks := t.ltbTicks + 1, ltbSub := 0 })))

/-! ### Slide -/

/-- Status of a SLIDE body (Table 13.6). -/
def Core.slideStatus (c : Core) (b : List Byte) : Nat :=
  let act : Int := ((leAt b 0 8 * 1000000000 + leAt b 8 4) * 65536 : Nat)
  let step := leAt b 12 4
  let off := sleAt b 16 8
  if step = 0 ∨ 65536 < step ∨ off = 0 ∨ 65536000000000 < off.natAbs ∨ zeroAt b 24 8 = false then stInvalid
  else if c.time.pend.isSome then stBusy
  else if act < c.time.atb + 65536000000 then stLate
  else if 65536000000000 < (off + c.time.rem).natAbs then stRange
  else stAccepted

/-- SLIDE (R320). -/
def doSlide (r : Nat) (body : Option (List Byte)) (d : Desc) (c : Core) : Core :=
  let refuse (c : Core) : Core := (c.inc (.time 2) 0x05C).raise (.time 2) 1
  if c.timeOn = false then c.finish r stMode
  else if d.len ≠ 32 then (refuse c).finish r stInvalid
  else
    match body with
    | none => c.finish r stHostErr
    | some b =>
      let st := c.slideStatus b
      if st = stAccepted then
        let q : SlideReq := { actS := leAt b 0 8, actNs := leAt b 8 4, step := leAt b 12 4, off := sleAt b 16 8 }
        ((c.modTime (fun t => { t with pend := some q })).inc (.time 2) 0x058).finish r st
      else (refuse c).finish r st

def execSlide (r : RingNo) (body : Option (List Byte)) : State → Host.Outcome State Fault Refusal :=
  act (fun c => c.exec r.val 0x08 (doSlide r.val body))

/-- SLIDE_MS_BOUNDARY: TC stands at the boundary (R321, DEDUCED, notes/assumptions/34.md). -/
def doSlideMs (c : Core) : Core :=
  let done := c.time.slideDone
  let c := c.modTime TimeS.boundary
  if done then c.raise (.time 2) 0 else c

def execSlideMsBoundary : State → Host.Outcome State Fault Refusal := act (fun c => c.when c.timeOn doSlideMs)

/-! ### Time exchange -/

/-- TIME_SEND (R324). -/
def doTimeSend (r : Nat) (d : Desc) (c : Core) : Core :=
  let l := d.arg0 % 256
  let id := bits d.arg0 31 16
  let x := c.lane l
  if x.st ≠ .up ∨ c.txReturn l = false ∨ x.features.testBit 0 = false then c.finish r stInvalid
  else if c.time.tsQ.any (fun e => e.id == id) then c.finish r stBusy
  else (c.modLane l (fun x => { x with timeQ := x.timeQ ++ [id] })).finish r stAccepted

def execTimeSend (r : RingNo) : State → Host.Outcome State Fault Refusal :=
  act (fun c => c.exec r.val 0x09 (doTimeSend r.val))

/-- TS_ENTRY_AGED: the oldest entry leaves with NO_RESP and zero T2 to T4 (R324, R326). -/
def doTsAged (c : Core) : Core :=
  match c.time.tsQ with
  | [] => c
  | e :: es => (c.modTime (fun t => { t with tsQ := es })).timeEvent e.lane e.id 2 e.t1.bytes (List.replicate 32 0)
      (List.replicate 16 0)

def execTsEntryAged : State → Host.Outcome State Fault Refusal := act (fun c => c.when c.timeOn doTsAged)

/-- `v` lies within `tol` of a multiple of `m`. -/
def nearMul (m tol v : Int) : Bool := decide (v % m ≤ tol ∨ m - tol ≤ v % m)

/-- PPS_OUT_DELAY in ns, and PPS_OUT_WIDTH in us (Table 13.12). -/
def Core.ppsDelay (c : Core) : Int := within (-1000000) 1000000 (toInt 32 (c.rd (.time 3) 0x064))
def Core.ppsWidth (c : Core) : Nat := max 1 (min 500000 (bits (c.rd (.time 3) 0x060) 18 0))

/-- An edge of PPS_OUT is due at TC `tc`, in ns: a whole second of ATB, the PPS of the active reference as received, or a
whole second of TC, plus PPS_OUT_DELAY, within 2 ns (R328). -/
def Core.ppsDue (c : Core) (tc : Nat) : Bool :=
  let d := c.ppsDelay
  match bits (c.rd (.time 0) 0x040) 3 2 with
  | 0 => nearMul (1000000000 * 65536) (2 * 65536) (c.time.atbAt (tc * 65536) - d * 65536)
  | 1 => (match c.time.active with
    | some n => nearMul 1000000000000 2000 (((tc : Int) - d) * 1000 - (c.ref n).raw)
    | none => false)
  | _ => nearMul 1000000000 2 ((tc : Int) - d)

/-- The TC, in ns, of the next edge of PPS_OUT: the first from the present TC on, and past the last edge, that the source of
the edge gives (R328). ATB does not run at the rate of TC while Slide acts, so that its instant is approached in steps. -/
def Core.ppsNext (c : Core) : Nat :=
  let d := c.ppsDelay
  let t := match c.time.ppsOutAt with
    | some p => max c.time.tcNs (p + 5)
    | none => c.time.tcNs
  match bits (c.rd (.time 0) 0x040) 3 2 with
  | 0 =>
    let at_ (x : Nat) : Int := c.time.atbAt (x * 65536)
    let goal := at_ t + (d * 65536 - at_ t) % (1000000000 * 65536)
    let near (x : Nat) : Nat := ((x : Int) + (goal - at_ x) / 65536).toNat
    near (near (near t))
  | 1 => (match c.time.active with
    | some n => t + (((d * 1000 + (c.ref n).raw - (t : Int) * 1000) % 1000000000000).toNat + 999) / 1000
    | none => t)
  | _ => t + ((d - (t : Int)) % 1000000000).toNat

/-- PPS_OUT_EDGE at TC `tc`: one rising edge each second where PPS_OUT_EN = 1, the start of a pulse of PPS_OUT_WIDTH. -/
def doPpsOut (tc : Nat) (c : Core) : Core :=
  if bit (c.rd (.time 0) 0x040) 1 = false ∨ tc < c.time.tcNs ∨ c.ppsDue tc = false ∨
      c.time.ppsOutAt.any (fun p => decide (tc ≤ p + 4)) then c
  else ((c.timeTo tc).modTime (fun t => { t with ppsOutAt := some tc })).emit (.ppsOut tc c.ppsWidth)

/-- PPS_OUT_EDGE: the next edge. -/
def execPpsOutEdge : State → Host.Outcome State Fault Refusal := act (fun c => c.when c.timeOn (fun c => doPpsOut c.ppsNext c))

/-- The level of PPS_OUT: high for PPS_OUT_WIDTH from an edge on; low while PPS_OUT_EN = 0 or the domain is off (R328). -/
def Core.ppsPin (c : Core) : Bool :=
  c.timeOn && bit (c.rd (.time 0) 0x040) 1 && c.time.ppsOutAt.any (fun p => decide (c.time.tcNs < p + 1000 * c.ppsWidth))

end Sys2Proof.Machine
end

