-- ==== Sys2Proof/Machine/ModeOps.lean ====
section
/-! DEFINITION. Machine/ModeOps.lean: mode transitions, power domains, stops, Mute, SAFE and the reset of everything outside
the Drone domain (R47, R157, R180, R278 to R283, R420, R421, R425, R426, R429, R457). -/

namespace Sys2Proof.Machine

def Core.modPower (c : Core) (f : PowerS → PowerS) : Core := { c with power := f c.power }

/-! ### Domain switches (R283) -/

/-- Ask for switches; an opposite request still waiting is replaced. -/
def Core.askDomains (c : Core) (ns : List Nat) (on : Bool) : Core :=
  let ask := (ns.filter (fun n => c.domOn n != on)).map (fun n => (n, on))
  c.modPower (fun p => { p with want := p.want.filter (fun e => !ns.elem e.1) ++ ask })

/-- The switch-on and the switch-off that come next: ascending on, descending off. -/
def PowerS.nextOn (p : PowerS) : Option Nat :=
  p.want.foldl (fun (m : Option Nat) e => if e.2 then some (match m with
    | some x => min x e.1
    | none => e.1) else m) none
def PowerS.nextOff (p : PowerS) : Option Nat :=
  p.want.foldl (fun (m : Option Nat) e => if e.2 then m else some (match m with
    | some x => max x e.1
    | none => e.1)) none

/-- The registers of an X die's domain that lie outside `regs` return to reset: the Chanter's, and a stack's error log, scrub
position and temperature (R283, Tables 10.19 and 14.4). -/
def Core.resetHeld (c : Core) (n : Nat) : Core :=
  let d := (n - 38) / 35
  let k := (n - 38) % 35
  if n < 38 then c
  else if k = 34 then c.setChanter d {}
  else if k = 31 ∨ k = 32 then c.modStack (2 * d + (k - 31)) (fun s => { s with ueLog := [], scrub := 0, temp := 0, hot := false })
  else c

/-- The registers of a domain's pages return to reset, RWS fields apart (R9, R283). -/
def Core.resetDomain (c : Core) (n : Nat) : Core :=
  let c := c.resetHeld n
  { c with regs := c.regs.filterMap (fun e =>
      match pageAt c.part (e.1 / 4096) with
      | some k =>
        if k.domain = some n then
          let m := k.rwsMask (e.1 % 4096)
          let v := word ((e.2.toNat &&& m) ||| ((regReset e.1).toNat &&& (m32 ^^^ m)))
          if v = regReset e.1 then none else some (e.1, v)
        else some e
      | none => some e) }

/-- The IO-die SRAM of a bank is lost (R283: banks 0 to 3 history, 4 gains and other, 5 retention). -/
def Core.ioLose (c : Core) (n : Nat) : Core :=
  let f : Mem := { fill := .freeSram c.free, cells := [] }
  let io := if n ≤ 31 then { c.io with hist := f } else if n = 33 then { c.io with ret := f }
    else { c.io with gain := f, elastic := f, crook := f, rqsat := f, eye := f, calbuf := f, ctx := f }
  { c with io := io, free := c.free + 1 }

/-- The timing unit at its reset: LTB apart (R315, R329). -/
def Core.timeReset (c : Core) : Core :=
  c.modTime (fun t => { ltbTicks := t.ltbTicks, ltbSub := t.ltbSub })

/-- The lanes of a group lose power: every transmitter goes idle. -/
def Core.groupOff (c : Core) (g : Nat) : Core :=
  let c := (List.range 16).foldl (fun c i =>
    let n := 16 * g + i
    (if (c.lane n).txIdle then c else c.emit (.laneIdle n)).setLane n {}) c
  c.setLgrp g {}

/-- A domain goes off, with what it held. In D3hot the stacks refresh themselves and registers are kept (R351, R427). -/
def Core.domLose (c : Core) (n : Nat) : Core :=
  let bitN := 2 ^ n
  let c := c.modPower (fun p => { p with on := p.on - (if p.on.testBit n then bitN else 0),
                                         ready := p.ready - (if p.ready.testBit n then bitN else 0) })
  if n < 16 then c.groupOff n
  else if n ≤ 23 then { c with chan := { c.chan with evalBlk := c.chan.evalBlk.set (n - 16) none } }
  else if 28 ≤ n ∧ n ≤ 33 then c.ioLose n
  else if n = 35 then c.timeReset
  else if n < 38 then c
  else
    let d := (n - 38) / 35
    let k := (n - 38) % 35
    if k < 24 then c.modX d (fun x => { x with cells := x.cells.filter (fun e => e.1 / 16 != k) })
    else if 27 ≤ k ∧ k ≤ 30 then
      { c.modX d (fun x => { x with sram := { fill := .freeSram c.free, cells := [] } }) with free := c.free + 1 }
    else if k = 31 ∨ k = 32 then
      let i := 2 * d + (k - 31)
      (c.modStack i (fun s => { s with st := .off, phy := none, rate := 0, ratePend := none, tries := 0, rateJob := false, trainPend := false,
                                       hot := false, owed := [], refr := [], forced := [], queue := [], inOrder := [],
                                       inject := false })).stackLose i
    else if k = 33 then { c with links := c.links.set d false }
    else c

/-- Every domain of a list goes off at once, without credit. -/
def Core.domsLose (c : Core) (ns : List Nat) : Core :=
  ns.foldl (fun c n => if c.domOn n then c.domLose n else c) c

/-! ### Modes (R278, R279, R386, R457) -/

/-- The Pilot ends: it closes no integration, and its domains go off in reverse order (R300, R457). -/
def Core.pilotEnd (c : Core) : Core :=
  if c.pilot.on ∨ c.power.want.any (fun e => e.2 && decide (16 ≤ e.1 ∧ e.1 ≤ 23)) then
    { c with pilot := {} }.askDomains [16, 17, 18, 19, 20, 21, 22, 23, 38] false
  else { c with pilot := {} }

/-- Enter a mode: MODE_CHANGED, and the withdrawals of Table 15.12. -/
def Core.enterMode (c : Core) (m : Mode) : Core :=
  if c.power.mode = m then c
  else
    let old := c.power.mode
    let c := if old = .idle then c.withdraw (fun p => p == .chunk) else c
    let c := if old = .inspect then c.withdraw (fun p => p == .inspectRead) else c
    let c := if old = .bringup then c.pilotEnd else c
    let c := if m = .idle then { c with host := { c.host with loadRing := none } } else c
    (c.modPower (fun p => { p with mode := m })).raise .mode 0

/-- A request refused (R279). -/
def Core.modeReject (c : Core) (code : Nat) : Core :=
  ((c.modPower (fun p => { p with reject := code })).raise .mode 1).report .mode 0x54 clsN 0

/-! ### The stop sequence (R281) -/

/-- POWER_DOWN: the image's domains go off (R281 step 4). -/
def Core.powerDown (c : Core) : Core :=
  let ns := match c.img with
    | some i => i.domains c.part.dies
    | none => (List.range 178).filter (fun n => c.domOn n && !c.idleDoms.elem n)
  (c.modPower (fun p => { p with phase := .powerDown })).askDomains ns false

/-- The ballast that a stop leaves is ramped down; POWER_DOWN follows at once where there is none. -/
def Core.rampOut (c : Core) (draw : Nat) : Core :=
  let c := c.modPower (fun p => { p with draw := draw, ballast := 0, runOn := false, duty := 0, phase := .draining })
  if draw = 0 then c.powerDown else c

/-- The same swap. -/
def Swap.same (a b : Swap) : Bool := a.ring == b.ring && a.idx == b.idx

/-- A swap is complete: SWAP_DONE on its targets (R178, R179). -/
def Core.swapDone (c : Core) (ts : List Nat) : Core :=
  ts.foldl (fun c t => (c.inc (targetPage t) 0x064).raise (targetPage t) 0) c

/-- A target's active pointer moves to the other bank; the swap is done once every target of it has moved (R179). -/
def Core.targetMove (c : Core) (t : Nat) (s : Swap) : Core :=
  let c := c.modTarget t (fun x => { x with swap := none, fading := false, pos := 0, activeB := !x.activeB })
  let waits := (setBits s.mask 12).any (fun u => match (c.target u).swap with
    | some x => x.same s
    | none => false)
  if waits then c else c.swapDone (setBits s.mask 12)

/-- A target's fade begins; with the first target of the swap its descriptor completes. -/
def Core.targetBegin (c : Core) (t : Nat) (s : Swap) : Core :=
  let c := (c.modTarget t (fun x => { x with fading := true })).raise (targetPage t) 2
  if s.begun then c
  else
    let c := (setBits s.mask 12).foldl (fun c u => c.modTarget u (fun x => { x with swap := x.swap.map (fun y =>
      if y.same s then { y with begun := true } else y) })) c
    if (c.ring s.ring).busy then c.finish s.ring stAccepted else c

/-- The fades in progress end at once; swaps not begun complete ABANDONED (R180). -/
def Core.swapsEnd (c : Core) : Core :=
  let all := (List.range 12).filterMap (fun t => (c.target t).swap.map (fun s => (t, s)))
  let drop := (all.filterMap (fun e => if e.2.begun then none else some e.2.ring)).eraseDups
  let left (s : Swap) : List Nat := (all.filter (fun e => e.2.same s && !(c.target e.1).fading)).map (fun e => e.1)
  let run := (all.filter (fun e => (c.target e.1).fading)).foldl (fun (l : List Swap) e =>
    if l.any (fun s => s.same e.2) then l else l ++ [e.2]) []
  let c' := all.foldl (fun c e => c.modTarget e.1 (fun x =>
    { x with swap := none, fading := false, pos := 0, activeB := x.activeB != x.fading })) c
  let c' := run.foldl (fun c s => c.swapDone ((setBits s.mask 12).filter (fun t => !(left s).elem t))) c'
  drop.foldl (fun c r => if (c.ring r).busy then c.finish r stAbandoned else c) c'

/-- No channel is current any more: ACTIVE reads 0 (Table 6.6). -/
def Core.cluIdle (c : Core) (d : Nat) : Core :=
  (List.range 24).foldl (fun c n => c.wr (.clu d n) 0x040 (c.rd (.clu d n) 0x040 / 65536 * 65536)) c

/-- CHANTERS_STOP (R281 step 3): a slip event ends with its cause (R73), and so do gain-step lists that were accepted in QUIESCE
(R100; DEDUCED, notes/assumptions/82.md). -/
def Core.chantersStop (c : Core) : Core :=
  let base := c.pBase - c.pPowered
  let c := ((c.swapsEnd.slipClear).modInt (fun u => { u with outside := none })).gainDiscard
  let c := (List.range 5).foldl (fun c x => c.modChanter x (fun t =>
    { t with st := if t.st = .halted then .halted else .idle, win := none, stepReq := 0, syncs := [] })) c
  let c := (List.range c.part.dies).foldl (fun c d => (c.modX d (fun x => { x with movers := [], lists := [], acts := [] })).cluIdle d) c
  ((c.modPower (fun p => { p with running := false })).rampOut base).asyncOpen

/-- A Chanter's program comes to its next RED_CLOSE before any RED_ENTER: the last scheduled read of the reduction interval has
ended, and the interval is closed (R208; DEDUCED, notes/assumptions/93.md). -/
def Image.redEnded (i : Image) (d : Nat) : Nat → ChanterS → Bool
  | 0, _ => false
  | f + 1, t =>
    match (i.prog d).at t.pc with
    | none => false
    | some ins =>
      let kind := if insOp ins = 9 then (match i.actionOf d ins with
        | some bs => descKind bs
        | none => 0) else 0
      if insOp ins = 0x3F ∨ kind = 12 then false
      else if kind = 13 then true
      else i.redEnded d f (t.advance ins)

/-- Enter QUIESCE: the integration and the reduction interval in progress are abandoned, gain-step lists and a calibration
end, held X Chanters run on (R100, R102, R157, R208, R281, R386, R436). -/
def Core.toQuiesce (c : Core) : Core :=
  match c.img with
  | none => c
  | some i =>
    if c.power.mode.isSchedule = false then c
    else
      let c := ((c.enterMode .quiesce).modPower (fun p => { p with phase := .draining, stopDrain := false })).gainDiscard
      let c := (c.withdraw (fun p => match p with | .gain _ => true | _ => false)).calEnd
      (List.range 4).foldl (fun c d =>
        let ch := c.chanter d
        let c := c.setChanter d { ch with st := if ch.st = .held then .running else ch.st, stepReq := 0 }
        c.modX d (fun x => { x with abandon := some (max (ch.window / max i.plan.ints 1) (match x.emitted with
                                                           | some q => q + 1
                                                           | none => 0)),
                                    red :=
                                      if (i.redCfg d).kind ≠ 0 ∧ i.redEnded d (2 ^ 20) ch then { x.red with terms := [], closing := true }
                                      else { x.red with terms := [], groups := [], closing := false } })) c

/-- A start sequence is abandoned: the stop sequence runs from step 3 (R280). -/
def Core.abandonStart (c : Core) (code : Option Nat) : Core :=
  if c.starting = false then c
  else
    let draw := if c.power.runOn then c.pRun0 + c.power.ballast * c.ballastSpan / 64 else 0
    let c := c.modPower (fun p => { p with reject := code.getD p.reject })
    (c.gainDiscard.withdraw (fun p => match p with | .gain _ => true | _ => false)).rampOut draw

/-- A running schedule enters QUIESCE, a start sequence is abandoned (R411, R419). -/
def Core.severeStop (c : Core) : Core :=
  if c.power.mode.isSchedule then c.toQuiesce else if c.starting then c.abandonStart none else c

/-- Every queued frame of a die is discarded at a stage. -/
def Core.flushEgress (c : Core) (stage : Core → Nat → Frame → Core) : Core :=
  (List.range 4).foldl (fun c d =>
    let q := (c.xdie d).egress
    q.foldl (fun c f => stage c d f) (c.modX d (fun x => { x with egress := [] }))) c

/-- The drains and reports that QUIESCE waits for have ended (R157, R208). -/
def Core.drainsDone (c : Core) : Bool :=
  c.power.stopDrain || (List.range c.part.dies).all (fun d =>
    let x := c.xdie d
    (x.emitted == none || x.drained == x.emitted) && x.redArea.all (fun a => !a.used) && !x.red.closing)

/-- A forced stop begins where a schedule runs, or a start or the stop after one is in progress (R425). -/
def Core.forceStop (c : Core) : Core :=
  if c.running ∨ c.power.phase ≠ .steady then
    let c := c.severeStop
    let c := c.flushEgress (fun c d f => c.framePathDown d f.type f.hdr)
    let c := c.modPower (fun p => { p with forced := true, stopDrain := true })
    c.wr .rst 0x044 (c.rd .rst 0x044 ||| 0x40)
  else c

/-- An image in LOADING or VERIFYING is abandoned (R425). -/
def Core.loadAbandon (c : Core) : Core :=
  if c.imgSt = 1 ∨ c.imgSt = 2 then { c with imgSt := 0, host := { c.host with loadRing := none, commitRing := none } } else c

/-! ### Mute and SAFE (R47, R282, R420, R421) -/

/-- The STATUS message's FLAGS (Table 12.7); SAFE from the Fatal fault on (R282), and in a freeze (R430). -/
def Core.plantFlags (c : Core) : Nat :=
  b2n (c.power.mode == .safe || c.power.mute || c.dbg.frozen) + fld (b2n c.plant.warn) 1 1 + fld (b2n c.plant.silent) 1 2 +
  fld (b2n (c.power.mode == .quiesce)) 1 3 + fld (b2n c.plant.latch) 1 4

/-- DUTY in 1/256: frame duty a / S (R286). -/
def Core.duty256 (c : Core) : Nat := if c.power.running then c.power.duty * 256 / c.sReg else 0

/-- A message to the plant, where PLANT_EN = 1 (R289, R291). -/
def Core.plantSend (c : Core) (type : Nat) (body : List Byte) : Core :=
  if c.plantEn then
    let m := leBytes 1 type ++ leBytes 1 body.length ++ body
    let crc := (crc16 m).toNat
    c.emit (.plant ([0xA5] ++ m ++ [BitVec.ofNat 8 (crc / 256), BitVec.ofNat 8 crc]))
  else c

/-- STATUS (Table 12.7). -/
def Core.plantStatus (c : Core) : Core :=
  c.plantSend 0x03 (leBytes 1 c.power.mode.code ++ leBytes 1 c.plantFlags ++ leBytes 2 c.duty256 ++ leBytes 2 c.drawNow ++
    leBytes 2 c.plant.tjMax ++ leBytes 2 c.plant.caseT ++ leBytes 2 c.ceiling)

/-- Items of a ring that Mute discards: all but completions and fault records. -/
def Core.muteRing (c : Core) (r : Nat) : Core :=
  let x := c.ring r
  let out := x.items.filter (fun i => i.kind != 3 && i.kind != 4)
  if out.isEmpty then c
  else out.foldl (fun c i => c.itemMuted i) (c.setRing r { x with items := x.items.filter (fun i => i.kind == 3 || i.kind == 4) })

/-- Mute: queued frames are discarded (R163, R421). -/
def Core.muteNow (c : Core) : Core :=
  ((c.host.rings.map (fun e => e.1)).foldl (fun c r => c.muteRing r)
    (c.flushEgress (fun c d f => c.frameMuted d f.type f.hdr))).modPower (fun p => { p with mute := true })

/-- In SAFE each transmitter that is not OFF sends 8 STATUS blocks with the SAFE byte, then goes idle (R47). -/
def Core.lanesSafe (c : Core) : Core :=
  (List.range 256).foldl (fun c n =>
    if c.laneOn n ∧ c.txMode n ≠ 3 ∧ (c.lane n).st ≠ .off ∧ (c.lane n).txIdle = false then
      (List.range 8).foldl (fun c _ => c.putCtrl n { type := 0x07, body := c.statusBody n true }) c
    else c) c

/-- COOL_PWM at PWM_MAX (R282). -/
def Core.pwmMax (c : Core) : Core :=
  { c with plant := { c.plant with pwm := min (bits (c.rd .plant 0x058) 24 16) 256 } }

/-- The data path as it stands with its domains off: no schedule, no image, no jobs (R282). -/
def Core.pathOff (c : Core) : Core :=
  let c := (c.dropJobs).domsLose ((List.range 178).filter (fun n => decide (n < 34 ∨ 37 < n)))
  { c with img := none, imgSt := 0, chanters := [], xdies := [], ingest := { cnt := c.ingest.cnt }, chan := {}, targets := [],
           pilot := {}, links := [false, false, false, false],
           host := { c.host with loadRing := none, commitRing := none, d3up := [] },
           power := { c.power with want := [], on := c.power.on &&& (15 * 2 ^ 34), ready := c.power.ready &&& (15 * 2 ^ 34),
                                   phase := .steady, running := false, runOn := false, ballast := 0, duty := 0, draw := 0,
                                   forced := false, stopDrain := false, ramp := false, stepped := false,
                                   keepRegs := [] } }

/-- SAFE_ENTRY: Mute, lanes, domains, SAFE, PWM_MAX and STATUS (R47, R282, R420). -/
def Core.enterSafe (c : Core) : Core :=
  let c := c.muteNow.lanesSafe.pathOff.modPower (fun p => { p with on := 15 * 2 ^ 34 })
  ((c.enterMode .safe).pwmMax).plantStatus

/-! ### Reset of everything outside the Drone domain (R426, R429) -/

/-- What the Drone pages keep: RWS fields, CNT_PERST; with TIMING_PERSIST the pages TIME0 to TIME3 too (R329, R438). -/
def droneKeep (persist : Bool) (key : Nat) : Nat :=
  match pageAt .otr4096A (key / 4096) with
  | some (.time i) => if persist then m32 else if i = 0 ∧ key % 4096 = 0x040 then 1 else 0
  | some .rst => if key % 4096 = 0x048 then m32 else 0
  | some k => if k.domain = none then k.rwsMask (key % 4096) else 0
  | none => 0

/-- TIMING_PERSIST. -/
def Core.persist (c : Core) : Bool := bit (c.rd (.time 0) 0x040) 0

/-- The registers after a reset that keeps the bits of a mask. -/
def keepRegs (m : SMap Word) (keep : Nat → Nat) : SMap Word :=
  m.filterMap (fun e =>
    let k := keep e.1
    let v := word ((e.2.toNat &&& k) ||| ((regReset e.1).toNat &&& (m32 ^^^ k)))
    if v = regReset e.1 then none else some (e.1, v))

/-- A page that a reset of everything outside the Drone domain leaves alone; with TIMING_PERSIST also TIME0 to TIME3 (R329). -/
def keepsPage (persist : Bool) (page : Nat) : Bool :=
  droneKey (page * 4096) || persist && (match pageAt .otr4096A page with
    | some (.time _) => true
    | _ => false)

/-- Everything outside the Drone domain at reset; clusters run a ballast above P_powered of IDLE down to 0 (R429). The
contents of memories are free again. -/
def Core.coldReset (c : Core) : Core :=
  let per := c.persist && c.domOn 35
  let idleP := sumL (c.idleDoms.map idleOf)
  let left := if c.pDraw ≤ idleP then 0 else c.pDraw - idleP
  let clus := if left = 0 then 0 else c.power.on &&& (xDoms 4 (List.range 24)).foldl (fun a n => a ||| 2 ^ n) 0
  let tim := if per then 2 ^ 35 else 0
  let f (n : Nat) : Mem := { fill := .freeSram (c.free + n), cells := [] }
  { part := c.part, otp := c.otp, droneOn := c.droneOn, perst := c.perst, railN := c.railN,
    regs := keepRegs c.regs (droneKeep per),
    snap := if per then c.snap else [],
    pend := c.pend.filter (fun p => keepsPage per p.page),
    faulted := c.faulted.filter (fun e => keepsPage per e.1),
    io := { hist := f 0, gain := f 1, elastic := f 2, crook := f 3, rqsat := f 4, eye := f 5, calbuf := f 6, ctx := f 7,
            ret := f 8 },
    xdies := (List.range 4).map (fun d => (d, { sram := f (17 + d), buf := [f (21 + 2 * d), f (22 + 2 * d)] })),
    stacksOf := (List.range 8).map (fun i => (i, { mem := { fill := .freeHbm (c.free + 9 + i), cells := [] }, shadow := (c.stack i).shadow })),
    power := { mode := .shelved, credit := c.power.credit, down := if left = 0 then 0 else c.power.down, draw := left,
               ramp := left != 0 && c.power.ramp, on := clus ||| tim, ready := clus ||| tim, mute := c.power.mute },
    plant := { latch := c.plant.latch, code := c.plant.code, tripped := c.plant.tripped, pwmForced := c.plant.pwmForced,
               pwm := c.plant.pwm, tjMax := c.plant.tjMax, tjSensor := c.plant.tjSensor, caseT := c.plant.caseT,
               ext := c.plant.ext },
    time := if per then { c.time with tsQ := [] } else { ltbTicks := c.time.ltbTicks, ltbSub := c.time.ltbSub },
    dbg := c.dbg, out := c.out, free := c.free + 29 }

end Sys2Proof.Machine
end

