-- ==== Sys2Proof/Machine/Chanter.lean ====
section
/-! DEFINITION. Machine/Chanter.lean: the instructions that a Chanter executes itself, and its stepping (R234 to R250). -/

namespace Sys2Proof.Machine

/-- A running Chanter whose next instruction has opcode `op`: the image, the Chanter and the instruction. -/
def Core.atOp (c : Core) (x op : Nat) : Option (Image × ChanterS × Nat) :=
  let t := c.chanter x
  if c.power.running = false ∨ t.st ≠ .running then none
  else
    match c.img with
    | none => none
    | some i =>
      match (i.prog x).at t.pc with
      | some ins => if insOp ins = op then some (i, t, ins) else none
      | none => none

/-- Issue the next instruction where it is `op`: its effect, then PC, loops and SCYC (R235). -/
def Core.issue (c : Core) (x op : Nat) (f : Image → ChanterS → Nat → Core → Core) : Core :=
  match c.atOp x op with
  | none => c
  | some (i, t, ins) => (f i t ins c).modChanter x (fun t => t.advance ins)

/-- CHANTER_NOP. -/
def execChanterNop (x : Chip) : State → Host.Outcome State Fault Refusal := act (fun c => c.issue x.val 0x00 (fun _ _ _ c => c))

/-- WAIT. -/
def execWait (x : Chip) : State → Host.Outcome State Fault Refusal := act (fun c => c.issue x.val 0x01 (fun _ _ _ c => c))

/-- WAITS: the window holds CLASS [37:32] and LENGTH (R241); what waited for it is served. -/
def execWaits (x : Chip) : State → Host.Outcome State Fault Refusal :=
  act (fun c => c.issue x.val 0x02 (fun _ _ ins c =>
    (c.modChanter x.val (fun t => { t with win := some (bits ins 37 32, bits ins 31 0), winTc := c.time.tcNs })).asyncOpen))

/-- ASYNC_WINDOW_CLOSE. -/
def execAsyncWindowClose (x : Chip) : State → Host.Outcome State Fault Refusal :=
  act (fun c => c.modChanter x.val (fun t => { t with win := none }))

/-- LOOP and ENDLOOP (R237). -/
def execLoop (x : Chip) : State → Host.Outcome State Fault Refusal := act (fun c => c.issue x.val 0x03 (fun _ _ _ c => c))

def execEndloop (x : Chip) : State → Host.Outcome State Fault Refusal := act (fun c => c.issue x.val 0x04 (fun _ _ _ c => c))

/-- SETR: posted, or dropped where 16 writes wait (R242). -/
def doSetr (x ins : Nat) (c : Core) : Core :=
  if 16 ≤ (c.chanter x).setrQ.length then
    ((c.inc (chanterPage x) 0x07C).raise (chanterPage x) 5).report (chanterPage x) 0x53 clsN 0
  else c.modChanter x (fun t => { t with setrQ := t.setrQ ++ [(bits ins 35 32, word (bits ins 31 0))] })

def execSetr (x : Chip) : State → Host.Outcome State Fault Refusal :=
  act (fun c => c.issue x.val 0x0B (fun _ _ ins c => doSetr x.val ins c))

/-- SETR_APPLY: the oldest posted write reaches its MBOX word (R242). -/
def doSetrApply (x : Nat) (c : Core) : Core :=
  let k := chanterPage x
  match (c.chanter x).setrQ with
  | [] => c
  | (n, v) :: q => ((c.modChanter x (fun t => { t with setrQ := q })).wr k (0x100 + 4 * n) v.toNat).raise k 1

def execSetrApply (x : Chip) : State → Host.Outcome State Fault Refusal := act (doSetrApply x.val)

/-- The bit of a Chanter in PART: 0 the IO die, 1 + d X die d (Table 10.15). -/
def partBit (x : Nat) : Nat := if x = 4 then 0 else x + 1

/-- SYNC: the ID goes to the leading Chanter; a barrier all of whose participants have sent it is over (R243). -/
def doSync (x ins : Nat) (c : Core) : Core :=
  let key := bits ins 15 8 + 256 * bits ins 4 0
  c.modChanter 4 (fun t =>
    let old := match t.syncs.find? (fun e => e.1 == key) with
      | some e => e.2
      | none => 0
    let now := old ||| 2 ^ partBit x
    let rest := t.syncs.filter (fun e => e.1 != key)
    { t with syncs := if now = key / 256 then rest else rest ++ [(key, now)] })

def execSync (x : Chip) : State → Host.Outcome State Fault Refusal :=
  act (fun c => c.issue x.val 0x0C (fun _ _ ins c => doSync x.val ins c))

/-- BARRIER: participants of barrier `id` are missing; not enforced between the IO die and held X dies (R243, R249). -/
def doBarrier (id : Nat) (c : Core) : Core :=
  let held := (List.range 4).any (fun d => (c.chanter d).st == .held)
  match (c.chanter 4).syncs.find? (fun e => e.1 % 256 == id && !(held && (e.1 / 256) % 2 == 1)) with
  | none => c
  | some e =>
    let t := c.chanter 4
    let c := c.setChanter 4 { t with syncs := t.syncs.filter (fun y => y.1 != e.1) }
    let c := if bit (c.rd .chn 0x180) 6 then c
      else ((c.wr .chn 0x180 64).wr .chn 0x198 (t.pc % 65536 + 6 * 65536)).wr64 .chn 0x19C t.scyc
    ((c.inc .chn 0x080).raise .chn 4).report .chn 0x51 clsS 0

def execBarrier (id : Byte) : State → Host.Outcome State Fault Refusal := act (doBarrier id.toNat)

/-- MARK (R244). -/
def doMark (x : Nat) (i : Image) (t : ChanterS) (ins : Nat) (c : Core) : Core :=
  let k := chanterPage x
  let ns := (c.atbOfCycle i x t.scyc / 65536).toNat
  let c := (((c.wr k 0x068 (bits ins 15 0)).wr64 k 0x06C t.scyc).wr k 0x074 (ns / 1000000000)).wr k 0x078 (ns % 1000000000)
  if bit ins 16 then c.raise k 0 else c

def execMark (x : Chip) : State → Host.Outcome State Fault Refusal := act (fun c => c.issue x.val 0x0D (doMark x.val))

/-- PSTEP: the segment's slot 0 is at issue + 1 (R228, R238). -/
def execPstep : State → Host.Outcome State Fault Refusal :=
  act (fun c => c.issue 4 0x0E (fun _ t ins c => c.modPower (fun p => { p with seg := bits ins 23 0, segAt := t.scyc + 1 })))

/-- FRAME_END: the frame counter, and a hold in force (R246, R249). -/
def doFrameEnd (x : Nat) (i : Image) (t : ChanterS) (c : Core) : Core :=
  let hold := decide (x < 4) && (t.stepReq == 1 || t.stepReq == 2 && (t.frame + 1) % max i.hdr.fpw 1 == 0)
  let c := c.modChanter x (fun t => { t with frame := t.frame + 1, st := if hold then .held else t.st,
                                             stepReq := if hold then 0 else t.stepReq })
  if hold then (c.modPower (fun p => { p with stepped := true })).raise (.xchn x) 2 else c

def execFrameEnd (x : Chip) : State → Host.Outcome State Fault Refusal :=
  act (fun c => c.issue x.val 0x0F (fun i t _ c => doFrameEnd x.val i t c))

/-- HALT; with every Chanter halted the schedule ends and the device enters QUIESCE (R245, R281). -/
def doHalt (x : Nat) (c : Core) : Core :=
  match c.atOp x 0x3F with
  | none => c
  | some (_, _, ins) =>
    let c := (c.modChanter x (fun t => t.advance ins)).raise (chanterPage x) 3
    if (4 :: List.range c.part.dies).all (fun y => (c.chanter y).st == .halted) then c.toQuiesce.chantersStop else c

def execHalt (x : Chip) : State → Host.Outcome State Fault Refusal := act (doHalt x.val)

/-! ### Stepping in INSPECT (R249) -/

/-- A stepping command: on every X Chanter, in INSPECT. -/
def stepCmd (d : Nat) (f : ChanterS → ChanterS) (c : Core) : Core :=
  if c.power.mode = .inspect then (List.range c.part.dies).foldl (fun c x => c.modChanter x f) c
  else c.pageFlt (.xchn d) 0x05

/-- A held Chanter runs on. -/
def ChanterS.resume (t : ChanterS) (req : Nat) : ChanterS :=
  { t with stepReq := req, st := if t.st = .held then .running else t.st }

/-- HOLD. -/
def doHold (d : XDie) (c : Core) : Core := stepCmd d (fun t => if t.st = .held then t else { t with stepReq := 1 }) c

def execHold (d : XDie) : State → Host.Outcome State Fault Refusal := regCmd (.hold d) (.xchn d) (doHold d)

/-- STEP_FRAME. -/
def doStepFrame (d : XDie) (c : Core) : Core := stepCmd d (fun t => t.resume 1) c

def execStepFrame (d : XDie) : State → Host.Outcome State Fault Refusal := regCmd (.stepFrame d) (.xchn d) (doStepFrame d)

/-- STEP_WINDOW. -/
def doStepWindow (d : XDie) (c : Core) : Core := stepCmd d (fun t => t.resume 2) c

def execStepWindow (d : XDie) : State → Host.Outcome State Fault Refusal := regCmd (.stepWindow d) (.xchn d) (doStepWindow d)

/-- RUN. -/
def doRun (d : XDie) (c : Core) : Core := stepCmd d (fun t => t.resume 0) c

def execRun (d : XDie) : State → Host.Outcome State Fault Refusal := regCmd (.run d) (.xchn d) (doRun d)

/-- CHN_CLR_CNT (R250, R277). -/
def doChnClrCnt (x : Chip) (c : Core) : Core :=
  c.clear (chanterPage x) [0x07C, 0x080, 0x184, 0x188, 0x18C, 0x190, 0x194]

def execChnClrCnt (x : Chip) : State → Host.Outcome State Fault Refusal :=
  regCmd (.chnClrCnt x) (chanterPage x) (doChnClrCnt x)

end Sys2Proof.Machine
end

