-- ==== Sys2Proof/Machine/Move.lean ====
section
/-! DEFINITION. Machine/Move.lean: movers and HBMS lists (R118, R224, R226, R238, Table 14.3). -/

namespace Sys2Proof.Machine

/-! ### Reads and writes of a die's spaces (R224) -/

/-- A range of the staging area cut where it wraps, as die HBM addresses. -/
def wrapPieces (base size : Nat) : Nat → Nat → Nat → List (Nat × Nat)
  | 0, _, _ => []
  | f + 1, a, n =>
    if n = 0 then []
    else let k := min n (size - a); (base + a, k) :: wrapPieces base size f 0 (n - k)

/-- The die HBM ranges of `n` bytes at address `a` of space 1 in window `w`. -/
def Plan.stagePieces (p : Plan) (nd d w a n : Nat) : List (Nat × Nat) :=
  let size := 2 * p.wsize nd d
  wrapPieces (p.region d 0) size (n / max size 1 + 2) ((w % 2 * p.wsize nd d + a) % size) n

/-- The word that an uncorrectable staging word reads as (R118). -/
def stageUe : List Byte := (List.range 8).flatMap (fun _ => invalidWord)

/-- A scheduled read of space 0 or 1: the bytes, and how many words of space 0 were uncorrectable. -/
def Core.schedRead (c : Core) (p : Plan) (d space w a n : Nat) : Core × List Byte × Nat :=
  if space = 0 then
    let (c, bs, ues) := c.eccRead d a n
    (c, bs, ues.length)
  else
    (p.stagePieces c.part.dies d w a n).foldl (fun (x : Core × List Byte × Nat) e =>
      let (c, bs, _) := x.1.eccRead d e.1 e.2 stageUe
      (c, x.2.1 ++ bs, 0)) (c, [], 0)

/-- An uncorrectable word of a read that Table 14.3 names nowhere else is a breach (R269). -/
def Core.readBreach (c : Core) (d kind pc scyc n : Nat) : Core :=
  (List.range n).foldl (fun c _ => c.breach d .deadline kind pc scyc) c

/-- A scheduled write of space 0 or 1. -/
def Core.schedWrite (c : Core) (p : Plan) (d space w a : Nat) (bs : List Byte) : Core :=
  if space = 0 then (c.hbmWrite d a bs).openRows d a bs.length
  else
    ((p.stagePieces c.part.dies d w a bs.length).foldl (fun (x : Core × List Byte) e =>
      ((x.1.hbmWrite d e.1 (x.2.take e.2)).openRows d e.1 e.2, x.2.drop e.2)) (c, bs)).1

/-- A scheduled write by whole units: the errors of every word it touches are replaced (R226, R348). -/
def Core.hbmStore (c : Core) (d a : Nat) (bs : List Byte) : Core :=
  (List.range (cdiv (a + bs.length) 16 - a / 16)).foldl (fun c n =>
    let w := a / 16 + n
    if (c.symErr d (16 * w)).isEmpty then c
    else c.modStack (stackOf d (16 * w)) (fun s => { s with err := SMap.erase s.err w })) ((c.hbmPut d a bs).openRows d a bs.length)

/-- The source of a transfer. -/
def Core.moverRead (c : Core) (p : Plan) (d : Nat) (m : MoveS) (n : Nat) : Core × List Byte × Nat :=
  let sp := m.spaces % 16
  if sp ≤ 1 then c.schedRead p d sp m.win m.src n
  else if sp = 2 then (c, (c.xdie d).sram.read m.src n, 0)
  else
    let (b, o) := bufOf m.src
    (c, (nth {} (c.xdie d).buf b).read o n, 0)

/-- The destination of a transfer. -/
def Core.moverWrite (c : Core) (p : Plan) (d : Nat) (m : MoveS) (bs : List Byte) : Core :=
  let sp := m.spaces / 16
  if sp ≤ 1 then c.schedWrite p d sp m.win m.dst bs
  else if sp = 2 then c.modX d (fun x => { x with sram := x.sram.put m.dst bs })
  else
    let (b, o) := bufOf m.dst
    c.modX d (fun x => { x with buf := x.buf.set b ((nth {} x.buf b).put o bs) })

/-- Copy the first `n` bytes of a transfer. -/
def Core.moverCopy (c : Core) (p : Plan) (d : Nat) (m : MoveS) (n : Nat) : Core :=
  let (c, bs, ues) := c.moverRead p d m n
  (c.readBreach d 0 m.pc m.deadline ues).moverWrite p d m bs

/-! ### MOVE -/

/-- The absent mover. -/
def noMove : MoveS := ⟨0, 0, 0, 0, 0, 0, 0, 0⟩

/-- A mover transfer, absent where LEN is 0. -/
def XDieS.mover (x : XDieS) (m : Nat) : MoveS := SMap.get (fun _ => noMove) x.movers m

/-- MOVE: the transfer with its addresses at the loop indices of its issue (R224). -/
def doMove (d : Nat) (i : Image) (t : ChanterS) (ins : Nat) (c : Core) : Core :=
  match i.move d (bits ins 23 0) with
  | none => c
  | some bs =>
    let m : MoveS := { spaces := mvSpaces bs, src := mvSrc bs t.loops, dst := mvDst bs t.loops, len := mvLen bs,
                       win := t.window, pc := t.pc, deadline := t.scyc + mvDeadline bs, from_ := t.scyc }
    c.modX d (fun x => { x with movers := SMap.set (fun _ => noMove) x.movers (mvUnit bs) m })

def execMove (d : XDie) : State → Host.Outcome State Fault Refusal := act (fun c => c.issue d.val 0x05 (doMove d.val))

/-- The transfer of a mover in progress; none while the die is held (R249). -/
def Core.inFlight (c : Core) (d m : Nat) : Option (Plan × MoveS) :=
  let x := (c.xdie d).mover m
  if x = noMove ∨ (c.chanter d).st = .held then none else c.img.map (fun i => (i.plan, x))

/-- The mover is free again. -/
def Core.moverFree (c : Core) (d m : Nat) : Core :=
  c.modX d (fun x => { x with movers := SMap.erase x.movers m })

/-- MOVE_COMPLETE. -/
def doMoveComplete (d m : Nat) (c : Core) : Core :=
  match c.inFlight d m with
  | none => c
  | some (p, x) => (c.moverCopy p d x x.len).moverFree d m

def execMoveComplete (d : XDie) (m : Fin 8) : State → Host.Outcome State Fault Refusal := act (doMoveComplete d.val m.val)

/-- A MOVE not complete at its DEADLINE: the transfer stops, some of its units done, and the passes of the next CELLS that
reads the buffer cannot start (Table 11.5). -/
def doMoveMiss (d m : Nat) (c : Core) : Core :=
  match c.inFlight d m with
  | none => c
  | some (p, x) =>
    let n := 64 * ((Config.freeWord c.free).toNat % max (x.len / 64) 1)
    let c := ({ c with free := c.free + 1 }.moverCopy p d x n).moverFree d m
    let c := if x.spaces / 16 = 3 then c.modX d (fun y => { y with bufBad := y.bufBad.set (bufOf x.dst).1 true }) else c
    c.breach d .deadline 0 x.pc x.deadline

/-! ### HBMQ (R226) -/

/-- HBMQ: entry 0 takes its slot DELAY cycles after issue + 1. -/
def doHbmq (d : Nat) (i : Image) (t : ChanterS) (ins : Nat) (c : Core) : Core :=
  let n := bits ins 23 0
  match i.hbmsList d n with
  | none => c
  | some l =>
    match l.entries with
    | [] => c
    | e :: _ =>
      let s : ListS := { list := n, entry := 0, slot := t.scyc + 1 + e.delay, loops := t.loops, win := t.window, pc := t.pc }
      c.modX d (fun x => { x with lists := x.lists ++ [s] })

def execHbmq (d : XDie) : State → Host.Outcome State Fault Refusal := act (fun c => c.issue d.val 0x07 (doHbmq d.val))

/-- The class of a list's next entry: 0 S0, 1 S1. -/
def Image.listClass (i : Image) (d : Nat) (s : ListS) : Nat :=
  match (i.hbmsList d s.list).bind (fun l => l.entries[s.entry]?) with
  | some e => e.cls
  | none => 0

/-- The list whose next slot comes first, S0 before S1 where they share it (R335). -/
def nextList (cls : ListS → Nat) : List ListS → Option (ListS × List ListS)
  | [] => none
  | l :: ls =>
    match nextList cls ls with
    | none => some (l, [])
    | some (b, r) => if b.slot < l.slot ∨ (b.slot = l.slot ∧ cls b < cls l) then some (b, l :: r) else some (l, b :: r)

/-- An entry's request: a read whose data go nowhere, or a write of data that the spec does not name: free values. -/
def Core.hbmsIssue (c : Core) (p : Plan) (d : Nat) (l : HbmsList) (e : HbmsEnt) (s : ListS) : Core :=
  let a := l.addr e s.loops
  let n := 64 * e.len
  if e.write then
    { c.schedWrite p d e.space s.win a ((List.range n).map (fun k => Config.freeHbm c.free k)) with free := c.free + 1 }
  else
    let (c, _, ues) := c.schedRead p d e.space s.win a n
    c.readBreach d 3 s.pc s.slot ues

/-- HBMS_ENTRY_SLOT. -/
def doHbmsEntrySlot (d : Nat) (c : Core) : Core :=
  match c.img.bind (fun i => (nextList (i.listClass d) (c.xdie d).lists).map (fun e => (i, e))) with
  | some (i, s, rest) =>
    if (c.chanter d).st = .held then c
    else
      match i.hbmsList d s.list with
      | none => c
      | some l =>
        let c := match l.entries[s.entry]? with
          | some e => c.hbmsIssue i.plan d l e s
          | none => c
        let next := match l.entries[s.entry + 1]? with
          | some e => [{ s with entry := s.entry + 1, slot := s.slot + e.delay }]
          | none => []
        (c.modX d (fun x => { x with lists := next ++ rest })).modChanter d (fun t => { t with last := max t.last s.slot })
  | none => c

def execHbmsEntrySlot (d : XDie) : State → Host.Outcome State Fault Refusal := act (doHbmsEntrySlot d.val)

end Sys2Proof.Machine
end

