-- ==== Sys2Proof/Machine/BeamOps.lean ====
section
/-! DEFINITION. Machine/BeamOps.lean: beam weights, sums, voltage and detected rows, beam frames and the terms they give a
reduction unit (R169 to R188, R195, R198, R227). -/

namespace Sys2Proof.Machine

/-- A term added to a stochastically rounded running sum (R195); `base` is added to the step (R183). -/
def RSum.add (r : RSum) (seed : DWord) (addr base : Nat) (x : Exact) : RSum :=
  let v := (f32Exact r.s).add x
  let (s, o) := if r.k < 2 ^ 24 then srBits seed v addr (base + r.k) else rne32Bits v
  { s := s, k := r.k + 1, lapsed := r.lapsed || decide (2 ^ 24 ≤ r.k), ovf := r.ovf || o, hwe := max r.hwe (f32Biased s) }

/-! ### Output entries (Table 8.4) -/

/-- DKIND in force: the odd beam of a cell pair is reported under the even one (R182). -/
def BeamSec.dkind (b : BeamSec) (n : Nat) : Nat := if 128 ≤ n ∧ b.pair ∧ n % 2 = 1 then 0 else (b.beam n).dkind

/-- Beams of a block of 64 that are detected; blocks 0 and 1 are the slices, 2 + β the cells. -/
def BeamSec.detBeams (b : BeamSec) (blk : Nat) : List Nat :=
  ((List.range 64).map (fun x => 64 * blk + x)).filter (fun n => b.dkind n != 0)

/-- Beams of a slice with an output. -/
def BeamSec.sliceBeams (b : BeamSec) (j : Nat) : List Nat :=
  ((List.range 64).map (fun x => 64 * j + x)).filter (fun n => (b.beam n).vkind != 0 || (b.beam n).dkind != 0)

/-- The channels of block `g` (R185). -/
def Plan.blockChans (p : Plan) (g : Nat) : List Nat := ((List.range 8).map (fun x => 8 * g + x)).filter (fun ch => decide (ch < p.nReg))

/-! ### Weights (R173) -/

/-- FQ in 2^-16 Hz. -/
def beamFq (fcc pLog : Nat) (fc : Int) (f : Nat) : Int :=
  rne (fc * fcc) 16 + ((f : Int) - 2 ^ pLog / 2) * fcc * 65536 / 2 ^ pLog

/-- The rotation of a delay in 2^-40 s. -/
def beamRot (fq t : Int) : Int × Int := rot (turn32 (-(rne (fq * t) 24)))

/-- A gain word rotated, rounded by a shift and clamped. -/
def beamWeight (g shift : Nat) (m : Int) (cs : Int × Int) : Int × Int :=
  let gr := toInt 16 g
  let gi := toInt 16 (g / 65536)
  (sat (rne (gr * cs.1 - gi * cs.2) shift) (-m) m, sat (rne (gr * cs.2 + gi * cs.1) shift) (-m) m)

/-- What a generator fetches of a bank for a coarse channel: gains and polarisations by rank, WSHIFT, delays by beam, and
whether a word was uncorrectable. -/
structure BankData where
  gains : List Nat
  pols : List Nat
  shift : Nat
  taus : List (List Int)
  bad : Bool

/-- Fetch a bank at a die HBM address (Table 8.2). -/
def Core.bankFetch (c : Core) (d addr nPad coarse beams : Nat) : Core × BankData :=
  let (c, gs, bad) := (List.range nPad).foldl (fun (x : Core × List Nat × Bool) r =>
    let (c, bs, ues) := x.1.eccRead d (addr + 4 * (128 * r + coarse)) 4
    (c, x.2.1 ++ [leNat bs], x.2.2 || !ues.isEmpty)) (c, [], false)
  let (c, pb, u) := c.eccRead d (addr + 0x200000) 512
  let (c, sb, v) := c.eccRead d (addr + 0x200200) 4
  let (c, ts, bad) := (List.range beams).foldl (fun (x : Core × List (List Int) × Bool) b =>
    let (c, bs, ues) := x.1.eccRead d (addr + 0x201000 + 16384 * b) (4 * nPad)
    (c, x.2.1 ++ [(List.range nPad).map (fun r => sleAt bs (4 * r) 4)], x.2.2 || !ues.isEmpty)) (c, [], bad)
  (c, { gains := gs, pols := (List.range nPad).map (fun r => b2n (bit (leNat pb) r)), shift := leNat sb % 16, taus := ts,
        bad := bad || !u.isEmpty || !v.isEmpty })

/-! ### A slice's weight buffers -/

/-- Where the buffer of a slice's bank begins in `bslW`: weights at b * 4096 + r, then gain and POL of each rank. -/
def bslBase (j : Nat) (bank : Bool) : Nat := (2 * j + b2n bank) * 2 ^ 20

/-- The entries of a buffer. -/
def sliceEntries (x : BankData) (fq : Int) (nPad : Nat) : List (List Nat) :=
  x.taus.map (fun ts => (List.range nPad).map (fun r =>
    let w := beamWeight (nth 0 x.gains r) 16 32767 (beamRot fq (nth 0 ts r))
    ofInt 16 w.1 + 2 ^ 16 * ofInt 16 w.2))

/-- Store a slice's buffer. -/
def XDieS.sliceStore (x : XDieS) (base : Nat) (b : BankData) (fq : Int) (nPad : Nat) : XDieS :=
  let es := sliceEntries b fq nPad
  let w := (List.range es.length).foldl (fun w n => SMap.setRun (fun _ => 0) w (base + 4096 * n) (nth [] es n)) x.bslW
  let fs := (List.range nPad).map (fun r => b2n (nth 0 b.gains r != 0) + 2 * nth 0 b.pols r)
  { x with bslW := SMap.setRun (fun _ => 0) w (base + 2 ^ 18) fs }

/-- Gain is not 0 (bit 0) and POL (bit 1) of a rank. -/
def bslRank (w : SMap Nat) (base r : Nat) : Nat := SMap.get (fun _ => 0) w (base + 2 ^ 18 + r)

/-- y[b][pol] of a row (R175). -/
def sliceSum (w : SMap Nat) (base b pol : Nat) (xs : List Samp) : Int × Int :=
  (xs.zip (List.range xs.length)).foldl (fun (y : Int × Int) e =>
    if bslRank w base e.2 / 2 = pol then
      let v := SMap.get (fun _ => 0) w (base + 4096 * b + e.2)
      let wr := toInt 16 v
      let wi := toInt 16 (v / 65536)
      (y.1 + wr * e.1.re - wi * e.1.im, y.2 + wr * e.1.im + wi * e.1.re)
    else y) (0, 0)

/-- The row of (b, pol) is FULL over the banks in use (R176). -/
def sliceFull (w : SMap Nat) (bases : List Nat) (pol : Nat) (xs : List Samp) : Bool :=
  let used (r : Nat) : Bool := bases.any (fun b => bslRank w b r == 1 + 2 * pol)
  let rs := (List.range xs.length).filter used
  !rs.isEmpty && rs.all (fun r => (nth {} xs r).v)

/-- The bank of a weight block and, in a fade, its block j and F (R178). -/
def TargetS.atBlock (t : TargetS) (k : Nat) : Bool × Option (Nat × Nat) :=
  match t.swap with
  | none => (t.activeB, none)
  | some s =>
    if k < s.kap then (t.activeB, none)
    else if k < s.kap + s.len then (t.activeB, some (k - s.kap, s.len))
    else (!t.activeB, none)

/-- y_old to y_new at block j of F (R178). -/
def fadeMix (a b : Int × Int) (j f : Nat) : Int × Int :=
  let m (x y : Int) : Int := rneDiv (x * ((f : Int) - 1 - j) + y * ((j : Int) + 1)) f
  (m a.1 b.1, m a.2 b.2)

/-! ### Rows and frames -/

/-- A row of a channel: its channel, window, index since n0 (R89), FLAGS [7:4] and [10] of Table 8.7, and the die cycles in which the
passes of its sub-block begin and end. -/
structure RowAt where
  ch : Nat
  w : Nat
  s : Nat
  flags : Nat
  from_ : Nat
  to_ : Nat

/-- FLAGS [7:4] and [10] of row `s` of window `w`; CONTRACT where a breach came since cycle `from_`, or INSPECT has held the run
(R249). -/
def Core.rowFlags (c : Core) (d : Nat) (p : Plan) (w s from_ : Nat) : Nat :=
  let b := (p.n0 + s) * p.P / 256
  fld (b2n (spanHit c.chan.slipBlks b b)) 1 4 + fld (b2n (c.power.stepped || decide (from_ < (c.xdie d).lastMiss))) 1 5 +
  fld (b2n (spanHit c.chan.holdBlks b b)) 1 6 + fld (b2n (c.chan.gstepWins.elem w)) 1 7 + fld (b2n (decide (s < 7))) 1 10

/-- Write a frame's payload to the next slot of the beam area (R188, R227). -/
def Core.beamStore (c : Core) (i : Image) (d type flags dest : Nat) (hdr payload : List Byte) (from_ to_ : Nat) : Core :=
  let b := i.beams
  let x := c.xdie d
  if b.area d 2 = 0 then c
  else
    let addr := b.area d 0 + x.nBeam % b.area d 2 * b.area d 1
    let bs := pad8 payload
    let f : AreaFrame := { addr := addr, len := bs.length, type := type, flags := flags, dest := dest, hdr := hdr,
                           from_ := from_, to_ := to_ }
    (c.hbmStore d addr bs).modX d (fun x =>
      { x with area := x.area.filter (fun a => a.addr != addr) ++ [f], nBeam := x.nBeam + 1 })

/-- TYPE_HDR of a beam frame (Table 8.6). -/
def Plan.beamHdr (p : Plan) (first beam g nb rlog : Nat) : List Byte :=
  leBytes 8 (p.n0 + first) ++ leBytes 2 beam ++ leBytes 2 (8 * g) ++ leBytes 1 (p.blockChans g).length ++ leBytes 1 nb ++
  leBytes 1 rlog ++ leBytes 1 0

/-- The key of a voltage frame. -/
def voltKey (fi g beam : Nat) : Nat := (fi * 4096 + g) * 128 + beam

/-- The payload of a voltage frame (R186). -/
def VoltS.payload (v : VoltS) (nch rows z : Nat) : List Byte :=
  (List.range (nch * rows * 2)).flatMap (fun k =>
    let s := SMap.get (fun _ => (0, 0)) v.samples k
    leBytes (z / 2) (ofInt (4 * z) s.1) ++ leBytes (z / 2) (ofInt (4 * z) s.2)) ++
  (List.range (nch * 2)).flatMap (fun k =>
    serialBytes (rows / 8) ((List.range rows).map (fun t => SMap.get (fun _ => false) v.full (k * rows + t))))

/-- A sample of one polarisation requantised (R181); true where a part saturates. -/
def beamRequant (y : Int × Int) (scale shift : Nat) (m : Int) : (Int × Int) × Bool :=
  let re := rne (y.1 * scale) shift
  let im := rne (y.2 * scale) shift
  ((sat re (-m) m, sat im (-m) m), sat re (-m) m != re || sat im (-m) m != im)

/-- Count saturated samples; VSAT at the first of an integration. -/
def Core.beamSat (c : Core) (d j n : Nat) : Core :=
  if n = 0 then c
  else
    let c := c.inc (.bsl d j) 0x060 n
    if (c.xdie d).vsatRaised.elem j then c
    else (c.modX d (fun x => { x with vsatRaised := j :: x.vsatRaised })).raise (.bsl d j) 3

/-- A row enters the voltage frame of a beam; the frame is written with its last row (R181, R186, R188). -/
def Core.voltRow (c : Core) (i : Image) (d j beam : Nat) (r : RowAt) (ys : List (Int × Int)) (full : List Bool)
    (bank : Bool) (flags : Nat) : Core :=
  let o := i.beams.beam beam
  if o.vkind = 0 then c
  else
    let rows := 2 ^ o.vrows
    let g := r.ch / 8
    let nch := (i.plan.blockChans g).length
    let key := voltKey (r.s / rows) g beam
    let t := r.s % rows
    let ci := r.ch % 8
    let m : Int := if o.vkind = 1 then 127 else 32767
    let x := beamRequant (nth (0, 0) ys 0) o.scX o.shX m
    let y := beamRequant (nth (0, 0) ys 1) o.scY o.shY m
    let n := b2n x.2 + b2n y.2
    let c := c.beamSat d j n
    let v := SMap.get (fun _ => {}) (c.xdie d).volt key
    let fl := flags ||| fld (b2n (n != 0)) 1 3 ||| fld (b2n (full.any (fun b => !b))) 1 9 |||
      (if t + 1 = rows then fld (b2n bank) 1 2 else 0)
    let sm := SMap.setRun (fun _ => (0, 0)) v.samples ((ci * rows + t) * 2) [x.1, y.1]
    let fu := (List.range 2).foldl (fun m p => SMap.set (fun _ => false) m ((2 * ci + p) * rows + t) (nth false full p)) v.full
    let v : VoltS := { v with samples := sm, full := fu, rows := v.rows + 1, flags := v.flags ||| fl,
                              from_ := if v.rows = 0 then r.from_ else v.from_ }
    if v.rows = nch * rows then
      (c.modX d (fun x => { x with volt := SMap.erase x.volt key })).beamStore i d (0x0F + o.vkind)
        v.flags o.vdest (i.plan.beamHdr (r.s / rows * rows) beam g 1 o.vrows) (v.payload nch rows (2 * o.vkind)) v.from_ r.to_
    else c.modX d (fun x => { x with volt := SMap.set (fun _ => {}) x.volt key v })

/-- The products of two polarisation sums: I, or XX, YY, Re XY, Im XY (R182). -/
def detProducts (dk : Nat) (a b : Int × Int) : List Int :=
  let xx := a.1 * a.1 + a.2 * a.2
  let yy := b.1 * b.1 + b.2 * b.2
  if dk = 1 then [xx + yy] else [xx, yy, a.1 * b.1 + a.2 * b.2, a.2 * b.1 - a.1 * b.2]

/-- The key of a detection interval. -/
def detKey (q ch beam : Nat) : Nat := (q * 32768 + ch) * 1024 + beam

/-- The sums of an interval with a row's products (R183). -/
def DetS.add (x : DetS) (seed : DWord) (log q ch beam : Nat) (ps : List Int) : DetS :=
  let base := q / 2 ^ 11 % 2 ^ (24 - log) * 2 ^ log
  let ss := (List.range ps.length).map (fun pr =>
    (nth {} x.sums pr).add seed (2 ^ 38 + q % 2 ^ 11 * 2 ^ 27 + beam * 2 ^ 17 + pr * 2 ^ 15 + ch) base
      (Exact.ofInt (nth 0 ps pr)))
  { x with n := x.n + 1, sums := ss }

/-- The term that a closed interval gives the die's reduction unit (R198 to R200). -/
def Core.beamTerm (c : Core) (i : Image) (d w ch beam : Nat) (x : DetS) : Core :=
  let g := i.redCfg d
  let k := localK c.part.dies ch
  let o := i.beams.beam beam
  if g.kind = 0 ∨ g.source ≠ 0 ∨ beam < g.selLo ∨ g.selHi < beam ∨ k < g.chLo ∨ g.chHi < k ∨
      i.beams.dkind beam ≠ (if g.prod = 0 then 1 else 2) then c
  else
    let t : Term := { win := w, s := beam, k := k, t := x.q % 2 ^ g.log, isF := true, x := ((nth {} x.sums (g.prod - 1)).s : Nat),
                      excl := x.n == 0 || g.opts.testBit 0 && decide (x.n < 2 ^ o.det) }
    c.modX d (fun y => { y with red := { y.red with terms := y.red.terms ++ [t] } })

/-- The payload of a detected frame (R187). -/
def detPayload (np : Nat) (xs : List DetS) : List Byte :=
  xs.flatMap (fun x => (List.range np).flatMap (fun p => leBytes 4 (nth {} x.sums p).s)) ++
  xs.flatMap (fun x => leBytes 4 x.n) ++
  xs.flatMap (fun x => (List.range np).map (fun p => BitVec.ofNat 8 (nth {} x.sums p).hwe))

/-- The detected frame of a block of beams is written once every channel's interval has closed (R187, R188). -/
def Core.detFrame (c : Core) (i : Image) (d blk q g to_ : Nat) : Core :=
  let bs := i.beams.detBeams blk
  let chs := i.plan.blockChans g
  let at_ (c : Core) (ch b : Nat) : DetS := SMap.get (fun _ => {}) (c.xdie d).det (detKey q ch b)
  match bs, bs.getLast? with
  | b0 :: _, some b1 =>
    if chs.all (fun ch => bs.all (fun b => (at_ c ch b).closed)) then
      let o := i.beams.beam b0
      let all := (List.range (b1 + 1 - b0)).flatMap (fun n => chs.map (fun ch =>
        if i.beams.dkind (b0 + n) = 0 then ({} : DetS) else at_ c ch (b0 + n)))
      let fl := all.foldl (fun f x => f ||| x.flags) 0
      let from_ := ((all.filter (fun x => x.closed)).map (fun x => x.from_)).foldl Nat.min to_
      let c := c.modX d (fun x => { x with det := bs.foldl (fun m b => chs.foldl (fun m ch => SMap.erase m (detKey q ch b)) m) x.det })
      c.beamStore i d (0x11 + o.dkind) fl o.ddest (i.plan.beamHdr (q * 2 ^ o.det) b0 g (b1 + 1 - b0) o.det)
        (detPayload (if o.dkind = 1 then 1 else 4) all) from_ to_
    else c
  | _, _ => c

/-- A row enters the detection intervals of a block of beams; `y` gives the two sums of a beam (R182, R183). -/
def Core.detRow (c : Core) (i : Image) (d blk : Nat) (r : RowAt) (y : Nat → (Int × Int) × (Int × Int)) (inc bank : Bool)
    (flags : Nat) : Core :=
  match i.beams.detBeams blk with
  | [] => c
  | b0 :: bs =>
    let log := (i.beams.beam b0).det
    let q := r.s / 2 ^ log
    let last := (r.s + 1) % 2 ^ log == 0
    let fl := flags ||| fld (b2n !inc) 1 9 ||| (if last then fld (b2n bank) 1 2 else 0)
    let c := (b0 :: bs).foldl (fun c b =>
      let key := detKey q r.ch b
      let x := SMap.get (fun _ => {}) (c.xdie d).det key
      let x : DetS := { x with q := q, flags := x.flags ||| fl, closed := last, from_ := if x.from_ = 0 then r.from_ else x.from_ }
      let ps := detProducts (i.beams.dkind b) (y b).1 (y b).2
      let x := if inc then x.add i.hdr.seed log q r.ch b ps else x
      let c := c.modX d (fun z => { z with det := SMap.set (fun _ => {}) z.det key x })
      if last then c.beamTerm i d r.w r.ch b x else c) c
    if last then c.detFrame i d blk q (r.ch / 8) r.to_ else c

/-- A row of a slice (R175, R176, R178); `run` where its pass started. -/
def Core.sliceRow (c : Core) (i : Image) (d j : Nat) (r : RowAt) (xs : List Samp) (run : Bool) : Core :=
  let (bank, fade) := (c.target (2 * d + j)).atBlock (r.s / 64)
  let w := (c.xdie d).bslW
  let bases := match fade with
    | some _ => [bslBase j false, bslBase j true]
    | none => [bslBase j bank]
  let y (beam pol : Nat) : Int × Int :=
    let b := beam % 64
    if run = false then (0, 0)
    else
      match fade with
      | some (k, f) => fadeMix (sliceSum w (bslBase j bank) b pol xs) (sliceSum w (bslBase j !bank) b pol xs) k f
      | none => sliceSum w (bslBase j bank) b pol xs
  let full := (List.range 2).map (fun p => run && sliceFull w bases p xs)
  let fl := r.flags ||| fld (b2n fade.isSome) 1 1
  let bs := i.beams.sliceBeams j
  let c := c.inc (.bsl d j) 0x06C (bs.length * (full.filter (fun b => !b)).length)
  let c := bs.foldl (fun c b => c.voltRow i d j b r [y b 0, y b 1] full bank fl) c
  c.detRow i d j r (fun b => (y b 0, y b 1)) (run && (!i.beams.fullOnly || full.all id)) bank fl

/-- The sum of a cell beam (R138, R139). -/
def cellSum (ws : List Nat) (nPad n : Nat) (xs : List Samp) : Int × Int :=
  ((xs.zip ((ws.drop (n * nPad)).take nPad))).foldl (fun (y : Int × Int) e =>
    let wr := toInt 8 e.2
    let wi := toInt 8 (e.2 / 256)
    (y.1 + wr * e.1.re - wi * e.1.im, y.2 + wr * e.1.im + wi * e.1.re)) (0, 0)

/-- A KIND 1 pass that ran: its block and chunk, and whether its array had a parity error. -/
structure BeamPass where
  blk : Nat
  chunk : Nat
  bad : Bool

/-- A row of the cell beams: `ran` the passes that ran on it, `held` where it was withheld (R138, R183). The spec states no sum for
an array with a parity error: the sums of that pass are free values, numbered from `free`. DESIGN CHOICE, notes/assumptions/92.md -/
def Core.cellRow (c : Core) (i : Image) (d : Nat) (r : RowAt) (xs : List Samp) (ran : List BeamPass) (free : Nat) (held : Bool) :
    Core :=
  let t := c.target (8 + d)
  let ws := match (c.xdie d).cellW with
    | some e => e.2
    | none => []
  let whole := (xs.take i.plan.nIn).all (fun x => x.v)
  let fl := r.flags ||| fld (b2n t.fading) 1 1 ||| fld (b2n held) 1 8
  (List.range 14).foldl (fun c b =>
    let bad := ran.any (fun e => e.blk == b && e.bad)
    let y (n : Nat) : Int × Int :=
      if bad then ((Config.freeWord (free + 2 * n)).toInt, (Config.freeWord (free + 2 * n + 1)).toInt)
      else cellSum ws i.plan.nPad (n - 128) xs
    c.detRow i d (2 + b) r (fun n => (y n, if i.beams.pair then y (n + 1) else (0, 0)))
      (ran.any (fun e => e.blk == b) && (!i.beams.fullOnly || whole)) t.activeB fl) c

/-- A slice's fade after the last row of a sub-block whose last weight block is `k`; `last` where the channel is the
die's last regular one (R178). -/
def Core.sliceFade (c : Core) (t k : Nat) (last : Bool) : Core :=
  match (c.target t).swap with
  | none => c
  | some s =>
    if k < s.kap then c
    else
      let c := if (c.target t).fading then c else c.targetBegin t s
      let c := c.modTarget t (fun x => { x with pos := min (k - s.kap) (s.len - 1) })
      if last ∧ s.kap + s.len ≤ k + 1 then c.targetMove t s else c

/-- The cells of a die at the start of window `w` (R179). -/
def Core.cellFade (c : Core) (d w wlen : Nat) : Core :=
  let t := 8 + d
  match (c.target t).swap with
  | none => c
  | some s =>
    if s.kap < (w + 1) * wlen / 64 then
      let c := if (c.target t).fading then c else c.targetBegin t s
      let c := c.modTarget t (fun x => { x with pos := min (w * wlen / 64 - s.kap) (s.len - 1) })
      if s.kap + s.len / 2 ≤ w * wlen / 64 then c.targetMove t s else c
    else c

end Sys2Proof.Machine
end

