-- ==== Sys2Proof/Machine/Crook.lean ====
section
/-! DEFINITION. Machine/Crook.lean: the turn path to the X dies (R105 to R119). -/

namespace Sys2Proof.Machine

/-- The fine sample index of row `t` of a channel in window `w` (R112). -/
def Plan.fineIndex (p : Plan) (ch w t : Nat) : Nat :=
  (if (p.info ch).z.isNone then p.n0 else 0) + w * p.rows ch + t

/-- TURN_LATE: the row stands as 0x0080 throughout (R117). -/
def doTurnLate (d k w t : Nat) (c : Core) : Core :=
  match (if c.running then c.img else none) with
  | none => c
  | some i =>
    let p := i.plan
    match (p.owned c.part.dies d)[k]? with
    | none => c
    | some ch =>
      if p.rows ch ≤ t ∨ c.part.dies ≤ d then c
      else
        let c := (List.range p.nPad).foldl (fun c r => c.stage p ch w t r invalidWord) c
        let c := c.modX d (fun x => { x with lateWins := if x.lateWins.elem w then x.lateWins else w :: x.lateWins })
        ((c.inc .crook (0x060 + 4 * d)).raise .crook 0).report .crook 0x30 clsD (p.fineIndex ch w t)

def execTurnLate (d : XDie) (k w t : Nat) : State → Host.Outcome State Fault Refusal := act (doTurnLate d.val k w t)

/-- LINK_DOWN of die `d` (R117, R409). -/
def doLinkDown (d : Nat) (c : Core) : Core :=
  if nth false c.links d then
    let c := { c with links := c.links.set d false }
    ((c.raise .crook 1).raise (.xdie d) 6).report (.xdie d) 0x31 clsS 0
  else c

def execLinkDown (d : XDie) : State → Host.Outcome State Fault Refusal := act (doLinkDown d.val)

/-- LINK_REPLAY. -/
def execLinkReplay (d : XDie) : State → Host.Outcome State Fault Refusal :=
  act (fun c => c.when (nth false c.links d.val) (fun c => c.inc .crook (0x070 + 4 * d.val)))

/-- CROOK_CLR_CNT (R119). -/
def doCrookClrCnt (c : Core) : Core :=
  c.clear .crook [0x060, 0x064, 0x068, 0x06C, 0x070, 0x074, 0x078, 0x07C]

def execCrookClrCnt : State → Host.Outcome State Fault Refusal :=
  regCmd .crookClrCnt .crook doCrookClrCnt

end Sys2Proof.Machine
end

