-- ==== Sys2Proof/Machine/Cells.lean ====
section
/-! DEFINITION. Machine/Cells.lean: CELLS: the cell passes and the beam-slice passes of one sub-block (R116, R120 to R127,
R133, R135 to R138, R176, R183, R240). The passes of a CELLS are modelled as one step at its issue. -/

namespace Sys2Proof.Machine

/-! ### Lookahead in the program -/

/-- The next CELLS that `p` accepts from a Chanter's state on, and how many WINDOW_ENDs come before it. -/
def findCells (pr : Prog) (p : CellsOp → Bool) : Nat → ChanterS → Nat → Option (CellsOp × Nat)
  | 0, _, _ => none
  | f + 1, t, w =>
    match pr.at t.pc with
    | none => none
    | some ins =>
      if insOp ins = 0x3F then none
      else if insOp ins = 6 ∧ p (cellsOp ins t.loops) then some (cellsOp ins t.loops, w)
      else findCells pr p f (t.advance ins) (if insOp ins = 0x10 then w + 1 else w)

/-! ### Samples and tiles (R111, R126, R133) -/

/-- Staged words decoded. -/
def samples : List Byte → List Samp
  | lo :: hi :: r =>
    (if lo = 0x80 ∧ hi = 0 then {} else { re := toInt 8 lo.toNat, im := toInt 8 hi.toNat, v := true }) :: samples r
  | _ => []

/-- One row's products added to a tile; `xa` the row block, `xb` the column block. -/
def Tile.addRow (t : Tile) (count : Bool) (xa xb : List Samp) : Tile :=
  (List.range 4096).foldl (fun t e =>
    let a := nth {} xa (e / 64)
    let b := nth {} xb (e % 64)
    let acc := SMap.mod (fun _ => (0, 0)) t.acc e (fun s =>
      (s.1 + (a.re * b.re + a.im * b.im), s.2 + (a.im * b.re - a.re * b.im)))
    { acc := acc, cnt := if count && a.v && b.v then SMap.mod (fun _ => 0) t.cnt e (· + 1) else t.cnt }) t

/-- A KIND 0 pass. -/
def Tile.pass (t : Tile) (count : Bool) (p q : Nat) (rows : List (List Samp)) : Tile :=
  rows.foldl (fun t r => t.addRow count ((r.drop (64 * p)).take 64) ((r.drop (64 * q)).take 64)) t

/-- Entry by entry sum of two tiles (split tasks). -/
def Tile.sum (a b : Tile) : Tile :=
  { acc := b.acc.foldl (fun m e => SMap.mod (fun _ => (0, 0)) m e.1 (fun s => (s.1 + e.2.1, s.2 + e.2.2))) a.acc,
    cnt := b.cnt.foldl (fun m e => SMap.mod (fun _ => 0) m e.1 (· + e.2)) a.cnt }

/-- The sums of a KIND 1 pass as the live array holds them: entry (beam, row) (R138). -/
def beamTile (ws : List Nat) (nPad blk : Nat) (rows : List (List Samp)) : Tile :=
  { acc := (List.range 64).foldl (fun m b => (List.range rows.length).foldl (fun m t =>
      SMap.set (fun _ => (0, 0)) m (64 * b + t) (cellSum ws nPad (64 * blk + b) (nth [] rows t))) m) [] }

/-! ### Task lists (R122, R223) -/

/-- The set of a channel. -/
def Tasks.set (t : Tasks) (k : Nat) : List (List TaskEnt) :=
  match t.order.find? (fun e => e.1 == k) with
  | some e => nth [] t.sets e.2
  | none => []

/-- The entries of a cell that cover a sub-block, in list order. -/
def Tasks.cover (t : Tasks) (k s cell : Nat) : List TaskEnt :=
  (nth [] (t.set k) cell).filter (fun e => decide (e.first ≤ s ∧ s ≤ e.last))

/-- A cell's passes in a CELLS. -/
def Image.cellTimes (i : Image) (nd d : Nat) (op : CellsOp) (cell : Nat) : List (TaskEnt × Nat × Nat) :=
  match (i.plan.owned nd d)[op.k]? with
  | none => []
  | some ch => passTimes i.plan (i.plan.sbRows ch) 0 ((nth {} i.tasks d).cover op.k op.s cell)

/-- Cycles of a slice pass: 2 × 64 × N_pad / 32 768 a row, a fraction taken up (R175). -/
def Image.sliceTime (i : Image) (nd d k : Nat) : Nat :=
  match (i.plan.owned nd d)[k]? with
  | none => 0
  | some ch => cdiv (i.plan.sbRows ch * i.plan.nPad) 256

/-- Cycles from cycle 0 to the end of the last pass of a CELLS. -/
def Image.cellsTime (i : Image) (nd d : Nat) (op : CellsOp) : Nat :=
  maxL ((if op.slices then i.sliceTime nd d op.k else 0) ::
    (List.range 384).map (fun cell => match (i.cellTimes nd d op cell).getLast? with
      | some e => e.2.1 + e.2.2
      | none => 0))

/-! ### Losses (R136, R137) -/

/-- The key of a task of a channel. -/
def taskKey (k tau : Nat) : Nat := 4096 * k + tau

/-- A task is lost for the window. -/
def Core.loseTask (c : Core) (p : Plan) (d k ch w tau : Nat) : Core :=
  let x := SMap.get (fun _ => {}) (c.xdie d).done (taskKey k tau)
  let x : Done := { x with lost := true, lostCount := x.lostCount || p.counts ch tau }
  ((c.modX d (fun y => { y with done := SMap.set (fun _ => {}) y.done (taskKey k tau) x })).noteFlag d wfLost).report
    (.cells d) 0x33 clsD (p.fineIndex ch w 0)

/-- An error of R136 in cluster `n`, cell `j` of it: true where a task is lost by it. -/
def Core.cellError (c : Core) (d cell : Nat) (f : PassFault) : Core × Bool :=
  let k : PageKind := .clu d (cell / 16)
  let bad (c : Core) : Core := ((c.inc k 0x054).wr k 0x040 (c.rd k 0x040 ||| 2 ^ (16 + cell % 16))).raise (.cells d) 4
  match f with
  | .slotCe => ((c.inc (.cells d) 0x084).inc k 0x050, false)
  | .slotUe => (bad (c.inc (.cells d) 0x088), true)
  | .parity => (bad (c.inc (.cells d) 0x08C), true)
  | .noStart => (c, false)

/-! ### The cells -/

/-- What a CELLS works on. -/
structure SubBlock where
  img : Image
  ch : Nat
  op : CellsOp
  w : Nat
  pc : Nat
  scyc : Nat
  rows : List (List Samp)
  held : Bool
  stuck : Bool

/-- A count slot: one more than the parked slot of the task it serves, and the counts. -/
def CellS.count (x : CellS) (n : Nat) : Nat × SMap Nat := SMap.get (fun _ => (0, [])) x.counts n

/-- The count slot of the task in a parked slot: its own, else the first that is free (R120, R133). Which of the two it takes is
a choice: DESIGN CHOICE, notes/assumptions/103.md -/
def CellS.countAt (x : CellS) (slot : Nat) : Nat :=
  if (x.count 0).1 = slot + 1 then 0 else if (x.count 1).1 = slot + 1 then 1 else if (x.count 0).1 = 0 then 0 else 1

/-- The outgoing task is written back to its parked slot, and its count to its count slot (R125, R133). -/
def CellS.writeBack (x : CellS) : CellS :=
  match x.liveSlot with
  | none => x
  | some (k, counted) =>
    { x with slots := SMap.set (fun _ => []) x.slots k x.live.acc,
             counts := if counted then SMap.set (fun _ => (0, [])) x.counts (x.countAt k) (k + 1, x.live.cnt) else x.counts }

/-- The task of a parked slot, with its count. -/
def CellS.parked (x : CellS) (k : Nat) (counted : Bool) : Tile :=
  { acc := SMap.get (fun _ => []) x.slots k, cnt := if counted then (x.count (x.countAt k)).2 else [] }

/-- The count slot of a task is free again once the task goes on to the long-term update. -/
def CellS.countFree (x : CellS) (k : Nat) : CellS :=
  let n := x.countAt k
  { x with counts := SMap.set (fun _ => (0, [])) x.counts n (0, (x.count n).2) }

/-- Swap before a pass: the live array goes back to its slots, the entry's task comes in (R125). -/
def CellS.swapIn (x : CellS) (e : TaskEnt) (s : Nat) (counted : Bool) : CellS :=
  let y := x.writeBack
  let new := e.kind = 1 ∨ e.first = s
  let z := if ¬new ∧ e.last = s ∧ counted then y.countFree e.slot else y
  { z with live := if new then {} else y.parked e.slot counted,
           liveSlot := if e.kind = 1 ∨ e.last = s then none else some (e.slot, counted), shadow := x.live }

/-- The shadow array holds the task of the cell's next entry (R125). -/
def CellS.preload (x : CellS) (e : TaskEnt) (s : Nat) (counted : Bool) : CellS :=
  { x with shadow := if e.kind = 1 ∨ e.first = s then {}
                     else if x.liveSlot.map Prod.fst = some e.slot then x.live else x.parked e.slot counted }

/-- A cell at a schedule start: no task is live, and both count slots are free. -/
def CellS.release (x : CellS) : CellS :=
  { x with liveSlot := none,
           counts := ([0, 1] : List Nat).foldl (fun m n => SMap.set (fun _ => (0, [])) m n (0, (x.count n).2)) x.counts }

/-- An entry's task is counted in a channel (R132). -/
def Plan.countsEnt (p : Plan) (ch : Nat) (e : TaskEnt) : Bool := e.kind == 0 && p.counts ch (tauOf p.B e.p e.q)


/-- One pass of entry `e` of a cell, due at cycle `at_` of Table 6.2; the second part names a KIND 1 pass that ran. -/
def Core.pass (c : Core) (d cell : Nat) (b : SubBlock) (e : TaskEnt) (at_ : Nat) (fs : List PassFault) : Core × List BeamPass :=
  let p := b.img.plan
  let x := (SMap.get (fun _ => {}) (c.xdie d).cells cell).swapIn e b.op.s (p.countsEnt b.ch e)
  let ws := match (c.xdie d).cellW with
    | some y => if y.1 = b.op.k then some y.2 else none
    | none => none
  let miss := !b.held && (b.stuck || fs.elem .noStart || e.kind == 1 && ws.isNone)
  let run := !b.held && !miss
  let tau := tauOf p.B e.p e.q
  let live := if run = false then x.live
    else if e.kind = 0 then x.live.pass (p.counts b.ch tau) e.p e.q b.rows
    else beamTile (ws.getD []) p.nPad e.q ((b.rows.drop (64 * e.p)).take 64)
  let c := c.modX d (fun y => { y with cells := SMap.set (fun _ => {}) y.cells cell { x with live := live } })
  let c := if run then c.inc64 (.clu d (cell / 16)) 0x048 else c
  let c := if e.kind = 0 ∧ e.last = b.op.s then
      c.modX d (fun y => { y with done := SMap.mod (fun _ => {}) y.done (taskKey b.op.k tau)
                                            (fun z => { z with tile := z.tile.sum live }) })
    else c
  let c := if miss then (if e.kind = 1 ∧ ws.isNone ∧ b.stuck = false then c
      else c.breach d .start 1 b.pc (b.scyc + 1 + at_)).inc (.cells d) 0x090
    else c
  let fs := if e.kind = 1 then fs.filter (· == .parity) else fs
  let (c, lost) := fs.foldl (fun (y : Core × Bool) f => let (c, l) := y.1.cellError d cell f; (c, y.2 || l)) (c, false)
  (if e.kind = 1 then (if lost then c.report (.cells d) 0x33 clsD (p.fineIndex b.ch b.w 0) else c)
   else if lost || miss then c.loseTask p d b.op.k b.ch b.w tau else c,
   if run && e.kind == 1 then [⟨e.q, e.p, lost⟩] else [])

/-- The passes of a cell in list order. -/
def Core.cellPasses (c : Core) (d cell : Nat) (b : SubBlock) (fs : List CellFault) : Core × List BeamPass :=
  let es := b.img.cellTimes c.part.dies d b.op cell
  (es.zip (List.range es.length)).foldl (fun (x : Core × List BeamPass) e =>
    let f := (fs.filter (fun y => y.cell == cell && y.entry == e.2)).map CellFault.fault
    let (c, r) := x.1.pass d cell b e.1.1 e.1.2.1 f
    (c, x.2 ++ r)) (c, [])

/-- ACTIVE of every cluster (Table 6.6). -/
def Core.cluActive (c : Core) (i : Image) (d k : Nat) : Core :=
  let s := (nth {} i.tasks d).set k
  (List.range 24).foldl (fun c n =>
    let m := (List.range 16).foldl (fun a j => a + (if (nth [] s (16 * n + j)).isEmpty then 0 else 2 ^ j)) 0
    c.wr (.clu d n) 0x040 (c.rd (.clu d n) 0x040 / 65536 * 65536 + m)) c

/-- Shadow arrays loaded for the program's next CELLS. -/
def Core.preload (c : Core) (i : Image) (d : Nat) (t : ChanterS) : Core :=
  match findCells (i.prog d) (fun _ => true) (2 ^ 20) t 0 with
  | none => c
  | some (op, _) =>
    let ch := nth 0 (i.plan.owned c.part.dies d) op.k
    c.modX d (fun x => { x with cells := (List.range 384).foldl (fun m cell =>
      match (nth {} i.tasks d).cover op.k op.s cell with
      | [] => m
      | e :: _ => SMap.mod (fun _ => {}) m cell (fun y => y.preload e op.s (i.plan.countsEnt ch e))) x.cells })

/-- An AUTO reduction unit watches the sub-block stream for invalid words (R200). -/
def Core.redWatch (c : Core) (d : Nat) (b : SubBlock) : Core :=
  let g := b.img.redCfg d
  if g.kind ≠ 0 ∧ g.source = 1 ∧ g.chLo ≤ b.op.k ∧ b.op.k ≤ g.chHi then
    let bad := (List.range (g.selHi + 1 - g.selLo)).filterMap (fun n =>
      if b.rows.any (fun r => !(nth {} r (g.selLo + n)).v) then some (g.selLo + n) else none)
    c.modX d (fun x => { x with invalid := bad.foldl (fun m r => SMap.set (fun _ => 0) m (4096 * b.op.k + r) 1) x.invalid })
  else c

/-! ### Beams of a sub-block -/

/-- Slice `j` runs its pass; a pass that cannot start is a miss (R176). -/
def Core.sliceStart (c : Core) (d j : Nat) (b : SubBlock) (fs : List CellFault) : Core × Bool :=
  let stop := b.stuck || (c.xdie d).bslBad.elem j || fs.any (fun f => f.cell == 384 + j && f.fault == .noStart)
  if stop then ((((c.inc (.bsl d j) 0x070).raise (.bsl d j) 5).breach d .start 2 b.pc (b.scyc + 1)), false) else (c, true)

/-- The rows of a regular channel's sub-block through the beam slices and the cell beams. -/
def Core.beamRows (c : Core) (d : Nat) (b : SubBlock) (ran : List BeamPass) (fs : List CellFault) : Core :=
  let i := b.img
  let p := i.plan
  let sl := (List.range 2).filter (fun j => b.op.slices && i.sliceUsed j)
  let cu := i.cellsUsed
  if (p.info b.ch).z.isSome ∨ (sl.isEmpty ∧ cu = false) then c
  else
    let (c, on) := sl.foldl (fun (x : Core × List (Nat × Bool)) j =>
      let (c, r) := x.1.sliceStart d j b fs
      (c, x.2 ++ [(j, r)])) (c, [])
    let s0 := b.w * p.L + b.op.s * 1024
    let from_ := b.scyc + 1
    let to_ := from_ + i.cellsTime c.part.dies d b.op
    let c := (List.range b.rows.length).foldl (fun c t =>
      let xs := nth [] b.rows t
      let r : RowAt := { ch := b.ch, w := b.w, s := s0 + t, flags := c.rowFlags d p b.w (s0 + t) from_, from_ := from_, to_ := to_ }
      let c := on.foldl (fun c e => c.sliceRow i d e.1 r xs e.2) c
      if cu then c.cellRow i d r xs (ran.filter (fun e => e.chunk == t / 64)) (c.free + 2048 * t) b.held else c) c
    let c := if ran.any (fun e => e.bad) then { c with free := c.free + 2048 * b.rows.length } else c
    let last := match ((nth {} i.tasks d).order.filter (fun e =>
        match (p.owned c.part.dies d)[e.1]? with
        | some ch => decide (ch < p.nReg)
        | none => false)).getLast? with
      | some e => e.1 == b.op.k
      | none => false
    sl.foldl (fun c j => c.sliceFade (2 * d + j) ((s0 + b.rows.length - 1) / 64) last) c

/-! ### CELLS (R240) -/

/-- CELLS. -/
def doCells (d : Nat) (fs : List CellFault) (i : Image) (t : ChanterS) (ins : Nat) (c : Core) : Core :=
  let p := i.plan
  let op := cellsOp ins t.loops
  match (p.owned c.part.dies d)[op.k]? with
  | none => c
  | some ch =>
    let x := c.xdie d
    let n := p.sbRows ch
    let buf := nth {} x.buf op.b
    let b : SubBlock := { img := i, ch := ch, op := op, w := t.window, pc := t.pc, scyc := t.scyc,
                          rows := (List.range n).map (fun r => samples (buf.read (2 * r * p.nPad) (2 * p.nPad))),
                          held := (p.info ch).z.isNone && t.mask.testBit op.s, stuck := nth false x.bufBad op.b }
    let c := c.modX d (fun x => { x with bufBad := x.bufBad.set op.b false,
                                         chanWin := SMap.set (fun _ => (0, 0)) x.chanWin op.k (t.window + 1, t.mask) })
    let (c, ran) := (List.range 384).foldl (fun (x : Core × List BeamPass) cell =>
      let (c, r) := x.1.cellPasses d cell b fs
      (c, x.2 ++ r)) (c, [])
    let c := ((c.cluActive i d op.k).preload i d (t.advance ins)).redWatch d b
    c.beamRows d b ran fs

def execCells (d : XDie) (faults : List CellFault) : State → Host.Outcome State Fault Refusal :=
  act (fun c => c.issue d.val 0x06 (doCells d.val faults))

/-- CELLS_CLR_CNT (R143). -/
def doCellsClrCnt (d : XDie) (c : Core) : Core :=
  c.clear (.cells d.val) [0x070, 0x074, 0x078, 0x07C, 0x080, 0x084, 0x088, 0x08C, 0x090]

def execCellsClrCnt (d : XDie) : State → Host.Outcome State Fault Refusal :=
  regCmd (.cellsClrCnt d) (.cells d.val) (doCellsClrCnt d)

/-- CLR_CNT of a cluster page: its counters and FAULTED (R144). -/
def doCluClrCnt (d : XDie) (n : Fin 24) (c : Core) : Core :=
  (c.clear (.clu d.val n.val) [0x048, 0x04C, 0x050, 0x054]).wr (.clu d.val n.val) 0x040 (c.rd (.clu d.val n.val) 0x040 % 65536)

def execCluClrCnt (d : XDie) (n : Fin 24) : State → Host.Outcome State Fault Refusal :=
  regCmd (.cluClrCnt d n) (.clu d.val n.val) (doCluClrCnt d n)

end Sys2Proof.Machine
end

