-- ==== Sys2Proof/Machine/LongTerm.lean ====
section
/-! DEFINITION. Machine/LongTerm.lean: scheduled actions, and UPDATE: long-term accumulation, weights, markers and the
emission into the dump area (R128 to R137, R146 to R154, R198 to R200, R225). -/

namespace Sys2Proof.Machine

/-! ### Actions (R225, Table 10.9) -/

/-- The instruction that carries actions of a KIND. -/
def actionIns (kind : Nat) : Nat := if kind ≤ 4 then 0x0A else if kind ≤ 10 then 0x08 else 0x09

/-- The next instruction of an X Chanter where it starts an action of KIND `kind`, with its descriptor. -/
def Core.atAction (c : Core) (d kind : Nat) : Option (Image × ChanterS × Nat × List Byte) :=
  match c.atOp d (actionIns kind) with
  | none => none
  | some (i, t, ins) =>
    match i.actionOf d ins with
    | some bs => if descKind bs = kind then some (i, t, ins, bs) else none
    | none => none

/-- The slots of an action's list, as R336 reads them; lists of the action's descriptor that were issued before it have ended. -/
def Core.listSlots (c : Core) (i : Image) (d : Nat) (t : ChanterS) (bs : List Byte) : Core :=
  match (actList bs).bind (fun n => (i.hbmsList d n).map (fun l => (n, l))) with
  | none => c
  | some (n, l) =>
    let first := match l.entries with
      | e :: _ => e.delay
      | [] => 0
    c.modX d (fun x => { x with acts := x.acts.filter (fun s => s.list != n) ++
      [{ list := n, entry := 0, slot := t.scyc + 1 + first, loops := t.loops, win := t.window, pc := t.pc }] })

/-- Start an action: its effect, complete by issue + DEADLINE, and the Chanter goes on. -/
def Core.action (c : Core) (d kind : Nat) (f : Image → ChanterS → List Byte → Core → Core) : Core :=
  match c.atAction d kind with
  | none => c
  | some (i, t, ins, bs) => ((f i t bs c).listSlots i d t bs).modChanter d (fun t => t.advance ins)

/-! ### Entries (R128, R130, R134) -/

/-- An entry of the long-term accumulators. -/
abbrev Vis := Int × Int

def markOvr : Vis := (-(2 ^ 47), 1)
def markLost : Vis := (-(2 ^ 47), 2)
def isMark (v : Vis) : Bool := v.1 == -(2 ^ 47)

/-- The 12 B of an entry, and back. -/
def visBytes (v : Vis) : List Byte := leBytes 6 (ofInt 48 v.1) ++ leBytes 6 (ofInt 48 v.2)
def visOf (bs : List Byte) (off : Nat) : Vis := (sleAt bs off 6, sleAt bs (off + 6) 6)

/-- The new value of an entry: `lost`, the old value, the window's sum (R129). -/
def visUpdate (lost : Bool) (old x : Vis) : Vis :=
  if lost then markLost
  else if isMark old then old
  else
    let m : Int := 2 ^ 47 - 1
    let a := old.1 + x.1
    let b := old.2 + x.2
    if m < a ∨ a < -m ∨ m < b ∨ b < -m then markOvr else (a, b)

/-- The new weight of an entry (R134). -/
def weightUpdate (lost : Bool) (old n : Nat) : Nat :=
  if lost ∨ old = 0xFFFFFFFF then 0xFFFFFFFF else min (old + n) 0xFFFFFFFE

/-- An uncorrectable word among those that hold bytes `a` to `a + n - 1`. -/
def hitUe (ues : List Nat) (a n : Nat) : Bool := ues.any (fun w => decide (a / 16 ≤ w ∧ w ≤ (a + n - 1) / 16))

/-! ### One task of a channel's update -/

/-- What an update starts from. -/
structure UpdAt where
  p : Plan
  d : Nat
  k : Nat
  ch : Nat
  w : Nat
  lost : Bool
  missed : Bool := false

def UpdAt.first (u : UpdAt) : Bool := u.w % max u.p.ints 1 == 0
def UpdAt.last (u : UpdAt) : Bool := (u.w + 1) % max u.p.ints 1 == 0
def UpdAt.integ (u : UpdAt) : Nat := u.w / max u.p.ints 1

/-- A value read before, with its address range's errors. -/
structure OldMem where
  base : Nat
  bytes : List Byte
  ues : List Nat

/-- The kept entries of a task after the window, with the old ones. -/
def UpdAt.values (u : UpdAt) (o : OldMem) (tau : Nat) (diag : Bool) (x : Done) (lost : Bool) : List (Vis × Vis) :=
  let e0 := entriesBefore u.p.B tau
  let ks := keptOf diag
  (ks.zip (List.range ks.length)).map (fun e =>
    let off := 12 * (e0 + e.2)
    let old : Vis := if u.first then (0, 0) else visOf o.bytes off
    let ue := !u.first && hitUe o.ues (o.base + off) 12
    (old, visUpdate (lost || ue) old (SMap.get (fun _ => (0, 0)) x.tile.acc (64 * e.1.1 + e.1.2))))

/-- The same for the weights of a counted task. -/
def UpdAt.weights (u : UpdAt) (o : OldMem) (tau : Nat) (diag : Bool) (x : Done) (lost : Bool) : List (Nat × Nat) :=
  let e0 := u.p.wBefore u.ch tau
  let ks := keptOf diag
  (ks.zip (List.range ks.length)).map (fun e =>
    let off := 4 * (e0 + e.2)
    let old := if u.first then 0 else leAt o.bytes off 4
    let ue := !u.first && hitUe o.ues (o.base + off) 4
    (old, weightUpdate (lost || ue) old (SMap.get (fun _ => 0) x.tile.cnt (64 * e.1.1 + e.1.2))))

/-- The mirror check of a diagonal task (R131). -/
def Tile.mirrorOk (t : Tile) (counted : Bool) : Bool :=
  let g (a b : Nat) : Int × Int := SMap.get (fun _ => (0, 0)) t.acc (64 * a + b)
  let n (a b : Nat) : Nat := SMap.get (fun _ => 0) t.cnt (64 * a + b)
  (List.range 64).all (fun a => (g a a).2 == 0 && (List.range a).all (fun b =>
    g a b == ((g b a).1, -(g b a).2) && (!counted || n a b == n b a)))

/-- The cell that holds a task of a channel; the later half of a split task where `second`. -/
def Tasks.holder (t : Tasks) (k p q : Nat) (second : Bool) : Nat :=
  (t.set k).findIdx (fun l => l.any (fun e => e.kind == 0 && e.p == p && e.q == q && (!e.split || second == (e.first != 0))))

/-- Count what became a marker or saturated, and raise the events of Tables 6.3 and 6.5. -/
def Core.countMarks (c : Core) (d : Nat) (vs : List (Vis × Vis)) (ws : List (Nat × Nat)) : Core :=
  let ovr := (vs.filter (fun e => e.2 == markOvr && !isMark e.1)).length
  let lost := (vs.filter (fun e => e.2 == markLost && !isMark e.1)).length
  let sat := (ws.filter (fun e => e.2 == 0xFFFFFFFE && e.1 != 0xFFFFFFFE)).length
  let k : PageKind := .cells d
  let c := ((c.inc k 0x070 ovr).inc k 0x074 lost).inc k 0x07C sat
  let c := if lost = 0 then c else c.raise k 1
  let c := if ovr = 0 ∨ (c.xdie d).ovrRaised then c
    else ((c.modX d (fun x => { x with ovrRaised := true })).raise k 0).report k 0x32 clsN 0
  if sat = 0 ∨ (c.xdie d).wsatRaised then c else (c.modX d (fun x => { x with wsatRaised := true })).raise k 3

/-- The mirror check acts (R131): true where the task is lost by it. -/
def Core.mirrorCheck (c : Core) (u : UpdAt) (tau : Nat) (x : Done) : Core × Bool :=
  if bit (c.rd (.cells u.d) 0x044) 0 ∧ x.tile.mirrorOk (u.p.counts u.ch tau) = false then
    (((c.inc (.cells u.d) 0x078).raise (.cells u.d) 2).report (.cells u.d) 0x34 clsS 0, true)
  else (c, false)

/-- An AUTO unit's terms of a diagonal task (R198, R200). -/
def Core.autoTerms (c : Core) (i : Image) (u : UpdAt) (b : Nat) (x : Done) (mask : Nat) : Core :=
  let g := i.redCfg u.d
  if g.kind = 0 ∨ g.source ≠ 1 ∨ u.k < g.chLo ∨ g.chHi < u.k ∨ (u.p.info u.ch).z.isSome then c
  else
    let ss := ((List.range 64).map (fun a => 64 * b + a)).filter (fun s => decide (g.selLo ≤ s ∧ s ≤ g.selHi))
    let inv := (c.xdie u.d).invalid
    let ts := ss.map (fun s =>
      let held := g.opts.testBit 0 && (mask != 0 || SMap.get (fun _ => 0) inv (4096 * u.k + s) != 0)
      let v := (SMap.get (fun _ => (0, 0)) x.tile.acc (65 * (s % 64))).1
      ({ win := u.w, s := s, k := u.k, t := u.w % 2 ^ g.log, isF := false, x := v, excl := x.lost || u.missed || held } : Term))
    c.modX u.d (fun y => { y with red := { y.red with terms := y.red.terms ++ ts } })

/-- The results of an update so far: entries in tile order, weights in tile order, both per task. -/
structure UpdAcc where
  c : Core
  vis : List (List (Vis × Vis)) := []
  wts : List (List (Nat × Nat)) := []

/-- The update of one task. -/
def UpdAt.task (u : UpdAt) (i : Image) (lt wt : OldMem) (mask : Nat) (a : UpdAcc) (e : (Nat × Nat) × Nat) : UpdAcc :=
  let tau := e.2
  let diag := e.1.1 == e.1.2
  let x := SMap.get (fun _ => {}) (a.c.xdie u.d).done (taskKey u.k tau)
  let (c, mir) := if diag && !u.lost then a.c.mirrorCheck u tau x else (a.c, false)
  let c := if diag then c.autoTerms i u e.1.1 x mask else c
  let vs := u.values lt tau diag x (x.lost || u.lost || mir)
  let ws := if u.p.counts u.ch tau then u.weights wt tau diag x (x.lostCount || u.lost) else []
  { c := c.countMarks u.d vs ws, vis := a.vis ++ [vs], wts := a.wts ++ [ws] }

/-! ### Emission (R147 to R154) -/

/-- The bytes of an emitted value in format E or Q. -/
def Plan.emitBytes (p : Plan) (seed : DWord) (ch index integ : Nat) (v : Vis) : List Byte :=
  if p.fmtQ = false then visBytes v
  else if isMark v then
    let m := if v.2 = 1 then 0x7FC00001 else 0x7FC00002
    leBytes 4 m ++ leBytes 4 m
  else
    let a (part : Nat) : Nat := 2 ^ 39 + 2 * (ch * p.nBl + index) + part
    leBytes 4 (qconv seed v.1 (a 0) (integ % 2 ^ 24)) ++ leBytes 4 (qconv seed v.2 (a 1) (integ % 2 ^ 24))

/-- The baselines in canonical order (R150). -/
def Plan.baselines (p : Plan) : List (Nat × Nat) :=
  (List.range p.nIn).flatMap (fun i => (List.range (p.nIn - i)).map (fun j => (i, i + j)))

/-- Place of baseline (i, j) among the kept entries of its task. -/
def keptIdx (i j : Nat) : Nat :=
  let a := i % 64
  let b := j % 64
  if i / 64 = j / 64 then a * 64 - a * (a - 1) / 2 + (b - a) else 64 * a + b

/-- Emit a channel's values into the visibility section. -/
def Core.emitVis (c : Core) (i : Image) (u : UpdAt) (vis : List (List (Vis × Vis))) : Core :=
  let p := u.p
  let bs := (p.baselines.zip (List.range p.nBl)).flatMap (fun e =>
    let v := nth ((0, 0), (0, 0)) (nth [] vis (tauOf p.B (e.1.1 / 64) (e.1.2 / 64))) (keptIdx e.1.1 e.1.2)
    p.emitBytes i.hdr.seed u.ch e.2 u.integ v.2)
  c.hbmStore u.d (p.dumpAddr u.d u.k 0) bs

/-- Emit the weights that a channel counts into the home die's section (R152). -/
def Core.emitWeights (c : Core) (u : UpdAt) (wts : List (List (Nat × Nat))) : Core :=
  let p := u.p
  let nd := c.part.dies
  let unit := p.unitOf u.ch
  let h := p.home nd unit
  (p.baselines.zip (List.range p.nBl)).foldl (fun c e =>
    let tau := tauOf p.B (e.1.1 / 64) (e.1.2 / 64)
    if p.counts u.ch tau then
      c.hbmStore h (p.dumpwAddr nd h unit e.2) (leBytes 4 (nth (0, 0) (nth [] wts tau) (keptIdx e.1.1 e.1.2)).2)
    else c) c

/-- A channel has been emitted; EMIT_DONE once every owned channel of the die has (Table 7.10). -/
def Core.emitted (c : Core) (u : UpdAt) : Core :=
  let c := c.modX u.d (fun x => { x with emit := SMap.set (fun _ => 0) x.emit u.k (u.integ + 1) })
  let n := (u.p.owned c.part.dies u.d).length
  if (List.range n).all (fun k => SMap.get (fun _ => 0) (c.xdie u.d).emit k == u.integ + 1) then
    (c.modX u.d (fun x => { x with emitted := some u.integ })).raise (.xdie u.d) 0
  else c

/-! ### UPDATE -/

/-- Read what an update starts from; nothing in the first window of an integration (R129). -/
def Core.updRead (c : Core) (u : UpdAt) (a n : Nat) : Core × OldMem :=
  if u.first then (c, ⟨a, [], []⟩)
  else let (c, bs, ues) := c.eccRead u.d a n; (c, ⟨a, bs, ues⟩)

/-- The long-term update of a channel (R129, R134, R154). -/
def Core.update (c : Core) (i : Image) (u : UpdAt) (mask : Nat) : Core :=
  let p := u.p
  let nd := c.part.dies
  let (c, lt) := c.updRead u (p.ltAddr u.d u.k 0 0) (12 * p.E)
  let wa := p.wAddr nd u.d u.k u.ch 0 0
  let (c, wt) := c.updRead u wa (4 * p.wBefore u.ch p.T)
  let ts := tasksOf p.B
  let r := (ts.zip (List.range ts.length)).foldl (fun a e => u.task i lt wt mask a e) { c := c }
  let c := r.c
  let overs := match (c.xdie u.d).abandon with
    | some n => decide (n ≤ u.integ)
    | none => false
  let c := if u.last = false then
      (c.hbmStore u.d lt.base (r.vis.flatMap (fun l => l.flatMap (fun e => visBytes e.2)))).hbmStore u.d wa
        (r.wts.flatMap (fun l => l.flatMap (fun e => leBytes 4 e.2)))
    else if overs then c
    else ((c.emitVis i u r.vis).emitWeights u r.wts).emitted u
  c.modX u.d (fun x => { x with
    updWin := some u.w,
    done := SMap.dropRange x.done (4096 * u.k) (4096 * (u.k + 1)),
    invalid := SMap.dropRange x.invalid (4096 * u.k) (4096 * (u.k + 1)),
    lostNext := x.lostNext.filter (· != u.k) })

/-- The channel, its window and that window's mask, that an UPDATE descriptor names. -/
def Core.updAt (c : Core) (i : Image) (d : Nat) (t : ChanterS) (bs : List Byte) : Option (UpdAt × Nat) :=
  let k := (actChan bs t.loops).toNat
  match (i.plan.owned c.part.dies d)[k]? with
  | none => none
  | some ch =>
    let x := SMap.get (fun _ => (0, 0)) (c.xdie d).chanWin k
    let (w, m) := if x.1 = 0 then (t.window, t.mask) else (x.1 - 1, x.2)
    some ({ p := i.plan, d := d, k := k, ch := ch, w := w, lost := (c.xdie d).lostNext.elem k }, m)

/-- UPDATE; an image that does not correlate runs no long-term accumulation (R13). -/
def doUpdate (d : Nat) (fs : List TaskFault) (i : Image) (t : ChanterS) (bs : List Byte) (c : Core) : Core :=
  match c.updAt i d t bs with
  | none => c
  | some (u, m) =>
    if i.correlates = false then c
    else
    let c := fs.foldl (fun c f =>
      match (tasksOf u.p.B)[f.tau]? with
      | none => c
      | some (p, q) =>
        let (c, lost) := c.cellError d ((nth {} i.tasks d).holder u.k p q f.second) f.fault
        if lost then c.loseTask u.p d u.k u.ch u.w f.tau else c) c
    c.update i u m

def execActionUpdate (d : XDie) (faults : List TaskFault) : State → Host.Outcome State Fault Refusal :=
  act (fun c => c.action d.val 1 (doUpdate d.val faults))

/-- The terms of an update that is not made: excluded, for their tasks are lost in the window (R137, R200). -/
def Core.missTerms (c : Core) (i : Image) (u : UpdAt) (mask : Nat) : Core :=
  (List.range u.p.B).foldl (fun c b => c.autoTerms i u b {} mask) c

/-- An UPDATE not complete at its DEADLINE: every task of the channel is lost, now where the write can still be made, else
at the next update (R137). Whether it can is a free value. -/
def missUpdate (d : Nat) (i : Image) (t : ChanterS) (bs : List Byte) (c : Core) : Core :=
  match c.updAt i d t bs with
  | none => c
  | some (u, m) =>
    if i.correlates = false then c
    else
    let c := ((c.inc (.cells d) 0x090).noteFlag d wfLost).report (.cells d) 0x33 clsD (u.p.fineIndex u.ch u.w 0)
    let now := (Config.freeWord c.free).getLsbD 0
    let c := { c with free := c.free + 1 }
    let u := { u with missed := true }
    if now then c.update i { u with lost := true } m
    else (c.missTerms i u m).modX d (fun x => { x with
      lostNext := if x.lostNext.elem u.k then x.lostNext else u.k :: x.lostNext,
      done := SMap.dropRange x.done (4096 * u.k) (4096 * (u.k + 1)),
      invalid := SMap.dropRange x.invalid (4096 * u.k) (4096 * (u.k + 1)) })

end Sys2Proof.Machine
end

