-- ==== Sys2Proof/Machine/Beam.lean ====
section
/-! DEFINITION. Machine/Beam.lean: weight regeneration, BANK_SELECT and BEAM_SWAP (R172 to R180, Table 8.3, Table 11.5). -/

namespace Sys2Proof.Machine

/-! ### REGEN_SLICE (R173, R174) -/

/-- The banks that slice target `t` uses soon: its active one, and with a swap whose fade begins by the end of the next
window, or runs, the other one. -/
def Core.regenBanks (c : Core) (p : Plan) (t w : Nat) : List Bool :=
  let x := c.target t
  match x.swap with
  | some s => if x.fading ∨ s.kap < (w + 2) * p.L / 64 then [x.activeB, !x.activeB] else [x.activeB]
  | none => [x.activeB]

/-- The channel's slice passes that read the buffer cannot start (Table 11.5). -/
def Core.sliceBad (c : Core) (d j : Nat) (bad : Bool) : Core :=
  c.modX d (fun x => { x with bslBad := if bad then (if x.bslBad.elem j then x.bslBad else j :: x.bslBad)
                                        else x.bslBad.filter (· != j) })

/-- A regeneration that was not complete at its DEADLINE is a breach (R268). -/
def Core.regenBreach (c : Core) (d : Nat) (t : ChanterS) (bs : List Byte) : Core :=
  c.breach d .deadline 3 t.pc (t.scyc + actDeadline bs)

/-- REGEN_SLICE. -/
def doRegenSlice (d : Nat) (i : Image) (t : ChanterS) (bs : List Byte) (c : Core) : Core :=
  let p := i.plan
  let j := actTarget bs
  match (p.owned c.part.dies d)[(actChan bs t.loops).toNat]? with
  | none => c
  | some ch =>
    let q := p.info ch
    let fq := beamFq i.beams.fccHz p.pLog (nth 0 p.fc q.c) q.f
    let (c, bad) := (c.regenBanks p (2 * d + j) t.window).foldl (fun (x : Core × Bool) bank =>
      let (c, b) := x.1.bankFetch d (i.beams.bankAddr (2 * d + j) bank) p.nPad q.c 64
      (c.modX d (fun y => y.sliceStore (bslBase j bank) b fq p.nPad), x.2 || b.bad)) (c, false)
    let c := c.sliceBad d j bad
    if bad then c.regenBreach d t bs else c

def execActionRegenSlice (d : XDie) : State → Host.Outcome State Fault Refusal :=
  act (fun c => c.action d.val 8 (doRegenSlice d.val))

/-- REGEN_SLICE not complete. -/
def missRegenSlice (d : Nat) (t : ChanterS) (bs : List Byte) (c : Core) : Core :=
  (c.sliceBad d (actTarget bs) true).regenBreach d t bs

/-! ### REGEN_CELL (R139, R173, R174, R179) -/

/-- The cell bank in force in window `w`. -/
def Core.cellBank (c : Core) (d w wlen : Nat) : Bool :=
  let x := c.target (8 + d)
  match x.swap with
  | some s => if s.kap + s.len / 2 ≤ w * wlen / 64 then !x.activeB else x.activeB
  | none => x.activeB

/-- The cell weights of a channel, by beam and rank. -/
def cellWeights (b : BankData) (pair : Bool) (fq : Int) (nPad : Nat) : List Nat :=
  (List.range b.taus.length).flatMap (fun n =>
    let ts := nth [] b.taus n
    (List.range nPad).map (fun r =>
      if pair ∧ nth 0 b.pols r ≠ n % 2 then 0
      else
        let w := beamWeight (nth 0 b.gains r) (16 + b.shift) 127 (beamRot fq (nth 0 ts r))
        ofInt 8 w.1 + 256 * ofInt 8 w.2))

/-- REGEN_CELL: the table serves the next CELLS of its channel. -/
def doRegenCell (d : Nat) (i : Image) (t : ChanterS) (bs : List Byte) (c : Core) : Core :=
  let p := i.plan
  let k := (actChan bs t.loops).toNat
  match (p.owned c.part.dies d)[k]? with
  | none => c
  | some ch =>
    let w := t.window + (match findCells (i.prog d) (fun op => op.k == k) (2 ^ 20) t 0 with
      | some e => e.2
      | none => 0)
    let q := p.info ch
    let fq := beamFq i.beams.fccHz p.pLog (nth 0 p.fc q.c) q.f
    let (c, b) := c.bankFetch d (i.beams.bankAddr (8 + d) (c.cellBank d w p.L)) p.nPad q.c 896
    let c := c.modX d (fun x => { x with cellW := if b.bad then none else some (k, cellWeights b i.beams.pair fq p.nPad) })
    if b.bad then c.regenBreach d t bs else c

def execActionRegenCell (d : XDie) : State → Host.Outcome State Fault Refusal :=
  act (fun c => c.action d.val 9 (doRegenCell d.val))

/-- REGEN_CELL not complete. -/
def missRegenCell (d : Nat) (t : ChanterS) (bs : List Byte) (c : Core) : Core :=
  (c.modX d (fun x => { x with cellW := none })).regenBreach d t bs

/-! ### BANK_SELECT (R172) -/

/-- BANK_SELECT. -/
def doBankSelect (r : Nat) (d : Desc) (c : Core) : Core :=
  let t := d.arg0 % 16
  if c.bankPlaced t = false then c.finish r stInvalid
  else if c.running then c.finish r stMode
  else (c.modTarget t (fun x => { x with activeB := d.arg0.testBit 4 })).finish r stAccepted

def execBankSelect (r : RingNo) : State → Host.Outcome State Fault Refusal :=
  act (fun c => c.exec r.val 0x06 (doBankSelect r.val))

/-! ### BEAM_SWAP (R177, Table 8.3) -/

/-- A target that the part has and the image uses. -/
def Core.targetUsed (c : Core) (t : Nat) : Bool :=
  c.bankPlaced t && (match c.img with
    | some i => if t < 8 then i.sliceUsed (t % 2) else i.cellsUsed
    | none => false)

/-- The bank that is not active is LOADED. -/
def TargetS.otherLoaded (x : TargetS) : Bool := (if x.activeB then x.a else x.b) == .loaded

/-- The first block of a swap; none where ACT_SPECTRUM is out of range. -/
def Plan.swapBlock (p : Plan) (act : Nat) : Option Nat :=
  if act < p.n0 ∨ (act - p.n0) % 64 ≠ 0 then none else some ((act - p.n0) / 64)

/-- The status of Table 8.3, and κ_a. -/
def Core.swapStatus (c : Core) (mask len act : Nat) : Nat × Nat :=
  let ts := setBits mask 12
  match (if c.running then c.img else none) with
  | none => (stInvalid, 0)
  | some i =>
    match i.plan.swapBlock act with
    | none => (stInvalid, 0)
    | some k =>
      if ts.isEmpty ∨ ts.all c.targetUsed = false ∨ len = 0 ∨ 65536 < len then (stInvalid, k)
      else if ts.any (fun t => (c.target t).swap.isSome && !(c.target t).fading) then (stBusy, k)
      else if ts.any (fun t => (c.target t).fading) then (stFading, k)
      else if ts.any (fun t => !(c.target t).otherLoaded) then (stNotReady, k)
      else if 64 * k / i.plan.L ≤ c.rd64 .crook 0x048 then (stLate, k)
      else (stAccepted, k)

/-- A refused swap: SWAP_REJECT on the named targets' pages and one Notice. -/
def Core.swapRefuse (c : Core) (mask : Nat) : Core :=
  let ps := ((setBits mask 12).filter (fun t => decide (bankDie t < c.part.dies))).map targetPage
  let ps := if ps.isEmpty then [PageKind.bsl 0 0] else ps
  (ps.foldl (fun c k => (c.inc k 0x068).raise k 1) c).report (nth (.bsl 0 0) ps 0) 0x45 clsN 0

/-- BEAM_SWAP. An accepted swap holds its descriptor until its first fade begins or the schedule stops; with the Chanters
stopped already it is dropped at once (R180). -/
def doBeamSwap (r : Nat) (d : Desc) (c : Core) : Core :=
  let mask := d.arg0 % 4096
  let len := bits d.arg0 28 12
  let st := c.swapStatus mask len d.arg1
  if st.1 ≠ stAccepted then (c.swapRefuse mask).finish r st.1
  else if c.power.running = false then c.finish r stAbandoned
  else
    let s : Swap := { mask := mask, act := d.arg1, len := len, ring := r, idx := d.n, kap := st.2 }
    ((setBits mask 12).foldl (fun c t => c.modTarget t (fun x => { x with swap := some s, fading := false, pos := 0 })) c).modRing r
      (fun x => { x with busy := true })

def execBeamSwap (r : RingNo) : State → Host.Outcome State Fault Refusal :=
  act (fun c => c.exec r.val 0x07 (doBeamSwap r.val))

/-- BSL_CLR_CNT (R191). -/
def doBslClrCnt (d : XDie) (j : Fin 2) (c : Core) : Core := c.clear (.bsl d.val j.val) [0x060, 0x064, 0x068, 0x06C, 0x070]

def execBslClrCnt (d : XDie) (j : Fin 2) : State → Host.Outcome State Fault Refusal :=
  regCmd (.bslClrCnt d j) (.bsl d.val j.val) (doBslClrCnt d j)

end Sys2Proof.Machine
end

