-- ==== Sys2Proof/Machine/Drain.lean ====
section
/-! DEFINITION. Machine/Drain.lean: scheduled frame reads, the egress queue and the launch of frames (R155 to R165, R188, R209,
R225, R270, R271). -/

namespace Sys2Proof.Machine

/-! ### Frames that an action reads -/

/-- A frame that an action reads: its fields, payload length, and the read. -/
structure Read where
  frame : Frame
  len : Nat
  read : Core → Core × List Byte × Nat × Bool

/-- A frame before its read. -/
def newFrame (dest type flags : Nat) (hdr : List Byte) : Frame :=
  { dest := dest, type := type, flags := flags, source := 0, tag := 0, seq := 0, launchS := 0, launchNs := 0, hdr := hdr,
    origin := 0, payload := [] }

/-- A payload that lies in die HBM. -/
def hbmPayload (d a n : Nat) (flags : List Byte → Nat) (c : Core) : Core × List Byte × Nat × Bool :=
  let (c, bs, ues) := c.eccRead d a n
  (c, bs, flags bs, !ues.isEmpty)

/-- The S1 READ entries of an action's list, numbered: one frame each (R225). -/
def Image.frameNos (i : Image) (d : Nat) (bs : List Byte) (first : Int) : List Nat :=
  match actList bs with
  | none => []
  | some n =>
    match i.hbmsList d n with
    | none => []
    | some l => (List.range (l.reads.filter (fun e => e.cls == 1)).length).map (fun (k : Nat) => (first + (k : Int)).toNat)

/-- The payload holds a marker of R130 or R149. -/
def hasMarker (fmtQ : Bool) (bs : List Byte) : Bool :=
  if fmtQ then (List.range (bs.length / 8)).any (fun k => let v := leAt bs (8 * k) 4; v == 0x7FC00001 || v == 0x7FC00002)
  else (List.range (bs.length / 12)).any (fun k => leAt bs (12 * k) 6 == 2 ^ 47)

/-- TYPE_HDR of Table 7.3. -/
def visHdr (q chan count first : Nat) : List Byte :=
  leBytes 8 q ++ leBytes 2 chan ++ leBytes 2 count ++ leBytes 4 first

/-- Integration `q` of a die may still leave: it is not the abandoned one or a later one (R157). -/
def XDieS.leaves (x : XDieS) (q : Nat) : Bool :=
  match x.abandon with
  | some n => decide (q < n)
  | none => true

/-- DRAIN_VIS: frames of an owned channel, once emitted (R155, R160, R161). -/
def Core.drainVis (c : Core) (d : Nat) (i : Image) (t : ChanterS) (bs : List Byte) : List Read :=
  let p := i.plan
  let k := (actChan bs t.loops).toNat
  let e := SMap.get (fun _ => 0) (c.xdie d).emit k
  match (p.owned c.part.dies d)[k]? with
  | none => []
  | some ch =>
    if e = 0 ∨ (c.xdie d).leaves (e - 1) = false ∨ i.correlates = false then []
    else
      let q := e - 1
      (i.frameNos d bs (actFrame bs t.loops (p.winIn t.window))).filterMap (fun n =>
        let first := n * 2 ^ p.visLog
        if p.nBl ≤ first then none
        else
          let cnt := min (2 ^ p.visLog) (p.nBl - first)
          let last := p.nBl ≤ first + cnt
          some { frame := newFrame (nth 0 p.dest ch) (if p.fmtQ then 2 else 1)
                   (c.visFlags d q p.ints + fld (b2n (decide last)) 1 1) (visHdr q ch cnt first),
                 len := (pad8 (List.replicate (cnt * p.F) 0)).length,
                 read := hbmPayload d (p.dumpAddr d k first) (cnt * p.F) (fun x => fld (b2n (hasMarker p.fmtQ x)) 1 6) })

/-- DRAIN_W: frames of a local unit, once every channel that counts a task of the unit has been emitted (R132, R151, R152,
R155). -/
def Core.drainW (c : Core) (d : Nat) (i : Image) (t : ChanterS) (bs : List Byte) : List Read :=
  let p := i.plan
  let nd := c.part.dies
  match (p.homeUnits nd d)[(actChan bs t.loops).toNat]? with
  | none => []
  | some u =>
    let es := (List.range (min (p.unitP u) p.T)).map (fun x =>
      let ch := p.unitFirst u + x
      SMap.get (fun _ => 0) (c.xdie (ownerOf nd ch)).emit (localK nd ch))
    let e := nth 0 es 0
    if e = 0 ∨ es.any (fun x => x != e) ∨ (c.xdie d).leaves (e - 1) = false ∨ i.correlates = false then []
    else
      let q := e - 1
      (i.frameNos d bs (actFrame bs t.loops (p.winIn t.window))).filterMap (fun n =>
        let first := n * 16384
        if p.nBl ≤ first then none
        else
          let cnt := min 16384 (p.nBl - first)
          some { frame := newFrame (nth 0 p.dest (p.nCh + u)) 3
                   (c.visFlags d q p.ints + fld (b2n (decide (p.nBl ≤ first + cnt))) 1 1) (visHdr q u cnt first),
                 len := (pad8 (List.replicate (4 * cnt) 0)).length,
                 read := hbmPayload d (p.dumpwAddr nd d u first) (4 * cnt) (fun _ => 0) })

/-- WINFO of the current window (R162, Table 7.5). -/
def Core.winfo (c : Core) (d : Nat) (i : Image) (t : ChanterS) (_ : List Byte) : List Read :=
  let p := i.plan
  let w := t.window
  let pay := leBytes 8 w ++ leBytes 8 (p.n0 + w * p.L) ++ leBytes 8 t.mask ++ leBytes 4 (c.wflagsNow d) ++ leBytes 4 0
  [{ frame := newFrame (nth 0 p.dest (p.nCh + p.nUnits + d)) 4 0 (leBytes 8 (w / max p.ints 1) ++ leBytes 4 (p.winIn w) ++ leBytes 4 0),
     len := 32, read := fun c => (c, pay, 0, false) }]

/-- The frames of an area at the slots that an action names, each unread; `stepped` where INSPECT has held the run (R188, R209,
R227, R249). -/
def areaReads (stepped : Bool) (d : Nat) (i : Image) (t : ChanterS) (bs : List Byte) (base slot nslot : Nat) (area : List AreaFrame) : List Read :=
  (i.frameNos d bs (actFrame bs t.loops (i.plan.winIn t.window))).filterMap (fun n =>
    match area.find? (fun a => a.used && a.addr == base + n % max nslot 1 * slot) with
    | none => none
    | some a => some { frame := newFrame a.dest a.type (a.flags ||| (if stepped then frameContract else 0)) a.hdr, len := a.len, read := hbmPayload d a.addr a.len (fun _ => 0) })

/-- BEAM_READ and RED_READ. -/
def Core.beamReads (c : Core) (d : Nat) (i : Image) (t : ChanterS) (bs : List Byte) : List Read :=
  let b := i.beams
  areaReads c.power.stepped d i t bs (b.area d 0) (b.area d 1) (b.area d 2) (c.xdie d).area
def Core.redReads (c : Core) (d : Nat) (i : Image) (t : ChanterS) (bs : List Byte) : List Read :=
  let b := i.beams
  areaReads c.power.stepped d i t bs (b.area d 3) (b.area d 4) (b.area d 5) (c.xdie d).redArea

/-- The slots that an action reads are read. -/
def readSlots (i : Image) (d : Nat) (t : ChanterS) (bs : List Byte) (base slot nslot : Nat) (area : List AreaFrame) : List AreaFrame :=
  let ads := (i.frameNos d bs (actFrame bs t.loops (i.plan.winIn t.window))).map (fun n => base + n % max nslot 1 * slot)
  area.map (fun a => if ads.elem a.addr then { a with used := false } else a)

def Core.areaRead (c : Core) (d kind : Nat) (i : Image) (t : ChanterS) (bs : List Byte) : Core :=
  let b := i.beams
  if kind = 10 then c.modX d (fun x => { x with area := readSlots i d t bs (b.area d 0) (b.area d 1) (b.area d 2) x.area })
  else if kind = 14 then c.modX d (fun x => { x with redArea := readSlots i d t bs (b.area d 3) (b.area d 4) (b.area d 5) x.redArea })
  else c

/-- The frames of a reading action. -/
def Core.reads (c : Core) (d kind : Nat) (i : Image) (t : ChanterS) (bs : List Byte) : List Read :=
  if kind = 2 then c.drainVis d i t bs
  else if kind = 3 then c.drainW d i t bs
  else if kind = 4 then c.winfo d i t bs
  else if kind = 10 then c.beamReads d i t bs
  else c.redReads d i t bs

/-- INTERVAL_DONE: the last frame of a reduction interval is among those read (Tables 9.4 and 9.8). -/
def Core.intervalDone (c : Core) (d kind : Nat) (rs : List Read) : Core :=
  if kind = 14 ∧ rs.any (fun r => r.frame.flags.testBit 1) then c.raise (.red d) 0 else c

/-- The frames leave HBM for the egress queue, complete at issue + DEADLINE (R163, R270). -/
def Core.readFrames (c : Core) (d kind : Nat) (i : Image) (t : ChanterS) (bs : List Byte) : Core :=
  let rs := c.reads d kind i t bs
  ((rs.foldl (fun c r => c.queueFrame i d r.frame r.len (t.scyc + actDeadline bs) r.read) c).areaRead d kind i t bs).intervalDone d kind rs

/-- The action is not complete at its DEADLINE, a breach: its frames are discarded and keep their SEQ (R156, R268, R269). -/
def Core.missFrames (c : Core) (d kind : Nat) (i : Image) (t : ChanterS) (bs : List Byte) : Core :=
  ((c.reads d kind i t bs).foldl (fun c r =>
    c.missFrame d r.frame.dest r.frame.type r.frame.hdr (t.scyc + actDeadline bs))
      (c.breach d .read 3 t.pc (t.scyc + actDeadline bs))).areaRead d kind i t bs

def execActionDrainVis (d : XDie) : State → Host.Outcome State Fault Refusal :=
  act (fun c => c.action d.val 2 (fun i t bs c => c.readFrames d.val 2 i t bs))

def execActionDrainW (d : XDie) : State → Host.Outcome State Fault Refusal :=
  act (fun c => c.action d.val 3 (fun i t bs c => c.readFrames d.val 3 i t bs))

def execActionWinfo (d : XDie) : State → Host.Outcome State Fault Refusal :=
  act (fun c => c.action d.val 4 (fun i t bs c => c.readFrames d.val 4 i t bs))

def execActionBeamRead (d : XDie) : State → Host.Outcome State Fault Refusal :=
  act (fun c => c.action d.val 10 (fun i t bs c => c.readFrames d.val 10 i t bs))

def execActionRedRead (d : XDie) : State → Host.Outcome State Fault Refusal :=
  act (fun c => c.action d.val 14 (fun i t bs c => c.readFrames d.val 14 i t bs))

/-! ### The head of the queue (R163, Table 7.6) -/

/-- The frame at the head leaves the queue. -/
def Core.popFrame (c : Core) (d : Nat) : Core := c.modX d (fun x => { x with egress := x.egress.drop 1 })

/-- A frame as a packet block on a lane: its CRC, and the packet counter since the last control comma; a control block goes first
after 4 095 of them, and one that a LAUNCH held back follows (R32 to R35, R43, R271). -/
def Core.lanePacket (c : Core) (n : Nat) (f : Frame) : Core :=
  let c := if 4095 ≤ (c.lane n).txK then c.ctrlDue n else c
  let k := (c.lane n).txK + 1
  let bs := withCrc f.bytes
  let held := (c.lane n).ctrlHeld
  let c := (c.modLane n (fun l => { l with txK := k, ctrlHeld := false })).emit (.lanePacket n bs (packetLine n k bs))
  if held then c.ctrlDue n else c

/-- The item of a frame bound for a ring (R370, R373). -/
def Frame.item (f : Frame) : Item :=
  { kind := 0, gen := f.gen, bytes := f.bytes, die := f.origin, from_ := f.dest % 4096 }

/-- A frame that has link credit goes to its ring. -/
def Core.frameRing (c : Core) (d : Nat) (f : Frame) : Core :=
  (c.popFrame d).modRing (f.dest % 4096) (fun x => { x with items := x.items ++ [f.item] })

/-- Stages 6 to 8: the path of the frame at the head. Whether the PCIe link has credit is a free value; without it the
frame holds the head (R271). -/
def Core.framePath (c : Core) (d : Nat) (f : Frame) : Core :=
  if f.dest.testBit 15 then
    if c.host.linkUp = false then (c.popFrame d).framePathDown d f.type f.hdr
    else
      let go := (Config.freeWord c.free).getLsbD 0
      let c := { c with free := c.free + 1 }
      if go then c.frameRing d f
      else c.modX d (fun x => { x with egress := { f with held := true, wait := true } :: x.egress.drop 1 })
  else
    let n := f.dest % 256
    let c := c.popFrame d
    if (c.lane n).st ≠ .up ∧ (c.lane n).st ≠ .recal then c.framePathDown d f.type f.hdr else (c.lanePacket n f).frameSent d f.type f.hdr

/-- FRAME_AT_HEAD: stages 3 to 5. -/
def doFrameAtHead (d : Nat) (c : Core) : Core :=
  match (c.xdie d).egress with
  | [] => c
  | f :: _ =>
    if f.held then c
    else if (f.launch : Int) * 65536 < c.time.atb then
      (if bit (c.rd (.xdie d) 0x208) 0 then (c.popFrame d).frameLateDrop d f.type f.hdr
       else
         let f := { f with flags := f.flags ||| 1 }
         (((c.inc (.xdie d) 0x248).raise (.xdie d) 2).frameNotice d 0x42).framePath d f)
    else c.modX d (fun x => { x with egress := { f with held := true } :: x.egress.drop 1 })

def execFrameAtHead (d : XDie) : State → Host.Outcome State Fault Refusal := act (doFrameAtHead d.val)

/-- FRAME_LAUNCH: the held frame is released once ATB reaches LAUNCH. -/
def doFrameLaunch (d : Nat) (c : Core) : Core :=
  match (c.xdie d).egress with
  | [] => c
  | f :: _ => if f.held = false ∨ f.wait ∨ c.time.atb < (f.launch : Int) * 65536 then c else c.framePath d f

def execFrameLaunch (d : XDie) : State → Host.Outcome State Fault Refusal := act (doFrameLaunch d.val)

/-- PCIE_LINK_CREDIT. -/
def doLinkCredit (d : Nat) (c : Core) : Core :=
  match (c.xdie d).egress with
  | [] => c
  | f :: _ => if f.wait ∧ c.host.linkUp then c.frameRing d { f with wait := false } else c

def execPcieLinkCredit (d : XDie) : State → Host.Outcome State Fault Refusal := act (doLinkCredit d.val)

/-- DUMP_CLR_CNT (R168): the counters, and EGRESS_PEAK from the present level. -/
def doDumpClrCnt (d : XDie) (c : Core) : Core :=
  (c.clear (.xdie d.val) [0x240, 0x244, 0x248, 0x24C, 0x250, 0x254, 0x258, 0x25C, 0x260]).wr (.xdie d.val) 0x234
      (c.egressLevel d.val)

def execDumpClrCnt (d : XDie) : State → Host.Outcome State Fault Refusal :=
  regCmd (.dumpClrCnt d) (.xdie d.val) (doDumpClrCnt d)

end Sys2Proof.Machine
end

