-- ==== Sys2Proof/Machine/Reduce.lean ====
section
/-! DEFINITION. Machine/Reduce.lean: the reduction units: RED_ENTER and RED_CLOSE (R197 to R210). Finalisation is modelled as
one step at RED_CLOSE. -/

namespace Sys2Proof.Machine

/-! ### Configuration -/

/-- Windows of a reduction interval (R199). -/
def Image.redWindows (i : Image) (d : Nat) : Nat :=
  let g := i.redCfg d
  if g.source = 1 then 2 ^ g.log
  else
    let det := match ((List.range g.ns).map (· + g.selLo)).find? (fun b => i.beams.dkind b == (if g.prod = 0 then 1 else 2)) with
      | some b => (i.beams.beam b).det
      | none => 0
    max 1 (2 ^ (g.log + det) / i.plan.L)

/-- The group of a term (R202). -/
def RedCfg.group (g : RedCfg) (x : Term) : Nat :=
  if g.grouping = 0 then 0
  else if g.grouping = 1 then x.s - g.selLo
  else if g.grouping = 2 then x.k - g.chLo
  else (x.s - g.selLo) * g.nk + (x.k - g.chLo)

/-- Frames of an interval: 1 024 records each (R209). -/
def RedCfg.frames (g : RedCfg) : Nat := cdiv g.groups 1024

/-! ### Terms (R201, R203 to R206) -/

/-- The value of a term. -/
def Term.value (x : Term) : Exact := if x.isF then f32Exact x.x.toNat else Exact.ofInt x.x

/-- The index of a term (R203). -/
def Term.index (x : Term) (base : Nat) : Nat := fld x.t 16 24 + fld x.k 14 10 + fld (x.s - base) 10 0

/-- The greater of two reported extrema, the smaller index between equal values; `lt` orders the values. -/
def pickExt (lt : Exact → Exact → Bool) (old : Option (Nat × Nat)) (v : Exact) (idx : Nat) : Option (Nat × Nat) :=
  match old with
  | none => some (f64OfExact v, idx)
  | some (o, oi) =>
    if lt (f64Exact o) v then some (f64OfExact v, idx)
    else if lt v (f64Exact o) then some (o, oi)
    else some (o, min oi idx)

/-- The address of a moment sum (R205). -/
def redAddr (d kind j group : Nat) : Nat := 2 ^ 37 ||| (d <<< 35) ||| (kind <<< 34) ||| ((j % 2 ^ 21) <<< 13) ||| group

/-- The shift of a group before its first term of an interval (R206). -/
def RedCfg.shift (g : RedCfg) (x : RedGrp) : Option Nat :=
  match x.c with
  | some c => some c
  | none => if g.opts.testBit 2 then some g.cInit else none

/-- A term enters its group (R203, R204). -/
def RedGrp.enter (x : RedGrp) (g : RedCfg) (seed : DWord) (d j group : Nat) (t : Term) : RedGrp :=
  let v := t.value
  if g.kind = 1 then
    let idx := t.index (if g.source = 1 then g.selLo else 0)
    { x with n := x.n + 1, max := pickExt (fun a b => a.lt b) x.max v idx, min := pickExt (fun a b => b.lt a) x.min v idx }
  else
    let c := (g.shift x).getD (f64OfExact v)
    let e := v.sub (f64Exact c)
    { x with n := x.n + 1, c := some c, s1 := x.s1.add seed (redAddr d 0 j group) 0 e,
             s2 := x.s2.add seed (redAddr d 1 j group) 0 (e.mul e) }

/-- The place of a channel in the die's TASK channel order. -/
def Image.chanPos (i : Image) (d k : Nat) : Nat := (nth {} i.tasks d).order.findIdx (fun e => e.1 == k)

/-- Term `a` enters before term `b` (R201). -/
def Image.before (i : Image) (d : Nat) (a b : Term) : Bool :=
  let ka := i.chanPos d a.k
  let kb := i.chanPos d b.k
  decide (a.win < b.win ∨ (a.win = b.win ∧ (ka < kb ∨ (ka = kb ∧ (a.t < b.t ∨ (a.t = b.t ∧ a.s < b.s))))))

/-- The terms of the interval in accumulation, and the others. -/
def Core.dueTerms (c : Core) (i : Image) (d : Nat) : List Term × List Term :=
  let r := (c.xdie d).red
  let n := i.redWindows d
  (sortBy (i.before d) (r.terms.filter (fun x => x.win / n == r.interval)), r.terms.filter (fun x => x.win / n != r.interval))

/-- Sums of a unit that a predicate holds for. -/
def sumsOf (m : SMap RedGrp) (p : RSum → Bool) : Nat := sumL (m.map (fun e => b2n (p e.2.s1) + b2n (p e.2.s2)))

/-- Count what lapsed or saturated; the first of an interval is raised and noticed (Tables 9.7 and 9.8). -/
def Core.redFlag (c : Core) (d off irq kind before after : Nat) : Core :=
  let c := c.inc (.red d) off (after - before)
  if before = 0 ∧ after ≠ 0 then (c.raise (.red d) irq).report (.red d) kind clsN 0 else c

/-! ### RED_ENTER -/

/-- RED_ENTER (R200 to R206); nothing enters an abandoned interval (R208). -/
def doRedEnter (d : Nat) (i : Image) (c : Core) : Core :=
  let g := i.redCfg d
  let (due, rest) := c.dueTerms i d
  let r := (c.xdie d).red
  if c.power.mode = .quiesce ∨ g.kind = 0 then c.modX d (fun x => { x with red := { x.red with terms := [] } })
  else
    let m := due.foldl (fun m t =>
      let n := g.group t
      SMap.mod (fun _ => {}) m n (fun x => if t.excl then { x with part := true } else x.enter g i.hdr.seed d r.interval n t)) r.groups
    let c := c.modX d (fun x => { x with red := { x.red with groups := m, terms := rest } })
    let k : PageKind := .red d
    let c := (c.inc64 k 0x058 (due.filter (fun t => !t.excl)).length).inc k 0x060 (due.filter (fun t => t.excl)).length
    let c := c.redFlag d 0x064 1 0x46 (sumsOf r.groups RSum.lapsed) (sumsOf m RSum.lapsed)
    c.redFlag d 0x068 2 0x47 (sumsOf r.groups RSum.ovf) (sumsOf m RSum.ovf)

def execActionRedEnter (d : XDie) : State → Host.Outcome State Fault Refusal :=
  act (fun c => c.action d.val 12 (fun i _ _ c => doRedEnter d.val i c))

/-- A breach that the unit's frame of the interval shows. -/
def Core.redBreach (c : Core) (d : Nat) (t : ChanterS) (bs : List Byte) : Core :=
  (c.breach d .deadline 3 t.pc (t.scyc + actDeadline bs)).modX d (fun x =>
    { x with red := { x.red with flags := SMap.mod (fun _ => 0) x.red.flags x.red.interval (fun f => f ||| 4) } })

/-- RED_ENTER not complete: its terms are missed (R208). -/
def missRedEnter (d : Nat) (i : Image) (t : ChanterS) (bs : List Byte) (c : Core) : Core :=
  let g := i.redCfg d
  let (due, rest) := c.dueTerms i d
  let k : PageKind := .red d
  let c := c.modX d (fun x => { x with red := { x.red with terms := rest, groups := due.foldl (fun m t =>
    SMap.mod (fun _ => {}) m (g.group t) (fun y => { y with part := true })) x.red.groups } })
  let c := (c.inc k 0x074 (due.filter (fun t => !t.excl)).length).inc k 0x060 (due.filter (fun t => t.excl)).length
  ((c.raise k 4).report k 0x48 clsD 0).redBreach d t bs

/-! ### RED_CLOSE -/

/-- MEAN, VAR and CLAMPED of a group with shift `c` (R207). -/
def RedGrp.final (x : RedGrp) (c : Nat) : Nat × Nat × Bool :=
  if x.n = 0 then (nan64, nan64, false)
  else
    let n := f64OfNat x.n
    let s1 := f64OfF32 x.s1.s
    let mean := f64Add c (f64Div s1 n)
    if x.n = 1 then (mean, nan64, false)
    else
      let v := f64Div (f64Sub (f64OfF32 x.s2.s) (f64Div (f64Mul s1 s1) n)) (f64OfNat (x.n - 1))
      if f64Neg v then (mean, 0, true) else (mean, v, false)

/-- RFLAGS (R210); C_HOST in the records of interval 0. -/
def RedGrp.rflags (x : RedGrp) (g : RedCfg) (j : Nat) (clamped : Bool) : Nat :=
  b2n (x.n == 0) + fld (b2n x.s1.lapsed) 1 1 + fld (b2n x.s2.lapsed) 1 2 + fld (b2n x.s1.ovf) 1 3 + fld (b2n x.s2.ovf) 1 4 +
  fld (b2n clamped) 1 5 + fld (b2n (g.kind == 2 && g.opts.testBit 2 && j == 0)) 1 6 + fld (b2n x.part) 1 7

/-- A record (Tables 9.5 and 9.6); `c` is the shift shown. -/
def RedGrp.record (x : RedGrp) (g : RedCfg) (j n c : Nat) : List Byte :=
  if g.kind = 1 then
    let hi := x.max.getD (nan64, 2 ^ 40 - 1)
    let lo := x.min.getD (nan64, 2 ^ 40 - 1)
    leBytes 4 n ++ leBytes 4 (x.rflags g j false) ++ leBytes 8 x.n ++ leBytes 8 hi.1 ++ leBytes 8 hi.2 ++ leBytes 8 lo.1 ++
      leBytes 8 lo.2
  else
    let (mean, var, cl) := x.final c
    leBytes 4 n ++ leBytes 4 (x.rflags g j cl) ++ leBytes 8 x.n ++ leBytes 4 x.s1.s ++ leBytes 4 x.s2.s ++
      leBytes 1 x.s1.hwe ++ leBytes 1 x.s2.hwe ++ leBytes 6 0 ++ leBytes 8 c ++ leBytes 8 mean ++ leBytes 8 var

/-- The group's shift in the next interval (R206). -/
def RedGrp.next (x : RedGrp) (g : RedCfg) : RedGrp :=
  match g.shift x with
  | none => {}
  | some c => { c := some (if x.n ≠ 0 ∧ x.s1.ovf = false then (x.final c).1 else c) }

/-- MAX of a group reaches EVENT_THRESH (R209). -/
def RedGrp.event (x : RedGrp) (g : RedCfg) : Bool :=
  g.kind == 1 && (match x.max with
    | some (v, _) => f64Le g.thresh v
    | none => false)

/-- The windows' flags of an interval that is closed while window `w` runs. -/
def Core.redWflags (c : Core) (d n j : Nat) : Nat :=
  let t := c.chanter d
  SMap.get (fun _ => 0) (c.xdie d).red.flags j |||
  (if t.window / n = j then c.wflagsNow d ||| fld (b2n (t.mask != 0)) 1 16 else 0)

/-- FLAGS of a frame that carries the given groups (Table 9.4). -/
def redFrameFlags (g : RedCfg) (wf j : Nat) (last : Bool) (xs : List RedGrp) : Nat :=
  let any (p : RedGrp → Bool) : Nat := b2n (xs.any p)
  fld (b2n last) 1 1 + fld (g.opts / 2) 1 2 + fld (any (fun x => x.part)) 1 3 + fld (wf / 2) 1 4 + fld (wf / 4) 1 5 +
  fld (wf / 8) 1 6 + fld wf 1 7 + fld (wf / 2 ^ 16) 1 8 + fld (b2n (j == 0)) 1 9 +
  fld (any (fun x => x.s1.lapsed || x.s2.lapsed)) 1 10 + fld (any (fun x => x.s1.ovf || x.s2.ovf)) 1 11

/-- TYPE_HDR of a frame (Table 9.3). -/
def RedCfg.hdr (g : RedCfg) (j first n : Nat) : List Byte :=
  leBytes 8 j ++ leBytes 2 first ++ leBytes 2 n ++ leBytes 1 (fld g.kind 2 0 + fld g.source 1 2 + fld g.grouping 2 3 + fld g.prod 3 5) ++
  leBytes 1 g.log ++ leBytes 2 0

/-- Cut a list in pieces of 1 024, at least one. -/
def chunks1024 {α : Type} (l : List α) : List (List α) :=
  (List.range (max 1 (cdiv l.length 1024))).map (fun n => (l.drop (1024 * n)).take 1024)

/-- The frames of a closed interval go to the reduction area (R188, R208, R209). -/
def Core.redStore (c : Core) (i : Image) (d j wf : Nat) (recs : List (Nat × RedGrp × List Byte)) : Core :=
  let g := i.redCfg d
  let b := i.beams
  let fs := chunks1024 recs
  (List.range fs.length).foldl (fun c n =>
    let f := nth [] fs n
    let first := match f with
      | e :: _ => e.1
      | [] => 0
    let addr := b.area d 3 + (j * g.frames + n) % max (b.area d 5) 1 * b.area d 4
    let bs := pad8 (f.flatMap (fun e => e.2.2))
    let a : AreaFrame := { addr := addr, len := bs.length, type := 0x1F + g.kind,
                           flags := redFrameFlags g wf j (n + 1 == fs.length) (f.map (fun e => e.2.1)), dest := g.dest,
                           hdr := g.hdr j first f.length }
    (c.hbmStore d addr bs).modX d (fun x => { x with redArea := x.redArea.filter (fun y => y.addr != addr) ++ [a] })) c

/-- RED_CLOSE: the interval closes, the banks switch, the groups are finalised and the frames written; an abandoned interval
emits nothing, and one that had closed before QUIESCE completes its report (R208). A shift that no term has set is a free value,
and so is the time that finalisation takes within its 16 384 cycles (DESIGN CHOICE, notes/assumptions/100.md). -/
def doRedClose (d : Nat) (i : Image) (c : Core) : Core :=
  let g := i.redCfg d
  let r := (c.xdie d).red
  if (c.power.mode = .quiesce ∧ r.closing = false) ∨ g.kind = 0 then c
  else
    let k : PageKind := .red d
    let j := r.interval
    let wf := c.redWflags d (i.redWindows d) j
    let at_ (n : Nat) : RedGrp := SMap.get (fun _ => {}) r.groups n
    let all := (List.range g.groups).map (fun n =>
      let x := at_ n
      let sh := (g.shift x).getD ((Config.freeWord (c.free + 2 * n)).toNat + 2 ^ 32 * (Config.freeWord (c.free + 2 * n + 1)).toNat)
      (n, x, x.record g j n sh))
    let recs := if g.opts.testBit 1 then all.filter (fun e => e.2.1.event g) else all
    let next := (List.range g.groups).foldl (fun m n => SMap.set (fun _ => {}) m n ((at_ n).next g)) []
    let time := (Config.freeWord (c.free + 2 * g.groups)).toNat % 16385
    let c := { c with free := c.free + 2 * g.groups + 1 }.redStore i d j wf recs
    let c := (c.inc k 0x070 recs.length).inc k 0x06C (if g.kind = 2 then
      (all.filter (fun e => (e.2.1.final ((g.shift e.2.1).getD 0)).2.2)).length else 0)
    let c := c.modX d (fun x => { x with red := { x.red with
      bank := !r.bank, interval := j + 1, groups := next, flags := SMap.erase x.red.flags j, closing := false,
      finTo := (c.chanter d).scyc + time } })
    if all.any (fun e => e.2.1.event g) then c.raise k 3 else c

def execActionRedClose (d : XDie) : State → Host.Outcome State Fault Refusal :=
  act (fun c => c.action d.val 13 (fun i _ _ c => doRedClose d.val i c))

/-- RED_CLOSE not complete: a breach that its frames show. -/
def missRedClose (d : Nat) (i : Image) (t : ChanterS) (bs : List Byte) (c : Core) : Core := doRedClose d i (c.redBreach d t bs)

/-- The end of a window enters its flags into those of its interval. -/
def Core.redWindow (c : Core) (i : Image) (d : Nat) : Core :=
  let t := c.chanter d
  if (i.redCfg d).kind = 0 then c
  else
    let f := c.wflagsNow d ||| fld (b2n (t.mask != 0)) 1 16
    c.modX d (fun x => { x with red := { x.red with
      flags := SMap.mod (fun _ => 0) x.red.flags (t.window / i.redWindows d) (fun y => y ||| f) } })

/-- RED_CLR_CNT (R213). -/
def doRedClrCnt (d : XDie) (c : Core) : Core := c.clear (.red d.val) [0x060, 0x064, 0x068, 0x06C, 0x070, 0x074]

def execRedClrCnt (d : XDie) : State → Host.Outcome State Fault Refusal :=
  regCmd (.redClrCnt d) (.red d.val) (doRedClrCnt d)

end Sys2Proof.Machine
end

