-- ==== Sys2Proof/Machine/Contract.lean ====
section
/-! DEFINITION. Machine/Contract.lean: WINDOW_END and the misses of MOVEs and actions (R247, R268, R286, Table 11.5). -/

namespace Sys2Proof.Machine

/-! ### Duty (R286, R287) -/

/-- The largest duty under the ceiling. -/
def Core.dutyCeil (c : Core) (w : Nat) : Nat :=
  let top := c.ceiling * 1000
  if top < c.pBase then 0 else if c.dP w = 0 then c.sReg else min c.sReg ((top - c.pBase) / c.dP w)

/-- Steps of `dp` that a credit buys, at most `n`. -/
def buys (credit dp n : Nat) : Nat := if dp = 0 then n else min n (credit / dp)

/-- DUTY_UPDATE for window `w`: DUTY_MAX lowers the duty at once, the ceiling and QUIESCE by down-credit; a rise takes
credit. -/
def Core.dutyUpdate (c : Core) (w : Nat) : Core :=
  let dp := c.dP w
  let top := c.dutyCeil w
  let a := min c.power.duty c.dutyMax
  let want := if c.power.mode = .quiesce then 0 else min c.dutyMax top
  let c := if c.power.mode ≠ .quiesce ∧ top < c.dutyMax then c.raise .pwr 4 else c
  if want < a then
    let n := buys c.power.down dp (a - want)
    c.modPower (fun p => { p with duty := a - n, down := p.down - n * dp })
  else
    let n := buys c.power.credit dp (want - a)
    c.modPower (fun p => { p with duty := a + n, credit := p.credit - n * dp })

/-- The mask for the next window goes to the X Chanters. -/
def Core.sendMask (c : Core) : Core :=
  let m := maskFor c.sReg c.power.duty
  (List.range c.part.dies).foldl (fun c x => c.modChanter x (fun t => { t with maskNext := m })) c

/-! ### WINDOW_END (R247, R281) -/

/-- The boundary of the leading Chanter: duty, mask, and the stop where drains and ramp have ended. -/
def doWindowEndIo (t : ChanterS) (c : Core) : Core :=
  let w := t.window + 1
  let c := c.modChanter 4 (fun t => { t with window := w })
  let c := (c.dutyUpdate w).sendMask
  if c.power.mode = .quiesce ∧ c.power.duty = 0 ∧ c.drainsDone then c.chantersStop else c

/-- The boundary of an X Chanter: the flags of the window that ends, the mask latched, the cells' bank. A mask that came
late is taken as all ones. -/
def doWindowEndX (d : Nat) (late : Bool) (i : Image) (t : ChanterS) (c : Core) : Core :=
  let w := t.window + 1
  let c := (c.redWindow i d).winrecNext d i.plan.ints
  let c := if late then c.breach d .mask 4 t.pc t.scyc else c
  let m := if late then 2 ^ i.plan.Sreg - 1 else (c.chanter d).maskNext
  let n := (setBits m i.plan.Sreg).length
  let c := (c.modChanter d (fun t => { t with window := w, mask := m })).inc (.cells d) 0x080 n
  let c := if w % max i.plan.ints 1 = 0 then
      c.modX d (fun x => { x with noticed := [], ovrRaised := false, wsatRaised := false, vsatRaised := [] })
    else c
  c.cellFade d w i.plan.L

/-- WINDOW_END. -/
def doWindowEnd (x : Nat) (late : Bool) (c : Core) : Core :=
  c.issue x 0x10 (fun i t _ c => if x = 4 then doWindowEndIo t c else doWindowEndX x late i t c)

def execWindowEnd (x : Chip) (late : Bool) : State → Host.Outcome State Fault Refusal := act (doWindowEnd x.val late)

/-! ### Actions not complete at their DEADLINE (Table 11.5) -/

/-- The consequence of a missed action. -/
def missAction (d kind : Nat) (i : Image) (t : ChanterS) (bs : List Byte) (c : Core) : Core :=
  if kind = 1 then (missUpdate d i t bs c).breach d .deadline 3 t.pc (t.scyc + actDeadline bs)
  else if kind = 8 then missRegenSlice d t bs c
  else if kind = 9 then missRegenCell d t bs c
  else if kind = 12 then missRedEnter d i t bs c
  else if kind = 13 then missRedClose d i t bs c
  else c.missFrames d kind i t bs

/-- A missed action: the next one of the Chanter, whose instruction issues at its cycle. -/
def doMissAction (d : Nat) (c : Core) : Core :=
  (([1, 2, 3, 4, 8, 9, 10, 12, 13, 14] : List Nat).find? (fun k => (c.atAction d k).isSome)).elim c
    (fun k => c.action d k (fun i t bs c => missAction d k i t bs c))

def execContractDeadlineMiss (d : XDie) (mover : Option (Fin 8)) : State → Host.Outcome State Fault Refusal :=
  act (fun c => match mover with
    | some m => doMoveMiss d.val m.val c
    | none => doMissAction d.val c)

end Sys2Proof.Machine
end

