-- ==== Sys2Proof/Machine/Crypto.lean ====
section
/-! DEFINITION. Machine/Crypto.lean: SHA-384 (R218, R219, R435) and ECDSA P-384 verification (R219, R435).
The constants are those of the named standards; the spec names the standards only (PRESUMED, notes/assumptions/17.md). -/

namespace Sys2Proof.Machine

/-- The 80 round constants of SHA-384. -/
def shaK : List DWord :=
  [0x428A2F98D728AE22, 0x7137449123EF65CD, 0xB5C0FBCFEC4D3B2F, 0xE9B5DBA58189DBBC, 0x3956C25BF348B538, 0x59F111F1B605D019, 0x923F82A4AF194F9B, 0xAB1C5ED5DA6D8118] ++
  [0xD807AA98A3030242, 0x12835B0145706FBE, 0x243185BE4EE4B28C, 0x550C7DC3D5FFB4E2, 0x72BE5D74F27B896F, 0x80DEB1FE3B1696B1, 0x9BDC06A725C71235, 0xC19BF174CF692694] ++
  [0xE49B69C19EF14AD2, 0xEFBE4786384F25E3, 0x0FC19DC68B8CD5B5, 0x240CA1CC77AC9C65, 0x2DE92C6F592B0275, 0x4A7484AA6EA6E483, 0x5CB0A9DCBD41FBD4, 0x76F988DA831153B5] ++
  [0x983E5152EE66DFAB, 0xA831C66D2DB43210, 0xB00327C898FB213F, 0xBF597FC7BEEF0EE4, 0xC6E00BF33DA88FC2, 0xD5A79147930AA725, 0x06CA6351E003826F, 0x142929670A0E6E70] ++
  [0x27B70A8546D22FFC, 0x2E1B21385C26C926, 0x4D2C6DFC5AC42AED, 0x53380D139D95B3DF, 0x650A73548BAF63DE, 0x766A0ABB3C77B2A8, 0x81C2C92E47EDAEE6, 0x92722C851482353B] ++
  [0xA2BFE8A14CF10364, 0xA81A664BBC423001, 0xC24B8B70D0F89791, 0xC76C51A30654BE30, 0xD192E819D6EF5218, 0xD69906245565A910, 0xF40E35855771202A, 0x106AA07032BBD1B8] ++
  [0x19A4C116B8D2D0C8, 0x1E376C085141AB53, 0x2748774CDF8EEB99, 0x34B0BCB5E19B48A8, 0x391C0CB3C5C95A63, 0x4ED8AA4AE3418ACB, 0x5B9CCA4F7763E373, 0x682E6FF3D6B2B8A3] ++
  [0x748F82EE5DEFB2FC, 0x78A5636F43172F60, 0x84C87814A1F0AB72, 0x8CC702081A6439EC, 0x90BEFFFA23631E28, 0xA4506CEBDE82BDE9, 0xBEF9A3F7B2C67915, 0xC67178F2E372532B] ++
  [0xCA273ECEEA26619C, 0xD186B8C721C0C207, 0xEADA7DD6CDE0EB1E, 0xF57D4F7FEE6ED178, 0x06F067AA72176FBA, 0x0A637DC5A2C898A6, 0x113F9804BEF90DAE, 0x1B710B35131C471B] ++
  [0x28DB77F523047D84, 0x32CAAB7B40C72493, 0x3C9EBE0A15C9BEBC, 0x431D67C49C100D4C, 0x4CC5D4BECB3E42B6, 0x597F299CFC657E2A, 0x5FCB6FAB3AD6FAEC, 0x6C44198C4A475817]

/-- The initial hash value of SHA-384. -/
def shaH : List DWord :=
  [0xCBBB9D5DC1059ED8, 0x629A292A367CD507, 0x9159015A3070DD17,
   0x152FECD8F70E5939, 0x67332667FFC00B31, 0x8EB44A8768581511, 0xDB0C2E0D64F98FA7, 0x47B5481DBEFA4FA4]

/-- Big-endian 64-bit words of a byte list. -/
def shaWords : Nat → List Byte → List DWord
  | 0, _ => []
  | n + 1, bs => BitVec.ofNat 64 (beNat (slice bs 0 8)) :: shaWords n (bs.drop 8)

/-- The message schedule runs along the rounds: the list holds the 16 words from round `t` on. -/
def shaNext (w : List DWord) : List DWord :=
  let g := fun i => nth 0#64 w i
  let s0 := (g 1).rotateRight 1 ^^^ (g 1).rotateRight 8 ^^^ ((g 1) >>> 7)
  let s1 := (g 14).rotateRight 19 ^^^ (g 14).rotateRight 61 ^^^ ((g 14) >>> 6)
  w.drop 1 ++ [g 0 + s0 + g 9 + s1]

/-- The rounds over the remaining constants. -/
def shaRounds : List DWord → List DWord → List DWord → List DWord
  | [], _, h => h
  | k :: ks, w, h =>
    let g := fun i => nth 0#64 h i
    let e := g 4
    let a := g 0
    let s1 := e.rotateRight 14 ^^^ e.rotateRight 18 ^^^ e.rotateRight 41
    let ch := (e &&& g 5) ^^^ (~~~e &&& g 6)
    let t1 := g 7 + s1 + ch + k + nth 0#64 w 0
    let s0 := a.rotateRight 28 ^^^ a.rotateRight 34 ^^^ a.rotateRight 39
    let maj := (a &&& g 1) ^^^ (a &&& g 2) ^^^ (g 1 &&& g 2)
    shaRounds ks (shaNext w) [t1 + s0 + maj, a, g 1, g 2, g 3 + t1, e, g 5, g 6]

/-- The compression of `n` 128-byte blocks. -/
def shaBlocks : Nat → List Byte → List DWord → List DWord
  | 0, _, h => h
  | n + 1, bs, h =>
    shaBlocks n (bs.drop 128) (List.zipWith (· + ·) h (shaRounds shaK (shaWords 16 bs) h))

/-- SHA-384 of a byte string, 48 bytes. -/
def sha384 (m : List Byte) : List Byte :=
  let z := (239 - m.length % 128) % 128
  let p := m ++ [0x80] ++ List.replicate z 0 ++ (leBytes 16 (8 * m.length)).reverse
  ((shaBlocks (p.length / 128) p shaH).flatMap (fun w => (leBytes 8 w.toNat).reverse)).take 48

/-- The prime, the coefficient b, the order and the base point of P-384. -/
def p384P : Nat := 2 ^ 384 - 2 ^ 128 - 2 ^ 96 + 2 ^ 32 - 1
def p384B : Nat := 0xB3312FA7E23EE7E4988E056BE3F82D19181D9C6EFE8141120314088F5013875AC656398D8A2ED19D2A85C8EDD3EC2AEF
def p384N : Nat := 0xFFFFFFFFFFFFFFFFFFFFFFFFFFFFFFFFFFFFFFFFFFFFFFFFC7634D81F4372DDF581A0DB248B0A77AECEC196ACCC52973
def p384Gx : Nat := 0xAA87CA22BE8B05378EB1C71EF320AD746E1D3B628BA79B9859F741E082542A385502F25DBF55296C3A545E3872760AB7
def p384Gy : Nat := 0x3617DE4A96262C6F5D9E98BF9292DC29F8F41DBD289A147CE9DA3113B5F0B8C00A60B1CE1D7E819D7A431D7C90EA0E5F

/-- `b ^ e mod m` over the low `n` bits of `e`. -/
def powMod (m : Nat) : Nat → Nat → Nat → Nat
  | 0, _, _ => 1 % m
  | n + 1, b, e =>
    let r := powMod m n (b * b % m) (e / 2)
    if e % 2 = 1 then b * r % m else r

/-- Inverse modulo a prime below 2^384. -/
def invMod (m a : Nat) : Nat := powMod m 384 (a % m) (m - 2)

/-- Subtraction modulo the field prime. -/
def subP (a b : Nat) : Nat := (a + (p384P - b % p384P)) % p384P

/-- Addition of curve points, `none` the point at infinity. -/
def ecAdd : Option (Nat × Nat) → Option (Nat × Nat) → Option (Nat × Nat)
  | none, q => q
  | p, none => p
  | some (x1, y1), some (x2, y2) =>
    if x1 = x2 ∧ (y1 + y2) % p384P = 0 then none
    else
      let l := if x1 = x2 then subP (3 * x1 * x1) 3 * invMod p384P (2 * y1) % p384P
               else subP y2 y1 * invMod p384P (subP x2 x1) % p384P
      let x3 := subP (subP (l * l) x1) x2
      some (x3, subP (l * subP x1 x3) y1)

/-- `k` times a point, over the low `n` bits of `k`. -/
def ecMul : Nat → Nat → Option (Nat × Nat) → Option (Nat × Nat)
  | 0, _, _ => none
  | n + 1, k, p =>
    let r := ecMul n (k / 2) (ecAdd p p)
    if k % 2 = 1 then ecAdd p r else r

/-- (r, s) is a valid ECDSA P-384 signature of the hash under the key (qx, qy) (R219, R435). -/
def ecdsaOk (hash : List Byte) (qx qy r s : Nat) : Bool :=
  let onCurve := qx < p384P ∧ qy < p384P ∧
    (qy * qy) % p384P = (qx * qx * qx + (p384P - 3) * qx + p384B) % p384P
  if onCurve ∧ 0 < r ∧ r < p384N ∧ 0 < s ∧ s < p384N then
    let w := invMod p384N s
    let u1 := beNat (slice hash 0 48) * w % p384N
    let u2 := r * w % p384N
    match ecAdd (ecMul 384 u1 (some (p384Gx, p384Gy))) (ecMul 384 u2 (some (qx, qy))) with
    | none => false
    | some (x, _) => decide (x % p384N = r)
  else false

end Sys2Proof.Machine
end

