-- ==== Sys2Proof/Machine/ImageParse.lean ====
section
/-! DEFINITION. Machine/ImageParse.lean: the bytes of an Ilrik image: preamble, directory, sections and their tables, with the
SIZE and FORMAT checks (R214 to R216, R219, R221 to R228, Table 10.14). -/

namespace Sys2Proof.Machine

/-- A failed check: REASON, the directory entry, and the byte offset where the spec determines one. -/
structure ImgFail where
  reason : Nat
  entry : Nat := 0xFF
  off : Option Nat := none
deriving DecidableEq, Repr

/-- The first failure of a list of checks. -/
def firstFail : List (Option ImgFail) → Option ImgFail
  | [] => none
  | some f :: _ => some f
  | none :: r => firstFail r

/-- A check that fails with `f` where `ok` does not hold. -/
def need (ok : Bool) (f : ImgFail) : Option ImgFail := if ok then none else some f

/-! ### Preamble and directory (R214, R215) -/

/-- Section IDs, four ASCII characters as a little-endian number (Table 10.3). -/
def idHdr : Nat := 0x20524448
def idDgst : Nat := 0x54534744
def idSign : Nat := 0x4E474953
def idPlan : Nat := 0x4E414C50
def idFram : Nat := 0x4D415246
def idTask : Nat := 0x4B534154
def idMove : Nat := 0x45564F4D
def idHbms : Nat := 0x534D4248
def idBeam : Nat := 0x4D414542
def idPowr : Nat := 0x52574F50
def idCntr : Nat := 0x52544E43
def idInit : Nat := 0x54494E49

/-- A directory entry with its number and its section's bytes. -/
structure Sect where
  no : Nat
  id : Nat
  die : Nat
  off : Nat
  len : Nat
  bytes : List Byte
deriving DecidableEq, Repr

/-- NSECT. -/
def imgNsect (b : List Byte) : Nat := leAt b 10 2

/-- The directory. -/
def imgSects (b : List Byte) : List Sect :=
  (List.range (imgNsect b)).map (fun n =>
    let e := 64 + 32 * n
    let off := leAt b (e + 8) 8
    let len := leAt b (e + 16) 8
    { no := n, id := leAt b e 4, die := leAt b (e + 4) 1, off := off, len := len, bytes := (b.drop off).take len })

/-- The section of an ID and DIE. -/
def findSect (ss : List Sect) (id die : Nat) : Option Sect := ss.find? (fun s => s.id == id && s.die == die)

/-- The sections in the order of Table 10.3, the optional ones where they are present. -/
def imgOrder (nd : Nat) (sign beam init : Bool) : List (Nat × Nat) :=
  let per (id : Nat) : List (Nat × Nat) := (List.range nd).map (fun d => (id, d))
  [(idHdr, 0xFF), (idDgst, 0xFF)] ++ (if sign then [(idSign, 0xFF)] else []) ++ [(idPlan, 0xFF), (idFram, 7)] ++
  per idFram ++ per idTask ++ per idMove ++ per idHbms ++ (if beam then [(idBeam, 0xFF)] else []) ++
  [(idPowr, 0xFF), (idCntr, 0xFF)] ++ (if init then [(idInit, 0xFF)] else [])

/-- The length of the common part of two lists. -/
def commonLen : List (Nat × Nat) → List (Nat × Nat) → Nat
  | a :: as, b :: bs => if a = b then commonLen as bs + 1 else 0
  | _, _ => 0

/-- SIZE (order 1): IMAGE_LEN within R214 and equal to the loaded extent. -/
def checkSize (b : List Byte) (extent : Nat) : Option ImgFail :=
  let n := leAt b 16 8
  need (n % 64 == 0 && decide (n ≤ 33554432) && n == extent) { reason := 1, off := some 16 }

/-- A FORMAT failure outside every section. -/
def fmtAt (off : Nat) : ImgFail := { reason := 2, off := some off }

/-- The preamble (Table 10.1). -/
def checkPreamble (b : List Byte) : Option ImgFail :=
  firstFail [need (leAt b 0 8 == 0x47414D494B524C49) (fmtAt 0), need (leAt b 8 2 == 1) (fmtAt 8),
    need (decide (4 ≤ imgNsect b ∧ imgNsect b ≤ 64)) (fmtAt 10), need (leAt b 12 4 == 64) (fmtAt 12),
    need (zeroAt b 24 40) (fmtAt 24), need (decide (64 + 32 * imgNsect b ≤ b.length)) (fmtAt 10)]

/-- Two sections share no byte. -/
def Sect.apart (s t : Sect) : Bool := decide (s.off + s.len ≤ t.off ∨ t.off + t.len ≤ s.off) || s.len == 0 || t.len == 0

/-- The directory entries, the order of sections, and the bytes between and after them. -/
def checkDir (nd : Nat) (b : List Byte) : Option ImgFail :=
  let ss := imgSects b
  let has (id : Nat) : Bool := ss.any (fun s => s.id == id)
  let exp := imgOrder nd (has idSign) (has idBeam) (has idInit)
  let got := ss.map (fun s => (s.id, s.die))
  let dirEnd := 64 + 32 * ss.length
  let covered (p : Nat) : Bool := decide (p < dirEnd) || ss.any (fun s => decide (s.off ≤ p ∧ p < s.off + s.len))
  firstFail (ss.map (fun s =>
      let e := 64 + 32 * s.no
      firstFail [need (zeroAt b (e + 5) 3) (fmtAt (e + 5)), need (zeroAt b (e + 24) 8) (fmtAt (e + 24)),
        need (s.off % 64 == 0 && decide (dirEnd ≤ s.off)) (fmtAt (e + 8)),
        need (decide (s.off + s.len ≤ b.length)) (fmtAt (e + 16)),
        need ((ss.take s.no).all (fun t => t.apart s)) (fmtAt (e + 8))]) ++
    [need (got == exp) (fmtAt (64 + 32 * commonLen got exp)),
     match (b.zip (List.range b.length)).find? (fun e => e.1 != 0 && !covered e.2) with
     | some e => some (fmtAt e.2)
     | none => none])

/-! ### Records (R221, R227) -/

/-- A record of PLAN or BEAM, with its offset in the section. -/
structure Rec where
  at_ : Nat
  tag : Nat
  die : Nat
  pay : List Byte
deriving DecidableEq, Repr

/-- Split a section into records; the offset of a record that breaks the header's rules ends it. -/
def splitRecs : Nat → List Byte → Nat → List Rec × Option Nat
  | 0, _, _ => ([], none)
  | f + 1, b, o =>
    if b.isEmpty then ([], none)
    else
      let len := leAt b 4 4
      if b.length < 8 ∨ leAt b 3 1 ≠ 0 ∨ len % 8 ≠ 0 ∨ b.length < 8 + len then ([], some o)
      else
        let (rs, e) := splitRecs f (b.drop (8 + len)) (o + 8 + len)
        ({ at_ := o, tag := leAt b 0 2, die := leAt b 2 1, pay := (b.drop 8).take len } :: rs, e)

def sectRecs (s : Sect) : List Rec × Option Nat := splitRecs (s.len / 8 + 1) s.bytes 0

/-- The payload of the record of a tag and DIE. -/
def recPay (rs : List Rec) (tag die : Nat) : List Byte :=
  match rs.find? (fun r => r.tag == tag && r.die == die) with
  | some r => r.pay
  | none => []

/-! ### HDR (Table 10.4) -/

def parseHdr (b : List Byte) : Hdr :=
  { device := leAt b 2 2, mode := leAt b 4 1, fref := leAt b 5 1, kxNum := leAt b 8 4, kxDen := leAt b 12 4,
    kfNum := leAt b 16 4, kfDen := leAt b 20 4, mX := leAt b 24 4, mF := leAt b 28 4, seed := BitVec.ofNat 64 (leAt b 32 8),
    frameX := leAt b 40 4, frameF := leAt b 44 4, fpw := leAt b 48 4 }

/-- R216. -/
def checkHdr (s : Sect) : Option ImgFail :=
  let b := s.bytes
  let f (o : Nat) : ImgFail := { reason := 2, entry := s.no, off := some o }
  firstFail [need (s.len == 64) (f 0), need (leAt b 0 2 == 1) (f 0), need (decide (1 ≤ leAt b 4 1 ∧ leAt b 4 1 ≤ 6)) (f 4),
    need (decide (leAt b 5 1 ≤ 1)) (f 5), need (zeroAt b 6 2) (f 6)]

/-! ### PLAN (Table 10.6) -/

/-- `n` signed little-endian values of `w` bytes. -/
def sleList (b : List Byte) (off w n : Nat) : List Int := (List.range n).map (fun i => sleAt b (off + w * i) w)
def leList (b : List Byte) (off w n : Nat) : List Nat := (List.range n).map (fun i => leAt b (off + w * i) w)

def parseZoom (b : List Byte) : Zoom :=
  { fe := leAt b 0 1, slot := leAt b 1 1, preset := leAt b 2 1, src := leAt b 3 1, ftw := sleAt b 4 4, pzLog := leAt b 8 1,
    zgain := leAt b 9 1, hz := sleList b 16 4 (presetT (leAt b 2 1)) }

/-- The streams of a map entry (R63). -/
def mapStreams (e : Nat) : List MapEnt :=
  (List.range (bits e 31 24 + 1)).map (fun i =>
    { lane := bits e 7 0, pos := bits e 47 32 + i, group := bits e 15 8, ch := bits e 22 16 + i })

/-- The working copy of PLAN; `start` is set at a schedule start where PLAN holds 0 (R221). -/
def parsePlan (nd : Nat) (rs : List Rec) : Plan :=
  let t := recPay rs 1 0xFF
  let c := recPay rs 2 0xFF
  let o := recPay rs 5 0xFF
  let m := recPay rs 4 0xFF
  let d := recPay rs 6 0xFF
  let pN := 2 ^ (leAt c 0 1)
  { start := leAt t 0 8, start0 := leAt t 0 8, d0 := leAt t 8 4, horizon := leAt t 12 4, fillLat := leAt t 16 4,
    lLog := leAt t 20 1, pLog := leAt c 0 1, pfb := leAt c 1 1, rq := leAt c 2 1, fft := leAt c 3 1, coarse := leAt c 8 16,
    inputs := leAt c 24 512, h := sleList c 536 4 (8 * pN), fc := sleList c (536 + 32 * pN) 8 128,
    zooms := (rs.filter (fun r => r.tag == 3)).map (fun r => parseZoom r.pay),
    map := (leList m 0 8 (m.length / 8)).flatMap mapStreams, ints := leAt o 0 4, fmtQ := leAt o 4 1 == 1,
    visLog := leAt o 5 1, delay := leAt o 8 4, dest := leList d 0 2 (d.length / 2),
    regions := (List.range nd).map (fun x => leList (recPay rs 7 x) 0 8 5) }

/-- Payload length and reserved bytes of a PLAN record. -/
def planRecOk (nd : Nat) (p : Plan) (r : Rec) : Bool :=
  let b := r.pay
  if r.tag = 1 then b.length == 24 && zeroAt b 21 3 && decide (10 ≤ leAt b 20 1 ∧ leAt b 20 1 ≤ 16)
  else if r.tag = 2 then b.length == 1560 + 32 * 2 ^ (leAt b 0 1) && zeroAt b 4 4
  else if r.tag = 3 then
    let n := 16 + 4 * presetT (leAt b 2 1)
    b.length == cdiv n 8 * 8 && zeroAt b 10 6 && zeroAt b n 8
  else if r.tag = 4 then (leList b 0 8 (b.length / 8)).all (fun e => !bit e 23 && bits e 63 48 == 0)
  else if r.tag = 5 then b.length == 16 && zeroAt b 6 2 && zeroAt b 12 4
  else if r.tag = 6 then
    let n := 2 * (p.nCh + p.nUnits + nd)
    b.length == cdiv n 8 * 8 && zeroAt b n 8
  else b.length == 48 && zeroAt b 40 8

/-- How often a PLAN record may appear, and under which DIE. -/
def planTagsOk (nd mode : Nat) (rs : List Rec) : Bool :=
  let n (t : Nat) : Nat := (rs.filter (fun r => r.tag == t)).length
  let z := n 3
  ([1, 2, 4, 5, 6] : List Nat).all (fun t => n t == 1) && n 7 == nd &&
  (List.range nd).all (fun d => rs.any (fun r => r.tag == 7 && r.die == d)) &&
  rs.all (fun r => decide (1 ≤ r.tag ∧ r.tag ≤ 7) && (r.tag == 7 || r.die == 0xFF)) &&
  (if mode = 4 then decide (1 ≤ z ∧ z ≤ 16) else z == 0)

/-- R221. -/
def checkPlanFormat (nd mode : Nat) (s : Sect) : Option ImgFail :=
  let (rs, bad) := sectRecs s
  let f (o : Option Nat) : ImgFail := { reason := 2, entry := s.no, off := o }
  match bad with
  | some o => some (f (some o))
  | none =>
    let p := parsePlan nd rs
    firstFail [need (planTagsOk nd mode rs) (f none),
      match rs.find? (fun r => !planRecOk nd p r) with
      | some r => some (f (some r.at_))
      | none => none]

/-! ### BEAM (Table 10.11) -/

def parseOut (b : List Byte) (o : Nat) : BeamOut :=
  { vkind := leAt b o 1, dkind := leAt b (o + 1) 1, vrows := leAt b (o + 2) 1, det := leAt b (o + 3) 1,
    vdest := leAt b (o + 4) 2, ddest := leAt b (o + 6) 2, shX := leAt b (o + 8) 1, shY := leAt b (o + 9) 1,
    scX := leAt b (o + 10) 2, scY := leAt b (o + 12) 2 }

/-- A reduction entry (Table 9.2). -/
def parseRed (b : List Byte) : RedCfg :=
  { kind := leAt b 0 1, source := leAt b 1 1, grouping := leAt b 2 1, log := leAt b 3 1, prod := leAt b 4 1, opts := leAt b 5 1,
    selLo := leAt b 8 2, selHi := leAt b 10 2, chLo := leAt b 12 2, chHi := leAt b 14 2, dest := leAt b 16 2,
    cInit := leAt b 24 8, thresh := leAt b 32 8 }

/-- BEAM_BASE, BEAM_SLOT, BEAM_NSLOT, RED_BASE, RED_SLOT, RED_NSLOT. -/
def parseArea (b : List Byte) : List Nat :=
  [leAt b 0 8, leAt b 8 4, leAt b 12 4, leAt b 16 8, leAt b 24 4, leAt b 28 4]

/-- Pieces of 64 bytes. -/
def pieces64 (b : List Byte) : List (List Byte) := (List.range (b.length / 64)).map (fun n => (b.drop (64 * n)).take 64)

def parseBeam (rs : List Rec) : BeamSec :=
  let g := recPay rs 0x101 0xFF
  let o := recPay rs 0x102 0xFF
  let per {α : Type} (tag : Nat) (f : List Byte → α) : List (Nat × α) :=
    (rs.filter (fun r => r.tag == tag)).map (fun r => (r.die, f r.pay))
  { fccHz := leAt g 0 4, pair := leAt g 4 1 == 1, fullOnly := leAt g 5 1 == 1,
    outs := if o.isEmpty then [] else (List.range 1024).map (fun n => parseOut o (16 * n)),
    reds := per 0x103 parseRed, banks := per 0x104 (fun b => leList b 0 8 6), areas := per 0x105 parseArea,
    actions := per 0x106 pieces64 }

/-- Payload length and reserved bytes of a BEAM record. -/
def beamRecOk (r : Rec) : Bool :=
  let b := r.pay
  if r.tag = 0x101 then b.length == 16 && zeroAt b 6 10
  else if r.tag = 0x102 then b.length == 16384 && (List.range 1024).all (fun n => zeroAt b (16 * n + 14) 2)
  else if r.tag = 0x103 then b.length == 64
  else if r.tag = 0x104 then b.length == 48
  else if r.tag = 0x105 then b.length == 32
  else b.length % 64 == 0

/-- An output entry is in use. -/
def BeamSec.forms (b : BeamSec) : Bool := b.outs.any (fun o => o.vkind != 0 || o.dkind != 0)

/-- The tags that the functions in use need: beams GLOBAL, OUTPUT, and BANKS, AREAS and ACTIONS of every die; a unit its die's
AREAS and ACTIONS, and with SOURCE BEAM the tags of beams too. The entry of a unit that the part lacks is left to R211. -/
def beamTagsOk (nd : Nat) (rs : List Rec) : Bool :=
  let b := parseBeam rs
  let has (t d : Nat) : Bool := rs.any (fun r => r.tag == t && r.die == d)
  rs.all (fun r => decide (0x101 ≤ r.tag ∧ r.tag ≤ 0x106) &&
    (if r.tag ≤ 0x102 then r.die == 0xFF else decide (r.die < (if r.tag = 0x103 then 4 else nd))) &&
    (rs.filter (fun q => q.tag == r.tag && q.die == r.die)).length == 1) &&
  (!b.forms || has 0x101 0xFF && (List.range nd).all (fun d => has 0x104 d && has 0x105 d && has 0x106 d)) &&
  b.reds.all (fun e => e.2.kind == 0 || decide (nd ≤ e.1) || has 0x105 e.1 && has 0x106 e.1 &&
    (e.2.source != 0 || has 0x101 0xFF && has 0x102 0xFF && has 0x104 e.1))

/-- R227. -/
def checkBeamFormat (nd mode : Nat) (s : Option Sect) : Option ImgFail :=
  match s with
  | none => need (decide (mode ≠ 2 ∧ mode ≠ 3 ∧ mode ≠ 5)) { reason := 2 }
  | some s =>
    let (rs, bad) := sectRecs s
    let f (o : Option Nat) : ImgFail := { reason := 2, entry := s.no, off := o }
    match bad with
    | some o => some (f (some o))
    | none =>
      firstFail [need (beamTagsOk nd rs) (f none),
        match rs.find? (fun r => !beamRecOk r) with
        | some r => some (f (some r.at_))
        | none => none]

/-! ### The other sections (R222, R223, R226, R228) -/

def parseProg (b : List Byte) : Prog := { instrs := leList b 16 8 (leAt b 0 4), first := leAt b 8 8 }

/-- A cell task entry (Table 6.1). -/
def parseTask (e : Nat) : TaskEnt :=
  { p := bits e 5 0, q := bits e 11 6, slot := bits e 14 12, kind := bits e 15 15, first := bits e 21 16, last := bits e 27 22,
    split := bit e 28, partner := bits e 37 29 }

/-- Bytes of a set with `n` entries. -/
def setBytes (n : Nat) : Nat := 8 + 384 * 4 + 8 * n

/-- The sets of a TASK section from its bytes on: each set's entries by cell, where CELL_DIR stays within it. -/
def parseSets : Nat → List Byte → List (List (List TaskEnt))
  | 0, _ => []
  | n + 1, b =>
    let k := leAt b 0 4
    let es := (leList b (8 + 384 * 4) 8 k).map parseTask
    let cells := (leList b 8 4 384).map (fun v => (es.drop (v % 65536)).take (v / 65536))
    cells :: parseSets n (b.drop (setBytes k))

def parseTasks (b : List Byte) : Tasks :=
  let n := leAt b 4 4
  { order := (leList b 16 4 n).map (fun v => (bits v 13 0, bits v 31 16)), sets := parseSets (leAt b 0 4) (b.drop (16 + 4 * n)) }

def parseList (b : List Byte) (o : Nat) : HbmsList :=
  { stride := sleList b (o + 8) 8 4,
    entries := (List.range (leAt b o 4)).map (fun n =>
      let e := o + 40 + 16 * n
      let op := leAt b (e + 4) 1
      { delay := leAt b e 4, write := op.testBit 0, cls := bits op 2 1, space := bits op 4 3, len := leAt b (e + 6) 2,
        addr := leAt b (e + 8) 8 }) }

def parseHbms (b : List Byte) : List HbmsList := (leList b 8 8 (leAt b 0 4)).map (parseList b)

def parsePowr (b : List Byte) : Powr :=
  let nseg := leAt b 4 4
  let segs := (List.range nseg).map (fun n => (leAt b (32 + 8 * n) 4, leAt b (36 + 8 * n) 4))
  let v := maxL (segs.map (fun s => s.1 + s.2))
  { slotF := leAt b 0 4, segs := segs, vals := leList b (32 + 8 * nseg) 2 v,
    avgs := leList b (32 + 8 * nseg + 2 * v) 2 (leAt b 8 4), rep := leAt b 12 4 }

/-- The bytes of a section, empty where it is absent. -/
def sectBytes (ss : List Sect) (id die : Nat) : List Byte :=
  match findSect ss id die with
  | some s => s.bytes
  | none => []

/-- The working copies of an image (R232). -/
def parseImage (nd : Nat) (b : List Byte) : Image :=
  let ss := imgSects b
  let per {α : Type} (id : Nat) (f : List Byte → α) : List α := (List.range nd).map (fun d => f (sectBytes ss id d))
  let progs := per idFram parseProg
  { len := leAt b 16 8, tag := leAt (sectBytes ss idDgst 0xFF) 0 4, hdr := parseHdr (sectBytes ss idHdr 0xFF),
    plan := match findSect ss idPlan 0xFF with
      | some s => parsePlan nd (sectRecs s).1
      | none => {},
    progs := (progs ++ List.replicate (4 - nd) {}) ++ [parseProg (sectBytes ss idFram 7)],
    tasks := per idTask parseTasks, moves := per idMove pieces64, hbms := per idHbms parseHbms,
    beam := (findSect ss idBeam 0xFF).map (fun s => parseBeam (sectRecs s).1), powr := parsePowr (sectBytes ss idPowr 0xFF) }

/-! ### FORMAT (order 2) -/

/-- A section's fixed length. -/
def lenIs (ss : List Sect) (id n : Nat) : Option ImgFail :=
  match findSect ss id 0xFF with
  | some s => need (s.len == n) { reason := 2, entry := s.no, off := some 0 }
  | none => none

/-- R219: the reserved bytes of SIGN. -/
def signReserved (ss : List Sect) : Option ImgFail :=
  match findSect ss idSign 0xFF with
  | some s => need (zeroAt s.bytes 1 7) { reason := 2, entry := s.no, off := some 1 }
  | none => none

/-- FORMAT. -/
def checkFormat (nd : Nat) (b : List Byte) : Option ImgFail :=
  match firstFail [checkPreamble b, checkDir nd b] with
  | some f => some f
  | none =>
    let ss := imgSects b
    let mode := leAt (sectBytes ss idHdr 0xFF) 4 1
    firstFail [(findSect ss idHdr 0xFF).bind checkHdr, lenIs ss idDgst 48, lenIs ss idSign 200, signReserved ss,
      (findSect ss idPlan 0xFF).bind (checkPlanFormat nd mode), checkBeamFormat nd mode (findSect ss idBeam 0xFF),
      lenIs ss idCntr 32]

end Sys2Proof.Machine
end

