-- ==== Sys2Proof/Machine/Walk.lean ====
section
/-! DEFINITION. Machine/Walk.lean: what the programs of an image do from T0 on: issues, scheduled requests, cell passes and
frames (R234 to R240, R254, R256, R270). The load checks, the budgets and the start checks read them. -/

namespace Sys2Proof.Machine

/-! ### Issues -/

/-- An issue: the Chanter before its instruction, and the instruction. -/
structure Iss where
  t : ChanterS
  ins : Nat

def Iss.cyc (s : Iss) : Nat := s.t.scyc
def Iss.op (s : Iss) : Nat := insOp s.ins

/-- The Chanter after an instruction, its frame and window counters with it. -/
def ChanterS.walked (t : ChanterS) (i : Nat) : ChanterS :=
  let u := t.advance i
  { u with frame := u.frame + b2n (insOp i == 0x0F), window := u.window + b2n (insOp i == 0x10) }

/-- The issues of a program before cycle `e`; every step takes a cycle of the fuel. -/
def walkFrom (pr : Prog) (e : Nat) : Nat → ChanterS → List Iss
  | 0, _ => []
  | f + 1, t =>
    if e ≤ t.scyc ∨ t.st = .halted then []
    else
      match pr.at t.pc with
      | none => []
      | some i => ⟨t, i⟩ :: walkFrom pr e f (t.walked i)

/-- The Chanter at cycle `e`. -/
def walkTo (pr : Prog) (e : Nat) : Nat → ChanterS → ChanterS
  | 0, t => t
  | f + 1, t =>
    if e ≤ t.scyc ∨ t.st = .halted then t
    else
      match pr.at t.pc with
      | none => t
      | some i => walkTo pr e f (t.walked i)

/-- What the loop structure of the instructions that can be reached shows: legal or not; HALT's cycle where it is reached; for a
program without end the cycle in which its endless body starts and the cycles of a pass; the address where the reading ends. -/
structure ProgScan where
  ok : Bool
  pc : Nat
  halt : Option Nat := none
  loop : Option (Nat × Nat) := none

/-- The loop structure (R235, R237). The stack holds COUNT and the cycle the body starts. -/
def scanProg : List Nat → Nat → List (Nat × Nat) → Nat → ProgScan
  | [], pc, _, _ => { ok := false, pc := pc }
  | i :: r, pc, st, cyc =>
    let op := insOp i
    if op = 63 then { ok := true, pc := pc, halt := some cyc }
    else if op = 3 then
      let n := bits i 31 0
      if 4 ≤ st.length ∨ (n = 0 ∧ st ≠ []) then { ok := false, pc := pc } else scanProg r (pc + 1) ((n, cyc + 1) :: st) (cyc + 1)
    else if op = 4 then
      match st with
      | [] => { ok := false, pc := pc }
      | (n, s) :: t =>
        if n = 0 then { ok := true, pc := pc, loop := some (s, cyc - s + 1) } else scanProg r (pc + 1) t (s + n * (cyc - s + 1))
    else scanProg r (pc + 1) st (cyc + insLen i)

/-- The loop structure of a Chanter's program. -/
def Image.scan (i : Image) (x : Nat) : ProgScan := scanProg (i.prog x).instrs 0 [] 0

/-- The least common multiple of a list, 0 counting as 1. -/
def lcmL (l : List Nat) : Nat := l.foldl (fun a b => Nat.lcm a (max b 1)) 1

/-- The Chanters of a part: the X dies, then the IO die. -/
def chantersOf (nd : Nat) : List Nat := List.range nd ++ [4]

/-- Windows of one pass of a program's endless body. -/
def Image.passWindows (i : Image) (x : Nat) : Nat :=
  match (i.scan x).loop with
  | some (_, p) => cdiv p (max (i.hdr.fpw * i.dieFrame x) 1)
  | none => 1

/-- Windows after which every scheduled address recurs: w mod 2, w mod m, the intervals of reductions and detections, the
slot rotations (R254), and the passes of every program. -/
def Image.period (i : Image) (nd : Nat) : Nat :=
  lcmL ([2, i.plan.ints] ++ (List.range nd).map i.redWindows ++ i.beams.outs.map (fun o => 2 ^ o.det / i.plan.L) ++
    (chantersOf nd).map i.passWindows) *
  lcmL ((List.range nd).flatMap (fun d => [i.beams.area d 2, i.beams.area d 5]))

/-- 32 ms in die cycles (R260). -/
def Image.ms32 (i : Image) (x : Nat) : Nat := (i.dieClk x).1 * 4 / ((i.dieClk x).2 * 125)

/-- The start transient and two periods of windows, in cycles. -/
def Image.spanCycles (i : Image) (nd x : Nat) : Nat := (2 + 2 * i.period nd) * i.hdr.fpw * i.dieFrame x

/-- The end of a walk: a program that halts is walked to its HALT; one without end to the start of its endless body, three
passes, the start transient, two periods, and one span of R260 beyond. From there on every pass repeats but for the index of
depth 0, whose last values `Image.lateWalk` takes. DEDUCED, notes/assumptions/40.md -/
def Image.walkEnd (i : Image) (nd x : Nat) : Nat :=
  let base := (i.prog x).first + i.spanCycles nd x + i.ms32 x
  match (i.scan x).halt, (i.scan x).loop with
  | some c, _ => c + 1
  | none, some (a, p) => base + a + 3 * p
  | none, none => base

/-- The issues of Chanter `x`. -/
def Image.walk (i : Image) (nd x : Nat) : List Iss :=
  let e := i.walkEnd nd x
  walkFrom (i.prog x) e (e + 1) { st := .running }

/-- The issues of a program without end in the passes before its endless loop's index wraps (R237), over the same span. -/
def Image.lateWalk (i : Image) (nd x : Nat) : List Iss :=
  match (i.scan x).loop with
  | none => []
  | some (a, p) =>
    let pr := i.prog x
    let t := walkTo pr a (a + 1) { st := .running }
    let u := walkTo pr (a + p) (p + 1) t
    let n := min (cdiv (i.spanCycles nd x) (max p 1)) (2 ^ 32)
    let k := 2 ^ 32 - n
    walkFrom pr (a + p * 2 ^ 32) (p * n + 1) { t with
      loops := t.loops.map (fun l => { l with index := k }), scyc := a + p * k,
      frame := t.frame + k * (u.frame - t.frame), window := t.window + k * (u.window - t.window) }

/-- The issues of an opcode. -/
def ofOp (op : Nat) (l : List Iss) : List Iss := l.filter (fun s => s.op == op)

/-- The descriptor that an issue names. -/
def Image.descOf (i : Image) (d : Nat) (s : Iss) : Option (List Byte) :=
  if s.op = 5 then i.move d (bits s.ins 23 0) else i.actionOf d s.ins

/-- The issues of action descriptors of a KIND, with the descriptor. -/
def Image.actsOf (i : Image) (d kind : Nat) (l : List Iss) : List (Iss × List Byte) :=
  l.filterMap (fun s => if s.op = 8 ∨ s.op = 9 ∨ s.op = 10 then
    (match i.actionOf d s.ins with
     | some bs => if descKind bs = kind then some (s, bs) else none
     | none => none) else none)

/-! ### Scheduled requests (R256) -/

/-- A scheduled request: the cycle of its first unit, and the cycles over which a mover spreads its units. -/
structure Req where
  iss : Iss
  space : Nat
  write : Bool
  s1 : Bool
  addr : Nat
  len : Nat
  cyc : Nat
  span : Nat

/-- Units of 64 B: cycle and address. -/
def Req.units (r : Req) : List (Nat × Nat) :=
  let n := r.len / 64
  (List.range n).map (fun k => (r.cyc + k * r.span / n, r.addr + 64 * k))

/-- The entries of a list with their slot cycles (R226). -/
def slotsFrom : Nat → List HbmsEnt → List (HbmsEnt × Nat)
  | _, [] => []
  | t, e :: es => (e, t + e.delay) :: slotsFrom (t + e.delay) es

/-- The requests of a list issued by `s`. -/
def Image.listReqs (i : Image) (d : Nat) (s : Iss) (n : Nat) : List Req :=
  match i.hbmsList d n with
  | none => []
  | some l => (slotsFrom (s.cyc + 1) l.entries).map (fun e =>
      { iss := s, space := e.1.space, write := e.1.write, s1 := e.1.cls == 1, addr := l.addr e.1 s.t.loops, len := 64 * e.1.len,
        cyc := e.2, span := 0 })

/-- The requests of an issue. -/
def Image.reqs (i : Image) (d : Nat) (s : Iss) : List Req :=
  if s.op = 5 then
    match i.descOf d s with
    | none => []
    | some bs =>
      let r (write : Bool) (sp a : Nat) : Req :=
        { iss := s, space := sp, write := write, s1 := false, addr := a, len := mvLen bs, cyc := s.cyc + 1, span := mvDeadline bs - 1 }
      [r false (mvSpaces bs % 16) (mvSrc bs s.t.loops), r true (mvSpaces bs / 16) (mvDst bs s.t.loops)]
  else if s.op = 7 then i.listReqs d s (bits s.ins 23 0)
  else
    match (i.descOf d s).bind actList with
    | some n => i.listReqs d s n
    | none => []

/-- The units of a request in die HBM: cycle and die HBM address; `sz` is W_SIZE of the die. -/
def Image.hbmUnits (i : Image) (sz d : Nat) (r : Req) : List (Nat × Nat) :=
  if r.space = 0 then r.units
  else if r.space = 1 then r.units.map (fun u => (u.1, i.plan.stageIn sz d r.iss.t.window u.2))
  else []

/-! ### Frames -/

/-- A frame that the schedule sends: the cycle in which its read completes, its slot read, FRAME_LEN and destination. -/
structure SFrame where
  die : Nat
  issue : Nat
  read : Nat
  done : Nat
  len : Nat
  dest : Nat

/-- A frame written into an area: when its writing ends, its slot, FRAME_LEN and destination. -/
structure SWrite where
  cyc : Nat
  slot : Nat
  len : Nat
  dest : Nat

/-- FRAME_LEN of a payload (R158). -/
def frameLen (n : Nat) : Nat := 64 + cdiv n 8 * 8

/-- Frame lengths and destinations that row `s` of channel block `g` completes, in the order of Machine/Cells.lean: the
slices where `sl`, then the cell blocks where `cells` (R181 to R188). -/
def Image.rowFrames (i : Image) (g s : Nat) (sl cells : Bool) : List (Nat × Nat) :=
  let b := i.beams
  let nch := (i.plan.blockChans g).length
  let det (blk : Nat) : List (Nat × Nat) :=
    match b.detBeams blk, (b.detBeams blk).getLast? with
    | b0 :: _, some b1 =>
      let o := b.beam b0
      let n := (b1 + 1 - b0) * nch
      let np := if o.dkind = 1 then 1 else 4
      if (s + 1) % 2 ^ o.det = 0 then [(frameLen (5 * np * n + 4 * n), o.ddest)] else []
    | _, _ => []
  (if sl then (List.range 2).flatMap (fun j =>
      (b.sliceBeams j).filterMap (fun n =>
        let o := b.beam n
        let rows := 2 ^ o.vrows
        if o.vkind ≠ 0 ∧ (s + 1) % rows = 0 then some (frameLen (nch * rows * 4 * o.vkind + nch * 2 * (rows / 8)), o.vdest)
        else none) ++ det j)
    else []) ++
  (if cells then (List.range 14).flatMap (fun x => det (2 + x)) else [])

/-- The beam frames of a die, in the order written, with those a CELLS completes taken as written at the end of its passes
(R188): a block completes with the last of its channels. -/
def Image.beamWrites (i : Image) (nd d : Nat) (l : List Iss) : List SWrite :=
  let p := i.plan
  let nslot := max (i.beams.area d 2) 1
  let cells := (ofOp 6 l).filterMap (fun s =>
    let op := cellsOp s.ins s.t.loops
    match (p.owned nd d)[op.k]? with
    | some ch => if ch < p.nReg then some (s, op, ch) else none
    | none => none)
  let all := (cells.zip (List.range cells.length)).flatMap (fun e =>
    let (s, op, ch) := e.1
    let g := ch / 8
    let same := (cells.take e.2).filter (fun x => x.1.t.window == s.t.window && x.2.1.s == op.s && x.2.2 / 8 == g)
    if same.length + 1 < (p.blockChans g).length then []
    else (List.range (p.sbRows ch)).flatMap (fun t =>
      (i.rowFrames g (s.t.window * p.L + op.s * 1024 + t) op.slices true).map (fun f => (s.cyc + 1 + i.cellsTime nd d op, f))))
  (all.zip (List.range all.length)).map (fun e => { cyc := e.1.1, slot := e.2 % nslot, len := e.1.2.1, dest := e.1.2.2 })

/-- The search event frames of a die (R208, R209): each closed interval, at the end of its RED_CLOSE. -/
def Image.redWrites (i : Image) (d : Nat) (l : List Iss) : List SWrite :=
  let g := i.redCfg d
  let nslot := max (i.beams.area d 5) 1
  let rec_ := if g.kind = 1 then 48 else 56
  let closes := i.actsOf d 13 l
  (closes.zip (List.range closes.length)).flatMap (fun e =>
    (List.range g.frames).map (fun n =>
      { cyc := e.1.1.cyc + actDeadline e.1.2, slot := (e.2 * g.frames + n) % nslot,
        len := frameLen (min 1024 (g.groups - 1024 * n) * rec_), dest := g.dest }))

/-- The frame in a slot at a cycle: the last written there. -/
def slotAt (ws : List SWrite) (slot cyc : Nat) : Option SWrite :=
  (ws.filter (fun w => w.slot == slot && decide (w.cyc ≤ cyc))).getLast?

/-- Lengths and destinations of the frames that an action reads, by entry (R160, R162, R225). -/
def Image.actFrames (i : Image) (nd d : Nat) (bw rw : List SWrite) (s : Iss) (bs : List Byte) (n cyc : Nat) : Option (Nat × Nat) :=
  let p := i.plan
  let k := (actChan bs s.t.loops).toNat
  let f := (actFrame bs s.t.loops (p.winIn s.t.window) + (n : Int)).toNat
  let part (per size dest : Nat) : Option (Nat × Nat) :=
    if f * per < p.nBl then some (frameLen (min per (p.nBl - f * per) * size), dest) else none
  let kind := descKind bs
  if kind = 2 then (match (p.owned nd d)[k]? with
    | some ch => part (2 ^ p.visLog) p.F (nth 0 p.dest ch)
    | none => none)
  else if kind = 3 then (match (p.homeUnits nd d)[k]? with
    | some u => part 16384 4 (nth 0 p.dest (p.nCh + u))
    | none => none)
  else
    let (ws, nslot) := if kind = 10 then (bw, i.beams.area d 2) else (rw, i.beams.area d 5)
    (slotAt ws (f % max nslot 1) cyc).map (fun w => (w.len, w.dest))

/-- The frames that a die sends. -/
def Image.sframes (i : Image) (nd d : Nat) (l : List Iss) : List SFrame :=
  let bw := i.beamWrites nd d l
  let rw := i.redWrites d l
  let p := i.plan
  l.flatMap (fun s =>
    match i.actionOf d s.ins with
    | none => []
    | some bs =>
      let kind := descKind bs
      let done := s.cyc + actDeadline bs
      if kind = 4 then [{ die := d, issue := s.cyc, read := s.cyc + 1, done := done, len := 96, dest := nth 0 p.dest (p.nCh + p.nUnits + d) }]
      else if kind = 2 ∨ kind = 3 ∨ kind = 10 ∨ kind = 14 then
        let rs := (i.reqs d s).filter (fun r => !r.write && r.s1)
        (rs.zip (List.range rs.length)).filterMap (fun e =>
          (i.actFrames nd d bw rw s bs e.2 e.1.cyc).map (fun f =>
            { die := d, issue := s.cyc, read := e.1.cyc, done := done, len := f.1, dest := f.2 }))
      else [])

/-! ### Windows of reads (R113, R114) -/

/-- T_fill(w) − T0 in FCLK cycles. -/
def Plan.tFill (p : Plan) (mF w : Nat) : Nat := p.d0 + (w + 1) * p.L * p.P * mF + p.fillLat

/-- Due offsets within a block of the mapped streams of a coarse channel (R66). -/
def Plan.dueOffs (p : Plan) (mF c : Nat) : List Nat :=
  (p.map.filter (fun e => e.ch == c)).map (fun e => (e.pos + 1) * (256 * mF) / p.sn e.lane)

/-- The least of a list, 0 where it is empty. -/
def minL : List Nat → Nat
  | [] => 0
  | x :: xs => xs.foldl Nat.min x

/-- E(w, k) − T0 of a channel: the earliest due time in the first block of window `w`. -/
def Plan.eDue (p : Plan) (mF w ch : Nat) : Nat := p.d0 + w * p.L * p.P * mF + minL (p.dueOffs mF (p.info ch).c)

end Sys2Proof.Machine
end

