-- ==== Sys2Proof/Machine/ImageChecks.lean ====
section
/-! DEFINITION. Machine/ImageChecks.lean: the load checks from DEVICE to DUMP and from MOVE to POWR (Table 10.14). -/

namespace Sys2Proof.Machine

/-- What the checks read: the device, the image's bytes, its directory, and what they parse to. -/
structure Chk where
  c : Core
  b : List Byte
  ss : List Sect
  i : Image

def Chk.nd (x : Chk) : Nat := x.c.part.dies
def Chk.p (x : Chk) : Plan := x.i.plan

/-- A failure in a section. -/
def Chk.at_ (x : Chk) (reason id die : Nat) (off : Option Nat := none) : ImgFail :=
  { reason := reason, entry := (match findSect x.ss id die with
      | some s => s.no
      | none => 0xFF), off := off }

/-- A check of every X die. -/
def Chk.perDie (x : Chk) (f : Nat → Option ImgFail) : Option ImgFail := firstFail ((List.range x.nd).map f)

/-- The first of a list that breaks a relation with the one before it. -/
def firstBad {α : Type} (ok : α → α → Bool) : List α → Option α
  | a :: b :: r => if ok a b then firstBad ok (b :: r) else some b
  | _ => none

/-! ### DEVICE, DIGEST, SIGN, KEY (R217 to R220, R28) -/

def Chk.device (x : Chk) : Option ImgFail :=
  let m := x.i.hdr.mode
  firstFail [need (x.i.hdr.device == x.c.part.device) (x.at_ 3 idHdr 0xFF (some 2)),
    need (!(x.c.part.beamFused && (m == 2 || m == 3 || m == 5))) (x.at_ 3 idHdr 0xFF (some 4))]

/-- The image with the contents of DGST and SIGN as zeros. -/
def Chk.hashed (x : Chk) : List Byte :=
  x.ss.foldl (fun b s => if s.id = idDgst ∨ s.id = idSign then b.take s.off ++ List.replicate s.len 0 ++ b.drop (s.off + s.len) else b)
    x.b

def Chk.digest (x : Chk) : Option ImgFail :=
  need (sha384 x.hashed == sectBytes x.ss idDgst 0xFF) (x.at_ 4 idDgst 0xFF (some 0))

def Chk.sign (x : Chk) : Option ImgFail :=
  match findSect x.ss idSign 0xFF with
  | none => need (!x.c.otp.requireSign) { reason := 5 }
  | some s =>
    let k := leAt s.bytes 0 1
    let q := slice s.bytes 8 96
    let v (o : Nat) : Nat := beNat (slice s.bytes o 48)
    firstFail [
      need (decide (k ≤ 3) && x.c.otp.keyProg.testBit k && !x.c.otp.keyRevoked.testBit k) (x.at_ 6 idSign 0xFF (some 0)),
      need (sha384 q == nth [] x.c.otp.keyHash k) (x.at_ 6 idSign 0xFF (some 8)),
      need (ecdsaOk (sectBytes x.ss idDgst 0xFF) (v 8) (v 56) (v 104) (v 152)) (x.at_ 5 idSign 0xFF (some 104))]

/-! ### CLOCK (R217, R25) -/

def Chk.clock (x : Chk) : Option ImgFail :=
  let h := x.i.hdr
  let xc := x.i.xclk
  let fc := x.i.fclk
  let mhz (f : Nat × Nat) (lo hi : Nat) : Bool := decide (lo * f.2 ≤ f.1 ∧ f.1 ≤ hi * f.2)
  let fail (o : Nat) : ImgFail := x.at_ 7 idHdr 0xFF (some o)
  let glob := (findSect x.ss idBeam 0xFF).any (fun s => (sectRecs s).1.any (fun r => r.tag == 0x101))
  firstFail [need (h.kxDen != 0) (fail 12), need (h.kfDen != 0) (fail 20), need (h.mX != 0) (fail 24), need (h.mF != 0) (fail 28),
    need (mhz xc 500000000 1250000000) (fail 8), need (mhz fc 400000000 1000000000) (fail 16),
    need (xc.1 * fc.2 * h.mF == fc.1 * xc.2 * h.mX) (fail 24),
    need (mhz (xc.1, xc.2 * h.mX) 500000 1562500) (fail 24), need (h.frameX * h.mF == h.frameF * h.mX) (fail 40),
    need (h.fpw * h.frameX == x.p.L * x.p.P * h.mX) (fail 48),
    need (!glob || x.i.beams.fccHz * (xc.2 * h.mX) == xc.1) (x.at_ 7 idBeam 0xFF)]

/-! ### MAP (R64) -/

/-- The raw map entries. -/
def Chk.mapRaw (x : Chk) : List Nat :=
  match findSect x.ss idPlan 0xFF with
  | some s => let m := recPay (sectRecs s).1 4 0xFF; leList m 0 8 (m.length / 8)
  | none => []

def Chk.map (x : Chk) : Option ImgFail :=
  let p := x.p
  let ok := x.mapRaw.all (fun e => decide (bits e 22 16 + bits e 31 24 ≤ 127)) &&
    distinct (p.map.map (fun e => e.group * 128 + e.ch)) &&
    (List.range 256).all (fun n =>
      let ps := (p.map.filter (fun e => e.lane == n)).map (fun e => e.pos)
      let s := ps.length
      decide (s ≤ 512) && (List.range s).all (fun k => ps.elem k) &&
      (s == 0 || x.i.fits n (x.c.maxStep n) && decide (p.horizon ≤ 7 * (256 * x.i.hdr.mF / s)))) &&
    (List.range 256).all (fun g => !(List.range 16).any (fun n => p.uses (16 * g + n)) ||
      (p.coarseL ++ p.zooms.map Zoom.src).all (fun ch => p.map.any (fun e => e.group == g && e.ch == ch)))
  need ok (x.at_ 8 idPlan 0xFF)

/-! ### CHAN (R79, R91, R95, R97) -/

/-- 18-bit signed, and equal read backwards. -/
def filterOk (h : List Int) : Bool := h.all (fun v => decide (-131072 ≤ v ∧ v < 131072)) && h == h.reverse

def Plan.zoomOk (p : Plan) (z : Zoom) : Bool :=
  decide (z.fe ≤ 1 ∧ z.slot ≤ 7 ∧ z.preset ≤ 3 ∧ z.src ≤ 127 ∧ 2 ≤ z.pzLog ∧ z.pzLog ≤ 8 ∧ z.zgain ≤ 7 ∧ z.D * z.Pz ≤ p.L * p.P) &&
  filterOk z.hz && p.zooms.all (fun y => y.fe != z.fe || y.preset == z.preset)

/-- Bytes of history memory (R97). -/
def Plan.history (p : Plan) : Nat :=
  let k := ((List.range 128).filter (fun c => p.coarse.testBit c || p.zooms.any (fun z => z.src == c))).length
  p.nIn * k * (7 * p.P + 32) * 2 + sumL (p.zooms.map (fun z => p.nIn * (14 * z.Pz + presetState z.preset)))

def Chk.chan (x : Chk) : Option ImgFail :=
  let p := x.p
  need (decide (2 ≤ p.pLog ∧ p.pLog ≤ 8 ∧ p.pfb ≤ 15 ∧ p.rq ≤ 15) && filterOk p.h && decide (p.h.length = 8 * p.P) &&
    p.zooms.all p.zoomOk && distinct (p.zooms.map (fun z => z.fe * 8 + z.slot)) &&
    decide (1 ≤ p.nCh ∧ p.nCh ≤ 32768 ∧ p.nIn * p.nCh ≤ 8388608 ∧ p.history ≤ 167772160)) (x.at_ 9 idPlan 0xFF)

/-! ### STAGE (R106 to R110, R114) -/

/-- The regions of PLAN on a die: STAGE, LT, W, DUMP, DUMPW, first byte and end. -/
def Image.planRegions (i : Image) (nd d : Nat) : List (Nat × Nat) :=
  let p := i.plan
  i.deniedRegions nd d ++
  [(p.region d 3, p.region d 3 + (p.owned nd d).length * p.nBl * p.F),
   (p.region d 4, p.region d 4 + (p.homeUnits nd d).length * p.nBl * 4)]

/-- Two ranges share a byte. -/
def overlaps (a b : Nat × Nat) : Bool := decide (max a.1 b.1 < min a.2 b.2)

/-- Region `n` is aligned, within the die's 128 GiB and apart from the others. -/
def Image.regionOk (i : Image) (nd d n : Nat) : Bool :=
  let rs := i.planRegions nd d
  let r := nth (0, 0) rs n
  r.1 % 4096 == 0 && decide (r.2 ≤ 2 ^ 37) && (List.range 5).all (fun k => k == n || !overlaps r (nth (0, 0) rs k))

/-- Turn units of a half open at once (R106): each open from its earliest due time to a fixed latency after its latest. The latency
is free, up to 4 M_f: under the identity ordering of 128 channels, 2 M_f apart, at most two units are open. A zoom band's unit counts
together with its source channel's. DESIGN CHOICE, notes/assumptions/37.md and 85.md -/
def Plan.openUnits (p : Plan) (mF half : Nat) : Nat :=
  let per : Int := 256 * mF
  let late := min Config.turnLatency (4 * mF)
  let cs := ((p.coarseL ++ p.zooms.map Zoom.src).eraseDups).filter (fun c => c % 8 / 4 == half)
  let spans := cs.map (fun c => let o := p.dueOffs mF c; ((minL o : Int), ((maxL o + late : Nat) : Int)))
  maxL (spans.map (fun s => (sumI (spans.map (fun e => (s.1 - e.1) / per - (s.1 - e.2) / per))).toNat))

/-- B_d of R108 in bit/s, times `xclk.2 * mX * L * P`: a channel has `rows` rows in L P coarse samples. -/
def Image.linkLoad (i : Image) (nd d : Nat) : Nat :=
  let p := i.plan
  sumL ((p.owned nd d).map (fun ch => p.nPad * 16 * p.rows ch)) * i.xclk.1

/-- For each channel of a die, in staging order, the offset at which its place in a half ends (R110), and E(0, k) - T0. -/
def Image.stageEnds (i : Image) (nd d : Nat) : List (Nat × Nat) :=
  let p := i.plan
  ((p.owned nd d).foldl (fun (t : List (Nat × Nat)) ch =>
    ((t.headD (0, 0)).1 + p.rows ch * p.nPad * 2, p.eDue i.hdr.mF 0 ch) :: t) []).reverse

/-- A read of the byte at offset `o` of the staging region lies in its channel's interval (R114); `sz` is W_SIZE, `es` the die's
channels. -/
def Image.stageRead (i : Image) (sz : Nat) (es : List (Nat × Nat)) (cyc o : Nat) : Bool :=
  let p := i.plan
  let h := i.hdr
  let per := p.L * p.P * h.mF
  let w0 := (cyc * h.mF / h.mX - p.d0) / per
  match es.find? (fun e => decide (o % sz < e.1)) with
  | none => false
  | some e => (List.range 4).any (fun n =>
    let win := w0 - n
    decide (win % 2 = o / sz % 2 ∧ p.tFill h.mF win * h.mX ≤ cyc * h.mF ∧ cyc * h.mF < (e.2 + (win + 2) * per) * h.mX))

def Chk.stage (x : Chk) (all : List (List Iss)) : Option ImgFail :=
  let p := x.p
  let plan := x.at_ 10 idPlan 0xFF
  let den := x.i.xclk.2 * x.i.hdr.mX * p.L * p.P
  firstFail [need ((List.range 2).all (fun h => decide (p.openUnits x.i.hdr.mF h ≤ 2))) plan,
    need ((List.range x.nd).all (fun d => decide (x.i.linkLoad x.nd d ≤ 3600000000000 * den))) plan,
    need ((List.range x.nd).all (fun d => x.i.regionOk x.nd d 0)) plan,
    x.perDie (fun d =>
      let sz := p.wsize x.nd d
      let es := x.i.stageEnds x.nd d
      firstFail ((nth [] all d).map (fun s =>
        need ((x.i.reqs d s).all (fun r => r.write || r.space != 1 ||
            r.units.all (fun u =>
              let o := p.stageIn sz d s.t.window u.2 - p.region d 0
              x.i.stageRead sz es u.1 o && x.i.stageRead sz es u.1 (o + 63))))
          (x.at_ 10 (if s.op = 5 then idMove else idHbms) d))))]

/-! ### TASK (R122, R123, R128, R223) -/

/-- A set as it lies in TASK: CELL_DIR and the entries, both raw. -/
structure RawSet where
  dir : List Nat
  ents : List Nat

/-- The sets of a TASK section, none where they do not fill it exactly. -/
def rawSets : Nat → List Byte → Option (List RawSet)
  | 0, b => if b.isEmpty then some [] else none
  | n + 1, b =>
    let k := leAt b 0 4
    if b.length < setBytes k ∨ zeroAt b 4 4 = false then none
    else (rawSets n (b.drop (setBytes k))).map (fun r =>
      { dir := leList b 8 4 384, ents := leList b (8 + 1536) 8 k } :: r)

/-- Beam modes with cell beams (Table 8.1). -/
def Image.cellMode (i : Image) : Bool := i.hdr.mode == 3 || i.hdr.mode == 5
def Image.sliceMode (i : Image) : Bool := i.hdr.mode == 2 || i.cellMode

/-- Checks 1, 3, 4, 5 and 6 of R123 on a cell's list for a channel. -/
def Image.listOk (i : Image) (nd ch : Nat) (fused : Bool) (l : List TaskEnt) : Bool :=
  let p := i.plan
  let s := p.S ch
  let cor := l.filter (fun e => e.kind == 0)
  let cov (n : Nat) : List TaskEnt := cor.filter (fun e => decide (e.first ≤ n ∧ n ≤ e.last))
  nd != 0 &&
  l.all (fun e =>
    if e.kind = 0 then decide (e.p ≤ e.q ∧ e.q < p.B ∧ e.first ≤ e.last ∧ e.last < s ∧ e.slot ≤ 5) && !i.cellMode &&
      (e.split || e.partner == 0)
    else i.cellMode && !fused && decide (e.q ≤ 13 ∧ e.p ≤ 15)) &&
  (List.range s).all (fun n => decide ((cov n).length ≤ 6) && distinct ((cov n).map (fun e => e.slot)) &&
    decide (((cov n).filter (fun e => p.counts ch (tauOf p.B e.p e.q))).length ≤ 2))

/-- Check 2 of R123: every task held whole, or as two partner halves. -/
def Image.tasksHeld (i : Image) (ch : Nat) (set : List (List TaskEnt)) : Bool :=
  let s := i.plan.S ch
  let all := (set.zip (List.range set.length)).flatMap (fun e => (e.1.filter (fun t => t.kind == 0)).map (fun t => (t, e.2)))
  (tasksOf i.plan.B).all (fun pq =>
    match all.filter (fun e => e.1.p == pq.1 && e.1.q == pq.2) with
    | [a] => !a.1.split && a.1.first == 0 && a.1.last + 1 == s
    | [a, b] => a.1.split && b.1.split && a.2 != b.2 && a.1.partner == b.2 && b.1.partner == a.2 &&
        (a.1.first == 0 && a.1.last + 1 == b.1.first && b.1.last + 1 == s ||
         b.1.first == 0 && b.1.last + 1 == a.1.first && a.1.last + 1 == s)
    | _ => false)

/-- A die's TASK section. -/
def Chk.taskDie (x : Chk) (d : Nat) : Bool :=
  let b := sectBytes x.ss idTask d
  let n := leAt b 4 4
  let own := x.p.owned x.nd d
  let t := nth {} x.i.tasks d
  decide (16 + 4 * n ≤ b.length) && zeroAt b 8 8 && n == own.length &&
  (leList b 16 4 n).all (fun v => bits v 15 14 == 0 && decide (bits v 31 16 < leAt b 0 4)) &&
  (List.range n).all (fun k => t.order.any (fun e => e.1 == k)) &&
  (match rawSets (leAt b 0 4) (b.drop (16 + 4 * n)) with
   | none => false
   | some rs => rs.all (fun r => r.dir.all (fun v => decide (v % 65536 + v / 65536 ≤ r.ents.length)) &&
       r.ents.all (fun e => bits e 63 38 == 0))) &&
  t.order.all (fun e => match own[e.1]? with
    | none => false
    | some ch => let set := nth [] t.sets e.2
        set.all (x.i.listOk x.nd ch x.c.part.beamFused) && (!x.i.correlates || x.i.tasksHeld ch set))

/-- The swaps of each cell in two successive CELLS lie 4 097 cycles apart (R125). -/
def Image.swapsApart (i : Image) (nd d : Nat) (a b : Iss) : Bool :=
  let x := cellsOp a.ins a.t.loops
  let y := cellsOp b.ins b.t.loops
  (List.range 384).all (fun cell =>
    match (i.cellTimes nd d x cell).getLast? with
    | none => true
    | some e => (i.cellTimes nd d y cell).isEmpty || decide (a.cyc + e.2.1 + 4097 ≤ b.cyc))

def Chk.task (x : Chk) (walks : List (List Iss)) : Option ImgFail :=
  x.perDie (fun d => firstFail [need (x.taskDie d && (firstBad (x.i.swapsApart x.nd d) (ofOp 6 (nth [] walks d))).isNone)
    (x.at_ 11 idTask d), need (x.i.regionOk x.nd d 1) (x.at_ 11 idPlan 0xFF)])

/-! ### DUMP (R155, R166, R225) -/

/-- A destination entry names a ring or a lane of the part (R165, R166). -/
def destOk (e : Nat) : Bool := e.testBit 15 && decide (bits e 14 12 = 0) || decide (e ≤ 255)

/-- The 64 B blocks that hold `n` bytes at `a`: first byte and end. -/
def wide (a n : Nat) : Nat × Nat := (a / 64 * 64, cdiv (a + n) 64 * 64)

/-- A request lies within one of the listed ranges. -/
def Req.within (r : Req) (rs : List (Nat × Nat)) : Bool := rs.any (fun e => decide (e.1 ≤ r.addr ∧ r.addr + r.len ≤ e.2))

/-- Every entry of an action's list carries the address of its data (R128, R134, R153, R188, R225). -/
def Image.actAddrOk (i : Image) (nd d : Nat) (s : Iss) (bs : List Byte) : Bool :=
  let p := i.plan
  let kind := descKind bs
  let c := actChan bs s.t.loops
  let k := c.toNat
  let rs := i.reqs d s
  let f0 := actFrame bs s.t.loops (p.winIn s.t.window)
  let reads : Bool := rs.all (fun r => !r.write && r.s1 && r.space == 0) && decide (0 ≤ f0)
  let numbered := rs.zip (List.range rs.length)
  let frames (base per size : Nat) : Bool := reads && numbered.all (fun e =>
    let f := f0.toNat + e.2
    let lo := base + f * per * size
    let hi := base + min ((f + 1) * per) p.nBl * size
    decide (f * per < p.nBl ∧ e.1.addr = lo / 64 * 64 ∧ hi ≤ e.1.addr + e.1.len))
  let slots (base slot n : Nat) : Bool := reads && decide (0 < n) && numbered.all (fun e =>
    e.1.addr == (base + (f0.toNat + e.2) % n * slot) / 64 * 64)
  if kind = 1 then
    match (p.owned nd d)[k]? with
    | none => false
    | some ch =>
      let u := p.unitOf ch
      let ranges := [wide (p.ltAddr d k 0 0) (12 * p.E), wide (p.dumpAddr d k 0) (p.nBl * p.F),
          wide (p.wAddr nd d k ch 0 0) (4 * p.wBefore ch p.T)] ++
        (if p.home nd u = d then [wide (p.dumpwAddr nd d u 0) (p.nBl * 4)] else [])
      decide (0 ≤ c) && rs.all (fun r => r.space == 0 && r.within ranges)
  else if kind = 2 then decide (0 ≤ c ∧ k < (p.owned nd d).length) && frames (p.dumpAddr d k 0) (2 ^ p.visLog) p.F
  else if kind = 3 then
    match (p.homeUnits nd d)[k]? with
    | none => false
    | some u => decide (0 ≤ c) && frames (p.dumpwAddr nd d u 0) 16384 4
  else if kind = 10 then slots (i.beams.area d 0) (i.beams.area d 1) (i.beams.area d 2)
  else if kind = 14 then slots (i.beams.area d 3) (i.beams.area d 4) (i.beams.area d 5)
  else if kind = 8 ∨ kind = 9 then decide (0 ≤ c ∧ k < (p.owned nd d).length)
  else true

/-- TARGET, the reserved bytes and LIST of an action descriptor (Table 10.9). -/
def Image.actDescOk (i : Image) (d : Nat) (bs : List Byte) : Bool :=
  zeroAt bs 2 2 && zeroAt bs 6 2 && zeroAt bs 48 16 && decide (actTarget bs ≤ (if descKind bs = 8 then 1 else 0)) &&
  (match actList bs with
   | none => true
   | some n => (i.hbmsList d n).isSome)

/-- The writes of one emit: cycle, first byte and end (R129, R134, R154). -/
def EmitAt : Type := List (Nat × Nat × Nat)

/-- An emit has begun to write at a cycle, and it has written a range before it. -/
def EmitAt.begun (e : EmitAt) (t : Nat) : Bool := e.any (fun w => decide (w.1 ≤ t))
def EmitAt.done (e : EmitAt) (r : Nat × Nat) (t : Nat) : Bool := e.all (fun w => !overlaps w.2 r || decide (w.1 < t))

/-- The emits of channel `k` of die `x` into a section: the writes that the lists of its UPDATE actions make there in last
windows; of a write that no list carries only the action's span is known. -/
def Image.emits (i : Image) (x k : Nat) (sec : Nat × Nat) (own : Bool) (l : List Iss) : List EmitAt :=
  (i.actsOf x 1 l).filterMap (fun e =>
    if actChan e.2 e.1.t.loops = (k : Int) ∧ (e.1.t.window + 1) % max i.plan.ints 1 = 0 then
      let ws := if own then (i.reqs x e.1).filterMap (fun r =>
        if r.write ∧ r.space = 0 ∧ overlaps (r.addr, r.addr + r.len) sec then some (r.cyc, r.addr, r.addr + r.len) else none) else []
      some (if ws.isEmpty then [(e.1.cyc + 1, sec.1, sec.2), (e.1.cyc + actDeadline e.2 - 1, sec.1, sec.2)] else ws)
    else none)

/-- All elements are equal. -/
def allEq (l : List Nat) : Bool := l.all (fun v => v == l.headD 0)

/-- A drain read: its section's first byte and channel or unit, its frame, its slot, and its bytes. -/
structure DrainRead where
  k : Nat
  f : Nat
  cyc : Nat
  rng : Nat × Nat

/-- The drain reads of a die's actions of a KIND: `per` entries of `size` bytes a frame, the section of `k` from `base k` on. -/
def Image.drainReads (i : Image) (d kind per size : Nat) (base : Nat → Nat) (l : List Iss) : List DrainRead :=
  (i.actsOf d kind l).flatMap (fun e =>
    let rs := i.reqs d e.1
    let k := (actChan e.2 e.1.t.loops).toNat
    let f0 := (actFrame e.2 e.1.t.loops (i.plan.winIn e.1.t.window)).toNat
    (rs.zip (List.range rs.length)).map (fun r =>
      let f := f0 + r.2
      { k := k, f := f, cyc := r.1.cyc,
        rng := (base k + f * per * size, base k + min ((f + 1) * per) i.plan.nBl * size) : DrainRead }))

/-- Reads keep the order of R155 against the emits of the channels that write their bytes: an emit that has begun has written
them, every writer has begun as many, and the reads after the same emit ascend. -/
def drainOk (rs : List DrainRead) (es : DrainRead → List (List EmitAt)) : Bool :=
  let count (r : DrainRead) : List Nat := (es r).map (fun l => (l.filter (fun e => e.begun r.cyc)).length)
  rs.all (fun r => allEq (count r) && (es r).all (fun l => l.all (fun e => !e.begun r.cyc || e.done r.rng r.cyc))) &&
  (rs.map (fun r => r.k)).eraseDups.all (fun k =>
    (firstBad (fun (a b : DrainRead) => decide (a.f < b.f) || decide (count a ≠ count b))
      (sortBy (fun (a b : DrainRead) => decide (a.cyc < b.cyc ∨ (a.cyc = b.cyc ∧ a.f < b.f))) (rs.filter (fun r => r.k == k)))).isNone)

/-- The drain reads of a die keep the order of R155. The first emit write to a weight frame is one to its bytes, the first to a
visibility frame one to its channel. -/
def Image.drainOrder (i : Image) (nd d : Nat) (walks : List (List Iss)) : Bool :=
  let p := i.plan
  let l := nth [] walks d
  let vis (k : Nat) : Nat := p.dumpAddr d k 0
  let wts (h : Nat) : Nat := p.dumpwAddr nd d (nth 0 (p.homeUnits nd d) h) 0
  drainOk (i.drainReads d 2 (2 ^ p.visLog) p.F vis l) (fun r => [i.emits d r.k (vis r.k, vis r.k + p.nBl * p.F) true l]) &&
  drainOk (i.drainReads d 3 16384 4 wts l) (fun r =>
    let u := nth 0 (p.homeUnits nd d) r.k
    ((List.range (p.unitP u)).map (fun f => p.unitFirst u + f)).filterMap (fun ch =>
      if p.wBefore ch p.T = 0 then none
      else
        let x := ownerOf nd ch
        some ((i.emits x (localK nd ch) r.rng (x == d) (nth [] walks x)).filter (fun e => e.any (fun w => overlaps w.2 r.rng)))))

def Chk.dump (x : Chk) (walks all : List (List Iss)) : Option ImgFail :=
  let p := x.p
  let fmt := match findSect x.ss idPlan 0xFF with
    | some s => leAt (recPay (sectRecs s).1 5 0xFF) 4 1
    | none => 0
  firstFail [need (decide (1 ≤ p.ints ∧ p.ints ≤ 1048576 ∧ 8 ≤ p.visLog ∧ p.visLog ≤ (if p.fmtQ then 13 else 12) ∧ p.delay ≤ 10000000 ∧ fmt ≤ 1) &&
      (p.dest.take (p.nCh + p.nUnits + x.nd)).all destOk && (List.range x.nd).all (fun d => x.i.regionOk x.nd d 3 && x.i.regionOk x.nd d 4))
      (x.at_ 12 idPlan 0xFF),
    x.perDie (fun d => need ((nth [] all d).all (fun s => s.op != 10 || (match x.i.actionOf d s.ins with
      | some bs => x.i.actDescOk d bs && x.i.actAddrOk x.nd d s bs
      | none => true)) && x.i.drainOrder x.nd d walks) (x.at_ 12 idMove d))]

/-! ### MOVE and HBMS (R224, R226) -/

/-- A request stays in its space (R224). -/
def Image.inSpace (i : Image) (nd d : Nat) (r : Req) : Bool :=
  if r.space = 0 then decide (r.addr + r.len ≤ 2 ^ 37)
  else if r.space = 1 then
    let z := 2 * i.plan.wsize nd d
    decide ((r.iss.t.window % 2 * i.plan.wsize nd d + r.addr) % 2 ^ 64 % z + r.len ≤ z)
  else if r.space = 2 then decide (r.addr + r.len ≤ 112 * 2 ^ 20)
  else r.space == 3 && decide (r.addr < 2 ^ 63 ∧ r.addr % 0x800000 + r.len ≤ 0x800000)

/-- A MOVE descriptor (Table 10.8); action descriptors are judged under R225. -/
def moveDescOk (bs : List Byte) : Bool :=
  let k := descKind bs
  if k = 0 then
    let n := mvLen bs
    zeroAt bs 3 1 && zeroAt bs 60 4 && decide (leAt bs 2 1 ≤ 7 ∧ mvSpaces bs % 16 ≤ 3 ∧ mvSpaces bs / 16 ≤ 3 ∧ n % 64 = 0 ∧ n ≤ 2 ^ 24)
  else decide (k ≤ 4)

def Chk.moves (x : Chk) (all : List (List Iss)) : Option ImgFail :=
  x.perDie (fun d =>
    let ms := nth [] x.i.moves d
    let bad := ms.findIdx (fun m => !moveDescOk m)
    firstFail [need ((sectBytes x.ss idMove d).length % 64 == 0) (x.at_ 16 idMove d),
      need (bad == ms.length) (x.at_ 16 idMove d (some (64 * bad))),
      need ((ofOp 5 (nth [] all d)).all (fun s => (x.i.reqs d s).all (x.i.inSpace x.nd d))) (x.at_ 16 idMove d)])

/-- A list at its offset: within the section, its header and entries legal (Table 10.10). -/
def hbmsListOk (b : List Byte) (o : Nat) : Bool :=
  let n := leAt b o 4
  decide (o + 40 + 16 * n ≤ b.length) && zeroAt b (o + 4) 4 && (List.range n).all (fun k =>
    let e := o + 40 + 16 * k
    let op := leAt b (e + 4) 1
    let len := leAt b (e + 6) 2
    zeroAt b (e + 5) 1 && decide (bits op 2 1 ≤ 1 ∧ bits op 4 3 ≤ 1 ∧ bits op 7 5 = 0 ∧ 1 ≤ len ∧ len ≤ 1025) &&
    leAt b (e + 8) 8 % 64 == 0)

def Chk.hbmsCheck (x : Chk) (all : List (List Iss)) : Option ImgFail :=
  x.perDie (fun d =>
    let b := sectBytes x.ss idHbms d
    let n := leAt b 0 4
    firstFail [need (zeroAt b 4 4 && decide (8 + 8 * n ≤ b.length) && (leList b 8 8 n).all (hbmsListOk b)) (x.at_ 17 idHbms d),
      need ((nth [] all d).all (fun s => s.op == 5 || (x.i.reqs d s).all (x.i.inSpace x.nd d))) (x.at_ 17 idHbms d)])

/-! ### BEAM (R174, R188, R189) -/

/-- An output entry (Table 8.4, R189). -/
def Image.outOk (i : Image) (n : Nat) : Bool :=
  let b := i.beams
  let o := b.beam n
  let some_ := o.vkind != 0 || o.dkind != 0
  let same (m : Nat) : Bool :=
    let q := b.beam m
    o.dkind == 0 || q.dkind == 0 || q.dkind == o.dkind && q.det == o.det && q.ddest == o.ddest
  decide (o.vkind ≤ 2 ∧ o.dkind ≤ 2 ∧ o.det ≤ 16 ∧ o.shX ≤ 47 ∧ o.shY ≤ 47) &&
  (o.vkind == 0 || decide (6 ≤ o.vrows ∧ o.vrows ≤ (if o.vkind = 1 then 10 else 9))) &&
  (!some_ || (if n < 128 then i.sliceMode else i.cellMode)) &&
  (decide (n < 128) || o.vkind == 0 && (o.dkind != 2 || b.pair && n % 2 == 0)) &&
  (List.range 64).all (fun x => same (n / 64 * 64 + x)) && destOk o.vdest && destOk o.ddest

/-- The regions of BEAM on a die: the six banks, the beam area, the reduction area. -/
def BeamSec.regions (b : BeamSec) (d : Nat) : List (Nat × Nat) :=
  ([2 * d, 2 * d + 1, 8 + d] : List Nat).flatMap (fun t => ([false, true] : List Bool).map (fun x =>
    (b.bankAddr t x, b.bankAddr t x + bankSize t))) ++
  [(b.area d 0, b.area d 0 + b.area d 1 * b.area d 2), (b.area d 3, b.area d 3 + b.area d 4 * b.area d 5)]

/-- Area `n` (6 beam, 7 reduction) is within the die's HBM and apart from every other region. -/
def Image.areaOk (i : Image) (nd d n : Nat) : Bool :=
  let bs := i.beams.regions d
  let r := nth (0, 0) bs n
  decide (r.2 ≤ 2 ^ 37) && (i.planRegions nd d).all (fun q => !overlaps r q) &&
  (List.range bs.length).all (fun k => k == n || !overlaps r (nth (0, 0) bs k))

/-- Every slot is read between two writings of it, and the frames fit their slots (R188). -/
def slotsOk (ws : List SWrite) (reads : List (Nat × Nat)) (size : Nat) : Bool :=
  ws.all (fun w => decide (w.len ≤ size + 64)) &&
  (ws.map (fun w => w.slot)).eraseDups.all (fun s =>
    (firstBad (fun (a b : SWrite) => reads.any (fun r => r.1 == s && decide (a.cyc ≤ r.2 ∧ r.2 < b.cyc)))
      (ws.filter (fun w => w.slot == s))).isNone)

/-- Slot and cycle of the reads of an area's actions. -/
def Image.slotReads (i : Image) (d kind nslot : Nat) (l : List Iss) : List (Nat × Nat) :=
  (i.actsOf d kind l).flatMap (fun e =>
    let f0 := (actFrame e.2 e.1.t.loops (i.plan.winIn e.1.t.window)).toNat
    let rs := i.reqs d e.1
    (rs.zip (List.range rs.length)).map (fun r => ((f0 + r.2) % max nslot 1, r.1.cyc)))

/-- R174: no regeneration of a slice's buffers runs during a slice pass, and none of a block of 64 cell beams, 4 × N_pad
cycles each in ascending order, during a pass of the block. -/
def Image.regenOk (i : Image) (nd d : Nat) (l : List Iss) : Bool :=
  let p := i.plan
  let cells := (ofOp 6 l).map (fun s => (s.cyc + 1, cellsOp s.ins s.t.loops))
  let apart (a b c e : Nat) : Bool := decide (b ≤ c ∨ e ≤ a)
  (i.actsOf d 8 l).all (fun r => cells.all (fun x => !x.2.slices ||
    apart (r.1.cyc + 1) (r.1.cyc + 1 + actDeadline r.2) x.1 (x.1 + i.sliceTime nd d x.2.k))) &&
  (i.actsOf d 9 l).all (fun r => cells.all (fun x => (List.range 384).all (fun cell =>
    (i.cellTimes nd d x.2 cell).all (fun e => e.1.kind == 0 ||
      apart (r.1.cyc + 1 + e.1.q * 4 * p.nPad) (r.1.cyc + 1 + (e.1.q + 1) * 4 * p.nPad) (x.1 + e.2.1) (x.1 + e.2.1 + e.2.2)))))

def Chk.beamCheck (x : Chk) (walks all : List (List Iss)) : Option ImgFail :=
  if x.i.beam.isNone then none
  else
    let b := x.i.beams
    let used := b.forms
    firstFail [need ((List.range 1024).all x.i.outOk && (!used || decide (500000 ≤ b.fccHz ∧ b.fccHz ≤ 1562500))) (x.at_ 13 idBeam 0xFF),
      x.perDie (fun d =>
        let l := nth [] walks d
        need ((!used || x.i.areaOk x.nd d 6 && (List.range 6).all (fun n => decide ((nth (0, 0) (b.regions d) n).2 ≤ 2 ^ 37))) &&
          slotsOk (x.i.beamWrites x.nd d l) (x.i.slotReads d 10 (b.area d 2) l) (b.area d 1) && x.i.regenOk x.nd d l &&
          (nth [] all d).all (fun s => s.op != 8 || (match x.i.actionOf d s.ins with
            | some bs => x.i.actDescOk d bs && x.i.actAddrOk x.nd d s bs
            | none => true))) (x.at_ 13 idBeam 0xFF))]

/-! ### RED (R208, R211) -/

/-- Table 9.2 on the raw record, in use or not. -/
def redRawOk (b : List Byte) : Bool :=
  decide (leAt b 0 1 ≤ 2 ∧ leAt b 1 1 ≤ 1 ∧ leAt b 2 1 ≤ 3 ∧ leAt b 3 1 ≤ 16 ∧ leAt b 5 1 < 8) &&
  decide (leAt b 4 1 ≤ (if leAt b 1 1 = 0 then 4 else 0)) && decide (leAt b 8 2 ≤ leAt b 10 2) &&
  (leAt b 1 1 != 0 || decide (leAt b 10 2 ≤ 1023)) && destOk (leAt b 16 2) &&
  zeroAt b 6 2 && zeroAt b 18 6 && zeroAt b 40 24

/-- The entry of a die in use (R211). -/
def Image.redOk (i : Image) (nd d : Nat) : Bool :=
  let g := i.redCfg d
  let p := i.plan
  let m := i.hdr.mode
  let bs := ((List.range g.ns).map (· + g.selLo)).filter (fun n => i.beams.dkind n == (if g.prod = 0 then 1 else 2))
  decide (g.selLo ≤ g.selHi ∧ g.chLo ≤ g.chHi) && destOk g.dest &&
  (if g.source = 0 then m == 5 && decide (g.selHi ≤ 1023) && !bs.isEmpty &&
      bs.all (fun n => (i.beams.beam n).det == (i.beams.beam (bs.headD 0)).det && decide (p.L ≤ 2 ^ (g.log + (i.beams.beam n).det)))
   else (m == 1 || m == 2 || m == 4) && decide (g.selHi < p.nIn ∧ g.ns ≤ 1024) && g.prod == 0) &&
  ([g.chLo, g.chHi] : List Nat).all (fun k => match (p.owned nd d)[k]? with
    | some ch => decide (ch < p.nReg)
    | none => false) &&
  decide (g.groups ≤ 8192) && !(g.opts.testBit 1 && g.kind == 2)

/-- Finalisation and reporting end before the next interval closes (R208). -/
def Image.redTimes (i : Image) (d : Nat) (l : List Iss) : Bool :=
  let closes := (i.actsOf d 13 l).map (fun e => e.1.cyc)
  let reads := (i.actsOf d 14 l).map (fun e => (e.1.cyc, e.1.cyc + actDeadline e.2))
  (firstBad (fun (a b : Nat) => decide (a + 16384 ≤ b) && reads.all (fun r => decide (r.1 < a ∨ b ≤ r.1 ∨ r.2 ≤ b))) closes).isNone

def Chk.redCheck (x : Chk) (walks all : List (List Iss)) : Option ImgFail :=
  let raws := match findSect x.ss idBeam 0xFF with
    | some s => (sectRecs s).1.filter (fun (r : Rec) => r.tag == 0x103)
    | none => []
  let fail := x.at_ 14 idBeam 0xFF
  firstFail [(raws.find? (fun (r : Rec) => !redRawOk r.pay)).map (fun r => x.at_ 14 idBeam 0xFF (some r.at_)),
    need (x.i.beams.reds.all (fun e => e.2.kind == 0 || decide (e.1 < x.nd))) fail,
    x.perDie (fun d =>
      let l := nth [] walks d
      let b := x.i.beams
      need ((x.i.redCfg d).kind == 0 || !x.c.part.beamFused && x.i.redOk x.nd d && x.i.areaOk x.nd d 7 && x.i.redTimes d l &&
          slotsOk (x.i.redWrites d l) (x.i.slotReads d 14 (b.area d 5) l) (b.area d 4)) fail),
    x.perDie (fun d => need ((nth [] all d).all (fun s => s.op != 9 || (match x.i.actionOf d s.ins with
      | some bs => x.i.actDescOk d bs && x.i.actAddrOk x.nd d s bs
      | none => true))) fail)]

/-! ### POWR (R228) -/

def Chk.powrCheck (x : Chk) : Option ImgFail :=
  let b := sectBytes x.ss idPowr 0xFF
  let w := x.i.powr
  let f := x.i.fclk
  let v := maxL (w.segs.map (fun s => s.1 + s.2))
  let fail (o : Nat) : ImgFail := x.at_ 18 idPowr 0xFF (some o)
  let empty := w.segs.findIdx (fun s => s.2 == 0)
  firstFail [need (decide (99 * f.1 ≤ w.slotF * f.2 * 10000000 ∧ w.slotF * f.2 * 10000000 ≤ 101 * f.1)) (fail 0),
    need (!w.segs.isEmpty) (fail 4), need (decide (w.rep < w.avgs.length)) (fail 12), need (zeroAt b 16 16) (fail 16),
    need (empty == w.segs.length) (fail (32 + 8 * empty)),
    need (decide (b.length = 32 + 8 * w.segs.length + 2 * v + 2 * w.avgs.length)) (x.at_ 18 idPowr 0xFF)]

end Sys2Proof.Machine
end

