-- ==== Sys2Proof/Machine/Budgets.lean ====
section
/-! DEFINITION. Machine/Budgets.lean: the program rules of reason FRAM, the GAP values, and the budgets that the device
recomputes (R222, R229, R235 to R248, R254 to R265). -/

namespace Sys2Proof.Machine

/-! ### Instruction words and operands (R236) -/

/-- The operand bits of an opcode (Table 10.15). -/
def opMask (op : Nat) : Option Nat :=
  if op = 0 ∨ op = 4 ∨ op = 15 ∨ op = 16 ∨ op = 63 then some 0
  else if op = 1 then some (2 ^ 48 - 1) else if op = 2 then some (2 ^ 38 - 1) else if op = 3 then some (2 ^ 32 - 1)
  else if op = 5 ∨ op = 7 ∨ op = 8 ∨ op = 9 ∨ op = 10 ∨ op = 14 then some (2 ^ 24 - 1)
  else if op = 6 then some (2 ^ 31 - 1) else if op = 11 then some (2 ^ 36 - 1) else if op = 12 then some 0xFF1F
  else if op = 13 then some (2 ^ 17 - 1) else none

/-- The program of the IO die takes no data-path instruction, the X programs no PSTEP. -/
def opOnDie (op x : Nat) : Bool := if x = 4 then !(decide (5 ≤ op ∧ op ≤ 10)) else op != 14

/-- The PART bit of a Chanter (Table 10.15). -/
def partOf (x : Nat) : Nat := if x = 4 then 0 else x + 1

/-- An instruction of program `x` is legal by itself (R236, R241, R243). -/
def Image.insOk (i : Image) (x ins : Nat) : Bool :=
  let op := insOp ins
  let n := bits ins 23 0
  (match opMask op with
   | none => false
   | some m => ins % 2 ^ 58 &&& m == ins % 2 ^ 58) &&
  opOnDie op x && (op != 1 || ins % 2 ^ 48 != 0) && (op != 2 || ins % 2 ^ 32 != 0 && (x == 4 || !bit ins 36)) &&
  (op != 5 || (match i.move x n with
    | some bs => kindFor 5 (descKind bs)
    | none => false)) &&
  (!(op == 8 || op == 9 || op == 10) || (match i.actionOf x ins with
    | some bs => kindFor op (descKind bs)
    | none => false)) &&
  (op != 7 || (i.hbmsList x n).isSome) && (op != 12 || bit ins (partOf x)) &&
  (op != 14 || decide (n < i.powr.segs.length))

/-! ### Rules over the issues (R239 to R247, R265) -/

/-- A rule on consecutive issues of one kind, grouped by a key. -/
def byKey (key : Iss → Nat) (ok : Iss → Iss → Bool) (l : List Iss) : Bool :=
  (l.map key).eraseDups.all (fun k => (firstBad ok (l.filter (fun s => key s == k))).isNone)

/-- DEADLINE of the descriptor of a MOVE or an action. -/
def Image.deadlineOf (i : Image) (d : Nat) (s : Iss) : Nat :=
  match i.descOf d s with
  | some bs => if s.op = 5 then mvDeadline bs else actDeadline bs
  | none => 0

/-- The mover of a MOVE. -/
def Image.moverOf (i : Image) (d : Nat) (s : Iss) : Nat :=
  match i.descOf d s with
  | some bs => mvUnit bs
  | none => 0

/-- Every pass of a CELLS has ended, plus one cycle, before the next (R239). -/
def Image.cellsDone (i : Image) (nd d : Nat) (a b : Iss) : Bool :=
  decide (a.cyc + 1 + i.cellsTime nd d (cellsOp a.ins a.t.loops) + 1 ≤ b.cyc)

/-- A CELLS names an owned channel, one of its sub-blocks, and slices only in a mode that has them (R240). -/
def Image.cellsNamed (i : Image) (nd d : Nat) (s : Iss) : Bool :=
  let op := cellsOp s.ins s.t.loops
  match (i.plan.owned nd d)[op.k]? with
  | none => false
  | some ch => decide (op.s < i.plan.S ch) && (!op.slices || i.sliceMode)

/-- The MOVE that may issue before FIRST_FRAME: rows of sub-block 0 of window 0 of the first channel into a buffer (R246). -/
def Image.preload (i : Image) (nd d : Nat) (s : Iss) : Bool :=
  match i.descOf d s, (nth {} i.tasks d).order with
  | some bs, (k, _) :: _ =>
    let ch := nth 0 (i.plan.owned nd d) k
    let lo := i.plan.off nd d k
    let a := mvSrc bs s.t.loops
    s.op == 5 && mvSpaces bs == 0x31 && s.t.window == 0 && decide (lo ≤ a ∧ a + mvLen bs ≤ lo + i.plan.sbRows ch * i.plan.nPad * 2)
  | _, _ => false

/-- R246 for a program walked to cycle `e`. -/
def Image.framesOk (i : Image) (nd x e : Nat) (l : List Iss) : Bool :=
  let ff := (i.prog x).first
  let n := i.dieFrame x
  let f := max i.hdr.fpw 1
  let ends := (ofOp 15 l).map Iss.cyc
  let wins := (ofOp 16 l).map Iss.cyc
  let full := if n = 0 then 0 else (e - ff) / n
  decide (n ≠ 0) && ends == (List.range full).map (fun k => ff + (k + 1) * n - 1) &&
  wins.all (fun c => decide (ff + f * n ≤ c) && (c - ff) / n % f == 0) &&
  (List.range (cdiv full f)).all (fun k => k == 0 || decide ((wins.filter (fun c => (c - ff) / n == k * f)).length = 1)) &&
  distinct (wins.map (fun c => (c - ff) / n)) &&
  l.all (fun s => !(decide (5 ≤ s.op ∧ s.op ≤ 10)) || decide (ff ≤ s.cyc) || i.preload nd x s)

/-- The windows of a WAITS: first cycle and end, with CLASS (R238). -/
def waits (l : List Iss) : List (Nat × Nat × Nat) :=
  (ofOp 2 l).map (fun s => (s.cyc + 1, s.cyc + 1 + bits s.ins 31 0, bits s.ins 37 32))

/-- The largest gap G in die cycles of class bit `b`, none where it has no window (R265). `halted` where the walk ends at a
HALT. -/
def gapOf (ws : List (Nat × Nat × Nat)) (b e : Nat) (halted : Bool) : Option Nat :=
  match ws.filter (fun w => w.2.2.testBit (b - 32)) with
  | [] => none
  | w :: r =>
    let (g, z) := r.foldl (fun (s : Nat × Nat) v => (max s.1 (v.1 - s.2), max s.2 v.2.1)) (w.1, w.2.1)
    some (if halted then g else max g (e - z))

/-- G in ns, a fraction taken up; 0xFFFFFFFF for none. -/
def Image.gapNs (i : Image) (x : Nat) (g : Option Nat) : Nat :=
  match g with
  | none => 0xFFFFFFFF
  | some n => min (cdiv (n * (i.dieClk x).2 * 1000000000) (i.dieClk x).1) 0xFFFFFFFF

/-- What a program walk leaves: the issues, the cycle it ends, the late issues, and HALT's cycle where it is reached. -/
structure WalkRes where
  l : List Iss := []
  e : Nat := 0
  halt : Option Nat := none
  late : List Iss := []

/-- Every issue that a walk shows, for the rules on single issues. -/
def WalkRes.all (w : WalkRes) : List Iss := w.l ++ w.late

def Image.walkRes (i : Image) (nd x : Nat) : WalkRes :=
  { l := i.walk nd x, e := i.walkEnd nd x, halt := (i.scan x).halt, late := i.lateWalk nd x }

/-- A die's issues, by Chanter. -/
def Image.walks (i : Image) (nd : Nat) : List WalkRes := (List.range 5).map (fun x => if x = 4 ∨ x < nd then i.walkRes nd x else ({} : WalkRes))

/-- The instant of a cycle, in units common to all dies (R243). -/
def Image.instant (i : Image) (x cyc : Nat) : Nat := cyc * (if x = 4 then i.hdr.mX else i.hdr.mF)

/-- The rules on one die's program. -/
def Image.progOk (i : Image) (nd x : Nat) (w : WalkRes) : Bool :=
  let l := w.l
  let setr := (ofOp 11 l).map Iss.cyc
  (firstBad (fun (a b : Nat × Nat × Nat) => decide (a.2.1 ≤ b.1)) (waits l)).isNone &&
  byKey (i.moverOf x) (fun a b => decide (a.cyc + i.deadlineOf x a ≤ b.cyc)) (ofOp 5 l) &&
  byKey (fun s => s.op * 2 ^ 24 + bits s.ins 23 0) (fun a b => decide (a.cyc + i.deadlineOf x a ≤ b.cyc))
    (l.filter (fun s => decide (8 ≤ s.op ∧ s.op ≤ 10))) &&
  (ofOp 6 w.all).all (i.cellsNamed nd x) && (firstBad (i.cellsDone nd x) (ofOp 6 l)).isNone &&
  (setr.zip (setr.drop 8)).all (fun e => decide (e.1 + 4096 ≤ e.2)) && i.framesOk nd x w.e l

/-- SYNC: ID, PART and instant. -/
def Image.syncs (i : Image) (x : Nat) (l : List Iss) : List (Nat × Nat × Nat) :=
  (ofOp 12 l).map (fun s => (bits s.ins 15 8, bits s.ins 4 0, i.instant x s.cyc))

/-- R243 and R245 over all programs. -/
def Image.syncOk (i : Image) (nd x : Nat) (ws : List WalkRes) : Bool :=
  let w (y : Nat) : WalkRes := nth {} ws y
  let horizon := minL ((chantersOf nd).map (fun y => i.instant y (w y).e))
  (i.syncs x (w x).l).all (fun s => decide (horizon ≤ s.2.2) ||
    (List.range 5).all (fun n => !s.2.1.testBit n ||
      (let y := if n = 0 then 4 else n - 1
       (chantersOf nd).elem y && (i.syncs y (w y).l).elem s))) &&
  ((chantersOf nd).all (fun y => (w y).halt.isNone) ||
   (chantersOf nd).all (fun y => (match (w y).halt, (w x).halt with
     | some a, some b => i.instant y a == i.instant x b
     | _, _ => false)))

/-- R247: a mask leaves the IO die 64 FCLK cycles before an X die latches it. -/
def Image.masksOk (i : Image) (x : Nat) (ws : List WalkRes) : Bool :=
  let c (y : Nat) : List Nat := (ofOp 16 (nth {} ws y).l).map Iss.cyc
  x == 4 || ((c 4).zip (c x)).all (fun e => decide ((e.1 + 64) * i.hdr.mX ≤ e.2 * i.hdr.mF))

/-- The gap of a class on a die, in ns. -/
def Image.gap (i : Image) (x b : Nat) (ws : List WalkRes) : Nat :=
  let w := nth {} ws x
  i.gapNs x (gapOf (waits w.l) b w.e w.halt.isSome)

/-- A gap is above 40 µs (R265). -/
def Image.gapBad (i : Image) (x b : Nat) (ws : List WalkRes) : Bool := decide (40000 < i.gap x b ws)

/-- FRAM. -/
def Chk.fram (x : Chk) (ws : List WalkRes) : Option ImgFail :=
  let i := x.i
  firstFail ((4 :: List.range x.nd).map (fun y =>
    let die := if y = 4 then 7 else y
    let b := sectBytes x.ss idFram die
    let fail (o : Option Nat) : ImgFail := x.at_ 15 idFram die o
    let pr := (i.prog y).instrs
    let bad := pr.findIdx (fun ins => !i.insOk y ins)
    let sc := i.scan y
    firstFail [need (decide (1 ≤ leAt b 0 4 ∧ leAt b 0 4 ≤ 65536 ∧ b.length = 16 + 8 * leAt b 0 4) && zeroAt b 4 4) (fail (some 0)),
      need (bad == pr.length) (fail (some (16 + 8 * bad))), need sc.ok (fail (some (16 + 8 * sc.pc))),
      need (i.progOk x.nd y (nth {} ws y) && i.syncOk x.nd y ws && i.masksOk y ws &&
        !i.gapBad y 32 ws && !i.gapBad y 34 ws) (fail none)]))

/-! ### Budgets (R254 to R263) -/

/-- The budgets of Table 10.12 as recomputed. -/
structure Budgets where
  hbm : Nat
  xbar : Nat
  refr : Nat
  act : Nat
  peak : Nat
  step : Nat
  sram : Nat
  barr : Nat

/-- Q of R255: die cycles per budget interval. -/
def Image.qOf (i : Image) (x : Nat) : Nat := max ((i.dieClk x).1 / ((i.dieClk x).2 * 1000000)) 1

/-- The greatest sum of weights under one key. -/
def peakSum (l : List (Nat × Nat)) : Nat :=
  maxL (((l.mergeSort (fun a b => decide (a.1 ≤ b.1))).foldl (fun (t : List (Nat × Nat)) e => match t with
    | [] => [e]
    | x :: r => if x.1 = e.1 then (x.1, x.2 + e.2) :: r else e :: x :: r) []).map (fun e => e.2))

/-- Bytes of an interval as a fraction of the capacity, in 0.1 % (Table 11.2). -/
def Image.share (i : Image) (x cap b : Nat) : Nat :=
  cdiv (1000 * b * (i.dieClk x).1) (cap * i.qOf x * 1000000 * (i.dieClk x).2)

/-- The HBM units of a die: cycle and address, request by request. -/
def Image.allUnits (i : Image) (nd d : Nat) (l : List Iss) : List (List (Nat × Nat)) :=
  let sz := i.plan.wsize nd d
  (l.flatMap (i.reqs d)).map (i.hbmUnits sz d)

/-- The pseudo-channel of an address among the 128 of a die. -/
def pcKey (a : Nat) : Nat := stackOf 0 a * 64 + pcOf a

def Image.hbmPeak (i : Image) (nd d : Nat) (l : List Iss) : Nat :=
  i.share d 32000 (peakSum ((i.allUnits nd d l).flatten.map (fun u => (u.1 / i.qOf d * 128 + pcKey u.2, 64))))

/-- Weights that an update sends for a channel: the baselines of its counted tasks (R151). -/
def Plan.emitN (p : Plan) (ch : Nat) : Nat :=
  let n (b : Nat) : Nat := min 64 (p.nIn - 64 * b)
  sumL (((tasksOf p.B).zip (List.range p.T)).map (fun e =>
    if p.counts ch e.2 then (if e.1.1 = e.1.2 then n e.1.1 * (n e.1.1 + 1) / 2 else n e.1.1 * n e.1.2) else 0))

/-- Bulk-crossbar traffic (R257): target, cycle, bytes. Targets: 0 the PCIe requester, 1 + g the lane
transmit port of lane group g, 17 + d the port of X die d (Table 16.2). -/
def Image.xbarUnits (i : Image) (nd d : Nat) (l : List Iss) : List (Nat × Nat × Nat) :=
  let p := i.plan
  let lat := p.delay * i.xclk.1 / (i.xclk.2 * 1000000000)
  (i.sframes nd d l).map (fun f => (if f.dest.testBit 15 then 0 else 1 + f.dest % 256 / 16, f.done + lat, f.len)) ++
  (i.actsOf d 1 l).flatMap (fun e =>
    match (p.owned nd d)[(actChan e.2 e.1.t.loops).toNat]? with
    | none => []
    | some ch =>
      let h := p.home nd (p.unitOf ch)
      let n := cdiv (4 * p.emitN ch) 64
      if h = d ∨ (e.1.t.window + 1) % max p.ints 1 ≠ 0 then []
      else (List.range n).map (fun k => (17 + h, e.1.cyc + 1 + k * (actDeadline e.2 - 1) / n, min 64 (4 * p.emitN ch - 64 * k))))

def Image.xbarPeak (i : Image) (nd : Nat) (ws : List WalkRes) : Nat :=
  i.share 0 255923 (peakSum ((List.range nd).flatMap (fun d => (i.xbarUnits nd d (nth {} ws d).l).map
    (fun e => (e.2.1 / i.qOf 0 * 32 + e.1, e.2.2)))))

/-- The refresh slots of a die up to cycle `e`: first cycle and end (R255). -/
def refSlots (q e : Nat) : List (Nat × Nat) :=
  (List.range (e / q)).flatMap (fun u => [(u * q, u * q + cdiv q 2), (u * q + cdiv q 2, (u + 1) * q)])

/-- The least sum of 64 consecutive elements, from the running sums. -/
def least64 (l : List Nat) : Nat :=
  let ps := (l.foldl (fun (t : List Nat) v => (t.headD 0 + v) :: t) [0]).reverse
  minL ((ps.zip (ps.drop 64)).map (fun e => e.2 - e.1))

/-- A test of each of a list of slots in rising order against what is left of `ws` once all that lies wholly before the slot is dropped. -/
def slotTest {α : Type} (before holds : Nat × Nat → α → Bool) (ss : List (Nat × Nat)) (ws : List α) : List Bool :=
  (ss.foldl (fun (t : List α × List Bool) s =>
    let ws := t.1.dropWhile (before s)
    (ws, ws.head?.any (holds s) :: t.2)) (ws, [])).2.reverse

/-- REFRESH_RESERVE (R258): a slot is free inside one window with bit [35], with no unit of the pseudo-channel in it. -/
def Image.refReserve (i : Image) (nd d : Nat) (w : WalkRes) : Nat :=
  let slots := refSlots (i.qOf d) w.e
  let open_ := slotTest (fun s v => decide (v.2.1 < s.2)) (fun s v => decide (v.1 ≤ s.1)) slots
    ((waits w.l).filter (fun v => v.2.2.testBit 3))
  let us := (i.allUnits nd d w.l).flatten.map (fun u => (pcKey u.2, u.1))
  minL ((List.range 128).map (fun pc =>
    let mine := ((us.filter (fun u => u.1 == pc)).map (fun u => u.2)).mergeSort (fun a b => decide (a ≤ b))
    let hit := slotTest (fun s u => decide (u < s.1)) (fun s u => decide (u < s.2)) slots mine
    least64 ((open_.zip hit).map (fun e => b2n (e.1 && !e.2)))))

/-- The row of an address on a die: stack, pseudo-channel, bank, row. -/
def rowKey (a : Nat) : Nat := (pcKey a * 64 + bankOf a) * 2 ^ 14 + rowOf a

/-- The activations of a request: the first unit of each run in one row (R260). -/
def actsOfReq (us : List (Nat × Nat)) : List (Nat × Nat) :=
  (us.zip (List.range us.length)).filterMap (fun e =>
    if e.2 ≠ 0 ∧ rowKey (nth (0, 0) us (e.2 - 1)).2 = rowKey e.1.2 then none else some (rowKey e.1.2, e.1.1))

/-- ACT_PEAK (R260): the activations are sorted by row and cycle, and each begins a span of 32 ms. -/
def Image.actPeak (i : Image) (nd d : Nat) (l : List Iss) : Nat :=
  let as := ((i.allUnits nd d l).flatMap actsOfReq).mergeSort (fun a b => decide (a.1 < b.1 ∨ a.1 = b.1 ∧ a.2 ≤ b.2))
  (as.reverse.foldl (fun (t : List (Nat × Nat) × Nat) a =>
    let r := a :: t.1
    (r, max t.2 (r.takeWhile (fun b => b.1 == a.1 && decide (b.2 < a.2 + i.ms32 d))).length)) ([], 0)).2

/-- Cycles in which two mover accesses of space 2 fall on one sub-bank (R262). -/
def Image.sramClashes (i : Image) (d : Nat) (l : List Iss) : Nat :=
  let us := (l.flatMap (i.reqs d)).flatMap (fun r => if r.space = 2 then r.units.map (fun u => u.1 * 2 ^ 20 + u.2 / 524288) else [])
  let us := us.mergeSort (fun a b => decide (a ≤ b))
  let cs := ((us.zip (us.drop 1)).filter (fun e => e.1 == e.2)).map (fun e => e.1 / 2 ^ 20)
  cs.length - ((cs.zip (cs.drop 1)).filter (fun e => e.1 == e.2)).length

/-! ### The power profile (R228, R248, R261) -/

/-- The slots of one stretch of a segment: first cycle, end, value. -/
def Powr.slots (w : Powr) (a b seg : Nat) : List (Nat × Nat × Nat) :=
  let s := nth (0, 1) w.segs seg
  let f := max w.slotF 1
  (List.range (cdiv (b - a) f)).map (fun k => (a + k * f, min (a + (k + 1) * f) b, nth 0 w.vals (s.1 + min k (s.2 - 1))))

/-- The stretches between PSTEPs. -/
def Powr.stretches (w : Powr) (e : Nat) : Nat → Nat → List (Nat × Nat) → List (Nat × Nat × Nat)
  | a, seg, [] => w.slots a e seg
  | a, seg, (b, s) :: r => w.slots a b seg ++ Powr.stretches w e b s r

/-- The profile that the IO-die program selects. -/
def Image.profile (i : Image) (w : WalkRes) : List (Nat × Nat × Nat) :=
  i.powr.stretches w.e 0 0 ((ofOp 14 w.l).map (fun s => (s.cyc + 1, bits s.ins 23 0)))

/-- The sum of the slot values over the cycles before `t`, in units of 1/`k` cycle; beyond the walk's end `e` a profile of
passes of `p` cycles repeats its last pass. -/
def profileSum (pr : List (Nat × Nat × Nat)) (k e p t : Nat) : Nat :=
  let s (t : Nat) : Nat := sumL (pr.map (fun x => x.2.2 * (min (x.2.1 * k) t - min (x.1 * k) t)))
  if t ≤ e * k ∨ p = 0 then s t
  else
    let n := cdiv (t - e * k) (p * k)
    s (t - n * (p * k)) + n * (s (e * k) - s ((e - p) * k))

/-- Every 250 ms average is at least the mean of the slots of its 250 ms that the schedule runs (R261): to HALT, or until the
program's passes and the list of averages have come to the same phase again. -/
def Image.avgsOk (i : Image) (w : WalkRes) : Bool :=
  let f := i.fclk
  let k := 4 * f.2
  let pr := i.profile w
  let p := match (i.scan 4).loop with
    | some l => l.2
    | none => 0
  let reps := (i.powr.avgs.length - i.powr.rep) * f.1
  let ends := if w.halt.isSome then w.e * k else w.e * k + i.powr.avgs.length * f.1 + Nat.lcm (max (p * k) 1) (max reps 1)
  (List.range (cdiv ends (max f.1 1))).all (fun j =>
    let a := j * f.1
    let b := if w.halt.isSome then min ((j + 1) * f.1) (w.e * k) else (j + 1) * f.1
    decide (profileSum pr k w.e p b - profileSum pr k w.e p a ≤ i.avg j * (b - a)))

/-- SYNC IDs of the IO-die program with their PARTs (R263). -/
def Image.barriers (i : Image) : List (Nat × Nat) :=
  ((i.prog 4).instrs.filter (fun ins => insOp ins == 12)).map (fun ins => (bits ins 15 8, bits ins 4 0))

/-- The budgets. -/
def Image.budgets (i : Image) (nd : Nat) (ws : List WalkRes) : Budgets :=
  let w (x : Nat) : WalkRes := nth {} ws x
  let ds := List.range nd
  let pr := (i.profile (w 4)).map (fun s => s.2.2)
  { hbm := maxL (ds.map (fun d => i.hbmPeak nd d (w d).l)), xbar := i.xbarPeak nd ws,
    refr := minL (ds.map (fun d => i.refReserve nd d (w d))), act := maxL (ds.map (fun d => i.actPeak nd d (w d).l)),
    peak := maxL pr, step := maxL ((pr.zip (pr.drop 1)).map (fun e => max e.1 e.2 - min e.1 e.2)),
    sram := sumL (ds.map (fun d => i.sramClashes d (w d).l)) + Config.sramExtra i,
    barr := (i.barriers.map (fun e => e.1)).eraseDups.length }

/-- BUDGET (R229, R261, R263). -/
def Chk.budget (x : Chk) (ws : List WalkRes) : Option ImgFail :=
  let b := sectBytes x.ss idCntr 0xFF
  let g := x.i.budgets x.nd ws
  let bs := x.i.barriers
  let field (o n v : Nat) (ok : Bool) : Option ImgFail := need (leAt b o n == v && ok) (x.at_ 19 idCntr 0xFF (some o))
  firstFail [field 0 2 g.hbm (decide (g.hbm ≤ 850)), field 2 2 g.xbar (decide (g.xbar ≤ 750)), field 4 2 g.refr (decide (16 ≤ g.refr)),
    field 6 2 0 true, field 8 4 g.act (decide (g.act ≤ 4096)), field 12 2 g.peak (decide (g.peak ≤ 6200)),
    field 14 2 g.step (decide (g.step ≤ 400)), field 16 4 g.sram (decide (g.sram = 0)), field 20 4 g.barr (decide (g.barr ≤ 256)),
    field 24 8 0 true,
    need (x.i.avgsOk (nth {} ws 4) && bs.all (fun a => bs.all (fun c => a.1 != c.1 || a.2 == c.2))) (x.at_ 19 idCntr 0xFF)]

end Sys2Proof.Machine
end

