-- ==== Sys2Proof/Machine/Image.lean ====
section
/-! DEFINITION. Machine/Image.lean: IMAGE_COMMIT and IMAGE_VERIFY_DONE: the verification of Table 10.14, INIT and what a load
leaves (R230 to R232, R265, R277). -/

namespace Sys2Proof.Machine

/-! ### INIT (R230) -/

/-- An INIT entry: page, offset, value, mask. -/
def initEntries (b : List Byte) : List (Nat × Nat × Nat × Nat) :=
  (List.range (b.length / 12)).map (fun n => (leAt b (12 * n) 2, leAt b (12 * n + 2) 2, leAt b (12 * n + 4) 4, leAt b (12 * n + 8) 4))

/-- The writable bits of a register that an entry may name (Table 10.13); none for any other register. -/
def initMask (part : Part) (page off : Nat) : Option Nat :=
  match pageAt part page with
  | none => none
  | some k =>
    let named := match k with
      | .ingest => off == 0x040 || off == 0x050 || off == 0x068
      | .fst s => s == 0 && (off == 0x044 || off == 0x058 || off == 0x05C)
      | .cells _ => off == 0x044
      | .xdie _ => off == 0x208 || off == 0x20C
      | _ => false
    if named then let r := k.row off; some (r.rw ||| r.rws ||| r.rwl) else none

/-- INIT as a check. -/
def Chk.initCheck (x : Chk) : Option ImgFail :=
  let b := sectBytes x.ss idInit 0xFF
  let es := initEntries b
  let bad := es.findIdx (fun e => match initMask x.c.part e.1 e.2.1 with
    | some m => decide (e.2.2.2 &&& m ≠ e.2.2.2)
    | none => true)
  need (b.length % 12 == 0 && bad == es.length) (x.at_ 20 idInit 0xFF (some (12 * bad)))

/-- INIT as applied: reg = (reg & ~MASK) | (VALUE & MASK). -/
def Core.applyInit (c : Core) (b : List Byte) : Core :=
  (initEntries b).foldl (fun c e =>
    let key := e.1 * 4096 + e.2.1
    let m := e.2.2.2
    c.setReg key (word (((c.reg key).toNat &&& (m32 ^^^ m)) ||| (e.2.2.1 &&& m)))) c

/-! ### Verification -/

/-- What a verification leaves: its failure, GAP values by Chanter and class where it reached FRAM, and the budgets where it
reached them (R265, R277). -/
structure Verdict where
  fail : Option ImgFail
  gaps : Option (List (Nat × Nat × Nat)) := none
  bud : Option Budgets := none
  img : Option Image := none

/-- The checks of Table 10.14 in their order. -/
def Core.verify (c : Core) (b : List Byte) (extent : Nat) : Verdict :=
  match firstFail [checkSize b extent, checkFormat c.part.dies b] with
  | some f => { fail := some f }
  | none =>
    let i := parseImage c.part.dies b
    let x : Chk := { c := c, b := b, ss := imgSects b, i := i }
    match firstFail [x.device, x.digest, x.sign, x.clock, x.map, x.chan] with
    | some f => { fail := some f }
    | none =>
      let ws := i.walks x.nd
      let ls := ws.map WalkRes.l
      let all := ws.map WalkRes.all
      match firstFail [x.stage all, x.task ls, x.dump ls all] with
      | some f => { fail := some f }
      | none =>
        let gaps := (chantersOf x.nd).flatMap (fun y => ([32, 33, 34, 35, 36, 37] : List Nat).map (fun n => (y, n, i.gap y n ws)))
        match firstFail [x.fram ws, x.moves all, x.hbmsCheck all, x.beamCheck ls all, x.redCheck ls all, x.powrCheck] with
        | some f => { fail := some f, gaps := some gaps }
        | none => { fail := firstFail [x.budget ws, x.initCheck], gaps := some gaps, bud := some (i.budgets x.nd ws), img := some i }

/-- The GAP registers. -/
def Core.showGaps (c : Core) (gs : List (Nat × Nat × Nat)) : Core :=
  gs.foldl (fun c g => c.wr (chanterPage g.1) (0x1A4 + 4 * (g.2.1 - 32)) g.2.2) c

/-- The BUD registers (Table 11.8). -/
def Core.showBudgets (c : Core) (g : Budgets) : Core :=
  let h (n : Nat) : Nat := min n 0xFFFF
  (((((c.wr .chn 0x1C0 (h g.hbm + 65536 * h g.xbar)).wr .chn 0x1C4 (h g.refr + 65536 * h g.peak)).wr .chn 0x1C8 (min g.act m32)).wr
    .chn 0x1CC (h g.step + 65536 * h g.barr))).wr .chn 0x1DC (min g.sram m32)

/-- A rejected image (R232). -/
def Core.imgRejected (c : Core) (r : Nat) (f : ImgFail) : Core :=
  let c : Core := match f.off with
    | some o => c.wr .chn 0x08C o
    | none => { c.wr .chn 0x08C (Config.freeWord c.free).toNat with free := c.free + 1 }
  let c := { c.wr .chn 0x088 f.entry with imgSt := 0, imgReason := f.reason, imgMode := 0 }
  (c.raise .chn 7).finish r stRejected 0 f.reason

/-- LINK_PEAK in Gb/s (Table 5.2). -/
def Image.linkPeak (i : Image) (nd : Nat) : Nat :=
  maxL ((List.range nd).map (i.linkLoad nd)) / (i.xclk.2 * i.hdr.mX * i.plan.L * i.plan.P * 1000000000)

/-- An image LOADED (R232). -/
def Core.imgLoaded (c : Core) (r : Nat) (i : Image) (ss : List Sect) : Core :=
  let c := c.applyInit (sectBytes ss idInit 0xFF)
  let c := ((c.wr .chn 0x090 i.tag).wr .chn 0x094 i.len).wr .crook 0x080 (i.linkPeak c.part.dies)
  let c := { c with img := some i, imgSt := 3, imgReason := 0, imgMode := i.hdr.mode }
  (c.raise .chn 6).finish r stAccepted

/-! ### IMAGE_COMMIT -/

/-- IMAGE_COMMIT. -/
def doImageCommit (r : Nat) (_ : Desc) (c : Core) : Core :=
  if c.power.mode ≠ .idle ∨ c.host.loadRing.isNone ∨ c.host.commitRing.isSome then c.finish r stMode
  else { c.setBusy r with imgSt := 2, host := { (c.setBusy r).host with loadRing := none, commitRing := some r } }

def execImageCommit (r : RingNo) : State → Host.Outcome State Fault Refusal :=
  act (fun c => c.exec r.val 0x02 (doImageCommit r.val))

/-- IMAGE_VERIFY_DONE. -/
def doImageVerifyDone (c : Core) : Core :=
  match c.host.commitRing with
  | none => c
  | some r =>
    if c.imgSt ≠ 2 then c
    else
      let b := c.io.read 0x0E000000 c.host.extent
      let v := c.verify b c.host.extent
      let c := { c with host := { c.host with commitRing := none } }
      let c := match v.gaps with
        | some g => c.showGaps g
        | none => c
      let c := match v.bud with
        | some g => c.showBudgets g
        | none => c
      match v.fail, v.img with
      | some f, _ => c.imgRejected r f
      | none, some i => c.imgLoaded r i (imgSects b)
      | none, none => c

def execImageVerifyDone : State → Host.Outcome State Fault Refusal := act doImageVerifyDone

end Sys2Proof.Machine
end

