-- ==== Sys2Proof/Machine/Modes.lean ====
section
/-! DEFINITION. Machine/Modes.lean: the requests of MODE_CMD, the start checks, the start and stop sequences and the switches
of power domains (R65, R165, R167, R190, R212, R272, R279 to R283, R454 to R457). -/

namespace Sys2Proof.Machine

/-! ### Requests (R279) -/

/-- A request: refused in SAFE, during a forced stop, and outside STEADY (R279, R422, R425). -/
def Core.request (c : Core) (f : Core → Core) : Core :=
  if c.power.mode = .safe then c.modeReject 1
  else if c.power.forced ∨ c.power.phase ≠ .steady then c.modeReject 2
  else f c

/-- The controller-and-PHY pairs. -/
def hbmDoms (nd : Nat) : List Nat := xDoms nd [31, 32]

/-- REQ = BRINGUP. -/
def doReqBringup (c : Core) : Core :=
  c.request (fun c =>
    if c.power.mode = .idle then (c.enterMode .bringup).askDomains (hbmDoms c.part.dies) false else c.modeReject 1)

def execReqBringup : State → Host.Outcome State Fault Refusal := regCmd .reqBringup .mode doReqBringup

/-- Every HBM stack present is TRAINED at rate 0 (R344). -/
def Core.allTrained (c : Core) : Bool := (List.range (2 * c.part.dies)).all (fun i => c.stackUp i && (c.stack i).rate == 0)

/-- REQ = IDLE. -/
def doReqIdle (c : Core) : Core :=
  c.request (fun c =>
    if c.power.mode ≠ .bringup then c.modeReject 1
    else if c.allTrained then c.enterMode .idle else c.modeReject 4)

def execReqIdle : State → Host.Outcome State Fault Refusal := regCmd .reqIdle .mode doReqIdle

/-- REQ = STOP; during a start or a stop it is merged into the stop in hand (R279, R281). -/
def doReqStop (c : Core) : Core :=
  if c.power.mode = .safe then c.modeReject 1
  else if c.power.forced then c.modeReject 2
  else if c.power.mode.isSchedule then c.toQuiesce
  else if c.starting then c.abandonStart none
  else if c.power.phase ≠ .steady then c
  else c.modeReject 1

def execReqStop : State → Host.Outcome State Fault Refusal := regCmd .reqStop .mode doReqStop

/-- REQ = SHELVE: everything outside the Drone domain is lost, the PCIe link with it (R279, R426). -/
def doReqShelve (c : Core) : Core :=
  c.request (fun c =>
    if c.power.mode = .bringup ∨ c.power.mode = .idle then
      let up := c.host.linkUp
      let c := c.coldReset.modPower (fun p => { p with shelvedBy := true })
      if up then c.emit .linkLost else c
    else c.modeReject 1)

def execReqShelve : State → Host.Outcome State Fault Refusal := regCmd .reqShelve .mode doReqShelve

/-- MODE_CMD.CLR_CNT (R304). -/
def doModeClrCnt (c : Core) : Core := c.clear .mode [0x060, 0x064]

def execModeClrCnt : State → Host.Outcome State Fault Refusal :=
  regCmd .modeClrCnt .mode doModeClrCnt

/-! ### The start checks of code 7 -/

/-- The link that a destination shares: a lane, or 256 for PCIe. -/
def linkKey (dest : Nat) : Nat := if dest.testBit 15 then 256 else dest % 256

/-- A destination that cannot take frames of a ring role: cause 1 or 2 of R165, 0 where it can. -/
def Core.destCause (c : Core) (role dest : Nat) : Nat :=
  match destLane dest with
  | some n => if c.txMode n = 0 ∨ c.txMode n = 3 then 2 else 0
  | none => if (c.ring (dest % 4096)).role = role then 0 else 1

/-- The line rate of LANE_CFG.TX_STEP in bit/s (R34). -/
def Core.txRate (c : Core) (n : Nat) : Nat := 3515625000 * 2 ^ c.txStepCfg n

/-- The bytes of one window stay within R167 on a link. -/
def Core.rateOk (c : Core) (i : Image) (key : Nat) (fs : List SFrame) : Bool :=
  let cyc := i.hdr.fpw * i.hdr.frameF * i.fclk.2
  if key = 256 then decide (sumL (fs.map SFrame.len) * 10 * i.fclk.1 ≤ 9 * c.host.bw * cyc)
  else decide (sumL (fs.map (fun f => (f.len + 12) * 8 * 24)) * i.fclk.1 ≤ (c.txRate key - 5760000) * 23 * cyc)

/-- The links that fail R167 in some window. -/
def Core.overLinks (c : Core) (i : Image) (fs : List SFrame) : List Nat :=
  let win (f : SFrame) : Nat := (f.done - (i.prog f.die).first) / (i.hdr.fpw * i.dieFrame f.die)
  let keys := (fs.map (fun f => (linkKey f.dest, win f))).eraseDups
  ((keys.filter (fun k => !c.rateOk i k.1 (fs.filter (fun f => linkKey f.dest == k.1 && win f == k.2)))).map (fun k => k.1)).eraseDups

/-- The destination entries that die `d` checks under R165. -/
def Image.dieDests (i : Image) (nd d : Nat) : List Nat :=
  let p := i.plan
  (p.owned nd d).map (fun ch => nth 0 p.dest ch) ++ (p.homeUnits nd d).map (fun u => nth 0 p.dest (p.nCh + u)) ++
    [nth 0 p.dest (p.nCh + p.nUnits + d)]

/-- START_CAUSE of die `d`, 0 where R165 holds. -/
def Core.startCause (c : Core) (i : Image) (overs : List Nat) (d : Nat) : Nat :=
  let es := i.dieDests c.part.dies d
  if es.any (fun e => c.destCause 2 e == 1) then 1
  else if es.any (fun e => c.destCause 2 e == 2) then 2
  else if es.any (fun e => e.testBit 15) ∧ overs.elem 256 then 3
  else if es.any (fun e => !e.testBit 15 && overs.elem (e % 256)) then 4 else 0

/-- LAUNCH of a frame less that of T0, in ns. -/
def Image.launchNs (i : Image) (f : SFrame) : Nat := f.done * 1000000000 * (i.dieClk f.die).2 / (i.dieClk f.die).1

/-- The next frame of a destination follows too soon (R272); on PCIe at 0.9 of the payload bandwidth at the start (R356). -/
def Core.tooSoon (c : Core) (i : Image) (a b : SFrame) : Bool :=
  let gap := i.launchNs b - i.launchNs a
  if a.dest.testBit 15 then decide (gap * 9 * c.host.bw < a.len * 10000000000)
  else decide (gap * 23 * c.txRate (a.dest % 256) < (a.len + 84) * 8 * 24 * 1000000000)

/-- The dies whose frames come too soon after another of their destination (R272). -/
def Core.soonDies (c : Core) (i : Image) (fs : List SFrame) : List Nat :=
  let keys := (fs.map (fun f => destKey f.dest)).eraseDups
  (keys.flatMap (fun k =>
    let l := sortBy (fun (a b : SFrame) => decide (a.done < b.done ∨ (a.done = b.done ∧ a.die < b.die))) (fs.filter (fun f => destKey f.dest == k))
    (l.zip (l.drop 1)).filterMap (fun e => if c.tooSoon i e.1 e.2 then some e.2.die else none))).eraseDups

/-- START_CAUSE of every die, and START_FAIL where it is not 0. -/
def Core.showCauses (c : Core) (f : Nat → Nat) : Core :=
  (List.range c.part.dies).foldl (fun c d =>
    let c := c.wr (.xdie d) 0x204 (16 * f d)
    if f d = 0 then c else c.raise (.xdie d) 5) c

/-- The destinations of the used beams of a target (R190): a slice 2d + j, or the cells 8 + d. -/
def Image.targetDests (i : Image) (t : Nat) : List Nat :=
  let ns := if t < 8 then (List.range 64).map (fun b => 64 * (t % 2) + b) else (List.range 896).map (fun b => 128 + b)
  ns.flatMap (fun n =>
    let o := i.beams.beam n
    (if o.vkind ≠ 0 ∧ n < 128 then [o.vdest] else []) ++ (if o.dkind ≠ 0 then [o.ddest] else []))

/-- A target fails R190. -/
def Core.targetFails (c : Core) (i : Image) (overs : List Nat) (t : Nat) : Bool :=
  let used := if t < 8 then i.sliceUsed (t % 2) else i.cellsUsed
  let x := c.target t
  used && ((if x.activeB then x.b else x.a) != .loaded ||
    (i.targetDests t).any (fun e => c.destCause 3 e != 0 || overs.elem (linkKey e)))

/-- A reduction unit fails R212. -/
def Core.redFails (c : Core) (i : Image) (overs : List Nat) (d : Nat) : Bool :=
  let g := i.redCfg d
  g.kind != 0 && (c.destCause 4 g.dest != 0 || overs.elem (linkKey g.dest))

/-- The start checks in the order R65, R165, R190, R212, R272; the first rule that fails shows its detail. -/
def Core.startChecks (c : Core) (i : Image) : Core × Bool :=
  let nd := c.part.dies
  let lanes := bit (c.rd .ingest 0x040) 0 || (List.range 256).all (fun n =>
    i.plan.sn n == 0 || ((c.lane n).st == .up && i.fits n (c.lane n).step))
  if lanes = false then (c.raise .ingest 3, false)
  else
    let ls := (i.walks nd).map WalkRes.l
    let fs := (List.range nd).flatMap (fun d => i.sframes nd d (nth [] ls d))
    let overs := c.overLinks i fs
    let c' := c.showCauses (c.startCause i overs)
    if (List.range nd).any (fun d => c.startCause i overs d != 0) then (c', false)
    else
      let bad := (List.range 12).filter (fun t => decide (bankDie t < nd) && c.targetFails i overs t)
      if bad.isEmpty = false then (bad.foldl (fun c t => c.raise (targetPage t) 6) c', false)
      else
        let red := (List.range nd).filter (c.redFails i overs)
        if red.isEmpty = false then (red.foldl (fun c d => c.raise (.red d) 5) c', false)
        else
          let soon := c.soonDies i fs
          if soon.isEmpty then (c', true) else (c'.showCauses (fun d => if soon.elem d then 5 else 0), false)

/-! ### START (R280) -/

/-- The first sample index whose STB tick is at or after a TC in ns. -/
def Core.stbCeil (c : Core) (tcNs : Int) : Int :=
  (c.time.epochS : Int) - (-((tcNs - c.time.epochTc) * (c.fcc.1 : Int))) / ((c.fcc.2 : Int) * 1000000000)

/-- The time in ns to raise the draw to P_start at R_eff; none where R_eff is 0. -/
def Core.preRollNs (c : Core) : Option Nat :=
  let up := c.pStart - c.pDraw
  if up = 0 then some 0 else if c.rEff = 0 then none else some (cdiv (up * 1000000) c.rEff)

/-- The earliest acceptable sample index: STB 10 ms after the predicted end of the pre-roll. -/
def Core.startEarliest (c : Core) : Option Int := c.preRollNs.map (fun n => c.stbCeil ((c.time.tcNs : Int) + n + 10000000))

/-- START_SAMPLE of the image, or of MODE where the image holds 0 (R221). -/
def Core.startSample (c : Core) (i : Image) : Nat := if i.plan.start0 = 0 then c.rd64 .mode 0x048 else i.plan.start0

/-- A start too early: LATE, and the earliest index; a free value where the ramp is held at 0. -/
def Core.startLate (c : Core) : Core :=
  let (e, c) := match c.startEarliest with
    | some e => (e.toNat, c)
    | none => ((Config.freeWord c.free).toNat + 2 ^ 32 * (Config.freeWord (c.free + 1)).toNat, { c with free := c.free + 2 })
  (c.wr64 .mode 0x050 e).modeReject 8

/-- START in IDLE: the checks of codes 3 to 8, then POWERING. -/
def Core.startIdle (c : Core) (inspect : Bool) : Core :=
  match (if c.imgSt = 3 then c.img else none) with
  | none => c.modeReject 3
  | some i =>
    if c.allTrained = false then c.modeReject 4
    else if c.time.dpll ≠ .locked ∧ c.time.dpll ≠ .holdover then c.modeReject 5
    else if c.plant.latch ∨ (c.plantEn ∧ c.plant.granted = false) then c.modeReject 6
    else
      let (c, ok) := c.startChecks i
      if ok = false then c.modeReject 7
      else
        let n := c.startSample i
        if c.startEarliest.any (fun e => decide (e ≤ (n : Int))) = false then c.startLate
        else
          let c := c.modPower (fun p => { p with phase := .powering, startSample := n, ballast := 0, runOn := false, draw := 0,
                                                 image := if inspect then some (Mode.ofHdr i.hdr.mode) else none })
          let c := { c with img := some { i with plan := { i.plan with start := n } } }
          c.askDomains (i.domains c.part.dies) true

/-- REQ = START. -/
def doReqStart (inspect : Bool) (c : Core) : Core :=
  c.request (fun c => if c.power.mode = .idle then c.startIdle inspect else c.modeReject 1)

def execReqStart (inspect : Bool) : State → Host.Outcome State Fault Refusal :=
  regCmd (.reqStart inspect) .mode (doReqStart inspect)

/-- PRE_ROLL_START: the image's domains are on. -/
def doPreRoll (c : Core) : Core :=
  match c.img with
  | some i =>
    let ready := (i.domains c.part.dies).all (fun n => c.domOn n && c.power.ready.testBit n)
    if c.starting ∧ c.power.phase = .powering ∧ ready then c.modPower (fun p => { p with phase := .preRoll }) else c
  | none => c

def execPreRollStart : State → Host.Outcome State Fault Refusal := act doPreRoll

/-- START_CEILING_TIMEOUT. -/
def doCeilingTimeout (c : Core) : Core := if c.starting ∧ c.ceiling * 1000 < c.pStart then c.abandonStart (some 9) else c

def execStartCeilingTimeout : State → Host.Outcome State Fault Refusal := act doCeilingTimeout

/-- START_LATE_ABANDON: step 4 has not ended. -/
def doLateAbandon (c : Core) : Core := if c.starting ∧ c.power.phase ≠ .waitT0 then c.abandonStart (some 8) else c

def execStartLateAbandon : State → Host.Outcome State Fault Refusal := act doLateAbandon

/-! ### T0 (R89, R164, R280, R317) -/

/-- TC in ns of the tick at which STB becomes START_SAMPLE. -/
def Core.t0Tick (c : Core) : Nat :=
  (c.time.epochTc - (-(((c.power.startSample : Int) - c.time.epochS) * c.fcc.2 * 1000000000)) / (c.fcc.1 : Int)).toNat

/-- The data path of an X die as a schedule starts it: memories, arrays and slots stand. -/
def XDieS.fresh (x : XDieS) : XDieS :=
  { sram := x.sram, buf := x.buf,
    cells := x.cells.foldl (fun m e => SMap.set (fun _ => {}) m e.1 e.2.release) [] }

/-- The synchronising reset (R89), and what a start clears (R66, R99, R100, R119, R168, R208, R227, R234). The ingest interval
in progress counts for R72 only where it begins at T0 itself. -/
def Core.syncReset (c : Core) : Core :=
  let nd := c.part.dies
  let rings := (((c.img.map Image.dests).getD []).filter (fun e => e.testBit 15)).map (fun e => e % 4096)
  let c := (List.range nd).foldl (fun c d => c.modX d XDieS.fresh) c
  let c := (4 :: List.range nd).foldl (fun c x =>
    ((c.setChanter x { st := .running }).wr (chanterPage x) 0x180 0)) c
  let c := c.wr64 .crook 0x048 0
  { c with
    io := { c.io with hist := { fill := .zero, cells := [] } },
    chan := { c.chan with streams := [], zooms := [], gstepWins := [], slipBlks := [], holdBlks := [] },
    ingest := { c.ingest with slots := [], sinceStart := 0, cur := { c.ingest.cur with old := decide (c.time.t0Tc % 100000000 ≠ 0) } },
    host := { c.host with
      seqs := [], seqOpen := [],
      gens := rings.foldl (fun (m : SMap Nat) r => SMap.set (fun _ => 0) m r (c.ring r).gen) [] } }

/-- SCHEDULE_T0. -/
def doT0 (c : Core) : Core :=
  match c.img with
  | none => c
  | some i =>
    if c.starting = false ∨ c.power.phase ≠ .waitT0 then c
    else
      let t := c.t0Tick
      let ns := (c.time.atbAt (t * 65536) / 65536).toNat
      let c := (c.timeTo t).modTime (fun u => { u with t0Tc := t })
      let c := (c.wr64 .chn 0x1D0 (ns / 1000000000)).wr .chn 0x1D8 (ns % 1000000000)
      let c := c.syncReset
      let c := c.modPower (fun p => { p with
        phase := .steady, running := true, runOn := false, ballast := 0, draw := 0, duty := c.sReg, seg := 0, segAt := 0,
        stepped := false, stopDrain := false, ramp := false })
      let c := { c with plant := { c.plant with alarmRun := false } }
      (c.enterMode (if c.power.image.isSome then .inspect else Mode.ofHdr i.hdr.mode)).raise .mode 2

def execScheduleT0 : State → Host.Outcome State Fault Refusal := act doT0

/-! ### The end of a stop (R281, R425) -/

/-- STOP_POWER_DOWN_DONE. -/
def doPowerDownDone (c : Core) : Core :=
  if c.power.phase = .powerDown ∧ c.power.want.any (fun e => !e.2) = false then
    (c.modPower (fun p => { p with phase := .steady, image := none, ramp := false, stopDrain := false })).enterMode .idle
  else c

def execStopPowerDownDone : State → Host.Outcome State Fault Refusal := act doPowerDownDone

/-! ### Domain switches (R283, R285, R342, R456) -/

/-- DOMAIN_SWITCH_ON: the next switch-on, on credit and under the ceiling. -/
def doSwitchOn (n : Nat) (c : Core) : Core :=
  let w := idleOf n
  if c.power.nextOn = some n ∧ w ≤ c.power.credit ∧ c.pDraw + w ≤ c.ceiling * 1000 then
    c.modPower (fun p => { p with
      on := p.on ||| 2 ^ n, credit := p.credit - w, want := p.want.filter (fun e => e != (n, true)) })
  else c

def execDomainSwitchOn (n : Fin 178) : State → Host.Outcome State Fault Refusal := act (doSwitchOn n.val)

/-- What a domain does once it is READY. -/
def Core.domWake (c : Core) (n : Nat) : Core :=
  if n < 16 then
    let back := c.host.d3up.filter (fun l => l / 16 == n)
    let c := { c with host := { c.host with d3up := c.host.d3up.filter (fun l => l / 16 != n) } }
    let c := back.foldl (fun c l => c.fastRetrain l) c
    let en := (List.range 16).filter (fun k => bit (c.rd (.lgrp n) 0x040) k && !back.elem (16 * n + k) && (c.lane (16 * n + k)).st == .off)
    let c := en.foldl (fun c k => c.bringUp (16 * n + k)) c
    match (c.lgrp n).enPend with
    | some v => (c.setLgrp n { c.lgrp n with enPend := none }).applyLaneEn n v
    | none => c
  else if n < 38 then c
  else
    let d := (n - 38) / 35
    let k := (n - 38) % 35
    if k = 33 then { c with links := c.links.set d true }
    else if k = 31 ∨ k = 32 then
      let i := 2 * d + (k - 31)
      let s := c.stack i
      if s.st = .off ∧ ((c.power.mode = .bringup ∧ bit (c.rd (hbmPage i) 0x040) 0) ∨ s.trainPend) then c.trainStart i false else c
    else c

/-- DOMAIN_READY: isolation release and local reset (R283); a return from D3hot keeps the registers (R427). -/
def doDomainReady (n : Nat) (c : Core) : Core :=
  if c.domOn n ∧ c.power.ready.testBit n = false then
    let keep := c.power.keepRegs.elem n
    let c := c.modPower (fun p => { p with ready := p.ready ||| 2 ^ n, keepRegs := p.keepRegs.filter (· != n) })
    (if keep then c else c.resetDomain n).domWake n
  else c

def execDomainReady (n : Fin 178) : State → Host.Outcome State Fault Refusal := act (doDomainReady n.val)

/-- A page of the domain has a message that waits for the collector (R414). -/
def Core.domPending (c : Core) (n : Nat) : Bool :=
  c.pend.any (fun p => match pageAt c.part p.page with
    | some k => k.domain == some n
    | none => false)

/-- DOMAIN_SWITCH_OFF: the next switch-off, on down-credit, its fault messages accepted. -/
def doSwitchOff (n : Nat) (c : Core) : Core :=
  let w := idleOf n
  if c.power.nextOff = some n ∧ w ≤ c.power.down ∧ c.domPending n = false then
    (c.modPower (fun p => { p with down := p.down - w, want := p.want.filter (fun e => e != (n, false)) })).domLose n
  else c

def execDomainSwitchOff (n : Fin 178) : State → Host.Outcome State Fault Refusal := act (doSwitchOff n.val)

end Sys2Proof.Machine
end

