-- ==== Sys2Proof/Machine/Breath.lean ====
section
/-! DEFINITION. Machine/Breath.lean: the ticks of the Breath governor, the messages to the plant and telemetry (R285 to R289,
R294, R299, R454). Powers are in 0.1 mW unless a name says 0.1 W. DEDUCED, notes/assumptions/36.md -/

namespace Sys2Proof.Machine

/-! ### BREATH_TICK (R285, R287) -/

/-- The draw of ballast level `b` above level 0. -/
def Core.ballastDraw (c : Core) (b : Nat) : Nat := b * c.ballastSpan / 64
/-- One step of ballast, up from `b`. -/
def Core.ballastStep (c : Core) (b : Nat) : Nat := c.ballastDraw (b + 1) - c.ballastDraw b

/-- The phases in which the pre-roll runs. -/
def Core.preRolling (c : Core) : Bool := c.starting && c.power.phase != .powering

/-- The increments that wait for credit: switch-ons, those of BRINGUP entry while PERST_N is asserted, the start of the
channeliser and Crook, a ballast step, a duty step (R285, R454). -/
def Core.increments (c : Core) : List Nat :=
  (c.power.want.filter (fun e => e.2)).map (fun e => idleOf e.1) ++
  (if c.perst ∧ c.power.mode = .shelved then [idleOf 34] else []) ++
  (if c.preRolling then (if c.power.runOn then (if c.power.ballast < c.ballastTop then [c.ballastStep c.power.ballast] else []) else [c.pRun0])
   else []) ++
  (if c.power.running ∧ c.power.duty < c.dutyMax ∧ c.power.mode ≠ .quiesce then [c.dP ((c.chanter 4).window + 1)] else [])

/-- A decrease waits for down-credit. -/
def Core.decreasing (c : Core) : Bool :=
  c.power.want.any (fun e => !e.2) || decide (0 < c.power.draw) ||
  (c.preRolling && decide (0 < c.power.ballast ∧ c.ceiling * 1000 < c.pDraw)) ||
  (c.power.running && decide (0 < c.power.duty) && (c.power.mode == .quiesce ||
    decide (c.dutyCeil ((c.chanter 4).window + 1) < c.power.duty)))

/-- The credits after 1 ms: the credit capped at twice the largest increment that waits, the down-credit without cap. -/
def Core.accrue (c : Core) : Core :=
  c.modPower (fun p => { p with
    credit := min (p.credit + c.rEff) (2 * maxL c.increments)
    down := if c.decreasing then p.down + c.rampDown else 0 })

/-- Ballast steps up, as many as credit and ceiling allow, with fuel. -/
def Core.ballastUp : Nat → Core → Core
  | 0, c => c
  | f + 1, c =>
    let w := c.ballastStep c.power.ballast
    if c.ballastTop ≤ c.power.ballast ∨ c.power.credit < w then c
    else if c.ceiling * 1000 < c.pDraw + w then c.raise .pwr 4
    else Core.ballastUp f (c.modPower (fun p => { p with ballast := p.ballast + 1, credit := p.credit - w }))

/-- Ballast steps down to stay under the ceiling, as many as the down-credit allows, with fuel. -/
def Core.ballastDown : Nat → Core → Core
  | 0, c => c
  | f + 1, c =>
    let w := c.ballastStep (c.power.ballast - 1)
    if c.power.ballast = 0 ∨ c.pDraw ≤ c.ceiling * 1000 ∨ c.power.down < w then c
    else Core.ballastDown f (c.modPower (fun p => { p with ballast := p.ballast - 1, down := p.down - w }))

/-- The pre-roll: the channeliser and Crook start, then ballast; WAIT_T0 at its full level (R280, R285). -/
def Core.preRollTick (c : Core) : Core :=
  if c.preRolling = false then c
  else
    let c :=
      if c.power.runOn then c
      else if c.power.credit < c.pRun0 then c
      else if c.ceiling * 1000 < c.pDraw + c.pRun0 then c.raise .pwr 4
      else
        let w := c.pRun0
        c.modPower (fun p => { p with runOn := true, credit := p.credit - w })
    if c.power.runOn = false then c
    else
      let c := (c.ballastDown 64).ballastUp 64
      c.modPower (fun p => { p with
        phase := if c.ballastTop ≤ p.ballast then .waitT0 else .preRoll })

/-- The ballast that a stop or PERST_N left is lowered; at 0 POWER_DOWN follows, or the clusters go off (R281, R429). -/
def Core.rampTick (c : Core) : Core :=
  if c.power.draw = 0 ∨ c.power.running then c
  else
    let n := min c.power.draw c.power.down
    let c := c.modPower (fun p => { p with draw := p.draw - n, down := p.down - n })
    if c.power.draw ≠ 0 then c
    else if c.power.phase = .draining then c.powerDown
    else if c.power.mode = .shelved ∨ c.power.mode = .bringup then
      (c.domsLose (xDoms 4 (List.range 24))).modPower (fun p => { p with ramp := false })
    else c

/-- BREATH_TICK. The Drone controller counts on in a freeze, where nothing else of it acts. -/
def doBreathTick (c : Core) : Core :=
  c.when c.droneOn (fun c =>
    let c := { c with plant := { c.plant with coolMs := min (c.plant.coolMs + 1) 0xFFFF } }
    let c := c.modPower (fun p => { p with warnMs := if c.plant.warn then p.warnMs + 1 else 0 })
    if c.dbg.frozen then c else c.accrue.preRollTick.rampTick)

def execBreathTick : State → Host.Outcome State Fault Refusal := actDrone doBreathTick

/-! ### FORECAST_TICK (R288, R294) -/

/-- The target of forecast slot `j`, in 0.1 W. -/
def Core.target0 (c : Core) (j : Nat) : Int :=
  if c.power.mode.isSchedule ∧ c.dbg.frozen = false then
    match c.img with
    | some i =>
      let base : Int := c.rd .pwr 0x050
      let n := ((c.time.tcNs : Int) - c.time.t0Tc).toNat / 250000000 + j
      base + ((c.dutyMax : Int) * ((i.avg n : Int) - base)).tdiv c.sReg
    | none => (c.pPowered + 500 : Nat) / 1000
  else if c.starting ∧ c.dbg.frozen = false then (c.pStart / 1000 : Nat)
  else ((c.pPowered + 500) / 1000 : Nat)

/-- Forecast value `j` in 0.1 W: rising at R_eff to the end of the slot, no further than target and ceiling. -/
def Core.forecastVal (c : Core) (j : Nat) : Nat :=
  let up := (c.pDraw + c.rEff * 250 * (j + 1) + 500) / 1000
  min (min (c.target0 j).toNat up) (min c.ceiling 0xFFFF)

/-- COOL_PWM in 1/256 for the highest forecast value (R294). -/
def Core.pwmFor (c : Core) (fmax : Nat) : Nat :=
  let lo : Int := bits (c.rd .plant 0x058) 8 0
  let hi : Int := bits (c.rd .plant 0x058) 24 16
  min (lo - (-((hi - lo) * fmax)) / 6200).toNat 256

/-- FORECAST_TICK. After a Fatal fault and in a freeze COOL_PWM stays at PWM_MAX (R282, R430). -/
def doForecastTick (c : Core) : Core :=
  c.when c.droneOn (fun c =>
    let c := c.modPower (fun p => { p with fcSlot := p.fcSlot + 1 })
    let vals := (List.range 16).map c.forecastVal
    let c := if c.power.mode = .safe ∨ c.power.mute ∨ c.dbg.frozen then c.pwmMax
      else { c with plant := { c.plant with pwm := c.pwmFor (maxL vals) } }
    let c := if c.target0 0 ≤ c.ceiling then c.modPower (fun p => { p with restore := false }) else c
    c.plantSend 0x01 (leBytes 4 c.power.fcSlot ++ vals.flatMap (leBytes 2)))

def execForecastTick : State → Host.Outcome State Fault Refusal := actDrone doForecastTick

/-! ### STATUS, DEMAND, telemetry (R289, R299) -/

/-- PLANT_STATUS_TX. -/
def doStatusTx (c : Core) : Core := c.when c.droneOn Core.plantStatus

def execPlantStatusTx : State → Host.Outcome State Fault Refusal := actDrone doStatusTx

/-- DEMAND, while the target exceeds the ceiling. REASON: 0 in a start, 2 after a warning, else 1. -/
def doDemand (c : Core) : Core :=
  let t := c.target0 0
  c.when (c.droneOn && decide ((c.ceiling : Int) < t)) (fun c =>
    c.plantSend 0x02 (leBytes 2 (min t.toNat 0xFFFF) ++ leBytes 2 c.rampUp ++
      leBytes 1 (if c.starting then 0 else if c.power.restore then 2 else 1) ++ [0]))

def execDemand : State → Host.Outcome State Fault Refusal := actDrone doDemand

/-- A TELEMETRY frame to a ring: its SEQ, and its item where the ring holds role TELEMETRY (R299, R421). -/
def Core.telemetry (c : Core) (ring : Nat) (hdr payload : List Byte) : Core :=
  if c.power.mute then c
  else
    let seq := SMap.get (fun _ => 0) c.host.tseqs ring
    let c := { c with host := { c.host with tseqs := SMap.set (fun _ => 0) c.host.tseqs ring (seq + 1) } }
    let free := decide (c.time.dpll = .freerun)
    let f : Frame := {
      dest := 32768 + ring, type := 0x30, flags := 0, source := c.rd .mode 0x068 % 65536,
      tag := if c.imgSt = 3 then c.rd .chn 0x090 else 0, seq := seq,
      launchS := if free then 0 else c.time.atbS, launchNs := if free then 0 else c.time.atbNs,
      hdr := hdr, origin := 7, payload := pad8 payload }
    match c.pushItem ring 5 0 f.bytes with
    | some c => c
    | none => c.inc .mode 0x064

/-- TYPE_HDR of TELEMETRY (Table 12.8). -/
def telemHdr (index kind chan first : Nat) : List Byte :=
  leBytes 8 index ++ leBytes 1 kind ++ [0] ++ leBytes 2 chan ++ leBytes 4 first

/-- The 32 B of a POWER payload. -/
def Core.powerPayload (c : Core) : List Byte :=
  leBytes 1 c.power.mode.code ++ leBytes 1 c.plantFlags ++ leBytes 2 c.duty256 ++ leBytes 2 c.drawNow ++ leBytes 2 c.ceiling ++
  leBytes 2 c.rEff ++ leBytes 2 c.plant.tjMax ++ leBytes 2 c.plant.caseT ++ leBytes 2 c.plant.inlet ++ leBytes 2 c.plant.outlet ++
  leBytes 2 c.plant.flow ++ List.replicate 12 0

/-- POWER_TELEMETRY. -/
def doPowerTelemetry (c : Core) : Core :=
  c.when (bit (c.rd .pwr 0x040) 0 && c.domOn 36) (fun c =>
    c.telemetry (c.rd .pwr 0x068 % 4096) (telemHdr c.power.fcSlot 0 0 0) c.powerPayload)

def execPowerTelemetry : State → Host.Outcome State Fault Refusal := act doPowerTelemetry

end Sys2Proof.Machine
end

