-- ==== Sys2Proof/Machine/Pilot.lean ====
section
/-! DEFINITION. Machine/Pilot.lean: the Pilot service's start, close and stop (R300 to R303, R457). -/

namespace Sys2Proof.Machine

/-- The lane condition of R300. -/
def Core.pilotLanes (c : Core) : Bool :=
  decide (16 ≤ ((List.range 256).filter (fun n => (c.lane n).st == .up && decide (2 ≤ (c.lane n).step))).length)

/-- ENABLE, BRINGUP and the lane condition. -/
def Core.pilotMay (c : Core) : Bool := c.pilotEn && c.pilotLanes && c.power.mode == .bringup && c.host.d3.isNone

def pilotDoms : List Nat := [16, 17, 18, 19, 20, 21, 22, 23, 38]

/-- PILOT_START: the domains are queued; the Pilot runs once all are on. -/
def doPilotStart (c : Core) : Core :=
  if c.pilotMay = false ∨ c.pilot.on then c
  else if pilotDoms.all (fun n => c.domOn n && c.power.ready.testBit n) then { c with pilot := { on := true } }
  else
    c.askDomains (pilotDoms.filter (fun n => !c.power.want.elem (n, true))) true

def execPilotStart : State → Host.Outcome State Fault Refusal := act doPilotStart

/-- PILOT_STOP. -/
def doPilotStop (c : Core) : Core := if c.pilotMay then c else c.pilotEnd

def execPilotStop : State → Host.Outcome State Fault Refusal := act doPilotStop

/-- The payload of a group: sums, then counts (R303). -/
def PilotInt.autoBytes (q : PilotInt) (g : Nat) : List Byte :=
  (List.range 8192).flatMap (fun k => leBytes 4 (SMap.get (fun _ => 0) q.autos (8192 * g + k))) ++
  (List.range 2048).flatMap (fun k => leBytes 4 (SMap.get (fun _ => 0) q.autoN (2048 * g + k)))

/-- The payload of `n` baselines of a Pilot channel from `first`. -/
def PilotInt.crossBytes (q : PilotInt) (ch first n : Nat) : List Byte :=
  (List.range n).flatMap (fun k =>
    let key := ch * 32896 + first + k
    let v := SMap.get (fun _ => ((0 : Int), (0 : Int))) q.cross key
    leBytes 4 (ofInt 32 v.1) ++ leBytes 4 (ofInt 32 v.2) ++ leBytes 4 (SMap.get (fun _ => 0) q.crossN key))

/-- The frames of a closed integration: 256 PILOT_AUTO, then 9 PILOT_CROSS for each of the 64 channels. -/
def Core.pilotFrames (c : Core) (q : PilotInt) : Core :=
  let ring := c.rd .mode 0x05C % 4096
  let c := (List.range 256).foldl (fun c g => c.telemetry ring (telemHdr q.q 1 g 0) (q.autoBytes g)) c
  (List.range 64).foldl (fun c ch => (List.range 9).foldl (fun c k =>
    c.telemetry ring (telemHdr q.q 2 ch (4096 * k)) (q.crossBytes ch (4096 * k) (if k = 8 then 128 else 4096))) c) c

/-- PILOT_CLOSE: the oldest integration q whose successor q + 1 has a packet. -/
def doPilotClose (c : Core) : Core :=
  let l := c.pilot.ints
  match l.find? (fun x => l.any (fun y => y.q == x.q + 1)) with
  | none => c
  | some q =>
    let c := { c with pilot := { c.pilot with ints := l.filter (fun x => x.q != q.q), closed := some q.q } }
    (c.pilotFrames q).raise .mode 3

def execPilotClose : State → Host.Outcome State Fault Refusal := act doPilotClose

end Sys2Proof.Machine
end

