-- ==== Sys2Proof/Machine/Plant.lean ====
section
/-! DEFINITION. Machine/Plant.lean: what the plant port receives, FLOW_TACH, and the temperatures but THERMTRIP (R287, R290 to
R298). -/

namespace Sys2Proof.Machine

def Core.modPlant (c : Core) (f : PlantS → PlantS) : Core := { c with plant := f c.plant }

/-- A ceiling condition begins at the present draw, or ends (R287): 0 THERM_WARN, 1 FLOW_LOW, 2 CASE_TEMP. -/
def Core.hold (c : Core) (n : Nat) : Core :=
  let d := c.drawNow
  c.modPower (fun p => { p with holds := p.holds.set n (some d) })
def Core.unhold (c : Core) (n : Nat) : Core :=
  c.modPower (fun p => { p with holds := p.holds.set n none, restore := true })

/-! ### Messages from the plant (R289 to R293) -/

/-- LEN of the messages from the plant, by TYPE (Table 12.7). -/
def plantLen (t : Nat) : Option Nat := if t = 0x81 then some 4 else if t = 0x82 then some 6 else if t = 0x83 then some 2 else none

/-- What a received message is: its TYPE where it is valid, 0 where its CRC fails, 1 where TYPE or LEN is wrong (R290). The
CRC is judged first. DEDUCED, notes/assumptions/96.md -/
def plantKind (t n : Byte) (body crc : List Byte) : Nat :=
  if crc ≠ (leBytes 2 (crc16 (t :: n :: body)).toNat).reverse then 0
  else if plantLen t.toNat = some body.length then t.toNat else 1

/-- The first message in received bytes: the hunt for the sync byte, then as many bytes as LEN says (R289). Its kind and
payload, none where bytes are missing yet; and the bytes that remain. -/
def plantMsg (bs : List Byte) : Option (Nat × List Byte) × List Byte :=
  match bs.dropWhile (fun b => b != 0xA5) with
  | y :: t :: n :: rest =>
    let k := n.toNat
    if rest.length < k + 2 then (none, y :: t :: n :: rest)
    else (some (plantKind t n (rest.take k) ((rest.drop k).take 2), rest.take k), rest.drop (k + 2))
  | buf => (none, buf)

/-- Bytes arrive, with PLANT_EN = 1, after those of the message in progress. `f` is the effect of a message of the kinds
`row`, those of the command's row; bytes that complete a message of another row are no command of this one. -/
def plantIn (bytes : List Byte) (row : Nat → Bool) (f : Nat → List Byte → Core → Core) (c : Core) : Core :=
  c.when (c.droneOn && c.plantEn) (fun c =>
    match plantMsg (c.plant.rx ++ bytes) with
    | (none, buf) => c.modPlant (fun p => { p with rx := buf })
    | (some m, rest) => c.when (row m.1) (fun c => f m.1 m.2 (c.modPlant (fun p => { p with rx := rest }))))

/-- A valid message is counted and ends an episode of silence (R290, R293). -/
def Core.plantOk1 (c : Core) : Core := (c.inc .plant 0x068).modPlant (fun p => { p with silent := false, silCeil := none })

/-- GRANT. -/
def doGrant (m : List Byte) (c : Core) : Core :=
  (c.plantOk1.modPlant (fun p => { p with granted := true, ramp := leAt m 0 2, ceiling := leAt m 2 2 })).raise .plant 3

def execGrant (head rest : List Byte) : State → Host.Outcome State Fault Refusal :=
  actDrone (plantIn (head ++ rest) (· == 0x81) (fun _ m => doGrant m))

/-- COOLANT. -/
def doCoolant (m : List Byte) (c : Core) : Core :=
  c.plantOk1.modPlant (fun p => { p with inlet := leAt m 0 2, outlet := leAt m 2 2, flow := leAt m 4 2, coolMs := 0, coolOk := true })

def execCoolant (head payload rest : List Byte) : State → Host.Outcome State Fault Refusal :=
  actDrone (plantIn (head ++ payload ++ rest) (· == 0x82) (fun _ m => doCoolant m))

/-- What an ALARM does beyond its record: the stop at RAMP_DOWN_ALARM (R292). -/
def Core.alarmStop (c : Core) : Core :=
  if c.dbg.frozen then c
  else
    let c := if c.running ∨ c.starting then c.modPower (fun p => { p with ramp := true }) else c
    c.severeStop

/-- ALARM; a second one during QUIESCE changes nothing more. -/
def doAlarm (m : List Byte) (c : Core) : Core :=
  let c := c.plantOk1
  let code := leAt m 0 1
  if c.power.mode = .quiesce ∧ c.plant.latch then c.modPlant (fun p => { p with code := code })
  else
    let c := c.modPlant (fun p => { p with latch := true, code := code, alarmRun := true })
    ((c.raise .plant 0).report .plant 0x60 clsS 0).alarmStop

def execAlarm (bytes : List Byte) : State → Host.Outcome State Fault Refusal :=
  actDrone (plantIn bytes (· == 0x83) (fun _ m => doAlarm m))

/-- PLANT_RX_INVALID: CNT_RX_CRC or CNT_RX_BAD. -/
def doRxInvalid (kind : Nat) (c : Core) : Core := c.inc .plant (if kind = 0 then 0x06C else 0x070)

def execPlantRxInvalid (bytes : List Byte) : State → Host.Outcome State Fault Refusal :=
  actDrone (plantIn bytes (fun k => decide (k < 2)) (fun k _ => doRxInvalid k))

/-- PLANT_RX_GAP: the part of a message that came is dropped, and the receiver hunts again. -/
def doRxGap (c : Core) : Core := c.when c.droneOn (fun c => c.modPlant (fun p => { p with rx := [] }))

def execPlantRxGap : State → Host.Outcome State Fault Refusal := actDrone doRxGap

/-- PLANT_SILENT: once per episode; before any GRANT the ceiling is the draw at this moment. -/
def doPlantSilent (c : Core) : Core :=
  c.when (c.droneOn && c.plantEn && !c.plant.silent) (fun c =>
    let d := c.drawNow
    let c := c.modPlant (fun p => { p with silent := true, silCeil := if p.granted then none else some d })
    (c.raise .plant 1).report .plant 0x61 c.clsDN 0)

def execPlantSilent : State → Host.Outcome State Fault Refusal := actDrone doPlantSilent

/-- COOLANT_STALE. -/
def doCoolantStale (c : Core) : Core := c.when c.droneOn (fun c => c.modPlant (fun p => { p with coolOk := false }))

def execCoolantStale : State → Host.Outcome State Fault Refusal := actDrone doCoolantStale

/-- PLANT_CMD. -/
def doClrAlarm (c : Core) : Core := c.modPlant (fun p => { p with latch := false })
def doPlantClrCnt (c : Core) : Core := c.clear .plant [0x068, 0x06C, 0x070]

def execClrAlarm : State → Host.Outcome State Fault Refusal := regCmd .clrAlarm .plant doClrAlarm
def execPlantClrCnt : State → Host.Outcome State Fault Refusal := regCmd .plantClrCnt .plant doPlantClrCnt

/-! ### FLOW_TACH (R295) -/

/-- TACH_FLOW in 0.01 L/min; with TACH_PPL = 0 a free value. -/
def Core.tachFlow (c : Core) (edges : Nat) : Nat × Core :=
  let ppl := bits (c.rd .plant 0x060) 15 0
  if ppl = 0 then ((Config.freeWord c.free).toNat % 65536, { c with free := c.free + 1 })
  else (min (edges * 6000 / ppl) 0xFFFF, c)

/-- FLOW_MEASURE: FLOW_LOW after 2 s below FLOW_MIN in a schedule, until 2 s at or above it. -/
def doFlow (edges : Nat) (c : Core) : Core :=
  c.when c.droneOn (fun c =>
    let (q, c) := c.tachFlow edges
    let c := c.modPlant (fun p => { p with tach := q })
    let low := decide (q < bits (c.rd .plant 0x060) 31 16)
    if c.plant.flowLow then
      if low then c.modPlant (fun p => { p with flowSecs := 0 })
      else if c.plant.flowSecs = 0 then c.modPlant (fun p => { p with flowSecs := 1 })
      else (c.modPlant (fun p => { p with flowLow := false, flowSecs := 0 })).unhold 1
    else if low ∧ c.plantEn ∧ c.running then
      if c.plant.flowSecs = 0 then c.modPlant (fun p => { p with flowSecs := 1 })
      else (((c.hold 1).modPlant (fun p => { p with flowLow := true, flowSecs := 0 })).raise .plant 2).report .plant 0x62 clsD 0
    else c.modPlant (fun p => { p with flowSecs := 0 }))

def execFlowMeasure (edges : Nat) : State → Host.Outcome State Fault Refusal := actDrone (doFlow edges)

/-! ### Temperatures (R296 to R298) -/

/-- The junction sensors of the part: 8 * die + n, the IO die as die 4. -/
def Part.sensors (p : Part) : List Nat := (List.range 40).filter (fun s => s / 8 == 4 || decide (s / 8 < p.dies))

/-- TJ_READ: one reading for each sensor number, in 0.01 °C. -/
def doTjRead (rs : List (BitVec 16)) (c : Core) : Core :=
  let l := c.part.sensors.filterMap (fun s => (rs[s]?).map (fun r => (r.toInt, s)))
  c.when (c.droneOn && !l.isEmpty) (fun c =>
    let m := l.foldl (fun (m : Option (Int × Nat)) e => match m with
      | some x => if x.1 < e.1 then some e else some x
      | none => some e) none
    let c := match m with
      | some (t, s) => c.modPlant (fun p => { p with tjMax := ofInt 16 t, tjSensor := s })
      | none => c
    if c.plant.warn then
      if l.all (fun e => decide (e.1 < 9700)) then (c.modPlant (fun p => { p with warn := false })).unhold 0 else c
    else if l.any (fun e => decide (10000 ≤ e.1)) then
      (((c.hold 0).modPlant (fun p => { p with warn := true })).raise .therm 0).report .therm 0x63 clsD 0
    else c)

def execTjRead (readings : List (BitVec 16)) : State → Host.Outcome State Fault Refusal := actDrone (doTjRead readings)

/-- The value of a sensor word in 0.01 °C: [15:4] in units of 0.0625 °C, truncated (R7, R298). -/
def i2cTemp (w : BitVec 16) : Int := ((w.toInt / 16) * 625).tdiv 100

/-- The case temperature and its two conditions (R297). -/
def Core.caseRead (c : Core) (r : Option (BitVec 16)) : Core :=
  match r with
  | none =>
    let c := c.modPlant (fun p => { p with failRun := p.failRun + 1 })
    if 3 ≤ c.plant.failRun ∧ c.plant.sensorFail = false then
      ((c.modPlant (fun p => { p with sensorFail := true })).raise .therm 2).report .therm 0x66 clsD 0
    else c
  | some w =>
    let t := i2cTemp w
    let c := c.modPlant (fun p => { p with caseT := ofInt 16 t, failRun := 0, sensorFail := false })
    let bad := decide (t < 0 ∨ 8500 < t)
    if bad ∧ c.plant.caseBad = false then
      (((c.hold 2).modPlant (fun p => { p with caseBad := true })).raise .therm 1).report .therm 0x65 clsD 0
    else if bad = false ∧ c.plant.caseBad then (c.modPlant (fun p => { p with caseBad := false })).unhold 2
    else c

/-- The transfer of slot `i` on the bus: pointer byte 0x00 written to I2C_ADDRi, then a read of 2 bytes. -/
def Core.i2cRead (c : Core) (i : Nat) : Core :=
  c.emit (.i2c (bits (c.rd .therm (0x050 + 4 * (i / 4))) (8 * (i % 4) + 6) (8 * (i % 4))) (bit (c.rd .therm 0x040) 11) 0x00 2)

/-- I2C_SENSOR_POLL: for each slot the word it answers, or none for a NACK or a bus held for 25 ms. -/
def doI2c (rs : List (Option (BitVec 16))) (c : Core) : Core :=
  c.when c.droneOn (fun c =>
    let cfg := c.rd .therm 0x040
    (List.range 8).foldl (fun c i =>
      if cfg.testBit i = false then c
      else
        let c := c.i2cRead i
        let r := nth none rs i
        let c := match r with
          | some w => c.modPlant (fun p => { p with ext := p.ext.set i (ofInt 16 (i2cTemp w)) })
          | none => c.inc .therm 0x070
        if bits cfg 10 8 = i then c.caseRead r else c) c)

def execI2cSensorPoll (readings : List (Option (BitVec 16))) : State → Host.Outcome State Fault Refusal := actDrone (doI2c readings)

/-- THERM_CMD.CLR_CNT. -/
def doThermClrCnt (c : Core) : Core := c.clear .therm [0x070]

def execThermClrCnt : State → Host.Outcome State Fault Refusal := regCmd .thermClrCnt .therm doThermClrCnt

end Sys2Proof.Machine
end

