-- ==== Sys2Proof/Machine/Faults.lean ====
section
/-! DEFINITION. Machine/Faults.lean: the fault collector, the reactions of the classes, freeze, and the commands of page FLT
(R410 to R422, R430, R437). -/

namespace Sys2Proof.Machine

/-! ### Acceptance (R415, R416) -/

/-- The flag of a class below Fatal is set. -/
def Collector.flag (l : Collector) (cls : Nat) : Bool :=
  if cls = 0 then l.outN else if cls = 1 then l.outD else if cls = 2 then l.outS else false

/-- The final class of a message: one step up where its flag is outstanding (R415). -/
def Collector.final (l : Collector) (cls : Nat) : Nat := if cls < 3 ∧ l.flag cls then cls + 1 else cls

/-- Set the flag of a final class, or the Fatal latch. -/
def Collector.mark (l : Collector) (cls : Nat) : Collector :=
  if cls = 0 then { l with outN := true } else if cls = 1 then { l with outD := true }
  else if cls = 2 then { l with outS := true } else { l with latch := true }

/-- A message with its class (Table 17.1). -/
def faultMsg (page kind cls addr : Nat) : DWord :=
  BitVec.ofNat 64 (page * 2 ^ 52 + kind % 256 * 2 ^ 44 + cls * 2 ^ 42 + addr % 2 ^ 42)

/-- The record of an accepted message. -/
def Collector.record (l : Collector) (c : Core) (p : Pend) : FaultRec :=
  let cls := l.final p.cls
  let v := c.time.atbValid
  { msg := faultMsg p.page p.kind cls p.addr, ltb := BitVec.ofNat 64 c.ltb, seq := l.seq, coalesced := p.coalesced, orig := p.cls,
    esc := cls != p.cls, first := l.first.isNone, atbValid := v, atbS := if v then word c.time.atbS else 0,
    atbNs := if v then word c.time.atbNs else 0 }

/-- The collector after a message: its flag, the first-fault and Fatal records, the history of 32, SEQ (R415 to R417). -/
def Collector.accept (l : Collector) (r : FaultRec) (cls page : Nat) : Collector :=
  let l' := l.mark cls
  { l' with
    first := some (l.first.getD r), fatal := if cls = 3 then some (l.fatal.getD r) else l.fatal,
    hist := (r :: l.hist).take 32, seq := l.seq + 1, served := some page }

/-- FAULT_N is low (R418). -/
def State.faultN (s : State) : Bool :=
  let p := bits (s.core.rd .flt 0x048) 1 0
  s.col.latch || s.col.outS || (decide (p ≤ 1) && s.col.outD) || (decide (p = 0) && s.col.outN)

/-! ### Records for the host (R417) -/

/-- The 32 B of a fault record (Table 17.4). -/
def FaultRec.bytes (r : FaultRec) : List Byte :=
  leBytes 8 r.msg.toNat ++ leBytes 8 r.ltb.toNat ++ leBytes 4 r.seq.toNat ++ leBytes 2 r.coalesced ++ leBytes 1 r.orig ++
  leBytes 1 (b2n r.esc + fld (b2n r.first) 1 1 + fld (b2n r.atbValid) 1 2) ++ leBytes 4 r.atbS.toNat ++ leBytes 4 r.atbNs.toNat

/-- The record goes to FAULT_RING where RING_EN = 1, or is dropped. -/
def Core.faultRing (c : Core) (r : FaultRec) : Core :=
  if bit (c.rd .flt 0x048) 2 = false then c
  else
    match c.pushItem (c.rd .flt 0x04C % 4096) 6 3 r.bytes with
    | some c => c
    | none => (c.inc .flt 0x09C).raise .flt 5

/-! ### Freeze (R430) -/

/-- A freeze starts: every clock but TCK and the Drone clocks stops, the PCIe link and HBM contents are lost, and for the
plant it is SAFE entry. -/
def Core.freezeNow (c : Core) (trigger : Nat) (msg : DWord) : Core :=
  if c.dbg.frozen then c
  else
    let up := c.host.linkUp
    let c := { c with dbg := { c.dbg with frozen := true, trigger := trigger, trigMsg := msg,
                                              frzLtb := BitVec.ofNat 64 c.ltb, frzPos := none },
                      host := { c.host with linkUp := false } }
    let c := if up then c.emit .linkLost else c
    let c := (List.range (2 * c.part.dies)).foldl (fun c i => c.stackLose i) c
    c.pwmMax.plantStatus

/-- An accepted message matches DBG_CTL. -/
def Core.freezeMatch (c : Core) (kind cls : Nat) : Bool :=
  let v := c.rd .dbg 0x040
  bit v 0 && bit v (2 + cls) && (!bit v 1 || bits v 15 8 == kind % 256)

/-! ### Reactions (R411, R419, R420) -/

/-- The reaction of a final class: Severe stops, Fatal mutes and enters SAFE. While PERST_N or missing rails hold the device
in SHELVED the data path goes off all the same, and SAFE follows PERST_N (R278, R282, R420). DEDUCED,
notes/assumptions/95.md -/
def Core.react (c : Core) (cls : Nat) : Core :=
  if cls = 2 then c.severeStop
  else if cls < 2 then c
  else if c.power.mode = .safe then c
  else if c.power.mode = .shelved ∧ (c.perst ∨ c.power.railsOff) then c.muteNow.pathOff.pwmMax.plantStatus
  else c.enterSafe

/-- Acceptance of a message: PAGE_FLT and FAULTED of its page, the records and interrupts, then a freeze or the
reaction. -/
def State.accept (s : State) (p : Pend) : State :=
  let r := s.col.record s.core p
  let cls := s.col.final p.cls
  let full := decide (32 ≤ s.col.hist.length)
  let c := s.core
  let c := { c with faulted := SMap.set (fun _ => 0) c.faulted p.page (cls + 1) }
  let c := match pageAt c.part p.page with
    | some k => c.wr k 0x01C (p.kind % 256)
    | none => c
  let c := c.raise .flt cls
  let c := if cls = p.cls then c else (c.inc .flt 0x094).raise .flt 4
  let c := if full then c.inc .flt 0x098 else c
  let c := c.faultRing r
  let c := if c.dbg.frozen then c
    else if c.freezeMatch p.kind cls then c.freezeNow 2 r.msg
    else c.react cls
  { s with col := s.col.accept r cls p.page, core := c }

/-- The slot that the collector takes next: ascending page number after the last page served, among those whose die has a
class [34] window open (R414). -/
def State.nextSlot (s : State) : Option Pend :=
  let open_ := s.core.pend.filter (fun p => s.core.winOpen (match pageAt s.core.part p.page with
    | some k => k.chip
    | none => 4) 34)
  let least (l : List Pend) : Option Pend := l.foldl (fun m p => match m with
    | some q => if p.page < q.page then some p else some q
    | none => some p) none
  match s.col.served with
  | none => least open_
  | some n => match least (open_.filter (fun p => decide (n < p.page))) with
    | some p => some p
    | none => least open_

/-- FAULT_ACCEPT, of the slot whose turn it is. -/
def doFaultAccept (page : Nat) (s : State) : State :=
  match s.nextSlot with
  | some p =>
    if p.page = page then
      (s.onCore (fun c => { c with pend := c.pend.filter (fun q => q.page != page) })).accept p
    else s
  | none => s

def execFaultAccept (page : Fin 4096) (s : State) : Host.Outcome State Fault Refusal := .next (s.live (doFaultAccept page.val))

/-! ### THERMTRIP (R297, R414) -/

/-- THERMTRIP: THERMTRIP_N, and a Fatal message accepted at once, in a freeze too. -/
def doThermtrip (sensor : Nat) (reading : Int) (s : State) : State :=
  if s.core.droneOn = false ∨ s.core.part.sensors.elem sensor = false ∨ reading < 11000 ∨ s.core.plant.tripped then s
  else
    let s := s.onCore (fun c => (c.modPlant (fun p => { p with tripped := true })).emit .thermtrip)
    s.accept { page := 4, kind := 0x64, cls := clsF, addr := 0, coalesced := 0 }

def execThermtrip (sensor : Fin 40) (reading : BitVec 16) (s : State) : Host.Outcome State Fault Refusal :=
  .next (s.drone (doThermtrip sensor.val reading.toInt))

/-! ### Page FLT (R415, R416, R437) -/

/-- FLT_ACK: the flags written 1, and FAULTED of the pages whose last message had such a class (R413). -/
def doFltAck (v : Nat) (s : State) : State :=
  let l := s.col
  let col := { l with outN := l.outN && !v.testBit 0, outD := l.outD && !v.testBit 1, outS := l.outS && !v.testBit 2 }
  { s with col := col,
           core := { s.core with faulted := s.core.faulted.filter (fun e => !(decide (1 ≤ e.2 ∧ e.2 ≤ 3) && v.testBit (e.2 - 1))) } }

def execFltAck (v : Word) : State → Host.Outcome State Fault Refusal := regCmdS (.fltAck v) .flt (doFltAck v.toNat)

def doClrFirst (s : State) : State := { s with col := { s.col with first := none } }
def doClrHist (s : State) : State := { s with col := { s.col with hist := [], fatal := none } }
def doFltClrCnt (c : Core) : Core := c.clear .flt [0x090, 0x094, 0x098, 0x09C]

/-- CLR_FIRST. -/
def execClrFirst : State → Host.Outcome State Fault Refusal := regCmdS .clrFirst .flt doClrFirst
/-- CLR_HIST. -/
def execClrHist : State → Host.Outcome State Fault Refusal := regCmdS .clrHist .flt doClrHist
/-- FLT_CLR_CNT. -/
def execFltClrCnt : State → Host.Outcome State Fault Refusal := regCmd .fltClrCnt .flt doFltClrCnt

/-- HIST_SEL: the entry is copied to the HIST registers. -/
def doHistSel (v : Nat) (s : State) : State :=
  { s with col := { s.col with histSel := s.col.hist[v % 32]? }, core := s.core.wr .flt 0x070 (v % 32) }

def execHistSel (v : Word) : State → Host.Outcome State Fault Refusal := regCmdS (.histSel v) .flt (doHistSel v.toNat)

end Sys2Proof.Machine
end

