-- ==== Sys2Proof/Machine/Resets.lean ====
section
/-! DEFINITION. Machine/Resets.lean: resets, D3hot, PERST_N, supplies and power cycle (R377, R399, R424 to R429, R447, R448,
R451, R454, R455). -/

namespace Sys2Proof.Machine

/-! ### FLR, hot reset, link down (R377, R399, R425) -/

/-- RST_STS.LAST_CAUSE. -/
def Core.cause (c : Core) (n : Nat) : Core := c.wr .rst 0x044 (c.rd .rst 0x044 / 16 * 16 + n)

/-- A master that is reset loses its queued ACQUIREs and its locks, which so end other than by RELEASE (R393, R399). -/
def Core.locksLost (c : Core) (m : Nat) : Core :=
  (List.range 16).foldl (fun c g =>
    let l := c.lock g
    let c := if l.wait.elem m then c.setLock g { l with wait := l.wait.filter (· != m) } else c
    if l.owner = some m then c.lockExpire g else c) c

/-- Every ring context at reset but GEN + 1; jobs, items, completions in flight dropped; MSI-X, BAR2 translation and
HOSTMSG_RING at reset (R377). -/
def Core.ringsReset (c : Core) : Core :=
  let c := c.dropJobs.dropAsync (fun r => match r.origin with | .bar2 _ => true | _ => false)
  let gen (r : Nat) : Nat := ((c.ring r).gen + 1) % 256
  let c := { c with host := { c.host with
    rings := (List.range 4096).filterMap (fun r => if gen r = 0 then none else some (r, { gen := gen r })),
    mask := List.range 2048, pbits := [], fmask := false, msixTab := [], bar2Q := [], bar2W := [], heldQ := [],
    cxbAged := c.host.cxbAged.filter (fun e => e.1 != 0), bxbAged := [], aer := 0, loadRing := none, commitRing := none } }
  (c.clear .pciex ((List.range 16).map (fun s => 0x080 + 4 * s))).wr .ring 0x068 0

/-- The bursts in progress when the DMA ports are reset are counted, on the central switch and on the leaf of an X die that
they reach (R399). DEDUCED, notes/assumptions/97.md -/
def Core.resetBursts (c : Core) : Core :=
  (List.range 64).foldl (fun c ch =>
    match (c.dma ch).job with
    | some j =>
      if j.pend = 0 then c
      else
        let c := (c.inc .bxb 0x060).raise .bxb 1
        let leaf (sp : Nat) : List Nat := if 1 ≤ sp ∧ sp ≤ 4 then [sp - 1] else if 6 ≤ sp ∧ sp ≤ 9 then [sp - 6] else []
        ((leaf j.srcSp ++ leaf j.dstSp).dedup).foldl (fun c d => c.inc (.xdie d) 0x05C) c
    | none => c) c

/-- What FLR, hot reset, link down and DEVRST have in common; and the first three, which reset the host as a master (R399). -/
def Core.deviceReset (c : Core) : Core := c.loadAbandon.ringsReset.forceStop
def Core.functionReset (c : Core) : Core := (c.locksLost 0).resetBursts.deviceReset

/-- The function answers: the control domain is on, and the mode is not SHELVED. -/
def Core.functionUp (c : Core) : Bool := c.domOn 36 && decide (c.power.mode ≠ .shelved)

/-- FLR. -/
def doFlr (c : Core) : Core := c.when (c.functionUp && c.host.linkUp) (fun c => ((c.functionReset).cause 4).inc .rst 0x04C)

def execFlr : State → Host.Outcome State Fault Refusal := act doFlr

/-- HOT_RESET. -/
def doHotReset (c : Core) : Core := c.when (c.functionUp && c.host.linkUp) (fun c => ((c.functionReset).cause 2).inc .rst 0x04C)

def execHotReset : State → Host.Outcome State Fault Refusal := act doHotReset

/-- PCIE_LINK_DOWN: frames that wait for the link are discarded (R163). -/
def doPcieLinkDown (c : Core) : Core :=
  c.when (c.functionUp && c.host.linkUp) (fun c =>
    let c := { c with host := { c.host with linkUp := false } }
    let c := (List.range 4).foldl (fun c d =>
      match (c.xdie d).egress with
      | f :: rest => if f.wait then (c.modX d (fun x => { x with egress := rest })).framePathDown d f.type f.hdr else c
      | [] => c) c
    ((c.functionReset).cause 3).inc .rst 0x04C)

def execPcieLinkDown : State → Host.Outcome State Fault Refusal := act doPcieLinkDown

/-! ### DEVRST (R86, R100, R172, R424) -/

/-- Every gain entry at 1.0 (R86). -/
def Core.gainsOne (c : Core) : Core := { c with io := { c.io with gain := { fill := .word 0x1000, cells := [] } } }

/-- What DEVRST loses beyond the rings: the image, banks and pointers, gains, segments and lists. -/
def Core.devLose (c : Core) : Core :=
  let c := ((c.gainDiscard.segDiscard).banksReset).gainsOne
  { c with img := none, imgSt := 0, imgMode := 0,
           io := { c.io with ret := { fill := .freeSram c.free, cells := [] } }, free := c.free + 1 }

/-- RST_STS.DEVRST_BUSY. -/
def Core.devBusy (c : Core) : Bool := bit (c.rd .rst 0x044) 5

/-- DEVRST with the key; a schedule is stopped first, and the losses follow its stop. -/
def doDevrst (key : Nat) (c : Core) : Core :=
  if key ≠ 0xDE57 ∨ c.power.mode = .shelved ∨ c.power.mode = .safe then c
  else
    let c := ((c.deviceReset).cause 5).inc .rst 0x050
    let c := c.wr .rst 0x044 (c.rd .rst 0x044 ||| 0x20)
    if c.power.forced then c else c.devLose

def execDevrst (key : BitVec 16) : State → Host.Outcome State Fault Refusal := regCmd (.devrst key) .rst (doDevrst key.toNat)

/-- DEVRST_DONE, once a forced stop has ended. -/
def doDevrstDone (c : Core) : Core :=
  if c.devBusy = false ∨ c.power.forced then c
  else (c.devLose.wr .rst 0x044 (c.rd .rst 0x044 &&& 0xDF)).raise .rst 0

def execDevrstDone : State → Host.Outcome State Fault Refusal := act doDevrstDone

/-! ### D3hot (R351, R425, R427, R428) -/

/-- The domains that D3hot keeps: bank 5, PCIe, timing, control. -/
def d3Doms : List Nat := [33, 34, 35, 36]

/-- What a lane and a stack keep in D3hot; every owed refresh is paid before self-refresh (R351). -/
def LaneS.asleep (l : LaneS) : LaneS :=
  { l with st := .off, ph := .none, txIdle := true, scan := none, recalPending := false, ctlQ := [] }
def StackS.asleep (s : StackS) : StackS :=
  { s with st := if s.st = .trained then .selfRefresh else .off, phy := none, owed := [], refr := [], forced := [], openRow := [] }

/-- Everything but the retained domains powers down; the stacks refresh themselves, registers keep their values. -/
def Core.d3Down (c : Core) : Core :=
  let off := (List.range 178).filter (fun n => c.domOn n && !d3Doms.elem n)
  let up := (List.range 256).filter (fun n => (c.lane n).st == .up)
  let lanes := c.lanes
  let lgrps := c.lgrps
  let stacksOf := c.stacksOf
  let c := { (c.pilotEnd.modPower (fun p => { p with want := [] })) with stacksOf := [] }
  let c := c.domsLose off
  let c := { c with
    lanes := lanes.map (fun (e : Nat × LaneS) => (e.1, e.2.asleep)), lgrps := lgrps.map (fun (e : Nat × LgrpS) => (e.1, { e.2 with pll := false })),
    stacksOf := stacksOf.map (fun (e : Nat × StackS) => (e.1, e.2.asleep)),
    host := { c.host with d3up := up } }
  c.modPower (fun p => { p with keepRegs := off })

/-- D3HOT_ENTRY: SAFE holds; a schedule, a start or a stop ends first (R428). -/
def doD3Entry (c : Core) : Core :=
  if c.functionUp = false ∨ c.host.linkUp = false ∨ c.host.d3.isSome then c
  else
    let c := c.inc .rst 0x054
    let m := c.power.mode
    if m = .safe then { c with host := { c.host with d3 := some m } }
    else
      let c := if c.imgSt = 1 ∨ c.imgSt = 2 then { c with imgSt := 0, host := { c.host with loadRing := none } } else c
      let c := c.forceStop
      let c := { c with host := { c.host with d3 := some (if c.power.forced then .idle else m) } }
      if c.power.forced then c else c.d3Down

def execD3hotEntry : State → Host.Outcome State Fault Refusal := act doD3Entry

/-- FORCED_STOP_DONE: the domains are off and the mode is IDLE; a D3hot that waits is entered. -/
def doForcedDone (c : Core) : Core :=
  if c.power.forced = false ∨ c.power.mode ≠ .idle ∨ c.power.phase ≠ .steady then c
  else
    let c := (c.modPower (fun p => { p with forced := false })).wr .rst 0x044 (c.rd .rst 0x044 &&& 0xBF)
    let c := c.raise .rst 1
    if c.host.d3.isSome then c.d3Down else c

def execForcedStopDone : State → Host.Outcome State Fault Refusal := act doForcedDone

/-- The domains that a return to BRINGUP or IDLE powers. -/
def Core.backDoms (c : Core) : List Nat :=
  let hbm := (List.range (2 * c.part.dies)).filterMap (fun i =>
    if c.power.mode = .idle ∨ (c.stack i).st ≠ .off ∨ (c.stack i).trainPend then some (69 + 35 * (i / 2) + i % 2) else none)
  c.idleDoms.filter (fun n => decide (n < 38) || !(hbmDoms 4).elem n) ++ hbm

/-- D3HOT_EXIT: the domains of the mode come back; an image commit that D3hot abandoned completes WITHDRAWN. -/
def doD3Exit (c : Core) : Core :=
  if c.host.d3.isNone then c
  else
    let c := ({ c with host := { c.host with d3 := none } }).cause 6
    if c.power.forced ∨ c.power.mode = .safe then c
    else
      let c := match c.host.commitRing with
        | some r => ({ c with host := { c.host with commitRing := none } }).finish r stWithdrawn
        | none => c
      c.gainsOne.askDomains c.backDoms true

def execD3hotExit : State → Host.Outcome State Fault Refusal := act doD3Exit

/-! ### PERST_N (R424, R426, R429, R430, R435, R454, R455) -/

/-- PERST_N_ASSERT: it ends a freeze and an undefined device, and draws a new challenge; the collector's SEQ starts again
(Table 17.4). -/
def doPerstAssert (c : Core) : Core :=
  if c.droneOn = false ∨ c.perst then c
  else
    let frozen := c.dbg.frozen
    let up := c.host.linkUp
    let shelved := c.power.mode = .shelved ∧ c.power.shelvedBy
    let c := c.coldReset
    let c := { c with perst := true, railBad := false,
                      dbg := { draws := c.dbg.draws + 1 },
                      power := { c.power with shelvedBy := shelved } }
    let c := (c.wr .rst 0x044 (1 + 128 * b2n frozen)).inc .rst 0x048
    if up then c.emit .linkLost else c

def doPerst (s : State) : State :=
  if s.core.droneOn = false ∨ s.core.perst then s
  else { s with col := { s.col with seq := 0, histSel := none }, core := doPerstAssert s.core }

def execPerstNAssert (s : State) : Host.Outcome State Fault Refusal := .next (doPerst s)

/-- PERST_N_DEASSERT: BRINGUP powers its domains, or SAFE its own where the Fatal latch is set. -/
def doPerstDeassert (lnrev : Bool) (s : State) : State :=
  let c := s.core
  if c.droneOn = false ∨ c.perst = false ∨ c.power.railsOff ∨ c.power.mode ≠ .shelved then s
  else
    let c := { c with perst := false, host := { c.host with lnrev := lnrev } }
    let c := if c.power.shelvedBy then (c.cause 7).modPower (fun p => { p with shelvedBy := false }) else c
    let c := if s.col.latch then c.enterSafe
      else (c.enterMode .bringup).askDomains ([28, 29, 30, 31, 32, 33, 34, 35, 36, 37] ++
        xDoms c.part.dies [27, 28, 29, 30, 31, 32, 33]) true
    { s with core := c }

def execPerstNDeassert (lnrev : Bool) (s : State) : Host.Outcome State Fault Refusal :=
  .next (s.drone (doPerstDeassert lnrev))

/-! ### Supplies (R447, R448, R454) -/

/-- The block without supplies: contents of memories are free again. -/
def Core.powerOff (c : Core) : Core :=
  let f (n : Nat) : Mem := { fill := .freeSram (c.free + n), cells := [] }
  { part := c.part, otp := c.otp, droneOn := false, perst := true, railN := c.railN, out := c.out,
    io := { hist := f 0, gain := f 1, elastic := f 2, crook := f 3, rqsat := f 4, eye := f 5, calbuf := f 6, ctx := f 7,
            ret := f 8 },
    xdies := (List.range 4).map (fun d => (d, { sram := f (17 + d), buf := [f (21 + 2 * d), f (22 + 2 * d)] })),
    stacksOf := (List.range 8).map (fun i => (i, { mem := { fill := .freeHbm (c.free + 9 + i), cells := [] } })),
    dbg := { draws := c.dbg.draws + 1 }, free := c.free + 29 }

/-- POWER_CYCLE: every supply removed, VDD_DRONE for at least 100 ms: the Fatal latch and every record go too. -/
def doPowerCycle (s : State) : State := { s with col := {}, core := s.core.powerOff }

def execPowerCycle (s : State) : Host.Outcome State Fault Refusal := .next (doPowerCycle s)

/-- DRONE_POWER_VALID: LTB starts, and credit for BRINGUP accrues. -/
def doDroneValid (c : Core) : Core := if c.droneOn then c else { c with droneOn := true }

def execDronePowerValid (s : State) : Host.Outcome State Fault Refusal := .next (s.onCore doDroneValid)

/-- RAIL_OUT_OF_TOLERANCE: a removal that SHELVED allows, or a device undefined until PERST_N (R448). -/
def doRailBad (c : Core) : Core :=
  if c.droneOn = false then c
  else if c.power.mode = .shelved ∧ c.persist = false then c.modPower (fun p => { p with railsOff := true })
  else { c with railBad := true }

def execRailOutOfTolerance (_rail : Rail) : State → Host.Outcome State Fault Refusal := actDrone doRailBad

/-- RAIL_RESTORE, with PERST_N asserted. -/
def doRailRestore (c : Core) : Core := c.when (c.droneOn && c.perst) (fun c => c.modPower (fun p => { p with railsOff := false }))

def execRailRestore : State → Host.Outcome State Fault Refusal := actDrone doRailRestore

end Sys2Proof.Machine
end

