-- ==== Sys2Proof/Machine/Xbar.lean ====
section
/-! DEFINITION. Machine/Xbar.lean: locks, age promotion and counters of the crossbars (R391 to R399, R408, R409). -/

namespace Sys2Proof.Machine

/-- A LOCK_CMD write of a master other than the host is served (R242, R264, R391). -/
def Core.lockCmdOpen (c : Core) (m : Master) : Bool :=
  match m with
  | .pcie => false
  | .debug => c.debugOpenFor 0 && c.winOpen 4 37 && c.acts .cxb
  | .setr => false
  | .drone => c.acts .cxb

/-- The groups of the part (R408). -/
def Core.groupOk (c : Core) (g : Nat) : Bool := decide (g < 7 + c.part.dies)

/-- ACQUIRE: the lock, or a place in its queue (R393, R394). -/
def doAcquire (m g : Nat) (c : Core) : Core :=
  let l := c.lock g
  if c.groupOk g = false then c
  else
    match l.owner with
    | none => c.lockGrant g m
    | some o => if o = m ∨ l.wait.elem m then c else c.setLock g { l with wait := l.wait ++ [m] }

/-- RELEASE by the holder (R394). -/
def doRelease (m g : Nat) (c : Core) : Core := if (c.lock g).owner = some m then c.lockEnd g else c

/-- A LOCK_CMD write of a master. -/
def lockCmd (i : Instr) (m : Master) (f : Core → Core) (s : State) : Host.Outcome State Fault Refusal :=
  match m with
  | .pcie => regCmd i .cxb f s
  | m => act (fun c => if c.lockCmdOpen m then f c else c) s

def execAcquire (m : Master) (g : Fin 16) : State → Host.Outcome State Fault Refusal :=
  lockCmd (.acquire m g) m (doAcquire (masterCode m) g.val)

def execRelease (m : Master) (g : Fin 16) : State → Host.Outcome State Fault Refusal :=
  lockCmd (.release m g) m (doRelease (masterCode m) g.val)

/-- LOCK_EXPIRED: MAX_US of window time have passed (R393). -/
def doLockExpired (g : Nat) (c : Core) : Core := if (c.lock g).owner.isSome then c.lockExpire g else c

def execLockExpired (g : Fin 11) : State → Host.Outcome State Fault Refusal := act (doLockExpired g.val)

/-- A promotion by age: counted on `k`, and noted until the access or burst is served. -/
def Core.aged (c : Core) (k : PageKind) (off : Nat) (f : HostS → HostS) : Core :=
  { c with host := f c.host }.inc k off

/-- CXB_AGE_PROMOTE: an access at level 0 or 1 has waited 20 µs (R392). -/
def execCxbAgePromote (m : Master) (g : Fin 11) : State → Host.Outcome State Fault Refusal :=
  act (fun c => if c.cxbLevel g.val (masterCode m) ≤ 1 then
      c.aged .cxb 0x094 (fun h => { h with cxbAged := (masterCode m, g.val) :: h.cxbAged }) else c)

/-- BXB_AGE_PROMOTE: a burst at level 0 or 1 has waited 20 µs (R397). -/
def execBxbAgePromote (m t : Nat) : State → Host.Outcome State Fault Refusal :=
  act (fun c => if m ≤ 12 ∧ t ≤ 26 ∧ c.burstLevel m t ≤ 1 then
      c.aged .bxb 0x064 (fun h => { h with bxbAged := (m, t) :: h.bxbAged }) else c)

/-- CXB_CLR_CNT. -/
def doCxbClrCnt (c : Core) : Core := c.clear .cxb [0x088, 0x08C, 0x090, 0x094]

def execCxbClrCnt : State → Host.Outcome State Fault Refusal :=
  regCmd .cxbClrCnt .cxb doCxbClrCnt

/-- BXB_CLR_CNT. -/
def doBxbClrCnt (c : Core) : Core := c.clear .bxb [0x05C, 0x060, 0x064]

def execBxbClrCnt : State → Host.Outcome State Fault Refusal :=
  regCmd .bxbClrCnt .bxb doBxbClrCnt

/-- XDIE_CLR_CNT. -/
def doXdieClrCnt (d : XDie) (c : Core) : Core := c.clear (.xdie d.val) [0x058, 0x05C]

def execXdieClrCnt (d : XDie) : State → Host.Outcome State Fault Refusal :=
  regCmd (.xdieClrCnt d) (.xdie d.val) (doXdieClrCnt d)

end Sys2Proof.Machine
end

