-- ==== Sys2Proof/Machine/Posted.lean ====
section
/-! DEFINITION. Machine/Posted.lean: the commands that a register write gives, their effect when the write is served late (R264),
and the commands that a word written by the debug port gives (R433). -/

namespace Sys2Proof.Machine

/-- What a served command waits for: READY and ENABLE, READY alone, or what its effect checks itself. -/
inductive Gate where
  | acts | header | own
deriving DecidableEq, Repr

/-- The effect of a command that a register write gives. -/
structure Eff where
  page : PageKind
  gate : Gate
  f : State → State

/-- An effect on a page's registers, where READY and ENABLE stand. -/
def Eff.reg (k : PageKind) (f : Core → Core) : Eff := ⟨k, .acts, State.onCore f⟩

/-- An effect on the header of a page. -/
def Eff.hdr (p : Part) (page : Nat) (f : PageKind → State → State) : Option Eff :=
  (pageAt p page).map (fun k => ⟨k, .header, f k⟩)

/-- DBG_CMD.FREEZE (R430). -/
def doFreeze (key : Nat) (c : Core) : Core := if key = 0xF2EE then c.freezeNow 1 0 else c

/-- The effect of a served command; none where no register write gives the command. -/
def effectOf (p : Part) (i : Instr) : Option Eff :=
  match i with
  | .pageIrqWrite page v => Eff.hdr p page (fun k => State.onCore (doPageIrq k v.toNat))
  | .irqEnableWrite page ctl v => Eff.hdr p page (fun k => State.onCore (doIrqEnable k ctl v.toNat))
  | .unitReset page => Eff.hdr p page doUnitReset
  | .doorbellWrite r t => Eff.hdr p (2048 + r.val / 1024) (fun _ => State.onCore (doDoorbell r t.toNat))
  | .train l => some (.reg (.lane l) (doTrain l))
  | .retrain l => some (.reg (.lane l) (doRetrain l))
  | .recal l => some (.reg (.lane l) (doRecal l))
  | .down l => some (.reg (.lane l) (doDown l))
  | .scanStart l => some (.reg (.lane l) (doScanStart l))
  | .scanAbort l => some (.reg (.lane l) (doScanAbort l))
  | .laneClrCnt l => some (.reg (.lane l) (doLaneClrCnt l))
  | .laneEnWrite g v => some ⟨.lgrp g, .own, State.onCore (serveLaneEn g v.toNat)⟩
  | .snap => some (.reg .ingest doSnap)
  | .clrAll => some (.reg .ingest doClrAll)
  | .calStart => some (.reg (.fst 0) doCalStart)
  | .calAbort => some (.reg (.fst 0) doCalAbort)
  | .rqsatClr => some (.reg (.fst 0) doRqsatClr)
  | .fstClrCnt s => some (.reg (.fst s) (doFstClrCnt s))
  | .zoomClrCnt z => some (.reg (.zoom z) (doZoomClrCnt z))
  | .crookClrCnt => some (.reg .crook doCrookClrCnt)
  | .hold d => some (.reg (.xchn d) (doHold d))
  | .stepFrame d => some (.reg (.xchn d) (doStepFrame d))
  | .stepWindow d => some (.reg (.xchn d) (doStepWindow d))
  | .run d => some (.reg (.xchn d) (doRun d))
  | .chnClrCnt x => some (.reg (chanterPage x) (doChnClrCnt x))
  | .cellsClrCnt d => some (.reg (.cells d) (doCellsClrCnt d))
  | .cluClrCnt d n => some (.reg (.clu d n) (doCluClrCnt d n))
  | .inspectSelect i reg v => some (.reg (.insp i) (doInspSelect i reg v.toNat))
  | .fetch i => some (.reg (.insp i) (doFetch i))
  | .dumpClrCnt d => some (.reg (.xdie d) (doDumpClrCnt d))
  | .bslClrCnt d j => some (.reg (.bsl d j) (doBslClrCnt d j))
  | .redClrCnt d => some (.reg (.red d) (doRedClrCnt d))
  | .ringCfgWrite v => some (.reg .ring (doRingCfg v.toNat))
  | .ringClrCnt => some (.reg .ring doRingClrCnt)
  | .abort ch => some (.reg (.dma ch) (doAbort ch))
  | .dmagClrCnt => some (.reg .dmag doDmagClrCnt)
  | .pciexClrCnt => some (.reg .pciex doPciexClrCnt)
  | .acquire m g => some (.reg .cxb (doAcquire (masterCode m) g))
  | .release m g => some (.reg .cxb (doRelease (masterCode m) g))
  | .cxbClrCnt => some (.reg .cxb doCxbClrCnt)
  | .bxbClrCnt => some (.reg .bxb doBxbClrCnt)
  | .xdieClrCnt d => some (.reg (.xdie d) (doXdieClrCnt d))
  | .trainHbm d j => some ⟨.hbm d j, .own, State.onCore (serveTrain (stackNo d j))⟩
  | .setRate d j rate => some (.reg (.hbm d j) (doSetRate (stackNo d j) rate))
  | .injectArm d j => some (.reg (.hbm d j) (doInjectArm d j))
  | .hbmClrCnt d j => some (.reg (.hbm d j) (doHbmClrCnt (stackNo d j)))
  | .reqBringup => some (.reg .mode doReqBringup)
  | .reqIdle => some (.reg .mode doReqIdle)
  | .reqStart inspect => some (.reg .mode (doReqStart inspect))
  | .reqStop => some (.reg .mode doReqStop)
  | .reqShelve => some (.reg .mode doReqShelve)
  | .modeClrCnt => some (.reg .mode doModeClrCnt)
  | .clrAlarm => some (.reg .plant doClrAlarm)
  | .plantClrCnt => some (.reg .plant doPlantClrCnt)
  | .thermClrCnt => some (.reg .therm doThermClrCnt)
  | .refCfgWrite n v => some (.reg (.time 1) (doRefCfg n v.toNat))
  | .armAtb => some (.reg (.time 0) doArmAtb)
  | .setEpoch => some (.reg (.time 0) doSetEpoch)
  | .fccWrite den v => some (.reg (.time 0) (doFcc den v.toNat))
  | .timeClrCnt => some (.reg (.time 0) doTimeClr)
  | .fltAck v => some ⟨.flt, .acts, doFltAck v.toNat⟩
  | .clrFirst => some ⟨.flt, .acts, doClrFirst⟩
  | .clrHist => some ⟨.flt, .acts, doClrHist⟩
  | .fltClrCnt => some (.reg .flt doFltClrCnt)
  | .histSel v => some ⟨.flt, .acts, doHistSel v.toNat⟩
  | .devrst key => some (.reg .rst (doDevrst key.toNat))
  | .freeze key => some (.reg .dbg (doFreeze key.toNat))
  | _ => none

/-- Serve an effect, the lock's count apart. -/
def Eff.run (e : Eff) (s : State) : State :=
  match e.gate with
  | .acts => if s.core.acts e.page then e.f s else s
  | .header => if s.core.pageReady e.page then e.f s else s
  | .own => e.f s

/-! ### The words that masters write -/

/-- The commands whose bits are set in a word, in ascending order of bits. -/
def bitCmds (v : Nat) (cs : List (Nat × Instr)) : List Instr := (cs.filter (fun e => bit v e.1)).map (·.2)

/-- The commands that a word written to a register of a page gives for master 1. -/
def PageKind.cmdsOf (k : PageKind) (off v : Nat) : List Instr :=
  let page : Fin 4096 := Fin.ofNat 4096 k.no
  let w := word v
  if off = 0x008 then
    (match k with
     | .doorbell _ => []
     | _ => .irqEnableWrite page true w :: bitCmds v [(1, .unitReset page)])
  else if off = 0x010 then (match k with | .doorbell _ => [] | _ => [.pageIrqWrite page w])
  else
    match k with
    | .lane n =>
      let l : Lane := Fin.ofNat 256 n
      if off = 0x044 then bitCmds v [(0, .train l), (1, .retrain l), (2, .recal l), (3, .down l), (4, .scanStart l),
        (5, .scanAbort l), (6, .laneClrCnt l)] else []
    | .lgrp g => if off = 0x040 then [.laneEnWrite (Fin.ofNat 16 g) w] else []
    | .ingest => if off = 0x074 then bitCmds v [(0, .snap), (1, .clrAll)] else []
    | .fst n =>
      if off = 0x048 then bitCmds v ((0, .fstClrCnt (Fin.ofNat 8 n)) ::
        (if n = 0 then [(1, .calStart), (2, .calAbort), (3, .rqsatClr)] else [])) else []
    | .zoom z => if off = 0x048 then bitCmds v [(0, .zoomClrCnt (Fin.ofNat 2 z))] else []
    | .crook => if off = 0x054 then bitCmds v [(0, .crookClrCnt)] else []
    | .chn => if off = 0x044 then bitCmds v [(4, .chnClrCnt 4)] else []
    | .xchn n =>
      let d : XDie := Fin.ofNat 4 n
      if off = 0x044 then bitCmds v [(0, .hold d), (1, .stepFrame d), (2, .stepWindow d), (3, .run d),
        (4, .chnClrCnt (Fin.ofNat 5 n))] else []
    | .cells n => if off = 0x048 then bitCmds v [(0, .cellsClrCnt (Fin.ofNat 4 n))] else []
    | .clu n u => if off = 0x044 then bitCmds v [(0, .cluClrCnt (Fin.ofNat 4 n) (Fin.ofNat 24 u))] else []
    | .insp n =>
      let i : Fin 16 := Fin.ofNat 16 n
      if off = 0x040 ∨ off = 0x044 ∨ off = 0x048 then [.inspectSelect i (Fin.ofNat 3 ((off - 0x040) / 4)) w]
      else if off = 0x04C then bitCmds v [(0, .fetch i)] else []
    | .xdie n =>
      if off = 0x238 then bitCmds v [(0, .dumpClrCnt (Fin.ofNat 4 n))]
      else if off = 0x044 then bitCmds v [(0, .xdieClrCnt (Fin.ofNat 4 n))] else []
    | .bsl n j => if off = 0x058 then bitCmds v [(0, .bslClrCnt (Fin.ofNat 4 n) (Fin.ofNat 2 j))] else []
    | .red n => if off = 0x04C then bitCmds v [(0, .redClrCnt (Fin.ofNat 4 n))] else []
    | .ring => if off = 0x054 then [.ringCfgWrite w] else if off = 0x06C then bitCmds v [(0, .ringClrCnt)] else []
    | .doorbell b =>
      if off % 4 = 0 then [.doorbellWrite (Fin.ofNat 4096 (1024 * b + off / 4)) w] else []
    | .dma n => if off = 0x044 then bitCmds v [(0, .abort (Fin.ofNat 64 n))] else []
    | .dmag => if off = 0x04C then bitCmds v [(0, .dmagClrCnt)] else []
    | .pciex => if off = 0x04C then bitCmds v [(0, .pciexClrCnt)] else []
    | .cxb =>
      let g : Fin 16 := Fin.ofNat 16 v
      if off = 0x070 then bitCmds v [(5, .release .debug g), (4, .acquire .debug g)]
      else if off = 0x084 then bitCmds v [(0, .cxbClrCnt)] else []
    | .bxb => if off = 0x058 then bitCmds v [(0, .bxbClrCnt)] else []
    | .hbm n i =>
      let d : XDie := Fin.ofNat 4 n
      let j : Fin 2 := Fin.ofNat 2 i
      if off = 0x044 then bitCmds v [(0, .trainHbm d j), (1, .setRate d j (Fin.ofNat 4 (bits v 3 2))), (4, .hbmClrCnt d j),
        (5, .injectArm d j)] else []
    | .mode =>
      if off = 0x044 then
        (match v % 8 with
         | 1 => [.reqBringup]
         | 2 => [.reqIdle]
         | 3 => [.reqStart (bit v 3)]
         | 4 => [.reqStop]
         | 5 => [.reqShelve]
         | _ => []) ++ bitCmds v [(4, .modeClrCnt)] else []
    | .plant => if off = 0x048 then bitCmds v [(0, .clrAlarm), (1, .plantClrCnt)] else []
    | .therm => if off = 0x074 then bitCmds v [(0, .thermClrCnt)] else []
    | .time 0 =>
      if off = 0x098 then bitCmds v [(0, .armAtb), (1, .setEpoch), (2, .timeClrCnt)]
      else if off = 0x0B8 ∨ off = 0x0BC then [.fccWrite (off == 0x0BC) w] else []
    | .time 1 => if 0x040 ≤ off ∧ off < 0x0C0 ∧ off % 32 = 0 then [.refCfgWrite (Fin.ofNat 4 ((off - 0x040) / 32)) w] else []
    | .flt =>
      if off = 0x044 then [.fltAck w] else if off = 0x070 then [.histSel w]
      else if off = 0x08C then bitCmds v [(0, .clrFirst), (1, .fltClrCnt), (2, .clrHist)] else []
    | .rst => if off = 0x040 ∧ bit v 0 then [.devrst (BitVec.ofNat 16 (v / 65536))] else []
    | .dbg => if off = 0x044 ∧ bit v 0 then [.freeze (BitVec.ofNat 16 (v / 65536))] else []
    | _ => []

/-- A word written to a register by master `m`, served (R358, R433): the commands of its bits, then its fields. -/
def State.busWrite (s : State) (k : PageKind) (m off v : Nat) : State :=
  let s := s.onCore (fun c => c.lockAccess k m)
  let s := (k.cmdsOf off v).foldl (fun s i => match effectOf s.core.part i with
    | some e => e.run s
    | none => s) s
  s.onCore (fun c => if k.ownRow off ∨ off = 0x008 then c else if c.writeActs k off then c.writeReg k off v else c)

/-- An aligned 8 B access at a `_LO` register, served: `_LO`, then `_HI` (R358). -/
def State.pairAccess (s : State) (k : PageKind) (page off : Nat) (write : Bool) (v : DWord) : State :=
  if write then (s.busWrite k 0 off (v.toNat % 2 ^ 32)).busWrite k 0 (off + 4) (v.toNat / 2 ^ 32)
  else (s.serveRead k 0 page off).serveRead k 0 page (off + 4)

/-- ACCESS_SIZE: an access that BAR0 does not accept, or one of 8 B that it does (R358); a 4 B access has rows of its own. -/
def accessSizeCmd (page off : Fin 4096) (size : Nat) (write : Bool) (v : DWord) (s : State) : State :=
  if s.core.bar0Ok page.val off.val size = false then s.onCore (doAccessSize page.val off.val write)
  else match pageAt s.core.part page.val with
    | none => s
    | some k =>
      if size = 4 then s
      else match s.core.route k with
        | .none => s
        | .queue => s.onCore (fun c => c.post k.chip (.accessSize page off size ⟨write, v⟩))
        | .serve => s.pairAccess k page.val off.val write v

def execAccessSize (page off : Fin 4096) (size : Nat) (acc : HostAcc) (s : State) : Host.Outcome State Fault Refusal :=
  .next (s.live (accessSizeCmd page off size acc.write acc.v))

/-! ### Accesses that waited -/

/-- Serve a waiting access of the host now. -/
def State.apply (s : State) (i : Instr) : State :=
  match i with
  | .registerWrite _ page off v =>
    (match pageAt s.core.part page with
     | some k => s.onCore (fun c => c.serveWrite k 0 off.val v.toNat)
     | none => s)
  | .snapshotRead _ page off =>
    (match pageAt s.core.part page with
     | some k => s.serveRead k 0 page.val off.val
     | none => s)
  | .accessSize page off _ acc =>
    (match pageAt s.core.part page with
     | some k => s.pairAccess k page.val off.val acc.write acc.v
     | none => s)
  | i =>
    match effectOf s.core.part i with
    | some e => e.run (s.onCore (fun c => c.lockAccess e.page 0))
    | none => s

/-- The page that a waiting access goes to. -/
def pageOf (p : Part) (i : Instr) : Option PageKind :=
  match i with
  | .registerWrite _ page _ _ => pageAt p page
  | .snapshotRead _ page _ => pageAt p page
  | .accessSize page _ _ _ => pageAt p page
  | i => (effectOf p i).map (·.page)

/-- The host's access to a page may not be served yet: another master's lock, or the debug port, stands before it. -/
def Core.hostWaits (c : Core) (i : Instr) : Bool :=
  match pageOf c.part i with
  | some k => c.lockedOut k 0 || c.debugFirst k
  | none => false

/-- POSTED_WRITE_APPLY: the oldest waiting access of a die, in a class [32] window; what flow control holds moves up (R264). -/
def doPostedApply (x : Chip) (s : State) : State :=
  match s.core.posted.find? (fun p => p.1 == x) with
  | none => s
  | some p =>
    if s.core.winOpen x 32 = false ∨ s.core.host.d3.isSome ∨ s.core.hostWaits p.2 then s
    else
      let s := s.onCore (fun c => { c with posted := c.posted.erase p })
      let s := match pageOf s.core.part p.2 with
        | some k => s.onCore (fun c => c.cxbServed k.group 0)
        | none => s
      (s.apply p.2).onCore Core.heldMove

def execPostedWriteApply (x : Chip) (s : State) : Host.Outcome State Fault Refusal := .next (s.live (doPostedApply x))

end Sys2Proof.Machine
end

