-- ==== Sys2Proof/Machine/Debug.lean ====
section
/-! DEFINITION. Machine/Debug.lean: freeze, its read-out, the TAP and the unlock (R430 to R435). One TAP command is one whole scan:
the instruction, then one pass of its data register. PRESUMED, notes/assumptions/48.md -/

namespace Sys2Proof.Machine

/-! ### Freeze (R430) -/

/-- The debug port is locked: DEBUG_LOCK = 1 and no unlock holds (R434). -/
def Core.debugLocked (c : Core) : Bool := c.otp.debugLock && !c.dbg.open_

/-- FREEZE_N. -/
def doFreezeN (c : Core) : Core := if c.droneOn = false ∨ c.perst ∨ c.debugLocked then c else c.freezeNow 0 0

def execFreezeN : State → Host.Outcome State Fault Refusal := act doFreezeN

/-- FREEZE. -/
def execFreeze (key : BitVec 16) : State → Host.Outcome State Fault Refusal := regCmd (.freeze key) .dbg (doFreeze key.toNat)

/-! ### The TAP (R432) -/

/-- The TAP answers while the Drone domain and the I/O rail stand. -/
def Core.tapUp (c : Core) : Bool := c.droneOn && !c.power.railsOff

/-- `n` bits of a value, least significant first. -/
def bitsOf (n v : Nat) : List Bool := (List.range n).map v.testBit

/-- Select an instruction; any but EXTEST ends the driving of the lands. -/
def Core.select (c : Core) (ir : Nat) : Core :=
  { c with dbg := { c.dbg with tap := true, ir := ir, driven := if ir = 3 then c.dbg.driven else none } }

/-- Bits shifted through the bypass register, which captures 0. -/
def Core.shiftBypass (c : Core) (bs : List Bool) : Core :=
  { c with dbg := { c.dbg with dr := [bs.getLastD false] } }.emit (.tdo ((false :: bs).take bs.length))

/-- BYPASS, one bit. -/
def doBypass (tdi : Bool) (c : Core) : Core := c.when c.tapUp (fun c => (c.select 0xFF).shiftBypass [tdi])

def execBypass (tdi : Bool) : State → Host.Outcome State Fault Refusal := actDrone (doBypass tdi)

/-- The IDCODE (R432). -/
def Core.idcode (c : Core) : Nat := (c.view .dbg 0x04C).getD 0

/-- IDCODE. -/
def doIdcode (c : Core) : Core := c.when c.tapUp (fun c => (c.select 1).emit (.tdo (bitsOf 32 c.idcode)))

def execIdcode : State → Host.Outcome State Fault Refusal := actDrone doIdcode

/-- Boundary scan acts as BYPASS (R434). -/
def Core.bscanShut (c : Core) : Bool := c.otp.bscanLock && !c.debugOpenFor 2

/-- The levels of the lands, captured: the spec gives none. DESIGN CHOICE, notes/assumptions/26.md -/
def Core.lands (c : Core) (n : Nat) : List Bool :=
  (List.range n).map (fun i => (Config.freeWord (c.free + i / 32)).getLsbD (i % 32))

/-- One pass of the boundary scan register. -/
def Core.bscanPass (c : Core) (bs : List Bool) : Core :=
  { c with dbg := { c.dbg with bscan := bs }, free := c.free + bs.length / 32 + 1 }.emit (.tdo (c.lands bs.length))

/-- SAMPLE/PRELOAD. -/
def doSample (bs : List Bool) (c : Core) : Core :=
  c.when c.tapUp (fun c => if c.bscanShut then (c.select 2).shiftBypass bs else (c.select 2).bscanPass bs)

def execSamplePreload (bits : List Bool) : State → Host.Outcome State Fault Refusal := actDrone (doSample bits)

/-- EXTEST: the lands take the new contents. -/
def doExtest (bs : List Bool) (c : Core) : Core :=
  c.when c.tapUp (fun c =>
    if c.bscanShut then (c.select 3).shiftBypass bs
    else
      let c := (c.select 3).bscanPass bs
      { c with dbg := { c.dbg with driven := some bs } })

def execExtest (bits : List Bool) : State → Host.Outcome State Fault Refusal := actDrone (doExtest bits)

/-! ### DBG_REG (R433) -/

/-- What Capture-DR of DBG_REG loads. -/
def DebugS.capture (d : DebugS) : Nat :=
  d.data.toNat + fld (b2n d.done) 1 32 + fld (b2n d.error) 1 33 + fld (b2n d.denied) 1 34

/-- DBG_REG: the last result out, the request in. -/
def doDbgReg (req : DWord) (c : Core) : Core :=
  c.when c.tapUp (fun c =>
    let c := c.select 0x10
    if c.debugOpenFor 0 = false then
      { c with dbg := { c.dbg with denied := true, done := false, error := false, data := 0 } }.emit (.tdo (bitsOf 64 (2 ^ 34)))
    else
      let c := c.emit (.tdo (bitsOf 64 c.dbg.capture))
      if c.dbg.req.isSome then c
      else { c with dbg := { c.dbg with req := some req, done := false, error := false, denied := false } })

def execDbgReg (req : DWord) : State → Host.Outcome State Fault Refusal := actDrone (doDbgReg req)

/-- The result of a debug access. -/
def Core.dbgResult (c : Core) (data : Nat) (error : Bool) : Core :=
  { c with dbg := { c.dbg with req := none, data := word data, done := true, error := error, denied := false } }

/-- A waiting access of the host to the group of a page can be served now, at a higher level than the debug port's (R15, R392). -/
def Core.hostFirst (c : Core) (k : PageKind) : Bool :=
  match c.posted.find? (fun p => p.1.val == k.chip) with
  | some p => (match pageOf c.part p.2 with
    | some q => q.group == k.group && c.winOpen k.chip 32 && c.host.d3.isNone && !c.lockedOut q 0 &&
        decide (c.cxbLevel k.group 1 < c.cxbLevel k.group 0)
    | none => false)
  | none => false

/-- DBG_ACCESS_DONE: in a class [37] window of the page's die, with no other master's lock in the way. -/
def doDbgAccess (s : State) : State :=
  match s.core.dbg.req with
  | none => s
  | some r =>
    if s.core.domOn 36 = false ∨ s.core.domOn 37 = false then s
    else
      let v := r.toNat % 2 ^ 32
      let off := bits r.toNat 43 34 * 4
      let page := bits r.toNat 55 44
      let write := r.toNat.testBit 63
      match pageAt s.core.part page with
      | none => if s.core.winOpen 4 37 then s.onCore (fun c => (c.unmapped .debug page off write).dbgResult 0 true) else s
      | some k =>
        if s.core.winOpen k.chip 37 = false ∨ s.core.lockedOut k 1 ∨ s.core.hostFirst k then s
        else if write then (s.busWrite k 1 off v).onCore (fun c => (c.cxbServed k.group 1).dbgResult 0 false)
        else
          let x := s.readReg k off
          s.onCore (fun c => ((((c.lockAccess k 1).takeSnaps k off).aperture k off).cxbServed k.group 1).dbgResult x false)

def execDbgAccessDone (s : State) : Host.Outcome State Fault Refusal := .next (s.live doDbgAccess)

/-! ### The read-out stream (R431) -/

/-- A record: TYPE, INSTANCE, LEN, POWERED, and its payload in words of 8 B. -/
structure FrzRec where
  type : Nat
  inst : Nat
  len : Nat
  powered : Bool
  data : Nat → List Byte

/-- The 16 B of a record header (Table 17.8). -/
def FrzRec.head (r : FrzRec) : List Byte :=
  leBytes 2 r.type ++ leBytes 2 r.inst ++ leBytes 4 r.len ++ leBytes 4 (b2n r.powered) ++
  leBytes 4 (crc32c ((List.range (r.len / 8)).flatMap r.data)).toNat

/-- Pages of the REG records, ascending. -/
def frzPages (p : Part) : List PageKind := (List.range 2048).filterMap (pageAt p)

/-- The 128 B of a CHANTER record, levels outermost first. -/
def ChanterS.frzBytes (t : ChanterS) : List Byte :=
  let level (i : Nat) : List Byte := match t.loops.reverse[i]? with
    | some l => leBytes 4 l.count ++ leBytes 4 l.index ++ leBytes 2 l.body ++ List.replicate 6 0
    | none => List.replicate 16 0
  leBytes 4 t.pc ++ leBytes 4 t.loops.length ++ leBytes 8 t.scyc ++ leBytes 8 t.frame ++ leBytes 8 t.window ++
  level 0 ++ level 1 ++ level 2 ++ level 3 ++ leBytes 4 t.st.code ++ leBytes 8 t.mask ++ List.replicate 20 0

/-- Eight bytes of a CELL record. -/
def CellS.frzWord (x : CellS) (w : Nat) : List Byte :=
  let o := 8 * w
  if o < 32768 then x.live.bytes o 8
  else if o < 65536 then x.shadow.bytes (o - 32768) 8
  else if o < 81920 then x.live.countBytes (o - 65536) 8
  else x.shadow.countBytes (o - 81920) 8

/-- The records of the fault history: first, Fatal, then newest first. -/
def Collector.frzRecs (l : Collector) : List (Option FaultRec) := l.first :: l.fatal :: l.hist.map some

/-- The records of the stream, END included (Table 17.9). -/
def State.frzRecords (s : State) : List FrzRec :=
  let c := s.core
  let sel := bits (c.rd .dbg 0x040) 20 16
  let dies := List.range c.part.dies
  (frzPages c.part).map (fun k =>
    { type := 1, inst := k.no, len := 1024, powered := c.powered k,
      data := fun w => leBytes 4 (s.readReg k (8 * w)) ++ leBytes 4 (s.readReg k (8 * w + 4)) }) ++
  (if bit sel 0 then (4 :: dies).map (fun x =>
    { type := 2, inst := if x = 4 then 0 else x + 1, len := 128,
      powered := c.domOn (if x = 4 then 36 else 72 + 35 * x), data := fun w => slice (c.chanter x).frzBytes (8 * w) 8 }) else []) ++
  (if bit sel 1 then dies.flatMap (fun d => (List.range 384).map (fun n =>
    { type := 3, inst := 384 * d + n, len := 98304, powered := c.domOn (38 + 35 * d + n / 16),
      data := (SMap.get (fun _ => {}) (c.xdie d).cells n).frzWord })) else []) ++
  (if bit sel 2 then [{ type := 4, inst := 0, len := 2 ^ 28, powered := c.domOn 36, data := fun w => c.io.read (8 * w) 8 }] else []) ++
  (if bit sel 3 then dies.map (fun d =>
    { type := 5, inst := d, len := 117440512, powered := c.domOn (71 + 35 * d), data := fun w => (c.xdie d).sram.read (8 * w) 8 })
   else []) ++
  (if bit sel 4 then [{ type := 6, inst := 0, len := 1088, powered := true, data := fun w =>
    match (s.col.frzRecs[w / 4]?).getD none with
    | some r => slice r.bytes (w % 4 * 8) 8
    | none => List.replicate 8 0 }] else []) ++
  [{ type := 0xFFFF, inst := 0, len := 0, powered := true, data := fun _ => [] }]

/-- The 64 B of the stream's header (Table 17.7). -/
def State.frzHead (s : State) : List Byte :=
  let c := s.core
  let magic : List Byte := [0x4F, 0x54, 0x52, 0x46, 0x52, 0x5A, 0x30, 0x31]
  let h := magic ++ leBytes 2 1 ++ leBytes 2 c.part.device ++ leBytes 4 s.frzRecords.length ++ leBytes 8 c.otp.uid.toNat ++
    leBytes 8 c.dbg.frzLtb.toNat ++ leBytes 8 c.dbg.trigMsg.toNat ++ leBytes 8 (c.chanter 4).scyc ++
    leBytes 4 (s.readReg .chn 0x090) ++ leBytes 1 c.dbg.trigger ++ leBytes 1 c.power.mode.code ++
    leBytes 1 (bits (c.rd .dbg 0x040) 20 16) ++ List.replicate 5 0
  h ++ leBytes 4 (crc32c h).toNat

/-- Word `n` of the records, 16 B of header before each payload. -/
def frzAt : List FrzRec → Nat → List Byte
  | [], _ => List.replicate 8 0
  | r :: rs, n =>
    if n < 2 then slice r.head (8 * n) 8
    else if n < 2 + r.len / 8 then r.data (n - 2) else frzAt rs (n - (2 + r.len / 8))

/-- Word `n` of the stream. -/
def State.frzWord (s : State) (n : Nat) : Nat :=
  leNat (if n < 8 then slice s.frzHead (8 * n) 8 else frzAt s.frzRecords (n - 8))

/-- FRZ_READ: zeros where locked; outside a freeze the spec gives no word. -/
def doFrzRead (s : State) : State :=
  let c := s.core
  let n := if c.dbg.ir = 0x11 then c.dbg.frzPos.getD 0 else 0
  if c.tapUp = false then s
  else if c.debugOpenFor 1 = false then s.onCore (fun c => (c.select 0x11).emit (.tdo (bitsOf 64 0)))
  else
    let v := if c.dbg.frozen then s.frzWord n
      else (Config.freeWord c.free).toNat + 2 ^ 32 * (Config.freeWord (c.free + 1)).toNat
    s.onCore (fun c =>
      let c := (c.select 0x11).emit (.tdo (bitsOf 64 v))
      { c with dbg := { c.dbg with frzPos := some (n + 1) }, free := if c.dbg.frozen then c.free else c.free + 2 })

def execFrzRead (s : State) : Host.Outcome State Fault Refusal := .next (s.drone doFrzRead)

/-! ### Unlock (R435) -/

/-- The challenge in force. -/
def Core.challengeNow (c : Core) : BitVec 128 := Config.freeChallenge c.dbg.draws

/-- CHALLENGE. -/
def doChallenge (c : Core) : Core := c.when c.tapUp (fun c => (c.select 0x12).emit (.tdo (bitsOf 128 c.challengeNow.toNat)))

def execChallenge : State → Host.Outcome State Fault Refusal := actDrone doChallenge

/-- UNLOCK: a token to verify, unless eight have failed. -/
def doUnlock (token : List Byte) (c : Core) : Core :=
  c.when c.tapUp (fun c =>
    let c := c.select 0x13
    if c.dbg.barred then c else { c with dbg := { c.dbg with token := some token } })

def execUnlock (token : List Byte) : State → Host.Outcome State Fault Refusal := actDrone (doUnlock token)

/-- The checks of a token (Table 17.11): slot and key hash, UID, challenge, signature. -/
def Core.tokenOk (c : Core) (t : List Byte) : Bool :=
  let slot := leAt t 4 1
  decide (slot < 4) && c.otp.keyProg.testBit slot && !c.otp.keyRevoked.testBit slot &&
  (sha384 (slice t 32 96) == nth [] c.otp.keyHash slot) && (leAt t 8 8 == c.otp.uid.toNat) &&
  (leAt t 16 16 == c.challengeNow.toNat) &&
  ecdsaOk (sha384 (slice t 0 32)) (beNat (slice t 32 48)) (beNat (slice t 80 48)) (beNat (slice t 128 48)) (beNat (slice t 176 48))

/-- UNLOCK_VERIFY_DONE. -/
def doUnlockDone (c : Core) : Core :=
  match c.dbg.token with
  | none => c
  | some t =>
    let d := { c.dbg with token := none, draws := c.dbg.draws + 1 }
    if c.tokenOk t then
      { c with dbg := { d with open_ := true, scope := d.scope ||| leAt t 5 1 % 8 } }.raise .sec 0
    else
      let n := d.fails + 1
      (({ c with dbg := { d with fails := min n 8, barred := decide (8 ≤ n) } }.raise .sec 1).report .sec 0xA3 clsN 0)

def execUnlockVerifyDone : State → Host.Outcome State Fault Refusal := actDrone doUnlockDone

end Sys2Proof.Machine
end

