-- ==== Sys2Proof/Machine/Dispatch.lean ====
section
/-! DEFINITION. Machine/Dispatch.lean: the effect of each command on everything but the queue. -/

namespace Sys2Proof.Machine

def exec (i : Instr) (s : State) : Host.Outcome State Fault Refusal :=
  match i with
  | .registerWrite m page off v => Sys2Proof.Machine.execRegisterWrite m page off v s
  | .unmappedAccess m page off write => Sys2Proof.Machine.execUnmappedAccess m page off write s
  | .accessSize page off size acc => Sys2Proof.Machine.execAccessSize page off size acc s
  | .snapshotRead m page off => Sys2Proof.Machine.execSnapshotRead m page off s
  | .postedWriteApply x => Sys2Proof.Machine.execPostedWriteApply x s
  | .pageIrqWrite page v => Sys2Proof.Machine.execPageIrqWrite page v s
  | .irqEnableWrite page ctl v => Sys2Proof.Machine.execIrqEnableWrite page ctl v s
  | .unitReset page => Sys2Proof.Machine.execUnitReset page s
  | .msixUnmask a => Sys2Proof.Machine.execMsixUnmask a s
  | .train l => Sys2Proof.Machine.execTrain l s
  | .retrain l => Sys2Proof.Machine.execRetrain l s
  | .recal l => Sys2Proof.Machine.execRecal l s
  | .down l => Sys2Proof.Machine.execDown l s
  | .scanStart l => Sys2Proof.Machine.execScanStart l s
  | .scanAbort l => Sys2Proof.Machine.execScanAbort l s
  | .laneClrCnt l => Sys2Proof.Machine.execLaneClrCnt l s
  | .laneEnWrite g v => Sys2Proof.Machine.execLaneEnWrite g v s
  | .lanePllLocked l => Sys2Proof.Machine.execLanePllLocked l s
  | .laneAligned l inv => Sys2Proof.Machine.execLaneAligned l inv s
  | .laneAlignTimeout l los => Sys2Proof.Machine.execLaneAlignTimeout l los s
  | .relayedLaneContinue l => Sys2Proof.Machine.execRelayedLaneContinue l s
  | .laneAdaptDone l => Sys2Proof.Machine.execLaneAdaptDone l s
  | .prbsTestDone l bits errs => Sys2Proof.Machine.execPrbsTestDone l bits errs s
  | .fastRetrainLockTimeout l => Sys2Proof.Machine.execFastRetrainLockTimeout l s
  | .markedBoundary l => Sys2Proof.Machine.execMarkedBoundary l s
  | .ctrlIdle l b => Sys2Proof.Machine.execCtrlIdle l b s
  | .caps l b => Sys2Proof.Machine.execCaps l b s
  | .stepAck l b => Sys2Proof.Machine.execStepAck l b s
  | .stepMark l b => Sys2Proof.Machine.execStepMark l b s
  | .prbsMark l b => Sys2Proof.Machine.execPrbsMark l b s
  | .prbsResult l b => Sys2Proof.Machine.execPrbsResult l b s
  | .status l b => Sys2Proof.Machine.execStatus l b s
  | .timeReq l b => Sys2Proof.Machine.execTimeReq l b s
  | .timeResp l b => Sys2Proof.Machine.execTimeResp l b s
  | .host l b => Sys2Proof.Machine.execHost l b s
  | .rxCtrlUnknownType l b => Sys2Proof.Machine.execRxCtrlUnknownType l b s
  | .rxCtrlCrcFail b => Sys2Proof.Machine.execRxCtrlCrcFail b s
  | .codeViolation b => Sys2Proof.Machine.execCodeViolation b s
  | .blockAlignError b => Sys2Proof.Machine.execBlockAlignError b s
  | .ctrlBlockDue l => Sys2Proof.Machine.execCtrlBlockDue l s
  | .lossOfSignal l => Sys2Proof.Machine.execLossOfSignal l s
  | .losClear l => Sys2Proof.Machine.execLosClear l s
  | .lossOfLock l => Sys2Proof.Machine.execLossOfLock l s
  | .timeout l => Sys2Proof.Machine.execTimeout l s
  | .recalStart l => Sys2Proof.Machine.execRecalStart l s
  | .recalAdaptDone l => Sys2Proof.Machine.execRecalAdaptDone l s
  | .recalRealigned l => Sys2Proof.Machine.execRecalRealigned l s
  | .eyeScanDone l counts => Sys2Proof.Machine.execEyeScanDone l counts s
  | .packetBlockReceived l line => Sys2Proof.Machine.execPacketBlockReceived l line s
  | .packetDue l pos blk ce ue => Sys2Proof.Machine.execPacketDue l pos blk ce ue s
  | .ingestIntervalEnd => Sys2Proof.Machine.execIngestIntervalEnd s
  | .snap => Sys2Proof.Machine.execSnap s
  | .clrAll => Sys2Proof.Machine.execClrAll s
  | .delaySeg r body => Sys2Proof.Machine.execDelaySeg r body s
  | .gainStep r data => Sys2Proof.Machine.execGainStep r data s
  | .calStart => Sys2Proof.Machine.execCalStart s
  | .calAbort => Sys2Proof.Machine.execCalAbort s
  | .calPassEnd => Sys2Proof.Machine.execCalPassEnd s
  | .rqsatClr => Sys2Proof.Machine.execRqsatClr s
  | .fstClrCnt n => Sys2Proof.Machine.execFstClrCnt n s
  | .zoomClrCnt z => Sys2Proof.Machine.execZoomClrCnt z s
  | .turnLate d k w t => Sys2Proof.Machine.execTurnLate d k w t s
  | .linkDown d => Sys2Proof.Machine.execLinkDown d s
  | .linkReplay d => Sys2Proof.Machine.execLinkReplay d s
  | .crookClrCnt => Sys2Proof.Machine.execCrookClrCnt s
  | .chanterNop x => Sys2Proof.Machine.execChanterNop x s
  | .wait x => Sys2Proof.Machine.execWait x s
  | .waits x => Sys2Proof.Machine.execWaits x s
  | .asyncWindowClose x => Sys2Proof.Machine.execAsyncWindowClose x s
  | .loop x => Sys2Proof.Machine.execLoop x s
  | .endloop x => Sys2Proof.Machine.execEndloop x s
  | .move d => Sys2Proof.Machine.execMove d s
  | .moveComplete d m => Sys2Proof.Machine.execMoveComplete d m s
  | .cells d faults => Sys2Proof.Machine.execCells d faults s
  | .hbmq d => Sys2Proof.Machine.execHbmq d s
  | .hbmsEntrySlot d => Sys2Proof.Machine.execHbmsEntrySlot d s
  | .actionUpdate d faults => Sys2Proof.Machine.execActionUpdate d faults s
  | .actionDrainVis d => Sys2Proof.Machine.execActionDrainVis d s
  | .actionDrainW d => Sys2Proof.Machine.execActionDrainW d s
  | .actionWinfo d => Sys2Proof.Machine.execActionWinfo d s
  | .actionRegenSlice d => Sys2Proof.Machine.execActionRegenSlice d s
  | .actionRegenCell d => Sys2Proof.Machine.execActionRegenCell d s
  | .actionBeamRead d => Sys2Proof.Machine.execActionBeamRead d s
  | .actionRedEnter d => Sys2Proof.Machine.execActionRedEnter d s
  | .actionRedClose d => Sys2Proof.Machine.execActionRedClose d s
  | .actionRedRead d => Sys2Proof.Machine.execActionRedRead d s
  | .contractDeadlineMiss d mover => Sys2Proof.Machine.execContractDeadlineMiss d mover s
  | .setr x => Sys2Proof.Machine.execSetr x s
  | .setrApply x => Sys2Proof.Machine.execSetrApply x s
  | .sync x => Sys2Proof.Machine.execSync x s
  | .barrier id => Sys2Proof.Machine.execBarrier id s
  | .mark x => Sys2Proof.Machine.execMark x s
  | .pstep => Sys2Proof.Machine.execPstep s
  | .frameEnd x => Sys2Proof.Machine.execFrameEnd x s
  | .windowEnd x late => Sys2Proof.Machine.execWindowEnd x late s
  | .halt x => Sys2Proof.Machine.execHalt x s
  | .hold d => Sys2Proof.Machine.execHold d s
  | .stepFrame d => Sys2Proof.Machine.execStepFrame d s
  | .stepWindow d => Sys2Proof.Machine.execStepWindow d s
  | .run d => Sys2Proof.Machine.execRun d s
  | .chnClrCnt x => Sys2Proof.Machine.execChnClrCnt x s
  | .cellsClrCnt d => Sys2Proof.Machine.execCellsClrCnt d s
  | .cluClrCnt d n => Sys2Proof.Machine.execCluClrCnt d n s
  | .inspectSelect k reg v => Sys2Proof.Machine.execInspectSelect k reg v s
  | .fetch k => Sys2Proof.Machine.execFetch k s
  | .inspectFetchDone k => Sys2Proof.Machine.execInspectFetchDone k s
  | .frameAtHead d => Sys2Proof.Machine.execFrameAtHead d s
  | .frameLaunch d => Sys2Proof.Machine.execFrameLaunch d s
  | .dumpClrCnt d => Sys2Proof.Machine.execDumpClrCnt d s
  | .bankLoad r data => Sys2Proof.Machine.execBankLoad r data s
  | .bankSelect r => Sys2Proof.Machine.execBankSelect r s
  | .beamSwap r => Sys2Proof.Machine.execBeamSwap r s
  | .bslClrCnt d j => Sys2Proof.Machine.execBslClrCnt d j s
  | .redClrCnt d => Sys2Proof.Machine.execRedClrCnt d s
  | .imageChunk r data => Sys2Proof.Machine.execImageChunk r data s
  | .imageCommit r => Sys2Proof.Machine.execImageCommit r s
  | .imageVerifyDone => Sys2Proof.Machine.execImageVerifyDone s
  | .nopCommand r => Sys2Proof.Machine.execNopCommand r s
  | .slide r body => Sys2Proof.Machine.execSlide r body s
  | .timeSend r => Sys2Proof.Machine.execTimeSend r s
  | .hostMsg r body => Sys2Proof.Machine.execHostMsg r body s
  | .dma r body => Sys2Proof.Machine.execDma r body s
  | .inspectRead r => Sys2Proof.Machine.execInspectRead r s
  | .descriptorBadOp r => Sys2Proof.Machine.execDescriptorBadOp r s
  | .doorbellWrite r t => Sys2Proof.Machine.execDoorbellWrite r t s
  | .descriptorFetch r desc => Sys2Proof.Machine.execDescriptorFetch r desc s
  | .outboundItemDeliver r => Sys2Proof.Machine.execOutboundItemDeliver r s
  | .readbackComplete r ok => Sys2Proof.Machine.execReadbackComplete r ok s
  | .irqCoalesceTimeout r => Sys2Proof.Machine.execIrqCoalesceTimeout r s
  | .ringCfgWrite v => Sys2Proof.Machine.execRingCfgWrite v s
  | .ringClrCnt => Sys2Proof.Machine.execRingClrCnt s
  | .dmaBurst ch b => Sys2Proof.Machine.execDmaBurst ch b s
  | .abort ch => Sys2Proof.Machine.execAbort ch s
  | .dmagClrCnt => Sys2Proof.Machine.execDmagClrCnt s
  | .bar2Read addr n => Sys2Proof.Machine.execBar2Read addr n s
  | .bar2Write addr data => Sys2Proof.Machine.execBar2Write addr data s
  | .linkChange gen width mps => Sys2Proof.Machine.execLinkChange gen width mps s
  | .pciexClrCnt => Sys2Proof.Machine.execPciexClrCnt s
  | .acquire m g => Sys2Proof.Machine.execAcquire m g s
  | .release m g => Sys2Proof.Machine.execRelease m g s
  | .lockExpired g => Sys2Proof.Machine.execLockExpired g s
  | .cxbAgePromote m g => Sys2Proof.Machine.execCxbAgePromote m g s
  | .bxbAgePromote m t => Sys2Proof.Machine.execBxbAgePromote m t s
  | .cxbClrCnt => Sys2Proof.Machine.execCxbClrCnt s
  | .bxbClrCnt => Sys2Proof.Machine.execBxbClrCnt s
  | .xdieClrCnt d => Sys2Proof.Machine.execXdieClrCnt d s
  | .trainHbm d j => Sys2Proof.Machine.execTrainHbm d j s
  | .hbmTrainDone d j ok => Sys2Proof.Machine.execHbmTrainDone d j ok s
  | .setRate d j rate => Sys2Proof.Machine.execSetRate d j rate s
  | .injectArm d j => Sys2Proof.Machine.execInjectArm d j s
  | .hbmClrCnt d j => Sys2Proof.Machine.execHbmClrCnt d j s
  | .hbmAsyncAdmit d j pc => Sys2Proof.Machine.execHbmAsyncAdmit d j pc s
  | .hbmAgePromote d j pc => Sys2Proof.Machine.execHbmAgePromote d j pc s
  | .refreshDue d j pc => Sys2Proof.Machine.execRefreshDue d j pc s
  | .refreshSlotStart d j pc => Sys2Proof.Machine.execRefreshSlotStart d j pc s
  | .refreshComplete d j pc => Sys2Proof.Machine.execRefreshComplete d j pc s
  | .hbmTempRead d j t => Sys2Proof.Machine.execHbmTempRead d j t s
  | .hbmPeriodicCal d j pc slot => Sys2Proof.Machine.execHbmPeriodicCal d j pc slot s
  | .scrubRow d j => Sys2Proof.Machine.execScrubRow d j s
  | .reqBringup => Sys2Proof.Machine.execReqBringup s
  | .reqIdle => Sys2Proof.Machine.execReqIdle s
  | .reqStart inspect => Sys2Proof.Machine.execReqStart inspect s
  | .reqStop => Sys2Proof.Machine.execReqStop s
  | .reqShelve => Sys2Proof.Machine.execReqShelve s
  | .modeClrCnt => Sys2Proof.Machine.execModeClrCnt s
  | .domainSwitchOn n => Sys2Proof.Machine.execDomainSwitchOn n s
  | .domainReady n => Sys2Proof.Machine.execDomainReady n s
  | .domainSwitchOff n => Sys2Proof.Machine.execDomainSwitchOff n s
  | .preRollStart => Sys2Proof.Machine.execPreRollStart s
  | .scheduleT0 => Sys2Proof.Machine.execScheduleT0 s
  | .startCeilingTimeout => Sys2Proof.Machine.execStartCeilingTimeout s
  | .startLateAbandon => Sys2Proof.Machine.execStartLateAbandon s
  | .stopPowerDownDone => Sys2Proof.Machine.execStopPowerDownDone s
  | .breathTick => Sys2Proof.Machine.execBreathTick s
  | .forecastTick => Sys2Proof.Machine.execForecastTick s
  | .plantStatusTx => Sys2Proof.Machine.execPlantStatusTx s
  | .demand => Sys2Proof.Machine.execDemand s
  | .powerTelemetry => Sys2Proof.Machine.execPowerTelemetry s
  | .grant head rest => Sys2Proof.Machine.execGrant head rest s
  | .coolant head payload rest => Sys2Proof.Machine.execCoolant head payload rest s
  | .alarm bytes => Sys2Proof.Machine.execAlarm bytes s
  | .plantRxInvalid bytes => Sys2Proof.Machine.execPlantRxInvalid bytes s
  | .plantRxGap => Sys2Proof.Machine.execPlantRxGap s
  | .plantSilent => Sys2Proof.Machine.execPlantSilent s
  | .coolantStale => Sys2Proof.Machine.execCoolantStale s
  | .clrAlarm => Sys2Proof.Machine.execClrAlarm s
  | .plantClrCnt => Sys2Proof.Machine.execPlantClrCnt s
  | .flowMeasure edges => Sys2Proof.Machine.execFlowMeasure edges s
  | .tjRead readings => Sys2Proof.Machine.execTjRead readings s
  | .thermtrip sensor reading => Sys2Proof.Machine.execThermtrip sensor reading s
  | .i2cSensorPoll readings => Sys2Proof.Machine.execI2cSensorPoll readings s
  | .thermClrCnt => Sys2Proof.Machine.execThermClrCnt s
  | .pilotStart => Sys2Proof.Machine.execPilotStart s
  | .pilotClose => Sys2Proof.Machine.execPilotClose s
  | .pilotStop => Sys2Proof.Machine.execPilotStop s
  | .refPpsEdge n cycles phase jump => Sys2Proof.Machine.execRefPpsEdge n cycles phase jump s
  | .refActivityLoss n => Sys2Proof.Machine.execRefActivityLoss n s
  | .refPpsMissing n => Sys2Proof.Machine.execRefPpsMissing n s
  | .refFreqCheck n offset => Sys2Proof.Machine.execRefFreqCheck n offset s
  | .refQualified n => Sys2Proof.Machine.execRefQualified n s
  | .refWtrEnd n => Sys2Proof.Machine.execRefWtrEnd n s
  | .refSelect => Sys2Proof.Machine.execRefSelect s
  | .disputeWindowEnd n diff => Sys2Proof.Machine.execDisputeWindowEnd n diff s
  | .refCfgWrite n v => Sys2Proof.Machine.execRefCfgWrite n v s
  | .dpllLock err => Sys2Proof.Machine.execDpllLock err s
  | .pullComplete => Sys2Proof.Machine.execPullComplete s
  | .holdoverExpire => Sys2Proof.Machine.execHoldoverExpire s
  | .oscFail => Sys2Proof.Machine.execOscFail s
  | .armAtb => Sys2Proof.Machine.execArmAtb s
  | .atbSetApply => Sys2Proof.Machine.execAtbSetApply s
  | .setEpoch => Sys2Proof.Machine.execSetEpoch s
  | .fccWrite den v => Sys2Proof.Machine.execFccWrite den v s
  | .timeClrCnt => Sys2Proof.Machine.execTimeClrCnt s
  | .ltbTick => Sys2Proof.Machine.execLtbTick s
  | .slideMsBoundary => Sys2Proof.Machine.execSlideMsBoundary s
  | .tsEntryAged => Sys2Proof.Machine.execTsEntryAged s
  | .ppsOutEdge => Sys2Proof.Machine.execPpsOutEdge s
  | .faultAccept page => Sys2Proof.Machine.execFaultAccept page s
  | .fltAck v => Sys2Proof.Machine.execFltAck v s
  | .clrFirst => Sys2Proof.Machine.execClrFirst s
  | .clrHist => Sys2Proof.Machine.execClrHist s
  | .fltClrCnt => Sys2Proof.Machine.execFltClrCnt s
  | .histSel v => Sys2Proof.Machine.execHistSel v s
  | .devrst key => Sys2Proof.Machine.execDevrst key s
  | .perstNAssert => Sys2Proof.Machine.execPerstNAssert s
  | .perstNDeassert lnrev => Sys2Proof.Machine.execPerstNDeassert lnrev s
  | .railOutOfTolerance rail => Sys2Proof.Machine.execRailOutOfTolerance rail s
  | .freezeN => Sys2Proof.Machine.execFreezeN s
  | .freeze key => Sys2Proof.Machine.execFreeze key s
  | .bypass tdi => Sys2Proof.Machine.execBypass tdi s
  | .idcode => Sys2Proof.Machine.execIdcode s
  | .samplePreload bits => Sys2Proof.Machine.execSamplePreload bits s
  | .extest bits => Sys2Proof.Machine.execExtest bits s
  | .dbgReg req => Sys2Proof.Machine.execDbgReg req s
  | .dbgAccessDone => Sys2Proof.Machine.execDbgAccessDone s
  | .frzRead => Sys2Proof.Machine.execFrzRead s
  | .challenge => Sys2Proof.Machine.execChallenge s
  | .unlock token => Sys2Proof.Machine.execUnlock token s
  | .unlockVerifyDone => Sys2Proof.Machine.execUnlockVerifyDone s
  | .pcieLinkUp gen width mps => Sys2Proof.Machine.execPcieLinkUp gen width mps s
  | .pcieLinkCredit d => Sys2Proof.Machine.execPcieLinkCredit d s
  | .forcedStopDone => Sys2Proof.Machine.execForcedStopDone s
  | .flr => Sys2Proof.Machine.execFlr s
  | .hotReset => Sys2Proof.Machine.execHotReset s
  | .pcieLinkDown => Sys2Proof.Machine.execPcieLinkDown s
  | .d3hotEntry => Sys2Proof.Machine.execD3hotEntry s
  | .d3hotExit => Sys2Proof.Machine.execD3hotExit s
  | .dronePowerValid => Sys2Proof.Machine.execDronePowerValid s
  | .powerCycle => Sys2Proof.Machine.execPowerCycle s
  | .oscInActivity => Sys2Proof.Machine.execOscInActivity s
  | .devrstDone => Sys2Proof.Machine.execDevrstDone s
  | .railRestore => Sys2Proof.Machine.execRailRestore s

end Sys2Proof.Machine
end

