-- ==== Sys2Proof/Machine/Tick.lean ====
section
/-! DEFINITION. Machine/Tick.lean: the tick of an empty queue. DESIGN CHOICE, notes/assumptions/2.md -/

namespace Sys2Proof.Machine

/-- Without a command, 1 ns passes: TC counts where the timing domain is on (R315), and the MCLK sub-count of LTB
advances (R319). Nothing moves while frozen but LTB. -/
def State.tick (s : State) : State :=
  let c := s.core
  let t := c.time
  let t := if c.droneOn then { t with ltbSub := t.ltbSub + 1 } else t
  let t := if c.domOn 35 && !c.dbg.frozen then { t with tc := t.tc + 65536 } else t
  { s with core := { c with time := t } }

end Sys2Proof.Machine
end

