-- ==== Sys2Proof/Safety.lean ====
section
/-! DEFINITION. Safety.lean: what claims call a well-kept state, and the terms in which they say when a command acts and
what it then does. -/

namespace Sys2Proof.Machine

/-- The collector keeps its bounds: at most 32 history entries (R416), and a Fatal record only under the latch (R416,
R420). -/
def Collector.ok (l : Collector) : Bool :=
  decide (l.hist.length ≤ 32) && (l.latch || l.fatal.isNone)

/-- Every memory of the package is in its canonical form. -/
def Core.memWf (c : Core) : Bool :=
  c.io.wf && c.stacksOf.all (fun e => e.2.mem.wf) && c.xdies.all (fun e => e.2.sram.wf && e.2.buf.all Mem.wf)

/-- Commands that a freeze does not stop: those of the Drone domain, the TAP, PERST_N and the supplies (R430). -/
def runsInFreeze : Instr → Bool
  | .breathTick | .forecastTick | .plantStatusTx | .demand | .bypass _ | .idcode | .samplePreload _ | .extest _ | .dbgReg _
  | .frzRead | .challenge | .unlock _ | .unlockVerifyDone | .thermtrip _ _ | .grant _ _ | .coolant _ _ _ | .alarm _
  | .plantRxInvalid _ | .plantRxGap | .plantSilent | .coolantStale | .flowMeasure _ | .tjRead _ | .i2cSensorPoll _
  | .perstNAssert | .perstNDeassert _ | .railOutOfTolerance _ | .railRestore | .dronePowerValid | .powerCycle | .ltbTick => true
  | _ => false

/-- The device runs: no freeze stops it (R430), and no rail has left it undefined (R448). -/
def State.runs (s : State) : Prop := s.core.dbg.frozen = false ∧ s.core.railBad = false

/-- A host write to page `k` is served now, and the page's commands act (R264, R393, R395, R402, R405). -/
def State.serves (s : State) (k : PageKind) : Prop :=
  s.runs ∧ pageAt s.core.part k.no = some k ∧ s.core.route k = .serve ∧ s.core.acts k = true

/-- The same for the header registers of a page, which ENABLE does not gate (R402). -/
def State.servesHdr (s : State) (page : Nat) (k : PageKind) : Prop :=
  s.runs ∧ pageAt s.core.part page = some k ∧ s.core.route k = .serve ∧ s.core.pageReady k = true

/-- Command `op` of ring `r` runs: it is the descriptor fetched next in ring order, `d`, outside D3hot and SAFE (R348, R422,
R427). -/
def State.rings (s : State) (r op : Nat) (d : Desc) : Prop :=
  s.runs ∧ s.core.command r op = some d ∧ s.core.host.d3 = none ∧ s.core.power.mode ≠ .safe

/-- A command answers a next state, and its own effect leaves a core with property `P`; the count of departures from the
envelope comes on top (Table 11.8). -/
def State.leaves (s : State) (o : Host.Outcome State Fault Refusal) (P : Core → Prop) : Prop :=
  ∃ c, o = .next (s.after { s with core := c }) ∧ P c

/-- The outcome of a command whose effect on the core is `f`; the count of departures from the envelope comes on top. -/
def State.does (s : State) (f : Core → Core) : Host.Outcome State Fault Refusal := .next (s.after (s.onCore f))

/-- The outcome of a host write that is served on page `k`: where the host holds the lock of the page's group the access counts
(R393), then the effect on the core is `f`. -/
def State.doesReg (s : State) (k : PageKind) (f : Core → Core) : Host.Outcome State Fault Refusal :=
  s.does (fun c => f (c.lockAccess k 0))

end Sys2Proof.Machine
end

