-- ==== Sys2Proof/WellFormed.lean ====
section
/-! DEFINITION. WellFormed.lean: what the types of the operands do not say about a command. -/

namespace Sys2Proof

/-- Host memory bytes of the stated number, or a failed read. -/
def optLen (n : Nat) (x : Option (List Byte)) : Bool :=
  match x with
  | some l => l.length == n
  | none => true

/-- A command whose operands have the shape the spec gives them. -/
def Instr.wf : Instr → Bool
  | .descriptorFetch _ d => optLen 32 d
  | .delaySeg _ d => optLen 48 d
  | .slide _ d => optLen 32 d
  | .hostMsg _ d => optLen 52 d
  | .dma _ d => optLen 64 d
  | .unlock t => t.length == 224
  | .bxbAgePromote m t => decide (m ≤ 12 ∧ t ≤ 26)
  | .tjRead r => r.length == 40
  | .i2cSensorPoll r => r.length == 8
  | .samplePreload _ => true
  | _ => true

end Sys2Proof
end

