-- ==== Sys2Proof/Certificates/Slice0/Obligations.lean ====
section
/-! DEFINITION. Certificates/Slice0/Obligations.lean: what the model is claimed to do. Conclusions read: in a device that runs,
`exec c s` is the outcome whose effect on the core is the one given (`State.does`, `State.doesReg`, `State.leaves` of Safety.lean). -/

open Sys2Proof Sys2Proof.Machine

/-- A step takes the command at the front of the queue and runs it with the queue's rest. -/
def Obligations.StepRunsFront : Prop :=
  ∀ (c : Instr) (rest : List Instr) (s : State), s.pending = c :: rest → step s = exec c { s with pending := rest }

/-- R315 and R319: on an empty queue a step is 1 ns without a command: TC counts while the timing domain is on and no freeze
holds, and LTB's MCLK count advances while the Drone domain is supplied. The model's choice: notes/assumptions/2.md -/
def Obligations.IdleStepIsATick : Prop :=
  ∀ s : State, s.pending = [] →
    step s = .next { s with core := { s.core with time := { s.core.time with
      tc := if s.core.domOn 35 = true ∧ s.core.dbg.frozen = false then s.core.time.tc + 65536 else s.core.time.tc,
      ltbSub := if s.core.droneOn = true then s.core.time.ltbSub + 1 else s.core.time.ltbSub } } }

/-- R278, R426, Tables 12.1 and 17.6: at reset the device is SHELVED with only the Drone domain up, PERST_N asserted, no image
LOADED, the fault collector clear, and no command waiting. Registers right after reset, at the values their tables give:
LANE_CFG and LANE_SCAN_CFG of every lane (Tables 2.7 and 2.11), INGEST_CFG.AUTOMARGIN, SLIP_GUARD and TTS_WARN (Table 3.6),
FST CAL_CFG (Table 4.7), the ceilings and rates of the Breath governor (Table 12.11), THERM_CFG's addresses (Table 12.14),
REF_CFG (Table 13.12), MAX_RD (Table 15.16), LOCK_CFG and the crossbar levels (Tables 16.3 and 16.5), and PAGE_CTL of every
page kind but the doorbells (Table 16.7). -/
def Obligations.ResetState : Prop :=
  (
    let s := State.reset
    s.pending = [] ∧ s.core.power.mode = .shelved ∧ s.core.power.phase = .steady ∧ s.core.power.on = 0 ∧
      s.core.power.ready = 0 ∧ s.core.droneOn = true ∧ s.core.perst = true ∧ s.core.imgSt = 0 ∧ s.core.img = none ∧
      s.core.host.linkUp = false ∧ s.core.posted = [] ∧ s.core.pend = [] ∧ s.col.latch = false ∧ s.col.hist = [] ∧
      s.col.seq = 0 ∧ s.core.dbg.frozen = false ∧ s.core.memWf = true) ∧
  (
    let c := State.reset.core
    (∀ l : Lane, c.rd (.lane l) 0x040 = 0xC0104 ∧ c.rd (.lane l) 0x050 = 0x06002061 ∧ c.rd (.lane l) 0x008 = 1) ∧
      c.rd .ingest 0x050 = 500 ∧ c.rd .ingest 0x068 = 600 ∧ c.rd (.fst 0) 0x05C = 4096 ∧ c.rd .pwr 0x044 = 500 ∧
      c.rd .pwr 0x050 = 1900 ∧ c.rd .pwr 0x054 = 6200 ∧ c.rd .therm 0x050 = 0x4B4A4948 ∧ c.rd (.time 1) 0x048 = 0x0A0A0064 ∧
      c.rd .dmag 0x040 = 48 ∧ c.rd .cxb 0x07C = 0xA40 ∧ c.rd .mode 0x008 = 1 ∧ c.rd .flt 0x048 = 1)

/-- The collector's bounds hold at reset. -/
def Obligations.CollectorBoundsAtReset : Prop :=
State.reset.col.ok = true

/-- Every command of the table, in every state, answers a next state, and leaves the queue to `step`. R414 to R416 and R437:
only these commands touch the collector's flags and records: acceptance of a message, THERMTRIP, the commands of page FLT by
the host, by a posted write served late or by the debug port, UNIT_RESET, and a power cycle. -/
def Obligations.EveryCommandAnswersInFrame : Prop :=
  (
    ∀ (i : Instr) (s : State), ∃ t, exec i s = .next t ∧ t.pending = s.pending) ∧
  (
    ∀ (i : Instr) (s t : State), exec i s = .next t → t.col ≠ s.col →
      (∃ p, i = .faultAccept p) ∨ (∃ n r, i = .thermtrip n r) ∨ (∃ v, i = .fltAck v) ∨ i = .clrFirst ∨ i = .clrHist ∨
        (∃ v, i = .histSel v) ∨ (∃ p, i = .unitReset p) ∨ (∃ x, i = .postedWriteApply x) ∨ i = .dbgAccessDone ∨ i = .powerCycle)

/-- R416 and R420: the history never holds more than 32 records, and a Fatal record stands only under the Fatal latch; every
step keeps both. -/
def Obligations.CollectorBoundsKept : Prop :=
  ∀ s t : State, s.col.ok = true → step s = .next t → t.col.ok = true

/-- R420: once the Fatal latch is set, no step clears it but a power cycle, which removes VDD_DRONE. -/
def Obligations.FatalLatchHolds : Prop :=
  ∀ s t : State, s.col.latch = true → step s = .next t → s.pending.head? ≠ some .powerCycle → t.col.latch = true

/-- R430: in a freeze all state holds: every command but those of the Drone domain, the TAP, PERST_N and the supplies leaves
the device as it is. -/
def Obligations.FreezeHoldsAllState : Prop :=
  ∀ (i : Instr) (s : State), s.core.dbg.frozen = true → runsInFreeze i = false → exec i s = .next s

/-- R264: a host access to a page whose die has no class [32] window open, while earlier accesses to that die wait, while PCIe
flow control holds an earlier one, while another master's lock covers the page (R393), or while the debug port goes before it
(R392), goes to the end of the posted queue and changes nothing else; with 256 writes waiting for the die, or an access held
already, flow control holds it; in SHELVED (Table 12.1) and D3hot (R427) it has no effect. Said of a register write, a
register read, an 8 B access, a lane command and a mode request; POSTED_WRITE_APPLY serves the oldest waiting access of the
die, and moves up what flow control holds. -/
def Obligations.HostWritesWaitTheirTurn : Prop :=
  (∀ (s : State) (page off : Fin 4096) (v : Word) (k : PageKind), s.runs → pageAt s.core.part page.val = some k →
    s.core.power.mode ≠ .shelved → s.core.host.d3 = none →
    (s.core.winOpen k.chip 32 = false ∨ s.core.posted.any (fun p => p.1.val == k.chip) = true ∨ s.core.lockedOut k 0 = true ∨
      s.core.host.heldQ.isEmpty = false ∨ s.core.debugFirst k = true) →
    exec (.registerWrite .pcie page off v) s = s.does (fun c => c.post k.chip (.registerWrite .pcie page off v)) ∧
    (off.val % 4 = 0 → exec (.snapshotRead .pcie page off) s =
      s.does (fun c => c.post k.chip (.snapshotRead .pcie page off))) ∧
    ∀ (write : Bool) (d : DWord), off.val % 8 = 0 → off.val ∈ k.loOffs →
      exec (.accessSize page off 8 ⟨write, d⟩) s = s.does (fun c => c.post k.chip (.accessSize page off 8 ⟨write, d⟩))) ∧
  (∀ (c : Core) (x : Nat) (i : Instr),
    (c.host.heldQ = [] → c.postedN x < 256 → c.post x i = { c with posted := c.posted ++ [(Fin.ofNat 5 x, i)] }) ∧
    (c.host.heldQ ≠ [] ∨ 256 ≤ c.postedN x →
      c.post x i = { c with host := { c.host with heldQ := c.host.heldQ ++ [(Fin.ofNat 5 x, i)] } })) ∧
  (∀ (s : State) (l : Lane), s.runs → s.core.power.mode ≠ .shelved → s.core.host.d3 = none → s.core.winOpen 4 32 = false →
    exec (.recal l) s = s.does (fun c => c.post 4 (.recal l))) ∧
  (∀ s : State, s.runs → s.core.power.mode ≠ .shelved → s.core.host.d3 = none → s.core.winOpen 4 32 = false →
    exec .reqStop s = s.does (fun c => c.post 4 .reqStop)) ∧
  (∀ (s : State) (l : Lane), s.runs → (s.core.power.mode = .shelved ∨ s.core.host.d3 ≠ none) →
    exec (.recal l) s = s.does (fun c => c)) ∧
  (∀ (s : State) (x : Chip) (l : Lane) (rest : List (Chip × Instr)), s.runs → s.core.posted = (x, .recal l) :: rest →
    s.core.winOpen x.val 32 = true → s.core.host.d3 = none → s.core.lockedOut (.lane l) 0 = false →
    s.core.debugFirst (.lane l) = false → s.core.acts (.lane l) = true →
    exec (.postedWriteApply x) s = s.does (fun c =>
      (doRecal l (({ c with posted := rest }.cxbServed (PageKind.lane l).group 0).lockAccess (.lane l) 0)).heldMove))

/-- R9 and R10: a served host write of a register without a row of its own stores exactly the bits of its writable fields, RWL
fields only while no schedule runs; where it would change an RWL field while one runs, LOCKED_WRITE is recorded and a Notice
reported; every reserved bit keeps reading 0. Said of every page whose registers lie in the register file alone. R372, R408,
R9: the register writes that do more than store fields: the staged registers of the ring that RING_SEL names, the levels of
the bulk crossbar's selected master, PLANT_CTL, which ends the fan's forced duty, OSC_EN of TIME0, without which OSC_OK falls
(R311), and the registers of TIME1, where a reference that loses ENABLE fails its test (R306) and a new REF_DELAY of the
active one is pulled in LOCKED (R312); every other register of these pages stores its fields; the header's registers act under
READY alone; PAGE_IRQ and the registers with rows of their own take a command, not this row; a debug write acts in a class
[37] window and else waits as the port's request (R433), a Drone write where no lock is in its way. SETR writes reach no page
but by SETR_APPLY (R242). -/
def Obligations.RegisterWrites : Prop :=
  (
    ∀ (s : State) (page off : Fin 4096) (v : Word) (k : PageKind), s.serves k → page.val = k.no →
      k.ownRow off.val = false → 0x020 ≤ off.val →
      k ≠ .bxb → k ≠ .ring → k ≠ .plant → k ≠ .time 0 → k ≠ .time 1 →
      exec (.registerWrite .pcie page off v) s = s.doesReg k (fun c =>
        let r := k.row off.val
        let mask := r.rw ||| r.rws ||| (if c.running = true then 0 else r.rwl)
        let old := c.rd k off.val
        let c' := c.wr k off.val ((v.toNat &&& mask) ||| (old &&& (m32 ^^^ mask)))
        if c.running = true ∧ (v.toNat &&& r.rwl) ≠ (old &&& r.rwl)
        then (c'.wr k 0x01C 0x01).report k 0x01 clsN 0 else c')) ∧
  (
    (∀ (s : State) (page off : Fin 4096) (v : Word), s.serves .ring → page.val = 68 → 0x044 ≤ off.val → off.val ≤ 0x058 →
      off.val ≠ 0x054 →
      exec (.registerWrite .pcie page off v) s = s.doesReg .ring (fun c => c.modRing (c.rd .ring 0x040) (fun x =>
        let n := v.toNat
        if off.val = 0x044 then { x with stDbase := x.stDbase / 2 ^ 32 * 2 ^ 32 + n }
        else if off.val = 0x048 then { x with stDbase := x.stDbase % 2 ^ 32 + n * 2 ^ 32 }
        else if off.val = 0x04C then { x with stCbase := x.stCbase / 2 ^ 32 * 2 ^ 32 + n }
        else if off.val = 0x050 then { x with stCbase := x.stCbase % 2 ^ 32 + n * 2 ^ 32 }
        else { x with vec := bits n 10 0, prio := bits n 13 11, coalCnt := bits n 21 14, coalUs := bits n 31 22 }))) ∧
    (∀ (s : State) (page off : Fin 4096) (v : Word), s.serves .bxb → page.val = 73 →
      (off.val = 0x044 ∨ off.val = 0x048 ∨ off.val = 0x04C) →
      exec (.registerWrite .pcie page off v) s = s.doesReg .bxb (fun c => c.writePrioW ((off.val - 0x044) / 4) v.toNat)) ∧
    (∀ (s : State) (page off : Fin 4096) (v : Word), s.serves .plant → page.val = 3 → off.val = 0x040 →
      exec (.registerWrite .pcie page off v) s = s.doesReg .plant (fun c =>
        (c.modPlant (fun p => { p with pwmForced := false })).wr .plant 0x040
          ((v.toNat &&& 1) ||| (c.rd .plant 0x040 &&& 0xFFFFFFFE)))) ∧
    (∀ (s : State) (page off : Fin 4096) (v : Word) (k : PageKind), s.serves k → page.val = k.no → 0x020 ≤ off.val →
      k.ownRow off.val = false →
      (k = .plant ∧ off.val ≠ 0x040 ∨ k = .ring ∧ (off.val < 0x044 ∨ 0x058 < off.val) ∨
        k = .bxb ∧ (off.val < 0x044 ∨ 0x04C < off.val)) →
      exec (.registerWrite .pcie page off v) s = s.doesReg k (fun c => c.writeFields k off.val v.toNat)) ∧
    (∀ (s : State) (page off : Fin 4096) (v : Word) (k : PageKind), s.serves k → page.val = k.no → 0x020 ≤ off.val →
      k.ownRow off.val = false → (k = .time 0 ∨ k = .time 1) →
      exec (.registerWrite .pcie page off v) s = s.doesReg k (fun c => c.timeFollow (c.writeFields k off.val v.toNat) k)) ∧
    (∀ old c : Core, (∀ k, k ≠ .time 0 → k ≠ .time 1 → old.timeFollow c k = c) ∧
      (c.oscEn = false → c.time.oscOk = true → old.timeFollow c (.time 0) = c.oscDown) ∧
      (c.oscEn = true ∨ c.time.oscOk = false → old.timeFollow c (.time 0) = c) ∧
      ((∀ n < 4, old.refEn n = true → c.refEn n = true) → old.timeFollow c (.time 1) =
        if c.time.dpll = .locked ∧ c.time.active.any (fun n => c.refDelay n != old.refDelay n) = true
        then c.modTime (·.pull true) else c) ∧
      (c.time.dpll ≠ .locked → ∀ n < 4, (∀ m < 4, old.refEn m = true ∧ c.refEn m = false ↔ m = n) →
        old.timeFollow c (.time 1) = c.refFails n 6)) ∧
    (∀ (s : State) (page off : Fin 4096) (v : Word) (k : PageKind), s.serves k → page.val = k.no → k.ownRow off.val = true →
      exec (.registerWrite .pcie page off v) s = s.doesReg k (fun c => c)) ∧
    (∀ (s : State) (page off : Fin 4096) (v : Word) (b : Nat), s.servesHdr page.val (.doorbell b) →
      exec (.registerWrite .pcie page off v) s = s.doesReg (.doorbell b) (fun c => c)) ∧
    (∀ (s : State) (page off : Fin 4096) (v : Word) (k : PageKind), s.servesHdr page.val k → off.val = 0x018 →
      (∀ b, k ≠ .doorbell b) → k.no = page.val →
      exec (.registerWrite .pcie page off v) s = s.doesReg k (fun c =>
        c.timeFollow (c.wr k 0x018 ((v.toNat &&& 0x7FF) ||| (c.rd k 0x018 &&& 0xFFFFF800))) k)) ∧
    (∀ (s : State) (page off : Fin 4096) (v : Word) (k : PageKind), s.runs → pageAt s.core.part page.val = some k →
      s.core.debugOpenFor 0 = true →
      (s.core.debugServed k = true →
        exec (.registerWrite .debug page off v) s = s.does (fun c => c.serveWrite k 1 off.val v.toNat)) ∧
      (s.core.debugServed k = false →
        exec (.registerWrite .debug page off v) s = s.does (fun c => c.debugWait (debugReq page.val off.val true v.toNat)))) ∧
    (∀ (s : State) (page off : Fin 4096) (v : Word) (k : PageKind), s.runs → pageAt s.core.part page.val = some k →
      s.core.debugOpenFor 0 = false → exec (.registerWrite .debug page off v) s = s.does (fun c => c)) ∧
    (∀ (s : State) (page off : Fin 4096) (v : Word) (k : PageKind), s.runs → pageAt s.core.part page.val = some k →
      s.core.lockedOut k 3 = false →
      exec (.registerWrite .drone page off v) s = s.does (fun c => c.serveWrite k 3 off.val v.toNat)) ∧
    (∀ (s : State) (page off : Fin 4096) (v : Word), s.runs →
      exec (.registerWrite .setr page off v) s = s.does (fun c => c)))

/-- R264, R330, R395, R405: a read that is served answers the value of the register, counts for a lock of its master, and
takes the snapshots of a `_LO` register: of the host where its access may be served, of the debug port in a class [37] window,
else it waits as the port's request (R433), of the Drone domain where no lock is in its way; SETR reads nothing. The aperture
of an INSPECT window sets DENIED outside INSPECT (R140). While a page's domain is off, block registers read 0 and the header
stays readable. -/
def Obligations.ReadsAnswer : Prop :=
  (∀ (s : State) (m : Master) (page off : Fin 4096) (k : PageKind), s.runs → pageAt s.core.part page.val = some k →
    off.val % 4 = 0 →
    ((m = .pcie ∧ s.core.route k = .serve) ∨ (m = .debug ∧ s.core.debugOpenFor 0 = true ∧ s.core.debugServed k = true) ∨
      (m = .drone ∧ s.core.lockedOut k 3 = false)) →
    exec (.snapshotRead m page off) s = s.does (fun c =>
      ((((c.lockAccess k (masterCode m)).takeSnaps k off.val).aperture k off.val).emit
        (.read page off (some (word (s.readReg k off.val))))))) ∧
  (∀ (s : State) (page off : Fin 4096) (k : PageKind), s.runs → pageAt s.core.part page.val = some k → off.val % 4 = 0 →
    s.core.debugOpenFor 0 = true → s.core.debugServed k = false →
    exec (.snapshotRead .debug page off) s = s.does (fun c => c.debugWait (debugReq page.val off.val false 0))) ∧
  (∀ (s : State) (page off : Fin 4096), s.runs → exec (.snapshotRead .setr page off) s = s.does (fun c => c)) ∧
  (∀ (c : Core) (i off : Nat), 0x800 ≤ off → c.power.mode ≠ .inspect → c.pageReady (.insp i) = true →
    c.aperture (.insp i) off = (c.setInsp i { c.inspAt i with denied := true }).report (.insp i) 0x06 clsN 0) ∧
  (∀ (c : Core) (k : PageKind) (off : Nat), (off < 0x800 ∨ c.power.mode = .inspect ∨ ∀ i, k ≠ .insp i) →
    c.aperture k off = c) ∧
  (∀ (s : State) (k : PageKind) (off : Nat), (∀ b, k ≠ .doorbell b) → s.core.pageReady k = false →
    (0x020 ≤ off → s.readReg k off = 0) ∧ (off = 0x00C → s.readReg k off % 2 = 0)) ∧
  (∀ (s : State) (k : PageKind), (∀ b, k ≠ .doorbell b) →
    s.readReg k 0 = (k.type * 2 ^ 16 + k.instNo * 256 + 1) % 2 ^ 32)

/-- R395: an access to an unmapped page by the host or the debug port is recorded in UNMAPPED_LOG, counted in CNT_UNMAPPED,
raises UNMAPPED and is reported as kind UNMAPPED, a Notice; a read of the host completes with Completer Abort. R358: BAR0
takes aligned 4 B accesses, and aligned 8 B accesses at a `_LO` register, which act as the access to `_LO` followed by the one
to `_HI`; any other is reported as ACCESS_SIZE, a Notice, has no effect as a write and reads as 0. A 4 B access is the
register write or read of its own row. -/
def Obligations.RefusedAccesses : Prop :=
  (
    ∀ (s : State) (m : Master) (page off : Fin 4096) (write : Bool), s.runs → pageAt s.core.part page.val = none → m ≠ .setr →
      exec (.unmappedAccess m page off write) s = s.does (fun c =>
        let log := page.val + off.val * 2 ^ 12 + masterCode m * 2 ^ 24 + (if write then 1 else 0) * 2 ^ 26 + 2 ^ 31
        let c := (((c.wr .cxb 0x080 log).inc .cxb 0x090).raise .cxb 2).report .cxb 0x02 clsN 0
        if write = false ∧ m = .pcie then c.aborts (.read page off none) else c)) ∧
  (
    ∀ (s : State) (page off : Fin 4096) (size : Nat) (write : Bool) (v : DWord), s.runs →
      (¬ ((size = 4 ∧ off.val % 4 = 0) ∨ (size = 8 ∧ off.val % 8 = 0 ∧
          ∃ k, pageAt s.core.part page.val = some k ∧ off.val ∈ k.loOffs)) →
        exec (.accessSize page off size ⟨write, v⟩) s = s.does (fun c =>
          let c := c.report .pciex 0x03 clsN 0
          if write then c else c.emit (.read page off (some 0)))) ∧
      (size = 4 → off.val % 4 = 0 → exec (.accessSize page off size ⟨write, v⟩) s = s.does (fun c => c)) ∧
      (∀ k, size = 8 → off.val % 8 = 0 → pageAt s.core.part page.val = some k → off.val ∈ k.loOffs → s.core.route k = .serve →
        (write = false → exec (.accessSize page off size ⟨write, v⟩) s =
          .next (s.after ((s.serveRead k 0 page.val off.val).serveRead k 0 page.val (off.val + 4)))) ∧
        (write = true → exec (.accessSize page off size ⟨write, v⟩) s =
          .next (s.after ((s.busWrite k 0 off.val (v.toNat % 2 ^ 32)).busWrite k 0 (off.val + 4) (v.toNat / 2 ^ 32))))))

/-- R403: with Y = PAGE_IRQ & PAGE_IRQ_EN, the page sends its message when Y leaves 0, when a write of PAGE_IRQ_EN or PAGE_CTL
makes it non-zero with IRQ_EN = 1, and when a write of PAGE_IRQ leaves it non-zero; setting further bits sends none. R357 and
R362: a message whose vector is masked, or the whole function, sets its pending bit, and unmasking sends it; over a link that
is down none leaves the package. BAR4 holds the table, which is read and written (its masks act at once), and the pending
bits; every other offset reads 0 and ignores writes. -/
def Obligations.PageInterrupts : Prop :=
  (
    (∀ (s : State) (page : Fin 4096) (v : Word) (k : PageKind), s.servesHdr page.val k →
      exec (.pageIrqWrite page v) s = s.doesReg k (fun c =>
        let c' := c.wr k 0x010 (c.rd k 0x010 &&& (m32 ^^^ v.toNat))
        if c'.irqOn k = true ∧ c'.irqY k ≠ 0 then c'.msix (c'.rd k 0x018 % 2048) else c')) ∧
    (∀ (s : State) (page : Fin 4096) (ctl : Bool) (v : Word) (k : PageKind), s.servesHdr page.val k →
      exec (.irqEnableWrite page ctl v) s = s.doesReg k (fun c =>
        let c' := c.writeFields k (if ctl then 0x008 else 0x014) v.toNat
        if c'.irqOn k = true ∧ c'.irqY k ≠ 0 then c'.msix (c'.rd k 0x018 % 2048) else c')) ∧
    (∀ (c : Core) (k : PageKind) (b : Nat),
      ((c.irqOn k = true ∧ c.irqY k = 0 ∧ (c.wr k 0x010 (c.rd k 0x010 ||| 2 ^ b)).irqY k ≠ 0) →
        c.raise k b = (c.wr k 0x010 (c.rd k 0x010 ||| 2 ^ b)).msix (c.rd k 0x018 % 2048)) ∧
      (¬ (c.irqOn k = true ∧ c.irqY k = 0 ∧ (c.wr k 0x010 (c.rd k 0x010 ||| 2 ^ b)).irqY k ≠ 0) →
        c.raise k b = c.wr k 0x010 (c.rd k 0x010 ||| 2 ^ b)))) ∧
  (
    (∀ (c : Core) (v : Nat),
      (c.host.fmask = true ∨ v ∈ c.host.mask →
        c.msix v = { c with host := { c.host with pbits := if v ∈ c.host.pbits then c.host.pbits else c.host.pbits ++ [v] } }) ∧
      (c.host.fmask = false → v ∉ c.host.mask → c.host.linkUp = true →
        c.msix v = c.emit (.msix v (c.msixEntry v).1 (c.msixEntry v).2)) ∧
      (c.host.fmask = false → v ∉ c.host.mask → c.host.linkUp = false → c.msix v = c)) ∧
    (∀ (s : State) (o : Fin 16384) (v : Word), s.runs →
      (o.val < 8192 → o.val % 4 = 3 → v.toNat.testBit 0 = false → exec (.msixUnmask (.write o v)) s = s.does (fun c =>
        let c := { c with host := { c.host with mask := c.host.mask.filter (· != o.val / 4) } }
        if o.val / 4 ∈ c.host.pbits ∧ c.host.fmask = false then
          { c with host := { c.host with pbits := c.host.pbits.filter (· != o.val / 4) } }.msix (o.val / 4) else c)) ∧
      (o.val < 8192 → o.val % 4 = 3 → v.toNat.testBit 0 = true → exec (.msixUnmask (.write o v)) s = s.does (fun c =>
        if o.val / 4 ∈ c.host.mask then c else { c with host := { c.host with mask := o.val / 4 :: c.host.mask } })) ∧
      (o.val < 8192 → o.val % 4 ≠ 3 → exec (.msixUnmask (.write o v)) s = s.does (fun c =>
        let e := c.msixEntry (o.val / 4)
        let e' := if o.val % 4 = 0 then (e.1 / 2 ^ 32 * 2 ^ 32 + v.toNat / 4 * 4, e.2)
          else if o.val % 4 = 1 then (e.1 % 2 ^ 32 + v.toNat * 2 ^ 32, e.2) else (e.1, v.toNat)
        { c with host := { c.host with msixTab := SMap.set (fun _ => (0, 0)) c.host.msixTab (o.val / 4) e' } })) ∧
      (8192 ≤ o.val → exec (.msixUnmask (.write o v)) s = s.does (fun c => c)) ∧
      exec (.msixUnmask (.read o)) s = s.does (fun c => c.emit (.bar4 (4 * o.val) (word (
        let e := c.msixEntry (o.val / 4)
        if o.val < 8192 then
          if o.val % 4 = 0 then e.1 % 2 ^ 32 else if o.val % 4 = 1 then e.1 / 2 ^ 32 else if o.val % 4 = 2 then e.2
          else if o.val / 4 ∈ c.host.mask then 1 else 0
        else if o.val < 8256 then maskOf ((List.range 32).map (fun i => c.host.pbits.elem (32 * (o.val - 8192) + i)))
        else 0))))) ∧
    (∀ s : State, s.runs →
      exec (.msixUnmask (.mask true)) s = s.does (fun c => { c with host := { c.host with fmask := true } }) ∧
      (s.core.host.linkUp = true →
        (∃ t, exec (.msixUnmask (.mask false)) s = .next (s.after t) ∧ t.core.host.fmask = false ∧
          ∀ v, v ∈ t.core.host.pbits ↔ v ∈ s.core.host.pbits ∧ v ∈ s.core.host.mask))))

/-- R404: UNIT_RESET leaves every register of its page at its reset value but the RWS fields and PAGE_FLT, and touches the
registers of no other page, what a reset of TIME0 or TIME1 brings about apart: OSC_OK falls without OSC_EN (R311), and a
reference without ENABLE fails its test (R306). While a schedule runs it is ignored, and LOCKED_WRITE is recorded and reported
as a Notice. -/
def Obligations.UnitResetOfAPage : Prop :=
  ∀ (s : State) (page : Fin 4096) (k : PageKind), s.servesHdr page.val k → k.no = page.val →
    (s.core.running = true → exec (.unitReset page) s = s.doesReg k (fun c => (c.wr k 0x01C 0x01).report k 0x01 clsN 0)) ∧
    (s.core.running = false → SMap.wf regReset s.core.regs = true →
      ∃ t, exec (.unitReset page) s = .next (s.after (t.onCore (fun c => (s.core.lockAccess k 0).timeFollow c k))) ∧
        (k ≠ .time 0 → k ≠ .time 1 → exec (.unitReset page) s = .next t) ∧
        ∀ (j : PageKind) (off : Nat), off < 4096 →
          let old := (s.core.lockAccess k 0).rd j off
          let keep := if off = 0x01C then m32 else (k.row off).rws
          t.core.rd j off = if j.no = k.no then (old &&& keep) ||| ((regReset (k.key off)).toNat &&& (m32 ^^^ keep)) else old)

/-- R393 and R394: ACQUIRE takes a free group's lock or queues one request per master; RELEASE by the holder, MAX_ACC accesses
and MAX_US end it; the waiting request of highest level gets it; a lock that ends otherwise than by RELEASE is counted, raised
and reported. A master that does not hold it is kept off the group. R392 and R397: an access or burst at level 0 or 1 that has
waited 20 µs is promoted to level 7 until it is served, and counted in CNT_AGE_PROMOTE; one at a higher level, or promoted
already, is not. -/
def Obligations.LocksAndAge : Prop :=
  (
    (∀ (s : State) (g : Fin 16), s.serves .cxb → g.val < 7 + s.core.part.dies →
      ((s.core.lock g).owner = none → exec (.acquire .pcie g) s = s.doesReg .cxb (fun c => c.lockGrant g 0)) ∧
      (∀ o, (s.core.lock g).owner = some o → o ≠ 0 → 0 ∉ (s.core.lock g).wait →
        exec (.acquire .pcie g) s = s.doesReg .cxb (fun c =>
          c.setLock g { c.lock g with wait := (c.lock g).wait ++ [0] })) ∧
      ((s.core.lock g).owner = some 0 → exec (.release .pcie g) s = s.doesReg .cxb (fun c => c.lockEnd g)) ∧
      ((s.core.lock g).owner ≠ some 0 → exec (.release .pcie g) s = s.doesReg .cxb (fun c => c))) ∧
    (∀ (s : State) (m : Master) (g : Fin 16), s.runs → g.val < 7 + s.core.part.dies → s.core.acts .cxb = true →
      (m = .drone ∨ m = .debug ∧ s.core.debugOpenFor 0 = true ∧ s.core.winOpen 4 37 = true) →
      ((s.core.lock g).owner = none → exec (.acquire m g) s = s.does (fun c => c.lockGrant g (masterCode m))) ∧
      ((s.core.lock g).owner = some (masterCode m) → exec (.release m g) s = s.does (fun c => c.lockEnd g))) ∧
    (∀ (s : State) (g : Fin 16), s.runs → exec (.acquire .setr g) s = s.does (fun c => c) ∧
      exec (.release .setr g) s = s.does (fun c => c)) ∧
    (∀ (s : State) (g : Fin 11), s.runs → (s.core.lock g.val).owner ≠ none →
      exec (.lockExpired g) s = s.does (fun c =>
        (((c.inc .cxb 0x08C).raise .cxb 1).report .cxb 0x07 clsN 0).lockEnd g.val)) ∧
    (∀ (c : Core) (g : Nat), (c.lock g).wait = [] → (c.lockEnd g).lock g = { owner := none, acc := 0, wait := [] }) ∧
    (∀ (c : Core) (g : Nat), (c.lock g).wait ≠ [] → (∀ m ∈ (c.lock g).wait, m < 4) →
      ∃ m ∈ (c.lock g).wait,
        (c.lockEnd g).lock g = { owner := some m, acc := 0, wait := (c.lock g).wait.filter (· != m) } ∧
        ∀ n ∈ (c.lock g).wait, c.prioG g n < c.prioG g m ∨ (c.prioG g n = c.prioG g m ∧ m ≤ n)) ∧
    (∀ (c : Core) (k : PageKind) (m o : Nat), k.lockable = true → (c.lock k.group).owner = some o →
      (c.lockedOut k m = true ↔ o ≠ m)) ∧
    (∀ (c : Core) (k : PageKind) (m : Nat), k.lockable = true → (c.lock k.group).owner = some m →
      (c.lock k.group).acc + 1 < c.maxAcc →
      c.lockAccess k m = c.setLock k.group { c.lock k.group with acc := (c.lock k.group).acc + 1 }) ∧
    (∀ (c : Core) (k : PageKind) (m : Nat), k.lockable = true → (c.lock k.group).owner = some m →
      c.maxAcc ≤ (c.lock k.group).acc + 1 → c.lockAccess k m = c.lockExpire k.group)) ∧
  (
    (∀ (s : State) (m : Master) (g : Fin 11), s.runs →
      (s.core.cxbLevel g.val (masterCode m) ≤ 1 → exec (.cxbAgePromote m g) s = s.does (fun c =>
        { c with host := { c.host with cxbAged := (masterCode m, g.val) :: c.host.cxbAged } }.inc .cxb 0x094)) ∧
      (1 < s.core.cxbLevel g.val (masterCode m) → exec (.cxbAgePromote m g) s = s.does (fun c => c))) ∧
    (∀ (s : State) (m t : Nat), s.runs → m ≤ 12 → t ≤ 26 →
      (s.core.burstLevel m t ≤ 1 → exec (.bxbAgePromote m t) s = s.does (fun c =>
        { c with host := { c.host with bxbAged := (m, t) :: c.host.bxbAged } }.inc .bxb 0x064)) ∧
      (1 < s.core.burstLevel m t → exec (.bxbAgePromote m t) s = s.does (fun c => c))) ∧
    (∀ (c : Core) (m g t : Nat), ((m, g) ∈ c.host.cxbAged → c.cxbLevel g m = 7) ∧ ((m, t) ∈ c.host.bxbAged → c.burstLevel m t = 7) ∧
      ((m, g) ∉ c.host.cxbAged → c.cxbLevel g m = c.prioG g m) ∧ ((m, t) ∉ c.host.bxbAged → c.burstLevel m t = c.bulkLevel m t) ∧
      (m, g) ∉ (c.cxbServed g m).host.cxbAged))

/-- CLR_CNT of the pages of the IO die: each sets the page's counters to 0 (R60, R104, R330, R375, R388, R399, R409, R437,
Tables 2.6, 4.7, 5.2, 10.19, 15.13, 15.15) and changes nothing else; CLR_ALL clears the record memory of ingest, RQSAT_CLR the
saturation counts (R88). CLR_CNT of the pages of the X dies and the Chanters (R144, R168, R192, R214, R275, R355, R409, Tables
6.4, 6.6, 7.9, 8.9, 9.7, 11.8, 14.4, 16.12): each sets the page's counters to 0, and the peak a page shows to the present
level. -/
def Obligations.CountersAreCleared : Prop :=
  (
    (∀ (s : State) (l : Lane), s.serves (.lane l) →
      exec (.laneClrCnt l) s = s.doesReg (.lane l) (fun c => c.clear (.lane l) [0x060, 0x064, 0x068, 0x06C, 0x070])) ∧
    (∀ (s : State) (n : Fin 8), s.serves (.fst n) →
      exec (.fstClrCnt n) s = s.doesReg (.fst n) (fun c => c.clear (.fst n)
        [0x070, 0x074, 0x078, 0x07C, 0x080, 0x084, 0x088, 0x08C, 0x090, 0x094, 0x098, 0x09C])) ∧
    (∀ (s : State) (z : Fin 2), s.serves (.zoom z) →
      exec (.zoomClrCnt z) s = s.doesReg (.zoom z) (fun c => c.clear (.zoom z) [0x044])) ∧
    (∀ s : State, s.serves .crook → exec .crookClrCnt s = s.doesReg .crook (fun c => c.clear .crook
        [0x060, 0x064, 0x068, 0x06C, 0x070, 0x074, 0x078, 0x07C])) ∧
    (∀ s : State, s.serves .dmag → exec .dmagClrCnt s = s.doesReg .dmag (fun c => c.clear .dmag [0x050, 0x054, 0x058, 0x05C])) ∧
    (∀ s : State, s.serves .pciex → exec .pciexClrCnt s = s.doesReg .pciex (fun c => c.clear .pciex [0x050, 0x054])) ∧
    (∀ s : State, s.serves .ring →
      exec .ringClrCnt s = s.doesReg .ring (fun c => c.clear .ring [0x070, 0x074, 0x078, 0x07C, 0x080, 0x084])) ∧
    (∀ s : State, s.serves .cxb → exec .cxbClrCnt s = s.doesReg .cxb (fun c => c.clear .cxb [0x088, 0x08C, 0x090, 0x094])) ∧
    (∀ s : State, s.serves .bxb → exec .bxbClrCnt s = s.doesReg .bxb (fun c => c.clear .bxb [0x05C, 0x060, 0x064])) ∧
    (∀ s : State, s.serves .mode → exec .modeClrCnt s = s.doesReg .mode (fun c => c.clear .mode [0x060, 0x064])) ∧
    (∀ s : State, s.serves .plant → exec .plantClrCnt s = s.doesReg .plant (fun c => c.clear .plant [0x068, 0x06C, 0x070])) ∧
    (∀ s : State, s.serves .therm → exec .thermClrCnt s = s.doesReg .therm (fun c => c.clear .therm [0x070])) ∧
    (∀ s : State, s.serves .flt → exec .fltClrCnt s = s.doesReg .flt (fun c => c.clear .flt [0x090, 0x094, 0x098, 0x09C])) ∧
    (∀ s : State, s.serves (.time 0) → exec .timeClrCnt s = s.doesReg (.time 0) (fun c =>
        (((c.clear (.time 0) [0x0C8, 0x0CC]).clear (.time 2) [0x058, 0x05C]).clear (.time 3) [0x04C, 0x050, 0x054, 0x058]).modTime
          (fun t => { t with refs := t.refs.map (fun r => { r with disqual := 0 }) }))) ∧
    (∀ s : State, s.serves .ingest → exec .clrAll s = s.doesReg .ingest (fun c => { c with ingest := { c.ingest with cnt := [] } })) ∧
    (∀ s : State, s.serves (.fst 0) → exec .rqsatClr s = s.doesReg (.fst 0) (fun c =>
        { c with io := { c.io with rqsat := { fill := .zero, cells := [] } } }))) ∧
  (
    (∀ (s : State) (d : XDie), s.serves (.cells d.val) → exec (.cellsClrCnt d) s = s.doesReg (.cells d.val) (fun c =>
        c.clear (.cells d.val) [0x070, 0x074, 0x078, 0x07C, 0x080, 0x084, 0x088, 0x08C, 0x090])) ∧
    (∀ (s : State) (d : XDie) (n : Fin 24), s.serves (.clu d.val n.val) →
      exec (.cluClrCnt d n) s = s.doesReg (.clu d.val n.val) (fun c =>
        (c.clear (.clu d.val n.val) [0x048, 0x04C, 0x050, 0x054]).wr (.clu d.val n.val) 0x040
          (c.rd (.clu d.val n.val) 0x040 % 65536))) ∧
    (∀ (s : State) (d : XDie), s.serves (.xdie d.val) →
      exec (.dumpClrCnt d) s = s.doesReg (.xdie d.val) (fun c =>
        (c.clear (.xdie d.val) [0x240, 0x244, 0x248, 0x24C, 0x250, 0x254, 0x258, 0x25C, 0x260]).wr (.xdie d.val) 0x234
          (c.egressLevel d.val)) ∧
      exec (.xdieClrCnt d) s = s.doesReg (.xdie d.val) (fun c => c.clear (.xdie d.val) [0x058, 0x05C])) ∧
    (∀ (s : State) (d : XDie) (j : Fin 2), s.serves (.bsl d.val j.val) →
      exec (.bslClrCnt d j) s = s.doesReg (.bsl d.val j.val) (fun c =>
        c.clear (.bsl d.val j.val) [0x060, 0x064, 0x068, 0x06C, 0x070])) ∧
    (∀ (s : State) (d : XDie), s.serves (.red d.val) → exec (.redClrCnt d) s = s.doesReg (.red d.val) (fun c =>
        c.clear (.red d.val) [0x060, 0x064, 0x068, 0x06C, 0x070, 0x074])) ∧
    (∀ (s : State) (d : XDie) (j : Fin 2), s.serves (.hbm d.val j.val) →
      exec (.hbmClrCnt d j) s = s.doesReg (.hbm d.val j.val) (fun c =>
        (c.clear (hbmPage (2 * d.val + j.val))
          [0x050, 0x05C, 0x060, 0x064, 0x068, 0x06C, 0x070, 0x074, 0x078, 0x07C, 0x080]).owedPeak (2 * d.val + j.val))) ∧
    (∀ (s : State) (x : Chip), s.serves (chanterPage x.val) →
      exec (.chnClrCnt x) s = s.doesReg (chanterPage x.val) (fun c =>
        c.clear (chanterPage x.val) [0x07C, 0x080, 0x184, 0x188, 0x18C, 0x190, 0x194])))

/-- R48, R52, R54, R55, R58, R59, R60: the commands of a LANE page. TRAIN starts a full bring-up; RETRAIN a fast retrain, or a
full bring-up without settings last in use; RECAL is merged and counted while one is pending or runs, rejected with CMD_REJECT
on a lane that is not UP, and else left pending; DOWN takes the lane to OFF; SCAN_START takes dwell and threshold from
LANE_SCAN_CFG, MODE 3 acting as 1, and is rejected with CMD_REJECT while a scan runs, while a FULL scan holds the group's
table, or on a lane that is not UP; SCAN_ABORT ends a running scan with SCAN_ABORTED, of a FULL scan with the counts of the
points it reached in the table, and of a recalibration's scan the recalibration with it (notes/assumptions/77.md, 78.md,
79.md). R9, R48, R60, R264, R456: a LANE_EN write to a powered group stores the value, starts bring-up of the lanes set and
takes those cleared to OFF, unless a schedule runs: a value that would change it is then recorded as LOCKED_WRITE; to a group
whose domain is off, a non-zero value asks for the switch-on and waits for it, and zero is ignored; a write that may not be
served now waits as every host write, and one to a page without ENABLE has no effect. -/
def Obligations.LaneAndEnableCommands : Prop :=
  (
    (∀ (s : State) (l : Lane), s.serves (.lane l) →
      exec (.train l) s = s.doesReg (.lane l) (fun c => c.bringUp l) ∧
      ((s.core.lane l).settings = true → exec (.retrain l) s = s.doesReg (.lane l) (fun c => c.fastRetrain l)) ∧
      ((s.core.lane l).settings = false → exec (.retrain l) s = s.doesReg (.lane l) (fun c => c.bringUp l)) ∧
      (((s.core.lane l).recalPending = true ∨ (s.core.lane l).ph ∈ [LanePh.recalAdapt, .recalAlign, .recalScan]) →
        exec (.recal l) s = s.doesReg (.lane l) (fun c => c.inc (.lane l) 0x070)) ∧
      (¬ ((s.core.lane l).recalPending = true ∨ (s.core.lane l).ph ∈ [LanePh.recalAdapt, .recalAlign, .recalScan]) →
        ((s.core.lane l).st ≠ .up → exec (.recal l) s = s.doesReg (.lane l) (fun c => c.raise (.lane l) 7)) ∧
        ((s.core.lane l).st = .up →
          exec (.recal l) s = s.doesReg (.lane l) (fun c => c.modLane l (fun x => { x with recalPending := true })))) ∧
      exec (.down l) s = s.doesReg (.lane l) (fun c => c.laneDown l) ∧
      ((s.core.lane l).scan ≠ some .recal → exec (.scanAbort l) s = s.doesReg (.lane l) (fun c => c.scanStop l)) ∧
      ((s.core.lane l).scan = some .recal → exec (.scanAbort l) s = s.doesReg (.lane l) (fun c =>
        (((c.scanStop l).modLane l (fun x => { x with ph := .none, upSince := (c.scanStop l).time.tcNs })).inc (.lane l) 0x06C).raise
          (.lane l) 4)) ∧
      (((s.core.lane l).scan ≠ none ∨ (s.core.lane l).st ≠ .up) →
        exec (.scanStart l) s = s.doesReg (.lane l) (fun c => c.raise (.lane l) 7)) ∧
      ((s.core.lane l).scan = none → (s.core.lane l).st = .up → bits (s.core.scanCfg l) 1 0 ≠ 0 →
        exec (.scanStart l) s = s.doesReg (.lane l) (fun c => c.modLane l (fun x =>
          { x with scan := some .command, scanMode := if bits (s.core.scanCfg l) 1 0 = 2 then 2 else 1,
                   scanDwell := max 6 (min 10 (bits (s.core.scanCfg l) 7 4)), scanThresh := bits (s.core.scanCfg l) 27 24 }))) ∧
      ((s.core.lane l).scan = none → (s.core.lane l).st = .up → bits (s.core.scanCfg l) 1 0 = 0 →
        (s.core.tableBusy l = true → exec (.scanStart l) s = s.doesReg (.lane l) (fun c => c.raise (.lane l) 7)) ∧
        (s.core.tableBusy l = false → exec (.scanStart l) s = s.doesReg (.lane l) (fun c =>
          let c := c.modLane l (fun x =>
            { x with scan := some .command, scanMode := 0, scanDwell := max 6 (min 10 (bits (s.core.scanCfg l) 7 4)),
                     scanThresh := bits (s.core.scanCfg l) 27 24 })
          (c.setLgrp (l / 16) { c.lgrp (l / 16) with scanOwner := l.val % 16 }).ioPut (scanTable (l / 16))
            (List.replicate 65280 0))))) ∧
    (∀ (c : Core) (n : Nat),
      ((c.lane n).scan = none → c.scanStop n = c) ∧
      ((c.lane n).scan ≠ none → (c.lane n).scanMode ≠ 0 →
        c.scanStop n = (c.modLane n (fun x => { x with scan := none })).raise (.lane n) 6) ∧
      ((c.lane n).scan ≠ none → (c.lane n).scanMode = 0 → ∃ ws : List Word, ws.length ≤ 16320 ∧
        c.scanStop n = ((({ c with free := c.free + 1 + ws.length } : Core).ioPut (scanTable (n / 16))
          (ws.flatMap (fun w => leBytes 4 w.toNat))).modLane n (fun x => { x with scan := none })).raise (.lane n) 6))) ∧
  (
    ∀ (s : State) (g : Fin 16) (v : Word), s.runs →
      (s.core.route (.lgrp g.val) = .queue →
        exec (.laneEnWrite g v) s = s.does (fun c => c.post 4 (.laneEnWrite g v))) ∧
      (s.core.route (.lgrp g.val) = .none → exec (.laneEnWrite g v) s = s.does (fun c => c)) ∧
      (s.core.route (.lgrp g.val) = .serve →
        (s.core.powered (.lgrp g.val) = true → s.core.acts (.lgrp g.val) = true → s.core.running = false →
          exec (.laneEnWrite g v) s = s.doesReg (.lgrp g.val) (fun c => c.applyLaneEn g.val v.toNat)) ∧
        (s.core.powered (.lgrp g.val) = true → s.core.acts (.lgrp g.val) = true → s.core.running = true →
          exec (.laneEnWrite g v) s = s.doesReg (.lgrp g.val) (fun c =>
            if v.toNat % 65536 = s.core.rd (.lgrp g.val) 0x040 then c
            else (c.wr (.lgrp g.val) 0x01C 0x01).report (.lgrp g.val) 0x01 clsN 0)) ∧
        (s.core.powered (.lgrp g.val) = true → s.core.acts (.lgrp g.val) = false →
          exec (.laneEnWrite g v) s = s.doesReg (.lgrp g.val) (fun c => c)) ∧
        (s.core.powered (.lgrp g.val) = false → v.toNat % 65536 = 0 →
          exec (.laneEnWrite g v) s = s.doesReg (.lgrp g.val) (fun c => c)) ∧
        (s.core.powered (.lgrp g.val) = false → v.toNat % 65536 ≠ 0 →
          exec (.laneEnWrite g v) s = s.doesReg (.lgrp g.val) (fun c =>
            let c := c.setLgrp g.val { c.lgrp g.val with enPend := some (v.toNat % 65536) }
            if s.core.domOn g.val = true ∨ s.core.power.want.elem (g.val, true) = true then c
            else c.modPower (fun p => { p with want := p.want ++ [(g.val, true)] })))) ∧
      (∀ c : Core, c.applyLaneEn g.val v.toNat = (List.range 16).foldl (fun d i =>
          if v.toNat.testBit i = (c.rd (.lgrp g.val) 0x040).testBit i then d
          else if v.toNat.testBit i = true then d.bringUp (16 * g + i) else d.laneDown (16 * g + i))
        ((c.wr (.lgrp g.val) 0x040 (v.toNat % 65536)).modPower (fun p =>
          { p with want := p.want.filter (fun e => e.1 != g.val) ++ if v.toNat % 65536 = 0 then [(g.val, false)] else [] }))))

/-- R48, R49, R51, R52, R55, R59, R60: what the transitions of a lane leave in it. Each touches no other lane, ends a running
scan with SCAN_ABORTED and drops a pending recalibration; a failed bring-up raises LANE_FAIL and is reported, a Notice. R38,
R39, R51, R52, R458: supervision. Loss of signal or of lock in UP or RECAL raises its event, is reported with the class of
R412 and makes the lane leave UP; in steps 3 to 7 of a bring-up the lane returns to step 2; in a fast retrain that has begun a
full bring-up follows; the timeout counts in UP alone; a code violation and a misaligned block are counted, and their commas
count as those of the blocks they open (notes/assumptions/21.md). -/
def Obligations.LaneTransitionsAndSupervision : Prop :=
  (
    ∀ (c : Core) (n : Nat),
      (∀ m, m ≠ n → (c.bringUp n).lane m = c.lane m ∧ (c.fastRetrain n).lane m = c.lane m ∧
        (∀ code, (c.laneFail n code).lane m = c.lane m) ∧ (c.laneDown n).lane m = c.lane m ∧
        (∀ los, (c.leaveUp n los).lane m = c.lane m) ∧ (∀ b, (c.enterUp n b).lane m = c.lane m)) ∧
      (let x := (c.bringUp n).lane n
       x.st = .acquire ∧ x.ph = .pll ∧ x.step = 0 ∧ x.fast = false ∧ x.scan = none ∧ x.recalPending = false ∧
         x.aligned = false ∧ x.settings = (c.lane n).settings ∧ x.txIdle = (c.txMode n == 3) ∧ x.txMark = false ∧
         x.txPrbs = false ∧ x.rxMark = none ∧ x.txStep = if c.bothWays n then 0 else c.txStepCfg n) ∧
      (let x := (c.fastRetrain n).lane n
       x.st = .retrain ∧ x.ph = (if (c.lane n).los then .losWait else .fastAlign) ∧ x.fast = true ∧ x.scan = none ∧
         x.recalPending = false ∧ x.step = (c.lane n).step ∧ x.txStep = (c.lane n).txStep ∧
         x.txIdle = (c.txMode n == 3)) ∧
      (∀ code, let x := (c.laneFail n code).lane n
        x.st = .failed ∧ x.failCode = code ∧ x.scan = none ∧ x.recalPending = false ∧
        (c.laneFail n code).pend = (c.report (.lane n) 0x14 clsN 0).pend) ∧
      (let x := (c.laneDown n).lane n
       x.st = .off ∧ x.txIdle = true ∧ x.scan = none ∧ x.recalPending = false ∧ ((c.lane n).txIdle = false →
         (c.laneDown n).out = (c.laneQuit n).out ++ [.laneIdle n])) ∧
      (∀ los, c.autoRetrain n = true → (c.leaveUp n los).lane n = (c.fastRetrain n).lane n) ∧
      (∀ los, c.autoRetrain n = false → ((c.leaveUp n los).lane n).st = .failed ∧
        ((c.leaveUp n los).lane n).failCode = (if los then 1 else 2)) ∧
      (∀ below, let x := (c.enterUp n below).lane n
        x.st = .up ∧ x.settings = true ∧ x.scan = some .enterUp ∧ x.scanMode = 1 ∧ x.scanDwell = 7 ∧ x.step = (c.lane n).step) ∧
      (c.enterUp n true).pend = (c.report (.lane n) 0x13 clsN 0).pend ∧ (c.enterUp n false).pend = c.pend ∧
      (c.bringUp n).pend = c.pend ∧ (c.fastRetrain n).pend = c.pend ∧ (c.laneDown n).pend = c.pend) ∧
  (
    ∀ (s : State) (l : Lane), s.runs → s.core.laneOn l = true →
      (((s.core.lane l).st = .up ∨ (s.core.lane l).st = .recal) → (s.core.lane l).los = false →
        exec (.lossOfSignal l) s = s.does (fun c =>
          let c := (c.modLane l (fun x => { x with los := true })).raise (.lane l) 0
          (c.report (.lane l) 0x10 c.clsDN 0).leaveUp l true)) ∧
      (((s.core.lane l).st = .up ∨ (s.core.lane l).st = .recal) → exec (.lossOfLock l) s = s.does (fun c =>
          let c := (c.modLane l (fun x => { x with lol := true, aligned := false })).raise (.lane l) 1
          (c.report (.lane l) 0x11 c.clsDN 0).leaveUp l false)) ∧
      (((s.core.lane l).st = .negotiate ∨ (s.core.lane l).st = .stepping) →
        exec (.lossOfLock l) s = s.does (fun c =>
          ((c.modLane l (fun x => { x with lol := true, aligned := false })).raise (.lane l) 1).reAcquire l) ∧
        ((s.core.lane l).los = false → exec (.lossOfSignal l) s = s.does (fun c =>
          ((c.modLane l (fun x => { x with los := true })).raise (.lane l) 0).reAcquire l))) ∧
      ((s.core.lane l).st = .retrain → (s.core.lane l).ph ≠ .losWait →
        exec (.lossOfLock l) s = s.does (fun c =>
          ((c.modLane l (fun x => { x with lol := true, aligned := false })).raise (.lane l) 1).bringUp l) ∧
        ((s.core.lane l).los = false → exec (.lossOfSignal l) s = s.does (fun c =>
          ((c.modLane l (fun x => { x with los := true })).raise (.lane l) 0).bringUp l))) ∧
      (((s.core.lane l).st = .acquire ∨ (s.core.lane l).st = .failed) →
        exec (.lossOfLock l) s = s.does (fun c =>
          (c.modLane l (fun x => { x with lol := true, aligned := false })).raise (.lane l) 1) ∧
        ((s.core.lane l).los = false → exec (.lossOfSignal l) s = s.does (fun c =>
          (c.modLane l (fun x => { x with los := true })).raise (.lane l) 0))) ∧
      ((s.core.lane l).st = .retrain → (s.core.lane l).ph = .losWait →
        exec (.lossOfLock l) s = s.does (fun c =>
          (c.modLane l (fun x => { x with lol := true, aligned := false })).raise (.lane l) 1)) ∧
      ((s.core.lane l).st = .off →
        exec (.lossOfLock l) s = s.does (fun c => c.modLane l (fun x => { x with lol := true, aligned := false })) ∧
        ((s.core.lane l).los = false → exec (.lossOfSignal l) s = s.does (fun c =>
          c.modLane l (fun x => { x with los := true })))) ∧
      ((s.core.lane l).los = true → exec (.lossOfSignal l) s = s.does (fun c => c)) ∧
      exec (.losClear l) s = s.does (fun c =>
        c.modLane l (fun x => { x with los := false, ph := if x.ph = .losWait then .fastAlign else x.ph })) ∧
      ((s.core.lane l).st = .up → exec (.timeout l) s = s.does (fun c =>
        ((c.raise (.lane l) 2).report (.lane l) 0x12 c.clsDN 0).leaveUp l false)) ∧
      ((s.core.lane l).st ≠ .up → exec (.timeout l) s = s.does (fun c => c)) ∧
      (∀ ctrl, ((s.core.lane l).st = .off ∨ (s.core.lane l).ph = .prbs) →
        exec (.codeViolation ⟨l, ctrl⟩) s = s.does (fun c => c) ∧ exec (.blockAlignError ⟨l, ctrl⟩) s = s.does (fun c => c)) ∧
      ((s.core.lane l).st ≠ .off → (s.core.lane l).ph ≠ .prbs →
        (exec (.codeViolation ⟨l, false⟩) s = s.does (fun c =>
          (c.modLane l (fun x => { x with rxK := x.rxK + 1 })).inc (.lane l) 0x060) ∧
        exec (.blockAlignError ⟨l, false⟩) s = s.does (fun c =>
          (c.modLane l (fun x => { x with rxK := x.rxK + 1 })).inc (.lane l) 0x068)) ∧
        exec (.codeViolation ⟨l, true⟩) s = s.does (fun c =>
          (c.modLane l (fun x => { x with rxK := 0, rxMark := x.rxMark.map (· - 1) })).inc (.lane l) 0x060) ∧
        exec (.blockAlignError ⟨l, true⟩) s = s.does (fun c =>
          (c.modLane l (fun x => { x with rxK := 0, rxMark := x.rxMark.map (· - 1) })).inc (.lane l) 0x068)))

/-- R40, R46, R48, R52: the steps of a bring-up that need no message. PLL lock begins alignment; alignment settles the
polarity and begins CAPS, at once or once a relayed lane's control lane is UP, and a lane without a way to answer fails with
NO_CTRL; the 1 s limit ends in NO_SIGNAL or NO_ALIGN; a fast retrain goes straight to adaptation, and its own limit to a full
bring-up. R42, R48, R49: the tests. After 2 ms of adaptation a lane that tests both ways sends eight PRBS_MARK blocks, COUNT 7
to 0; at the partner's boundary the PRBS test begins, though adaptation has not ended (notes/assumptions/80.md); its count of
bits, no more than the partner's mark stated, and of errors is recorded and sent as PRBS_RESULT, and the results decide; the
test lasts while own marked blocks still wait; at the boundary of a rate change the receiver takes the target step, and once
its own marks have left too, the lane tests it, or enters UP there on its way down. R48, R49, R52: both results of a test
known, the lane enters UP at the top step or after a fast retrain, and else asks for the next step; a failed test is repeated
once at the same step, then the lane asks for the step below, or fails with PRBS at step 0; a failed fast retrain becomes a
full bring-up. -/
def Obligations.BringUpAndTests : Prop :=
  (
    ∀ (s : State) (l : Lane), s.runs → s.core.laneOn l = true →
      ((s.core.lane l).ph = .pll → exec (.lanePllLocked l) s = s.does (fun c =>
        (c.setLgrp (l / 16) { c.lgrp (l / 16) with pll := true }).modLane l (fun x => { x with ph := .align }))) ∧
      (∀ inv, (s.core.lane l).ph = .fastAlign → exec (.laneAligned l inv) s = s.does (fun c =>
        (c.modLane l (fun x => { x with aligned := true, lol := false })).adapt l)) ∧
      (∀ inv, (s.core.lane l).ph = .align →
        let pol := if bit (s.core.rd (.lane l) 0x040) 19 then inv else bit (s.core.rd (.lane l) 0x040) 20
        let f : Core → Core := fun c => c.modLane l (fun x => { x with pol := pol, aligned := true, lol := false })
        (s.core.relayed l = false → s.core.txReturn l = true →
          exec (.laneAligned l inv) s = s.does (fun c => (f c).modLane l (fun x => { x with st := .negotiate, ph := .caps }))) ∧
        (s.core.relayed l = false → s.core.txReturn l = false →
          exec (.laneAligned l inv) s = s.does (fun c => (f c).laneFail l 5)) ∧
        (s.core.relayed l = true → s.core.relayOk l = false →
          exec (.laneAligned l inv) s = s.does (fun c => (f c).laneFail l 5)) ∧
        (s.core.relayOk l = true → (s.core.lane (s.core.ctrlLane l)).st = .up →
          exec (.laneAligned l inv) s = s.does (fun c => (f c).startCaps l)) ∧
        (s.core.relayOk l = true → (s.core.lane (s.core.ctrlLane l)).st ≠ .up →
          exec (.laneAligned l inv) s = s.does (fun c =>
            (f c).modLane l (fun x => { x with st := .negotiate, ph := .waitCtrl })))) ∧
      (∀ los, (s.core.lane l).ph = .align →
        exec (.laneAlignTimeout l los) s = s.does (fun c => c.laneFail l (if los then 1 else 2))) ∧
      ((s.core.lane l).ph = .waitCtrl →
        ((s.core.lane (s.core.ctrlLane l)).st = .up →
          exec (.relayedLaneContinue l) s = s.does (fun c => c.startCaps l)) ∧
        ((s.core.lane (s.core.ctrlLane l)).st = .failed →
          exec (.relayedLaneContinue l) s = s.does (fun c => c.laneFail l 5))) ∧
      ((s.core.lane l).ph = .fastAlign → exec (.fastRetrainLockTimeout l) s = s.does (fun c => c.bringUp l))) ∧
  (
    ∀ (s : State) (l : Lane), s.runs → s.core.laneOn l = true →
      ((s.core.lane l).ph = .adapt → s.core.bothWays l = true → exec (.laneAdaptDone l) s = s.does (fun c =>
        (c.modLane l (fun x => { x with ph := .markPrbs, peerPass := none })).sendMarks l 0x05
          (leBytes 5 (c.lane l).prbsCount))) ∧
      ((s.core.lane l).ph = .adapt → s.core.bothWays l = false → exec (.laneAdaptDone l) s = s.does (fun c =>
        c.modLane l (fun x => { x with ph := .markPrbs, peerPass := some true }))) ∧
      (∀ nbits errs, (s.core.lane l).ph = .prbs → (s.core.lane l).txMark = false →
        exec (.prbsTestDone l nbits errs) s = s.does (fun c =>
          let n := min nbits (s.core.lane l).rxBits
          let c := (c.wr (.lane l) 0x074 (min errs m32)).wr64 (.lane l) 0x078 n
          let c := c.modLane l (fun x => { x with ph := .result, ownPass := some (errs == 0), txPrbs := false })
          (c.sendCtl l 0x06 (leBytes 1 (s.core.lane l).step ++ [0, 0, 0, 0] ++ leBytes 8 n ++ leBytes 8 errs)).prbsDecide l)) ∧
      (∀ nbits errs, ((s.core.lane l).ph ≠ .prbs ∨ (s.core.lane l).txMark = true) →
        exec (.prbsTestDone l nbits errs) s = s.does (fun c => c)) ∧
      ((s.core.lane l).rxMark = some 0 → (s.core.lane l).ph = .markPrbs →
        exec (.markedBoundary l) s = s.does (fun c => c.modLane l (fun x => { x with rxMark := none, ph := .prbs }))) ∧
      ((s.core.lane l).rxMark = some 0 → (s.core.lane l).ph = .adapt → s.core.bothWays l = true →
        exec (.markedBoundary l) s = s.does (fun c =>
          ((c.modLane l (fun x => { x with ph := .markPrbs, peerPass := none })).sendMarks l 0x05
            (leBytes 5 (c.lane l).prbsCount)).modLane l (fun x => { x with rxMark := none, ph := .prbs }))) ∧
      ((s.core.lane l).rxMark = some 0 → (s.core.lane l).ph = .adapt → s.core.bothWays l = false →
        exec (.markedBoundary l) s = s.does (fun c =>
          (c.modLane l (fun x => { x with ph := .markPrbs, peerPass := some true })).modLane l (fun x =>
            { x with rxMark := none, ph := .prbs }))) ∧
      ((s.core.lane l).rxMark = some 0 → (s.core.lane l).ph = .mark → (s.core.lane l).txMark = true →
        exec (.markedBoundary l) s = s.does (fun c =>
          c.modLane l (fun x => { x with rxMark := none, step := x.target, ph := .markOwn }))) ∧
      ((s.core.lane l).rxMark = some 0 → (s.core.lane l).ph = .mark → (s.core.lane l).txMark = false →
        exec (.markedBoundary l) s = s.does (fun c =>
          let c := c.modLane l (fun x => { x with rxMark := none, step := x.target })
          if (s.core.lane l).falling = true then c.enterUp l true else c.adapt l)) ∧
      ((s.core.lane l).rxMark ≠ some 0 → exec (.markedBoundary l) s = s.does (fun c => c))) ∧
  (
    ∀ (c : Core) (n : Nat) (own peer : Bool), (c.lane n).ownPass = some own → (c.lane n).peerPass = some peer →
      let x := c.lane n
      (own = true → peer = true → (x.fast = true ∨ x.step = x.top) → c.prbsDecide n = c.enterUp n false) ∧
      (own = true → peer = true → x.fast = false → x.step ≠ x.top → c.prbsDecide n = c.stepOn n) ∧
      (¬ (own = true ∧ peer = true) → x.fast = true → c.prbsDecide n = c.bringUp n) ∧
      (¬ (own = true ∧ peer = true) → x.fast = false → x.retried = false →
        c.prbsDecide n = (c.modLane n (fun x => { x with retried := true })).adapt n) ∧
      (¬ (own = true ∧ peer = true) → x.fast = false → x.retried = true → x.step = 0 → c.prbsDecide n = c.laneFail n 4) ∧
      (¬ (own = true ∧ peer = true) → x.fast = false → x.retried = true → x.step ≠ 0 →
        c.prbsDecide n = (c.modLane n (fun x => { x with falling := true })).stepReq n (x.step - 1)))

/-- R34, R41 to R43, R45, R48, R60, R271: the transmitter of a lane that is neither OFF, idle nor in a PRBS test sends, when a
control block is due, on an OUTPUT lane its STATUS; else the oldest waiting negotiation message, TIME_RESP, TIME_REQ or HOST
message, CAPS in steps 2 and 3 of a bring-up, else IDLE (their order is the model's choice, notes/assumptions/22.md); the
block carries the running SEQ, and packet counting starts again; with its own COUNT 0 mark the transmitter takes the target
step, or sends PRBS31. With the LAUNCH of a frame near, the block follows that frame. A lane in electrical idle sends none.
R34, R37 to R39, R41, R42, R46, R48, R49: the control blocks a lane receives, from the bits of its line. Each restarts the
count of packet blocks and comes one comma nearer to a marked boundary; a block broken off by a violation or out of alignment,
one whose CRC fails and one of an unknown TYPE are discarded and counted; on a lane that negotiates for itself CAPS sets the
agreed top step or fails with VERSION, STEP_ACK starts the marks or ends stepping, marks place the boundary COUNT commas
later, PRBS_RESULT records the partner's result; IDLE and STATUS have no effect of their own; a lane in a PRBS test finds no
comma. -/
def Obligations.ControlBlocks : Prop :=
  (
    ∀ (s : State) (l : Lane), s.runs →
      (s.core.laneOn l = true → s.core.txMode l ≠ 3 → (s.core.lane l).st ≠ .off → (s.core.lane l).txIdle = false →
        (s.core.lane l).txPrbs = false →
        let put : CtrlOut → Core → Core := fun m c =>
          let bs := ctrlBytes m (s.core.lane l).txSeq
          (c.modLane l (fun x => { x with txSeq := (x.txSeq + 1) % 65536, txK := 0 })).emit (.laneCtrl l bs (ctrlLine bs))
        let x := s.core.lane l
        (s.core.launchNear l = true →
          exec (.ctrlBlockDue l) s = s.does (fun c => c.modLane l (fun x => { x with ctrlHeld := true }))) ∧
        (s.core.launchNear l = false →
          (s.core.txMode l = 2 → exec (.ctrlBlockDue l) s = s.does (fun c => put { type := 7, body := c.statusBody l false } c)) ∧
          (s.core.txMode l ≠ 2 →
            (∀ m ms, x.ctlQ = m :: ms →
              exec (.ctrlBlockDue l) s = s.does (fun c => (put m (c.modLane l (fun x => { x with ctlQ := ms }))).markLeft l m)) ∧
            (x.ctlQ = [] →
              (∀ id t2 rs, x.respQ = (id, t2) :: rs → exec (.ctrlBlockDue l) s = s.does (fun c =>
                let now : Stamp := ⟨c.time.atbS, c.time.atbNs, (Config.freeFraction c.free).toNat⟩
                put { type := 9, body := leBytes 2 id ++ leBytes 1 (b2n (c.time.dpll == .locked)) ++ [0, 0, 0, 0, 0] ++
                  t2.bytes ++ now.bytes } ({ c with free := c.free + 1 }.modLane l (fun x => { x with respQ := rs })))) ∧
              (x.respQ = [] →
                (∀ id ts, x.timeQ = id :: ts → exec (.ctrlBlockDue l) s = s.does (fun c =>
                  put { type := 8, body := leBytes 2 id ++ leBytes 1 (b2n (c.time.dpll == .locked)) }
                    ((c.modLane l (fun x => { x with timeQ := ts })).tsRecord id l))) ∧
                (x.timeQ = [] →
                  (∀ h hs, x.hostQ = h :: hs → exec (.ctrlBlockDue l) s = s.does (fun c =>
                    put { type := 0x0A, body := h } (c.modLane l (fun x => { x with hostQ := hs })))) ∧
                  (x.hostQ = [] → exec (.ctrlBlockDue l) s = s.does (fun c =>
                    put (if x.ph = .align ∨ x.ph = .caps then { type := 1, body := c.capsBody l } else { type := 0 }) c)))))))) ∧
      ((s.core.laneOn l = false ∨ (s.core.lane l).st = .off ∨ (s.core.lane l).txIdle = true ∨ (s.core.lane l).txPrbs = true ∨
          s.core.txMode l = 3) →
        exec (.ctrlBlockDue l) s = s.does (fun c => c)) ∧
      (∀ (c : Core) (m : CtrlOut), (c.lane l).txMark = true → m.count = 0 → m.rel = none →
        (m.type = 4 → (c.lane l).ph ≠ .markOwn →
          c.markLeft l m = c.modLane l (fun x => { x with txMark := false, txStep := leAt m.body 0 1 })) ∧
        (m.type = 5 → c.markLeft l m =
          (c.modLane l (fun x => { x with txMark := false, txPrbs := true })).emit (.lanePrbs l (leAt m.body 0 5))))) ∧
  (
    ∀ (s : State) (l : Lane) (line : List Bool), s.runs → s.core.laneOn l = true → (s.core.lane l).st ≠ .off →
      let f : Core → Core := fun c => c.modLane l (fun x => { x with rxK := 0, rxMark := x.rxMark.map (· - 1) })
      ((s.core.lane l).ph = .prbs → exec (.ctrlIdle l line) s = s.does (fun c => c) ∧
        exec (.rxCtrlCrcFail ⟨l, line⟩) s = s.does (fun c => c)) ∧
      ((s.core.lane l).ph ≠ .prbs →
        (∀ e, rxBlock (s.core.lane l).pol line = some (false, .error e) →
          exec (.rxCtrlCrcFail ⟨l, line⟩) s = s.does (fun c => (f c).inc (.lane l) (match e with | .code => 0x060 | .align => 0x068))) ∧
        (∀ bs, rxBlock (s.core.lane l).pol line = some (false, .ok bs) →
          (parseCtrl (ctrlBlockBytes bs) = none →
            exec (.rxCtrlCrcFail ⟨l, line⟩) s = s.does (fun c => (f c).inc (.lane l) 0x064)) ∧
          (∀ b, parseCtrl (ctrlBlockBytes bs) = some b →
            (0x0A < b.type → exec (.rxCtrlUnknownType l line) s = s.does (fun c => (f c).inc (.lane l) 0x064)) ∧
            (b.type = 0x02 → exec (.rxCtrlUnknownType l line) s = s.does f) ∧
            (b.type = 0x00 → exec (.ctrlIdle l line) s = s.does f) ∧
            (b.type = 0x07 → exec (.status l line) s = s.does f) ∧
            (b.type = 0x04 → exec (.stepMark l line) s = s.does (fun c =>
              if (s.core.lane l).ph = .mark then (f c).modLane l (fun x => { x with rxMark := some b.count }) else f c)) ∧
            (b.type = 0x05 → exec (.prbsMark l line) s = s.does (fun c =>
              if (s.core.lane l).ph = .adapt ∨ (s.core.lane l).ph = .markPrbs
              then (f c).modLane l (fun x => { x with rxMark := some b.count, rxBits := leAt b.body 0 5 }) else f c)) ∧
            (b.flags.testBit 0 = false → s.core.relayed l = false →
              (b.type = 0x01 → (s.core.lane l).ph = .caps → leAt b.body 8 1 ≠ 1 →
                exec (.caps l line) s = s.does (fun c => (f c).laneFail l 3)) ∧
              (b.type = 0x01 → (s.core.lane l).ph = .caps → leAt b.body 8 1 = 1 → exec (.caps l line) s = s.does (fun c =>
                (((f c).wr64 (.lane l) 0x080 (leAt b.body 0 8)).modLane l (fun x =>
                  { x with features := leAt b.body 11 1, partnerMax := leAt b.body 9 1, partnerLane := leAt b.body 12 1,
                           top := min (min (c.maxStep l) (leAt b.body 9 1)) 4, st := .stepping })).stepOn l)) ∧
              (b.type = 0x03 → (s.core.lane l).ph = .ackWait → leAt b.body 0 1 = (s.core.lane l).target → leAt b.body 1 1 = 0 →
                s.core.bothWays l = true → exec (.stepAck l line) s = s.does (fun c =>
                  ((f c).modLane l (fun x => { x with ph := .mark })).sendMarks l 0x04 (leBytes 1 (s.core.lane l).target))) ∧
              (b.type = 0x03 → (s.core.lane l).ph = .ackWait → leAt b.body 0 1 = (s.core.lane l).target → leAt b.body 1 1 ≠ 0 →
                exec (.stepAck l line) s = s.does (fun c =>
                  ((f c).modLane l (fun x => { x with top := x.step, falling := false, retried := false })).adapt l)) ∧
              (b.type = 0x06 → (s.core.lane l).ph = .result → s.core.bothWays l = true →
                leAt b.body 0 1 = (s.core.lane l).step → exec (.prbsResult l line) s = s.does (fun c =>
                  ((f c).modLane l (fun x => { x with peerPass := some (leAt b.body 13 8 == 0) })).prbsDecide l))) ∧
            (b.flags.testBit 0 = true → ∀ t, b.lane = t → t < 256 → t ≠ l.val → s.core.relayed t = true → s.core.ctrlLane t = l →
              (b.type = 0x03 → (s.core.lane t).ph = .ackWait → leAt b.body 0 1 = (s.core.lane t).target →
                leAt b.body 1 1 = 0 → exec (.stepAck l line) s = s.does (fun c =>
                  (f c).modLane t (fun x => { x with ph := .mark }))))))))

/-- R43, R44, R323 to R326, R370: the messages that pass through a lane. A TIME_REQ is counted, and stamped and queued for its
answer, or dropped where time is off, the lane does not return, or four wait; a TIME_RESP is counted and delivered as
TIME_EXCHANGE to the ring the host named, or dropped there; a HOST message is delivered as the host's message item, or counted
as dropped. -/
def Obligations.TimeAndHostMessages : Prop :=
  ∀ (s : State) (l : Lane) (line bs : List Bool) (b : CtrlBlk), s.runs → s.core.laneOn l = true → (s.core.lane l).st ≠ .off →
    (s.core.lane l).ph ≠ .prbs → rxBlock (s.core.lane l).pol line = some (false, .ok bs) →
    parseCtrl (ctrlBlockBytes bs) = some b →
    let f : Core → Core := fun c => c.modLane l (fun x => { x with rxK := 0, rxMark := x.rxMark.map (· - 1) })
    let drop : Core → Core := fun c => (c.inc (.time 3) 0x050).raise (.time 3) 1
    (b.type = 0x08 → bit (s.core.rd (.time 3) 0x040) 0 = true → s.core.txReturn l = true → (s.core.lane l).respQ.length < 4 →
      exec (.timeReq l line) s = s.does (fun c =>
        let c := (f c).inc (.time 3) 0x054
        let now : Stamp := ⟨c.time.atbS, c.time.atbNs, (Config.freeFraction c.free).toNat⟩
        { c with free := c.free + 1 }.modLane l (fun x => { x with respQ := x.respQ ++ [(leAt b.body 0 2, now)] }))) ∧
    (b.type = 0x08 → ¬ (bit (s.core.rd (.time 3) 0x040) 0 = true ∧ s.core.txReturn l = true ∧ (s.core.lane l).respQ.length < 4) →
      exec (.timeReq l line) s = s.does (fun c => drop ((f c).inc (.time 3) 0x054))) ∧
    (∀ r e, b.type = 0x09 → s.core.rd (.time 3) 0x048 = r → r ≠ 0 → (s.core.ring r).role = 4 →
      s.core.time.tsQ.find? (fun e => e.id == leAt b.body 0 2 && e.lane == l.val) = some e →
      s.leaves (exec (.timeResp l line) s) (fun c =>
        c.time.tsQ = s.core.time.tsQ.filter (fun e => !(e.id == leAt b.body 0 2 && e.lane == l.val)) ∧
        c.rd (.time 3) 0x058 = (satInc (s.core.reg (PageKind.key (.time 3) 0x058)) 1).toNat ∧
        (c.ring r).items = (s.core.ring r).items ++ [
          let now : Stamp := ⟨s.core.time.atbS, s.core.time.atbNs, (Config.freeFraction s.core.free).toNat⟩
          { kind := 2, gen := (s.core.ring r).gen, die := 4, from_ := r,
            bytes := leBytes 2 l ++ leBytes 2 (leAt b.body 0 2) ++
              leBytes 4 (4 * (leAt b.body 2 1 % 2) + 8 * b2n (s.core.time.dpll == .locked)) ++ e.t1.bytes ++
              slice b.body 8 32 ++ now.bytes }])) ∧
    (∀ r, b.type = 0x0A → s.core.rd .ring 0x068 = r →
      (r ≠ 0 → (s.core.ring r).role = 4 → exec (.host l line) s = s.does (fun c => (f c).modRing r (fun x =>
        { x with items := x.items ++ [{ kind := 1, gen := (s.core.ring r).gen, die := 4, from_ := r,
                                        bytes := leBytes 2 l ++ [0, 0] ++ slice b.body 0 52 }] }))) ∧
      ((r = 0 ∨ (s.core.ring r).role ≠ 4) → exec (.host l line) s = s.does (fun c => (f c).inc .ring 0x084)))

/-- R53 to R58: a pending recalibration of an UP lane starts when no earlier UP lane of its group waits, none recalibrates
and, in a schedule, at the opening of a class [36] window of 2.5 ms or more, ending a running scan; the lane adapts, realigns,
is UP again and scans; a scan that ends writes its result, raises SCAN_DONE, and after a recalibration counts it in CNT_RECAL
and raises RECAL_DONE. -/
def Obligations.RecalibrationAndScans : Prop :=
  ∀ (s : State) (l : Lane), s.runs → s.core.laneOn l = true →
    ((s.core.lane l).recalPending = true → (s.core.lane l).st = .up → s.core.groupRecal (l / 16) = false →
      (∀ i, i < l.val % 16 → (s.core.lane (l / 16 * 16 + i)).recalPending = false ∨
        (s.core.lane (l / 16 * 16 + i)).st ≠ .up) → s.core.recalNow = true →
      exec (.recalStart l) s = s.does (fun c => (c.scanStop l).modLane l (fun x =>
        { x with recalPending := false, st := .recal, ph := .recalAdapt, aligned := false }))) ∧
    ((s.core.lane l).ph = .recalAdapt →
      exec (.recalAdaptDone l) s = s.does (fun c => c.modLane l (fun x => { x with ph := .recalAlign }))) ∧
    ((s.core.lane l).ph = .recalAlign → exec (.recalRealigned l) s = s.does (fun c => c.modLane l (fun x =>
      { x with st := .up, ph := .recalScan, aligned := true, scan := some .recal, scanMode := 1, scanDwell := 7,
               scanThresh := bits (c.scanCfg l) 27 24, upSince := c.time.tcNs }))) ∧
    (∀ counts why, (s.core.lane l).scan = some why → exec (.eyeScanDone l counts) s = s.does (fun c =>
      let dwell := 10 ^ (c.lane l).scanDwell
      let th := (c.lane l).scanThresh
      let full := (List.range 16320).map (nth 0 counts)
      let mode := (c.lane l).scanMode
      let c := c.modLane l (fun x => { x with scan := none })
      let c :=
        if mode = 2 then c.wr (.lane l) 0x054 (min (nth 0 counts 0) m32)
        else if mode = 0 then
          (c.wr (.lane l) 0x04C (eyeQual dwell th ((List.range 64).map (fun p => nth 0 counts (p * 255 + 127)))
            ((full.drop (32 * 255)).take 255))).ioPut (scanTable (l / 16)) (full.flatMap (fun m => leBytes 4 (min m m32)))
        else c.wr (.lane l) 0x04C (eyeQual dwell th ((List.range 64).map (nth 0 counts))
            ((List.range 255).map (fun i => nth 0 counts (64 + i))))
      let c := c.raise (.lane l) 5
      if why = .recal then
        ((c.modLane l (fun x => { x with ph := .none, upSince := c.time.tcNs })).inc (.lane l) 0x06C).raise (.lane l) 4
      else c)) ∧
    (s.core.running = true → s.core.power.running = true → s.core.power.mode ≠ .calibrate → s.core.imageMode ≠ .calibrate →
      (s.core.recalNow = true ↔ ∃ cls len, (s.core.chanter 4).win = some (cls, len) ∧ cls.testBit 4 = true ∧
        (s.core.chanter 4).winTc = s.core.time.tcNs ∧ s.core.recalWindow len = true)) ∧
    (∀ len i, s.core.img = some i → (s.core.recalWindow len = true ↔ 25 * i.fclk.1 ≤ len * i.fclk.2 * 10000)) ∧
    ((s.core.running = false ∨ s.core.power.running = false ∨ s.core.power.mode = .calibrate ∨ s.core.imageMode = .calibrate) →
      s.core.recalNow = true)

/-- R57: the eye width is the run of passing phase steps at v = 0 around p = 32, times 1 000/64 mUI and truncated, the eye
height the run of passing voltage steps at p = 32 around v = 0, times 2 mV; where p = 32 at v = 0 fails, both are 0. `row` are
the 64 points at v = 0, `col` the 255 points at p = 32, index 127 at v = 0; the result is LANE_QUAL, width in [15:0], height
in [31:16]. -/
def Obligations.EyeQuality : Prop :=
  ∀ (dwell thresh : Nat) (row col : List Nat), row.length = 64 → col.length = 255 →
    (∀ a b p q : Nat, a ≤ 32 → 32 < b → b ≤ 64 → p ≤ 127 → 127 < q → q ≤ 255 →
      (∀ i, a ≤ i → i < b → pointPass dwell thresh (nth 1 row i) = true) →
      (a = 0 ∨ pointPass dwell thresh (nth 1 row (a - 1)) = false) →
      (b = 64 ∨ pointPass dwell thresh (nth 1 row b) = false) →
      (∀ i, p ≤ i → i < q → pointPass dwell thresh (nth 1 col i) = true) →
      (p = 0 ∨ pointPass dwell thresh (nth 1 col (p - 1)) = false) →
      (q = 255 ∨ pointPass dwell thresh (nth 1 col q) = false) →
      eyeQual dwell thresh row col = (b - a) * 1000 / 64 + (q - p) * 2 * 2 ^ 16) ∧
    (pointPass dwell thresh (nth 1 row 32) = false → eyeQual dwell thresh row col = 0)

/-- R306, R307, R312, R313: the events of an enabled reference. Each PPS edge records the phase less REF_DELAY; an edge off by
more than a cycle, a phase jump above its limit, lost activity, a missing PPS and a frequency off by more than FREQ_TOL each
fail the reference with its FAIL_CODE; a reference that has passed every test is qualified and raises QUALIFIED, and serves
WTR unless it is its first; the end of WTR makes it eligible. A PPS edge of the active reference steers the loop: the
frequency that results is a free value (notes/assumptions/35.md), kept for HOLDOVER where the whole second was LOCKED without
PULLING. A reference that is not enabled has no events. R309: the windows of a dispute between the active reference `a` and
another qualified one of equal rank: a difference above DISPUTE_THR marks the other DISPUTED, raises DISPUTE and is reported,
a Notice; the mark clears after three windows in succession within half of DISPUTE_THR; the active reference and one of
another rank are never marked. -/
def Obligations.ReferenceTestsAndDisputes : Prop :=
  (
    ∀ (s : State) (n : Fin 4), s.runs → s.core.timeOn = true → s.core.refEn n = true →
      (∀ cycles phase jump,
        let f : Core → Core := fun c =>
          c.modRef n (fun r => { r with activity := true, phase := phase - s.core.refDelay n, raw := phase })
        ((cycles + 1 < s.core.refHz n ∨ s.core.refHz n + 1 < cycles) →
          exec (.refPpsEdge n cycles phase jump) s = s.does (fun c => (f c).refFails n 4)) ∧
        (s.core.refHz n ≤ cycles + 1 → cycles ≤ s.core.refHz n + 1 →
          bits (s.core.refQual n) 31 24 * 10000 < jump.natAbs →
          exec (.refPpsEdge n cycles phase jump) s = s.does (fun c => (f c).refFails n 5)) ∧
        (s.core.refHz n ≤ cycles + 1 → cycles ≤ s.core.refHz n + 1 →
          jump.natAbs ≤ bits (s.core.refQual n) 31 24 * 10000 →
          (s.core.time.active ≠ some n.val ∨ (s.core.time.dpll ≠ .locked ∧ s.core.time.dpll ≠ .acquiring)) →
          exec (.refPpsEdge n cycles phase jump) s = s.does f) ∧
        (s.core.refHz n ≤ cycles + 1 → cycles ≤ s.core.refHz n + 1 →
          jump.natAbs ≤ bits (s.core.refQual n) 31 24 * 10000 →
          s.core.time.active = some n.val → (s.core.time.dpll = .locked ∨ s.core.time.dpll = .acquiring) →
          ∃ fr : Int, exec (.refPpsEdge n cycles phase jump) s = s.does (fun c =>
            { (f c).modTime (fun t => { t with phaseErr := phase - s.core.refDelay n, freqOff := fr,
                                               clean := t.dpll == .locked && !t.pulling,
                                               freqLog := if t.clean then (fr :: t.freqLog).take 1000 else t.freqLog }) with
              free := c.free + 1 }))) ∧
      exec (.refActivityLoss n) s = s.does (fun c => (c.modRef n (fun r => { r with activity := false })).refFails n 1) ∧
      exec (.refPpsMissing n) s = s.does (fun c => c.refFails n 3) ∧
      (∀ offset : Int,
        let f : Core → Core := fun c => c.modRef n (fun r => { r with activity := true, freq := offset })
        (bits (s.core.refQual n) 15 0 * 1000 < offset.natAbs →
          exec (.refFreqCheck n offset) s = s.does (fun c => (f c).refFails n 2)) ∧
        (offset.natAbs ≤ bits (s.core.refQual n) 15 0 * 1000 → exec (.refFreqCheck n offset) s = s.does f)) ∧
      ((s.core.ref n).qual = true → exec (.refQualified n) s = s.does (fun c => c)) ∧
      ((s.core.ref n).qual = false → exec (.refQualified n) s = s.does (fun c =>
        let wtr := min (bits (c.rd (.time 0) 0x050) 27 16) 3600
        (c.modRef n (fun r => { r with activity := true, qual := true, everQual := true,
                                       inWtr := r.everQual && wtr != 0,
                                       wtrLeft := if r.everQual then wtr else 0 })).raise (.time 1) 1)) ∧
      ((s.core.ref n).inWtr = true →
        exec (.refWtrEnd n) s = s.does (fun c => c.modRef n (fun r => { r with inWtr := false, wtrLeft := 0 }))) ∧
      ((s.core.ref n).inWtr = false → exec (.refWtrEnd n) s = s.does (fun c => c))) ∧
  (
    ∀ (s : State) (n : Fin 4) (a : Nat) (diff : Int), s.runs → s.core.timeOn = true → s.core.refEn n = true →
      s.core.time.active = some a →
      let thr := max 1 (min 10000 (bits (s.core.rd (.time 0) 0x054) 15 0)) * 10
      let r := s.core.ref n
      ((a = n.val ∨ r.qual = false ∨ (s.core.ref a).qual = false ∨ s.core.refRank a ≠ s.core.refRank n) →
        exec (.disputeWindowEnd n diff) s = s.does (fun c => c)) ∧
      (a ≠ n.val → r.qual = true → (s.core.ref a).qual = true → s.core.refRank a = s.core.refRank n →
        (thr < diff.natAbs → r.disputed = false → exec (.disputeWindowEnd n diff) s = s.does (fun c =>
          ((c.modRef n (fun r => { r with disputed := true, calm := 0, vs := a })).raise (.time 1) 2).report
            (.time 1) 0x72 clsN n)) ∧
        (thr < diff.natAbs → r.disputed = true → exec (.disputeWindowEnd n diff) s = s.does (fun c =>
          c.modRef n (fun r => { r with calm := 0, vs := a }))) ∧
        (diff.natAbs ≤ thr → r.disputed = false → exec (.disputeWindowEnd n diff) s = s.does (fun c => c)) ∧
        (thr < 2 * diff.natAbs → diff.natAbs ≤ thr → r.disputed = true →
          exec (.disputeWindowEnd n diff) s = s.does (fun c => c.modRef n (fun r => { r with calm := 0 }))) ∧
        (2 * diff.natAbs ≤ thr → r.disputed = true → r.calm = 2 → exec (.disputeWindowEnd n diff) s = s.does (fun c =>
          c.modRef n (fun r => { r with disputed := false, calm := 0 }))) ∧
        (2 * diff.natAbs ≤ thr → r.disputed = true → r.calm ≠ 2 → exec (.disputeWindowEnd n diff) s = s.does (fun c =>
          c.modRef n (fun r => { r with calm := r.calm + 1 })))))

/-- R306, R308: a reference that fails is no longer qualified and shows its FAIL_CODE, and one that was qualified is counted;
and the choice: the manual reference where it is eligible; else the active one while no eligible one ranks before it; else the
eligible one of the lowest rank, and of those the lowest number; none where none is eligible. -/
def Obligations.ReferenceChoice : Prop :=
  ∀ (c : Core), c.time.refs.length = 4 →
    (∀ (n : Fin 4) code, let r := (c.refFails n code).ref n
      r.fail = code ∧ r.qual = false ∧ r.inWtr = false ∧ r.disputed = false ∧ r.everQual = (c.ref n).everQual ∧
      ((c.ref n).qual = true → r.disqual = min ((c.ref n).disqual + 1) 0xFFFFFFFF) ∧
      ((c.ref n).qual = false → r.disqual = (c.ref n).disqual ∧ (c.refFails n code).time.active = c.time.active)) ∧
    let el : Nat → Prop := fun n => n < 4 ∧ (c.ref n).eligible = true
    let sel := c.rd (.time 0) 0x050
    let manual := bit sel 0 = true ∧ el (bits sel 2 1)
    (manual → c.chooseRef = some (bits sel 2 1)) ∧
    (∀ a, ¬ manual → c.time.active = some a → el a → (∀ m, el m → c.refRank a ≤ c.refRank m) → c.chooseRef = some a) ∧
    (∀ m, ¬ manual → (∀ a, c.time.active = some a → el a → c.refRank m < c.refRank a) →
      el m → (∀ k, el k → c.refRank m < c.refRank k ∨ (c.refRank m = c.refRank k ∧ m ≤ k)) → c.chooseRef = some m) ∧
    ((∀ m, ¬ el m) → c.chooseRef = none)

/-- R308, R311 to R314: the second's re-evaluation counts HOLD_TIME and WTR_LEFT and chooses again; lock inside a schedule
pulls the phase and outside one steps TC by whole ns, counted and reported as ATB_STEP; the end of a pull clears PULLING;
HOLDOVER_MAX and the loss of the oscillator end HOLDOVER in LOST; and what the choice of a reference does to the DPLL. -/
def Obligations.DpllSteps : Prop :=
  ∀ (s : State), s.runs → s.core.timeOn = true →
    exec .refSelect s = s.does (fun c => (c.modTime (fun t =>
      { t with holdTime := if t.dpll = .holdover then min (t.holdTime + 1) 0xFFFFFFFF else t.holdTime,
               refs := t.refs.map (fun r => { r with wtrLeft := r.wtrLeft - 1 }) })).selectRef) ∧
    (∀ err : Int, s.core.time.dpll = .acquiring → s.core.time.active.isSome = true →
      (s.core.running = true → exec (.dpllLock err) s = s.does (fun c =>
        (c.setDpll .locked).modTime (fun t => { t.pull (err != 0) with phaseErr := err }))) ∧
      (s.core.running = false → err = 0 → exec (.dpllLock err) s = s.does (fun c =>
        (c.setDpll .locked).modTime (fun t => { t with phaseErr := 0 }))) ∧
      (s.core.running = false → err ≠ 0 → exec (.dpllLock err) s = s.does (fun c =>
        let d := rneDiv (-err) 1000
        ((((c.setDpll .locked).modTime (fun t => { t with phaseErr := 0, tc := ((t.tc : Int) + d * 65536).toNat })).inc
          (.time 0) 0x0C8).raise (.time 0) 2).report (.time 0) 0x76 clsN (ofInt 42 d)))) ∧
    (∀ err : Int, (s.core.time.dpll ≠ .acquiring ∨ s.core.time.active = none) → exec (.dpllLock err) s = s.does (fun c => c)) ∧
    exec .pullComplete s = s.does (fun c => c.modTime (fun t =>
      { t with pulling := false, phaseErr := if t.pulling then 0 else t.phaseErr })) ∧
    (s.core.time.dpll = .holdover → bits (s.core.rd (.time 0) 0x04C) 31 16 ≠ 0 →
      exec .holdoverExpire s = s.does (fun c => (c.modTime (fun t =>
        { t with holdTime := max t.holdTime (60 * bits (s.core.rd (.time 0) 0x04C) 31 16) })).setDpll .lost)) ∧
    ((s.core.time.dpll ≠ .holdover ∨ bits (s.core.rd (.time 0) 0x04C) 31 16 = 0) →
      exec .holdoverExpire s = s.does (fun c => c)) ∧
    ((s.core.oscEn = false ∨ s.core.time.oscOk = false) → exec .oscFail s = s.does (fun c => c)) ∧
    (s.core.oscEn = false → exec .oscInActivity s = s.does (fun c => c)) ∧
    (s.core.oscEn = true → s.core.time.oscOk = true → exec .oscFail s = s.does (fun c =>
      let c := (c.report (.time 0) 0x75 clsN 0).modTime (fun t => { t with oscOk := false })
      if s.core.time.dpll = .holdover then c.setDpll .lost else c)) ∧
    (s.core.oscEn = true → exec .oscInActivity s = s.does (fun c => c.modTime (fun t => { t with oscOk := true }))) ∧
    (∀ c : Core,
      (∀ b, c.time.active = none → c.chooseRef = some b → (c.time.dpll = .freerun ∨ c.time.dpll = .lost) →
        c.selectRef.time.dpll = .acquiring ∧ c.selectRef.time.active = some b) ∧
      (∀ b, c.time.active = none → c.chooseRef = some b → c.time.dpll = .holdover →
        c.selectRef.time.dpll = .locked ∧ c.selectRef.time.pulling = true ∧ c.selectRef.time.active = some b) ∧
      (∀ a, c.time.active = some a → c.chooseRef = none →
        (c.time.dpll = .acquiring → c.selectRef.time.dpll = c.time.acqFrom ∧ c.selectRef.time.active = none) ∧
        (c.time.dpll = .locked → c.selectRef.time.dpll = (if c.time.oscOk then .holdover else .lost) ∧
          c.selectRef.time.active = none)) ∧
      (∀ a b, c.time.active = some a → c.chooseRef = some b → a ≠ b → c.time.dpll = .locked →
        c.selectRef.time.dpll = .locked ∧ c.selectRef.time.pulling = true ∧ c.selectRef.time.active = some b))

/-- R321: a millisecond boundary of TC. A due correction activates and adds to the remainder; the step takes at most s_step of
the remainder from it, toward 0; within the millisecond A grows by the floor of the step's share; SLIDE_DONE is raised where
the remainder becomes 0; and with steps of at most 2^16, ATB at whole nanoseconds of TC is strictly increasing. -/
def Obligations.SlideBoundary : Prop :=
  (∀ t : TimeS, let u := t.boundary
    let b : TimeS := { t with tc := t.nextMs * 65536 }
    t.nextMs % 1000000 = 0 ∧ u.tc = b.tc ∧ u.slewAt = t.nextMs ∧ u.ak = b.acc ∧ u.base = t.base ∧
    (t.pend = none → u.pend = none ∧ u.sstep = t.sstep ∧ u.rem + u.slew = t.rem) ∧
    (∀ q, t.pend = some q → q.act ≤ b.atb → u.pend = none ∧ u.sstep = q.step ∧ u.rem + u.slew = t.rem + q.off) ∧
    (∀ q, t.pend = some q → b.atb < q.act → u.pend = some q ∧ u.sstep = t.sstep ∧ u.rem + u.slew = t.rem) ∧
    (0 < u.rem + u.slew → u.slew = min (u.sstep : Int) (u.rem + u.slew)) ∧
    (u.rem + u.slew < 0 → u.slew = -(min (u.sstep : Int) (-(u.rem + u.slew)))) ∧
    (u.rem + u.slew = 0 → u.slew = 0) ∧
    (∀ v : TimeS, v.ak = u.ak → v.slew = u.slew → v.slewAt = u.slewAt → u.slewAt ≤ v.tcNs →
      v.acc = u.ak + u.slew * ((v.tcNs - u.slewAt : Nat) : Int) / 1000000)) ∧
  (∀ t u : TimeS, t.ak = u.ak → t.slew = u.slew → t.slewAt = u.slewAt → t.base = u.base → t.slew.natAbs ≤ 65536 →
    t.tc % 65536 = 0 → u.tc % 65536 = 0 → t.tc < u.tc → t.atb < u.atb) ∧
  ∀ s : State, s.runs → s.core.timeOn = true →
    exec .slideMsBoundary s = s.does (fun c =>
      let u := c.time.boundary
      if u.rem = 0 ∧ (c.time.rem ≠ 0 ∨ u.pend ≠ c.time.pend) then (c.modTime TimeS.boundary).raise (.time 2) 0
      else c.modTime TimeS.boundary)

/-- R306, R315, R316, R319, R328: ARM_ATB and SET_EPOCH act while no schedule runs, and in one only record LOCKED_WRITE; the
armed set puts ATB at ATB_SET exactly, clears the Slide and drops a pending correction, counted; the coarse rate is written
with no image loaded and never to 0; clearing a reference's ENABLE fails it with DISABLED; LTB counts each tick of the
crystal; PPS_OUT gives one edge a second, PPS_OUT_DELAY after the whole second of its source, within 2 ns, and stays high for
PPS_OUT_WIDTH. R320, R324, R326: SLIDE completes with the first status that applies, an accepted one pending and counted, a
refused one counted and raising SLIDE_REJECT; TIME_SEND is INVALID on a lane that cannot exchange time, BUSY while its ID is
queued, and else ACCEPTED for the lane's next control block; the entry that ages out first leaves the queue. -/
def Obligations.TimeSettingsAndCommands : Prop :=
  (
    ∀ (s : State),
      (s.serves (.time 0) →
        (s.core.running = false →
          exec .armAtb s = s.doesReg (.time 0) (fun c => c.modTime (fun t => { t with armed := true })) ∧
          exec .setEpoch s = s.doesReg (.time 0) (fun c =>
            let e : Int := ((c.rd64 (.time 0) 0x0A0 * 1000000000 + c.rd (.time 0) 0x0A8) * 65536 : Nat)
            c.modTime (fun t => { t with epochS := c.rd64 (.time 0) 0x0B0, epochTc := (e - t.base) / 65536 }))) ∧
        (s.core.running = true →
          exec .armAtb s = s.doesReg (.time 0) (fun c => c.pageFlt (.time 0) 0x01) ∧
          exec .setEpoch s = s.doesReg (.time 0) (fun c => c.pageFlt (.time 0) 0x01)) ∧
        (∀ (v : Word) (den : Bool), s.core.running = false → s.core.img = none → v ≠ 0 →
          exec (.fccWrite den v) s = s.doesReg (.time 0) (fun c => c.wr (.time 0) (if den then 0x0BC else 0x0B8) v.toNat)) ∧
        (∀ (v : Word) (den : Bool), s.core.running = false → (s.core.img.isSome = true ∨ v = 0) →
          exec (.fccWrite den v) s = s.doesReg (.time 0) (fun c => c)) ∧
        (∀ (v : Word) (den : Bool), s.core.running = true → s.core.img = none →
          exec (.fccWrite den v) s = s.doesReg (.time 0) (fun c =>
            if v.toNat = s.core.rd (.time 0) (if den then 0x0BC else 0x0B8) then c else c.pageFlt (.time 0) 0x01)) ∧
        (∀ (v : Word) (den : Bool) (i : Image), s.core.running = true → s.core.img = some i →
          exec (.fccWrite den v) s = s.doesReg (.time 0) (fun c =>
            if v.toNat = (if den then s.core.fccShown.2 else s.core.fccShown.1) % 2 ^ 32 then c
            else c.pageFlt (.time 0) 0x01))) ∧
      (s.serves (.time 1) → ∀ (n : Fin 4) (v : Word), s.core.refEn n = true → v.getLsbD 0 = false →
        exec (.refCfgWrite n v) s = s.doesReg (.time 1) (fun c =>
          (c.wr (.time 1) (0x040 + 32 * n) (v.toNat &&& 0x1F)).refFails n 6)) ∧
      (s.serves (.time 1) → ∀ (n : Fin 4) (v : Word), (s.core.refEn n = false ∨ v.getLsbD 0 = true) →
        exec (.refCfgWrite n v) s = s.doesReg (.time 1) (fun c => c.wr (.time 1) (0x040 + 32 * n) (v.toNat &&& 0x1F))) ∧
      (s.core.droneOn = true →
        exec .ltbTick s = s.does (fun c => c.modTime (fun t => { t with ltbTicks := t.ltbTicks + 1, ltbSub := 0 }))) ∧
      (s.core.droneOn = false → exec .ltbTick s = s.does (fun c => c)) ∧
      (s.runs → s.core.timeOn = true →
        (s.core.time.armed = true → s.leaves (exec .atbSetApply s) (fun c =>
          c.time.atb = (s.core.rd64 (.time 0) 0x090 * 1000000000 * 65536 : Nat) ∧ c.time.acc = 0 ∧ c.time.rem = 0 ∧
          c.time.pend = none ∧ c.time.armed = false ∧ c.time.atbValid = true ∧
          (s.core.time.active.isSome = true → c.time.tc = s.core.time.tc) ∧
          (s.core.time.active = none → c.time.tc = cdiv s.core.time.tcNs 1000000000 * 1000000000 * 65536) ∧
          (s.core.time.pend = none → c.regs = s.core.regs) ∧
          (s.core.time.pend ≠ none → c.regs = (s.core.inc (.time 2) 0x05C).regs))) ∧
        (s.core.time.armed = false → exec .atbSetApply s = s.does (fun c => c)) ∧
        (∀ tc : Nat, tc = s.core.ppsNext → bit (s.core.rd (.time 0) 0x040) 1 = true → s.core.time.tcNs ≤ tc →
          (∀ p, s.core.time.ppsOutAt = some p → p + 4 < tc) →
          let d := s.core.ppsDelay
          let src := bits (s.core.rd (.time 0) 0x040) 3 2
          ((src = 0 ∧ nearMul (1000000000 * 65536) (2 * 65536) (s.core.time.atbAt (tc * 65536) - d * 65536) = true) ∨
            (src = 1 ∧ ∃ n, s.core.time.active = some n ∧
              nearMul 1000000000000 2000 (((tc : Int) - d) * 1000 - (s.core.ref n).raw) = true) ∨
            (2 ≤ src ∧ nearMul 1000000000 2 ((tc : Int) - d) = true)) →
          exec .ppsOutEdge s = s.does (fun c =>
            ((c.timeTo tc).modTime (fun t => { t with ppsOutAt := some tc })).emit (.ppsOut tc s.core.ppsWidth))) ∧
        (bit (s.core.rd (.time 0) 0x040) 1 = false → exec .ppsOutEdge s = s.does (fun c => c)) ∧
        (2 ≤ bits (s.core.rd (.time 0) 0x040) 3 2 → s.core.time.tcNs ≤ s.core.ppsNext ∧
          ((s.core.ppsNext : Int) - s.core.ppsDelay) % 1000000000 = 0 ∧
          ∀ p, s.core.time.ppsOutAt = some p → p + 4 < s.core.ppsNext)) ∧
      (∀ c : Core, c.ppsPin = true ↔ (c.timeOn = true ∧ bit (c.rd (.time 0) 0x040) 1 = true ∧
        ∃ p, c.time.ppsOutAt = some p ∧ c.time.tcNs < p + 1000 * max 1 (min 500000 (bits (c.rd (.time 3) 0x060) 18 0))))) ∧
  (
    (∀ (c : Core) (b : List Byte),
      let act : Int := ((leAt b 0 8 * 1000000000 + leAt b 8 4) * 65536 : Nat)
      let step := leAt b 12 4
      let off := sleAt b 16 8
      let bad := step = 0 ∨ 65536 < step ∨ off = 0 ∨ 65536000000000 < off.natAbs ∨ zeroAt b 24 8 = false
      let late := act < c.time.atb + 65536000000
      let range := 65536000000000 < (off + c.time.rem).natAbs
      (bad → c.slideStatus b = stInvalid) ∧ (¬ bad → c.time.pend.isSome = true → c.slideStatus b = stBusy) ∧
      (¬ bad → c.time.pend = none → late → c.slideStatus b = stLate) ∧
      (¬ bad → c.time.pend = none → ¬ late → range → c.slideStatus b = stRange) ∧
      (¬ bad → c.time.pend = none → ¬ late → ¬ range → c.slideStatus b = stAccepted)) ∧
    (∀ (s : State) (r : RingNo) (d : Desc), s.rings r 0x08 d →
      (∀ body, s.core.timeOn = false → exec (.slide r body) s = s.does (fun c => c.finish r stMode)) ∧
      (∀ body, s.core.timeOn = true → d.len ≠ 32 → exec (.slide r body) s = s.does (fun c =>
        ((c.inc (.time 2) 0x05C).raise (.time 2) 1).finish r stInvalid)) ∧
      (s.core.timeOn = true → d.len = 32 → exec (.slide r none) s = s.does (fun c => c.finish r stHostErr)) ∧
      (∀ b, s.core.timeOn = true → d.len = 32 →
        (s.core.slideStatus b = stAccepted → exec (.slide r (some b)) s = s.does (fun c =>
          let q : SlideReq := { actS := leAt b 0 8, actNs := leAt b 8 4, step := leAt b 12 4, off := sleAt b 16 8 }
          ((c.modTime (fun t => { t with pend := some q })).inc (.time 2) 0x058).finish r stAccepted)) ∧
        (s.core.slideStatus b ≠ stAccepted → exec (.slide r (some b)) s = s.does (fun c =>
          ((c.inc (.time 2) 0x05C).raise (.time 2) 1).finish r (s.core.slideStatus b))))) ∧
    (∀ (s : State) (r : RingNo) (d : Desc), s.rings r 0x09 d →
      let l := d.arg0 % 256
      let id := bits d.arg0 31 16
      let ok := (s.core.lane l).st = .up ∧ s.core.txReturn l = true ∧ (s.core.lane l).features.testBit 0 = true
      (¬ ok → exec (.timeSend r) s = s.does (fun c => c.finish r stInvalid)) ∧
      (ok → s.core.time.tsQ.any (fun e => e.id == id) = true → exec (.timeSend r) s = s.does (fun c => c.finish r stBusy)) ∧
      (ok → s.core.time.tsQ.any (fun e => e.id == id) = false → exec (.timeSend r) s = s.does (fun c =>
        (c.modLane l (fun x => { x with timeQ := x.timeQ ++ [id] })).finish r stAccepted))) ∧
    (∀ (s : State) (e : TsEntry) (es : List TsEntry), s.runs → s.core.timeOn = true → s.core.time.tsQ = e :: es →
      exec .tsEntryAged s = s.does (fun c =>
        (c.modTime (fun t => { t with tsQ := es })).timeEvent e.lane e.id 2 e.t1.bytes (List.replicate 32 0)
          (List.replicate 16 0))) ∧
    (∀ s : State, s.runs → (s.core.timeOn = false ∨ s.core.time.tsQ = []) → exec .tsEntryAged s = s.does (fun c => c)))

/-- R365: a doorbell is accepted where it lies at most K ahead of H and of the last one; else the ring enters ERROR, the event
is counted, DB_ERR raised and DOORBELL reported, a Notice; a ring in ERROR takes none, and a write of RING_CFG ends the ERROR
(R372), with a new generation and its counts at 0. R43, R80, R348, R366 to R369, R374, R422: descriptors. A fetch takes the
next descriptor, up to eight ahead of H, of the ring's own generation; one of another is answered ORPHANED; NOP is ACCEPTED;
DELAY_SEG and HOST_MSG are INVALID at a wrong length or on a lane that cannot send, HOST_MSG is BUSY while four wait, and a
body that the host did not give ends in HOST_ERR; an operation that the ring does not take ends in BAD_OP, counted; in SAFE a
command other than NOP ends in MODE. -/
def Obligations.Rings : Prop :=
  (
    (∀ (s : State) (r : RingNo) (t : Word) (k : PageKind), s.servesHdr (2048 + r.val / 1024) k →
      let x := s.core.ring r
      let ok := (t.toNat + 2 ^ 32 - x.head % 2 ^ 32) % 2 ^ 32 ≤ 2 ^ x.k ∧ (t.toNat + 2 ^ 32 - x.tail % 2 ^ 32) % 2 ^ 32 ≤ 2 ^ x.k
      (s.core.ringActive r = true → ok → exec (.doorbellWrite r t) s = s.doesReg k (fun c => c.setRing r { x with tail := t.toNat })) ∧
      (s.core.ringActive r = true → ¬ ok → exec (.doorbellWrite r t) s = s.doesReg k (fun c =>
        (((c.setRing r { x with error := true }).inc .ring 0x078).raise .ring 1).report .ring 0x91 clsN 0)) ∧
      (s.core.ringActive r = false → exec (.doorbellWrite r t) s = s.doesReg k (fun c => c))) ∧
    (∀ (s : State) (v : Word), s.serves .ring →
      s.leaves (exec (.ringCfgWrite v) s) (fun c =>
        let r := s.core.rd .ring 0x040
        let x := c.ring r
        let o := s.core.ring r
        x.error = false ∧ x.gen = (o.gen + 1) % 256 ∧ x.head = 0 ∧ x.tail = 0 ∧ x.fetch = 0 ∧
        (r ≠ 0 → x.role = bits v.toNat 2 0) ∧ (r = 0 → x.role = 0) ∧ x.k = max 4 (min 20 (bits v.toNat 7 3)) ∧
        x.dbase = o.stDbase / 4096 * 4096 ∧ x.cbase = o.stCbase / 4096 * 4096 ∧
        x.vec = o.vec ∧ x.prio = o.prio ∧ x.descs = (if o.busy then o.descs.take 1 else [])))) ∧
  (
    (∀ (s : State) (r : RingNo) (bs : List Byte), s.runs →
      let x := s.core.ring r
      s.core.ringActive r = true → s.core.host.linkUp = true → s.core.host.d3 = none → x.fetch ≠ x.tail →
      (x.fetch + 2 ^ 32 - x.head) % 2 ^ 32 < 8 →
        (leAt bs 1 1 = x.gen → exec (.descriptorFetch r (some bs)) s = s.does (fun c => c.setRing r
          { x with descs := x.descs ++ [parseDesc x.fetch bs], fetch := (x.fetch + 1) % 2 ^ 32 })) ∧
        (leAt bs 1 1 ≠ x.gen → exec (.descriptorFetch r (some bs)) s = s.does (fun c =>
          c.staleDesc r (parseDesc x.fetch bs)))) ∧
    (∀ (s : State) (r : RingNo) (desc : Option (List Byte)), s.runs →
      (desc = none ∨ s.core.ringActive r = false ∨ s.core.host.linkUp = false ∨ s.core.host.d3 ≠ none ∨
        (s.core.ring r).fetch = (s.core.ring r).tail ∨
        8 ≤ ((s.core.ring r).fetch + 2 ^ 32 - (s.core.ring r).head) % 2 ^ 32) →
      exec (.descriptorFetch r desc) s = s.does (fun c => c)) ∧
    (∀ (s : State) (r : RingNo) (d : Desc), s.rings r 0x00 d → exec (.nopCommand r) s = s.does (fun c => c.finish r stAccepted)) ∧
    (∀ (s : State) (r : RingNo) (d : Desc), s.rings r 0x03 d →
      (∀ body, d.len ≠ 48 → exec (.delaySeg r body) s = s.does (fun c => c.finish r stInvalid)) ∧
      (d.len = 48 → exec (.delaySeg r none) s = s.does (fun c => c.finish r stHostErr)) ∧
      (∀ bs, d.len = 48 →
        exec (.delaySeg r (some bs)) s = s.does (fun c => (c.segment bs).2.finish r (c.segment bs).1))) ∧
    (∀ (s : State) (r : RingNo) (d : Desc), s.rings r 0x0A d →
      let l := d.arg0 % 256
      (∀ body, (d.len ≠ 52 ∨ s.core.hostMsgLane l = false) →
        exec (.hostMsg r body) s = s.does (fun c => c.finish r stInvalid)) ∧
      (d.len = 52 → s.core.hostMsgLane l = true →
        (∀ body, 4 ≤ (s.core.lane l).hostQ.length → exec (.hostMsg r body) s = s.does (fun c => c.finish r stBusy)) ∧
        ((s.core.lane l).hostQ.length < 4 → exec (.hostMsg r none) s = s.does (fun c => c.finish r stHostErr)) ∧
        (∀ bs, (s.core.lane l).hostQ.length < 4 → exec (.hostMsg r (some bs)) s = s.does (fun c =>
          (c.modLane l (fun x => { x with hostQ := x.hostQ ++ [slice bs 0 52] })).finish r stAccepted)))) ∧
    (∀ (s : State) (r : RingNo) (d : Desc), s.runs → s.core.badFront r = some d → s.core.host.d3 = none →
      (s.core.ring r).inbound = true →
        (s.core.power.mode ≠ .safe → exec (.descriptorBadOp r) s = s.does (fun c =>
          ((c.inc .ring 0x07C).raise .ring 4).finish r stBadOp)) ∧
        (s.core.power.mode = .safe → exec (.descriptorBadOp r) s = s.does (fun c => c.finish r stMode))) ∧
    (∀ (s : State) (r : RingNo) (d : Desc), s.runs → s.core.badFront r = some d → s.core.host.d3 = none →
      (s.core.ring r).inbound = false → exec (.descriptorBadOp r) s = s.does (fun c =>
        let x := s.core.ring r
        let q : Compl := { n := d.n, tag := d.tag, status := stBadOp, len := 0, kind := 0, gen := d.gen, detail := 0,
                           irq := d.dflags.testBit 0, ring := r }
        (((c.setRing r { x with descs := x.descs.drop 1, compl := x.compl ++ [q] }).inc .ring 0x07C).raise .ring 4).flushCompl 9 r)) ∧
    (∀ (s : State) (r : RingNo), s.runs → s.core.badFront r = none → exec (.descriptorBadOp r) s = s.does (fun c => c)) ∧
    (∀ (s : State) (r : RingNo) (d : Desc) (body : Option (List Byte)), s.runs → s.core.command r 0x0B = some d →
      s.core.host.d3 = none → s.core.power.mode = .safe → exec (.dma r body) s = s.does (fun c => c.finish r stMode)))

/-- R299, R365, R370 to R376, R384, R421: the front item of an outbound ring. While mute holds, all but fault records and
diverted completions are dropped; an item of another generation goes to ring 0, counted and reported; else it takes the next
posted buffer; where none is posted and none is still to be fetched, or the ring is in ERROR, it is dropped by its producer's
rule; a TELEMETRY frame waits for a class [33] window of the IO die. A completion that waits for its read-back is written when
the read returns, with HOST_ERR where it failed; unsignalled completions are signalled after the coalescing time. -/
def Obligations.OutboundItems : Prop :=
  ∀ (s : State) (r : RingNo), s.runs →
    let x := s.core.ring r
    (∀ i is, x.items = i :: is → s.core.host.linkUp = true → s.core.host.d3 = none →
      let f : Core → Core := fun c => c.setRing r { x with items := is }
      let muted := s.core.power.mute = true ∧ i.kind ≠ 3 ∧ i.kind ≠ 4
      let waits := i.kind = 0 ∧ 4 ≤ i.die ∧ s.core.winOpen 4 33 = false
      (muted → exec (.outboundItemDeliver r) s = s.does (fun c => (f c).itemMuted i)) ∧
      (¬ muted → waits → exec (.outboundItemDeliver r) s = s.does (fun c => c)) ∧
      (¬ muted → ¬ waits → r.val ≠ 0 → i.gen ≠ x.gen → exec (.outboundItemDeliver r) s = s.does (fun c =>
        (((f c).diverted.inc .ring 0x070).report .ring 0x93 clsN 0).modRing 0 (fun y =>
          { y with items := y.items ++ [{ i with orphan := true, from_ := r }] }))) ∧
      (¬ muted → ¬ waits → (r.val = 0 ∨ i.gen = x.gen) →
        (∀ d ds, x.descs = d :: ds → d.dead = false → d.op = 0x80 → x.busy = false →
          exec (.outboundItemDeliver r) s = s.does (fun c => (f c).itemTake r i d ds)) ∧
        (x.descs = [] → (x.fetch = x.tail ∨ x.error = true) → r.val ≠ 0 →
          exec (.outboundItemDeliver r) s = s.does (fun c => (f c).itemDrop i)) ∧
        (x.descs = [] → (x.fetch = x.tail ∨ x.error = true) → r.val = 0 →
          exec (.outboundItemDeliver r) s = s.does (fun c => (((f c).inc .ring 0x074).raise .ring 2).itemDrop i)) ∧
        (x.descs = [] → x.fetch ≠ x.tail → x.error = false → exec (.outboundItemDeliver r) s = s.does (fun c => c)))) ∧
    ((x.items = [] ∨ s.core.host.linkUp = false ∨ s.core.host.d3 ≠ none) →
      exec (.outboundItemDeliver r) s = s.does (fun c => c)) ∧
    (∀ q qs, x.compl = q :: qs → q.writes = true → s.core.readbackChannel r = none →
      exec (.readbackComplete r true) s = s.does (fun c =>
        ((c.setRing r { x with compl := qs }).complete r q).flushCompl 9 r) ∧
      exec (.readbackComplete r false) s = s.does (fun c =>
        ((c.setRing r { x with compl := qs }).hostErr.complete r { q with status := stHostErr }).flushCompl 9 r)) ∧
    (∀ (ch : Nat) (j : Job), s.core.readbackChannel r = some ch → (s.core.dma ch).job = some j →
      exec (.readbackComplete r true) s = s.does (fun c => c.completeJob ch (j.stopAs.getD stAccepted)) ∧
      exec (.readbackComplete r false) s = s.does (fun c => c.completeJob ch stHostErr)) ∧
    ((x.unsig = 0 ∨ x.coalUs = 0) → exec (.irqCoalesceTimeout r) s = s.does (fun c => c)) ∧
    (x.unsig ≠ 0 → x.coalUs ≠ 0 →
      exec (.irqCoalesceTimeout r) s = s.does (fun c => (c.setRing r { x with unsig := 0 }).msix x.vec))

/-- R98, R172, R231, R369, R378, R380: the commands that move data. Each is refused with the first status that its rule gives,
with nothing moved, and else becomes a job: DMA on the channel named, or the lowest idle one of the host's pool; IMAGE_CHUNK
into the staging area, opening a load; BANK_LOAD into the bank, LOADING while it runs; GAIN_STEP into the step buffer;
INSPECT_READ out of an object of the HBM. R381, R382, R384, R385, R387: a burst moves at most 4 KiB, at least a byte while any
is left, and never crosses a 4 KiB boundary of a host address; a FILL writes byte a mod 8 of its pattern at address a; a host
read that fails ends the job with HOST_ERR, and one that meets an uncorrectable word of die SRAM with MEM_ERR, as one to a
memory without power (R398); a burst waits for its windows, and for one of a higher level at its port (R15, R397); ABORT ends
a job between its bursts at once, and in a burst at the burst's end; a job that wrote host memory first reads back. -/
def Obligations.DataJobs : Prop :=
  (
    (∀ (s : State) (r : RingNo) (d : Desc), s.rings r 0x0B d →
      (∀ body, d.len ≠ 64 → exec (.dma r body) s = s.does (fun c => c.finish r stInvalid)) ∧
      (∀ bs, d.len = 64 →
        let j := parseJob r d bs
        let any := d.arg0.testBit 6
        let bad := s.core.hostChannels = 0 ∨ (any = false ∧ s.core.hostChannels ≤ d.arg0 % 64) ∨ s.core.jobOk j bs = false
        (bad → exec (.dma r (some bs)) s = s.does (fun c => c.jobInvalid r any (d.arg0 % 64))) ∧
        (¬ bad → any = false → (s.core.dma (d.arg0 % 64)).job = none →
          exec (.dma r (some bs)) s = s.does (fun c => (c.setBusy r).startJob (d.arg0 % 64) j)) ∧
        (¬ bad → any = false → (s.core.dma (d.arg0 % 64)).job ≠ none → exec (.dma r (some bs)) s = s.does (fun c =>
          (c.setBusy r).modDma (d.arg0 % 64) (fun x => { x with waiting := x.waiting ++ [j] }))) ∧
        (∀ ch, ¬ bad → any = true → s.core.idleChannel 0 s.core.hostChannels = some ch →
          exec (.dma r (some bs)) s = s.does (fun c => (c.setBusy r).startJob ch j)) ∧
        (¬ bad → any = true → s.core.idleChannel 0 s.core.hostChannels = none →
          exec (.dma r (some bs)) s = s.does (fun c => { c.setBusy r with host :=
            { (c.setBusy r).host with poolQ := (c.setBusy r).host.poolQ ++ [j] } }))) ∧
      (d.len = 64 → exec (.dma r none) s = s.does (fun c => c.finish r stHostErr))) ∧
    (∀ (s : State) (r : RingNo) (d : Desc), s.rings r 0x01 d →
      let bad := d.len % 64 ≠ 0 ∨ d.arg0 % 64 ≠ 0 ∨ 2 ^ 22 < d.len
      (∀ data, bad → exec (.imageChunk r data) s = s.does (fun c => c.finish r stInvalid d.len)) ∧
      (∀ data, ¬ bad → s.core.power.mode ≠ .idle → exec (.imageChunk r data) s = s.does (fun c => c.finish r stMode d.len)) ∧
      (∀ data, ¬ bad → s.core.power.mode = .idle → 0x2000000 < d.arg0 + d.len →
        exec (.imageChunk r data) s = s.does (fun c => c.finish r stRange d.len)) ∧
      let holder := s.core.host.commitRing.or s.core.host.loadRing
      (∀ data q, ¬ bad → s.core.power.mode = .idle → d.arg0 + d.len ≤ 0x2000000 → holder = some q → q ≠ r.val →
        exec (.imageChunk r data) s = s.does (fun c => c.finish r stBusy d.len)) ∧
      (¬ bad → s.core.power.mode = .idle → d.arg0 + d.len ≤ 0x2000000 → (holder = none ∨ holder = some r.val) →
        exec (.imageChunk r none) s = s.does (fun c => c.finish r stHostErr d.len)) ∧
      (∀ bs, ¬ bad → s.core.power.mode = .idle → d.arg0 + d.len ≤ 0x2000000 → (holder = none ∨ holder = some r.val) →
        exec (.imageChunk r (some bs)) s = s.does (fun c =>
          (if s.core.host.loadRing.isNone then c.openLoad r else c).engineJob
            { ring := r, n := d.n, tag := d.tag, irq := d.dflags.testBit 0, purpose := .chunk, srcSp := 0, dstSp := 5,
              len := d.len, src := d.addr, dst := 0x0E000000 + d.arg0 } bs))) ∧
    (∀ (s : State) (r : RingNo) (d : Desc), s.rings r 0x05 d →
      let t := d.arg0 % 16
      let b := d.arg0.testBit 4
      let bad := s.core.bankPlaced t = false ∨ d.len ≠ bankSize t
      (∀ data, bad → exec (.bankLoad r data) s = s.does (fun c => c.finish r stInvalid d.len)) ∧
      (∀ data, ¬ bad → s.core.domOn (71 + 35 * bankDie t) = false →
        exec (.bankLoad r data) s = s.does (fun c => c.finish r stMode d.len)) ∧
      (¬ bad → s.core.domOn (71 + 35 * bankDie t) = true → s.core.bankInUse t b = false →
        exec (.bankLoad r none) s = s.does (fun c => c.finish r stHostErr d.len)) ∧
      (∀ data, ¬ bad → s.core.domOn (71 + 35 * bankDie t) = true → s.core.bankInUse t b = true →
        exec (.bankLoad r data) s = s.does (fun c => c.finish r stInUse d.len)) ∧
      (∀ bs i, ¬ bad → s.core.domOn (71 + 35 * bankDie t) = true → s.core.bankInUse t b = false → s.core.img = some i →
        exec (.bankLoad r (some bs)) s = s.does (fun c =>
          (c.modTarget t (fun x => if b then { x with b := .loading } else { x with a := .loading })).engineJob
            { ring := r, n := d.n, tag := d.tag, irq := d.dflags.testBit 0, purpose := .bank t b, srcSp := 0,
              dstSp := 1 + bankDie t, len := d.len, src := d.addr, dst := i.beams.bankAddr t b } bs))) ∧
    (∀ (s : State) (r : RingNo) (d : Desc), s.rings r 0x04 d →
      let bad := d.len % 8 ≠ 0 ∨ d.len < 8 ∨ 524288 < d.len
      (∀ data, bad → exec (.gainStep r data) s = s.does (fun c => c.finish r stInvalid)) ∧
      (∀ data, ¬ bad → s.core.running = false → s.core.starting = false → exec (.gainStep r data) s = s.does (fun c =>
        ((c.raise (.fst 0) 4).report (.fst 0) 0x23 clsN 0).finish r stMode)) ∧
      (¬ bad → (s.core.running = true ∨ s.core.starting = true) →
        exec (.gainStep r none) s = s.does (fun c => c.finish r stHostErr)) ∧
      (∀ bs, ¬ bad → (s.core.running = true ∨ s.core.starting = true) → exec (.gainStep r (some bs)) s = s.does (fun c =>
        c.engineJob { ring := r, n := d.n, tag := d.tag, irq := d.dflags.testBit 0, purpose := .gain d.arg1,
                      srcSp := 0, dstSp := 5, len := d.len, src := d.addr, dst := 0x0DE00000 } bs))) ∧
    (∀ (s : State) (r : RingNo) (d : Desc), s.rings r 0x0C d →
      let die := d.arg0 % 4
      (s.core.power.mode ≠ .inspect → exec (.inspectRead r) s = s.does (fun c => c.finish r stMode d.len)) ∧
      (s.core.power.mode = .inspect →
        s.core.hbmObject die (bits d.arg0 4 2) (bits d.arg0 5 5) (bits d.arg0 19 6) = none →
        exec (.inspectRead r) s = s.does (fun c => c.finish r stInvalid d.len)) ∧
      (∀ a size, s.core.power.mode = .inspect →
        s.core.hbmObject die (bits d.arg0 4 2) (bits d.arg0 5 5) (bits d.arg0 19 6) = some (a, size) →
        (size < d.arg1 + d.len → exec (.inspectRead r) s = s.does (fun c => c.finish r stInvalid d.len)) ∧
        (d.arg1 + d.len ≤ size → exec (.inspectRead r) s = s.does (fun c =>
          c.engineJob { ring := r, n := d.n, tag := d.tag, irq := d.dflags.testBit 0, purpose := .inspectRead,
                        srcSp := 1 + die, dstSp := 0, len := d.len, src := a + d.arg1, dst := d.addr } []))))) ∧
  (
    (∀ j : Job, j.done < j.len →
      j.next ≤ 4096 ∧ 0 < j.next ∧ j.done + j.next ≤ j.len ∧
      (j.down = false → j.srcSp = 0 → j.kind ≠ 1 → j.srcAt j.done % 4096 + j.next ≤ 4096) ∧
      (j.down = false → j.dstSp = 0 → j.dstAt j.done % 4096 + j.next ≤ 4096)) ∧
    (∀ (s : State) (ch : Fin 64) (data : Option (List Byte)) (ce ue : List Nat), s.runs →
      ((s.core.dma ch).job = none ∨ (s.core.dma ch).readback = true ∨ s.core.host.d3 ≠ none) →
      exec (.dmaBurst ch ⟨data, ce, ue⟩) s = s.does (fun c => c)) ∧
    ∀ (s : State) (ch : Fin 64) (j : Job), (s.core.dma ch).job = some j →
      (∀ data ce ue, s.runs → (j.pend ≠ 0 ∨ s.core.jobOpen j = false ∨ s.core.outranked ch j = true) →
        exec (.dmaBurst ch ⟨data, ce, ue⟩) s = s.does (fun c => c)) ∧
      (s.runs → (s.core.dma ch).readback = false → j.pend = 0 → s.core.host.d3 = none → s.core.jobOpen j = true →
        s.core.outranked ch j = false →
        let on : Core → Core := fun c =>
          { c with host := { c.host with bxbAged := c.host.bxbAged.filter (· != (ch.val % 8, j.port)) } }
        let j' := { j with started := true, blen := j.next }
        let src := j.srcAt (j.offset j.next)
        (∀ data ce ue t a w, s.core.burstLost j j.next = some (t, a, w) →
          exec (.dmaBurst ch ⟨data, ce, ue⟩) s = s.does (fun c =>
            (((on c).xbarDefault t a ch w).showJob ch { j with started := true }).endJob ch stMemErr)) ∧
        (s.core.burstLost j j.next = none →
          (∀ data ce ue, j.kind = 1 → exec (.dmaBurst ch ⟨data, ce, ue⟩) s = s.does (fun c => ((on c).showJob ch j').burstWrite ch
            ((List.range j.next).map (fun i =>
              BitVec.ofNat 8 (j.pattern >>> (8 * ((j.dstAt (j.offset j.next) + i) % 8))))))) ∧
          (∀ bs ce ue, j.kind ≠ 1 → j.srcSp = 0 → j.next ≤ bs.length → exec (.dmaBurst ch ⟨some bs, ce, ue⟩) s = s.does (fun c =>
            ((on c).showJob ch j').burstWrite ch (bs.take j.next))) ∧
          (∀ ce ue, j.kind ≠ 1 → j.srcSp = 0 → exec (.dmaBurst ch ⟨none, ce, ue⟩) s = s.does (fun c =>
            ((on c).showJob ch { j with started := true }).endJob ch stHostErr)) ∧
          (∀ data ce ue, j.kind ≠ 1 → 1 ≤ j.srcSp → j.srcSp ≤ 4 → j.purpose ≠ .host →
            exec (.dmaBurst ch ⟨data, ce, ue⟩) s = s.does (fun c =>
              let e := (on c).enqueueAll (j.srcSp - 1) src j.next (j.purpose == .inspectRead) false [] 0 (.dma ch)
              e.1.showJob ch { j' with pend := e.2, buf := List.replicate j.next 0 })) ∧
          (∀ data ce ue, j.kind ≠ 1 → 1 ≤ j.srcSp → j.srcSp ≤ 4 → j.purpose = .host →
            exec (.dmaBurst ch ⟨data, ce, ue⟩) s = s.does (fun c =>
              let e := ((on c).guardNotes (.dma ch) (j.srcSp - 1) src j.next false).enqueueAll (j.srcSp - 1) src j.next false false
                [] 0 (.dma ch)
              e.1.showJob ch { j' with pend := e.2, buf := List.replicate j.next 0 })) ∧
          (∀ data ce ue, j.kind ≠ 1 → 4 < j.srcSp → exec (.dmaBurst ch ⟨data, ce, ue⟩) s = s.does (fun c =>
            let e := (on c).sramRead (j.srcSp - 1) src j.next ce ue
            if e.2.2 = true then (e.1.showJob ch { j with started := true }).endJob ch stMemErr
            else (e.1.showJob ch j').burstWrite ch e.2.1)))) ∧
      (s.serves (.dma ch) → (s.core.dma ch).readback = false →
        (j.pend = 0 → (j.dstSp ≠ 0 ∨ j.done = 0) →
          exec (.abort ch) s = s.doesReg (.dma ch) (fun c => c.completeJob ch stAborted)) ∧
        (j.pend = 0 → j.dstSp = 0 → 0 < j.done → exec (.abort ch) s = s.doesReg (.dma ch) (fun c =>
          c.modDma ch (fun x => { x with readback := true, job := some { j with pend := 0, stopAs := some stAborted } }))) ∧
        (j.pend ≠ 0 → j.done + j.blen ≠ j.len → j.stopAs = none → exec (.abort ch) s = s.doesReg (.dma ch) (fun c =>
          c.showJob ch { j with stopAs := some stAborted })) ∧
        (j.pend ≠ 0 → j.done + j.blen = j.len → exec (.abort ch) s = s.doesReg (.dma ch) (fun c => c))))

/-- R140 to R142, R145, R355, R356, R359 to R361: BAR2 is served through its segment to a memory: an access that no segment or
memory takes is counted and reported as BAR2_RANGE; an access to SRAM waits for its class [33] window and its turn, a read
behind every write to its die; of 512 waiting writes flow control holds the next. FETCH copies an object of a parked device:
outside INSPECT it is DENIED and reported, a choice that no object has is BAD_SEL, a cell of a die that runs BUSY_CELL, and it
ends when all its pieces are read; while it runs another is ignored (notes/assumptions/86.md); a selection clears READY; and
the changes of the PCIe link. -/
def Obligations.Bar2InspectAndLink : Prop :=
  (∀ (s : State) (o : Fin 68719476736) (n : Nat) (ce ue : List Nat) (bs : List Byte), s.runs →
    (s.core.bar2On = false → exec (.bar2Read o ⟨n, ce, ue⟩) s = s.does (fun c => c) ∧
      exec (.bar2Write o bs) s = s.does (fun c => c)) ∧
    (s.core.bar2On = true → s.core.host.heldQ = [] →
      (s.core.bar2At o = none →
        exec (.bar2Read o ⟨n, ce, ue⟩) s = s.does (fun c => c.bar2Range.aborts (.bar2 o none false)) ∧
        exec (.bar2Write o bs) s = s.does (fun c => c.bar2Range)) ∧
      (∀ t a, s.core.bar2At o = some (t, a) →
        (s.core.targetOk t a n = false →
          exec (.bar2Read o ⟨n, ce, ue⟩) s = s.does (fun c => c.bar2Range.aborts (.bar2 o none false))) ∧
        (s.core.targetOk t a bs.length = false → exec (.bar2Write o bs) s = s.does (fun c => c.bar2Range)) ∧
        (s.core.targetOk t a bs.length = true → s.core.bar2Full (targetChip t) = true →
          exec (.bar2Write o bs) s = s.does (fun c =>
            { c with host := { c.host with heldQ := [(Fin.ofNat 5 (targetChip t), .bar2Write o bs)] } })) ∧
        (s.core.targetOk t a bs.length = true → s.core.bar2Full (targetChip t) = false → t < 4 →
          exec (.bar2Write o bs) s = s.does (fun c =>
            ((c.guardNotes .pciex t a bs.length true).hbmHostPut t a bs false
              (.bar2 (c.guardNotes .pciex t a bs.length true).host.asyncN)).1)) ∧
        (s.core.targetOk t a n = true → t < 4 → exec (.bar2Read o ⟨n, ce, ue⟩) s = s.does (fun c =>
          let c := c.guardNotes .pciex t a n false
          let id := c.host.asyncN
          let e := { c with host := { c.host with asyncN := id + 1 } }.enqueueAll t a n false false [] 0 (.bar2 id)
          { e.1 with host := { e.1.host with bar2Q := e.1.host.bar2Q ++
            [{ id := id, addr := o, target := t, at_ := a, data := List.replicate n 0, left := e.2 }] } })) ∧
        (4 ≤ t → s.core.host.bar2W = [] →
          let w : Bar2Op := { id := s.core.host.asyncN, addr := o, target := t, at_ := a, data := some bs, len := bs.length,
                              ce := [], ue := [] }
          let rd : Bar2Op := { id := s.core.host.asyncN, addr := o, target := t, at_ := a, data := none, len := n, ce := ce, ue := ue }
          let f : List Bar2Op → Core → Core := fun q c =>
            { c with host := { c.host with asyncN := s.core.host.asyncN + 1, bar2W := q } }
          (s.core.targetOk t a bs.length = true → s.core.bar2Full (targetChip t) = false →
            (s.core.winOpen (targetChip t) 33 = true → exec (.bar2Write o bs) s = s.does (fun c =>
              ((f [] c).guardNotes .pciex t a bs.length true).sramHostPut t a bs)) ∧
            (s.core.winOpen (targetChip t) 33 = false → exec (.bar2Write o bs) s = s.does (f [w]))) ∧
          (s.core.targetOk t a n = true →
            (s.core.winOpen (targetChip t) 33 = true → s.core.bar2Writing (targetChip t) = [] →
              exec (.bar2Read o ⟨n, ce, ue⟩) s = s.does (fun c =>
                ((f [] c).sramRead t a n ce ue).1.bar2Reply o ((f [] c).sramRead t a n ce ue).2.1
                  ((f [] c).sramRead t a n ce ue).2.2)) ∧
            (s.core.winOpen (targetChip t) 33 = false → exec (.bar2Read o ⟨n, ce, ue⟩) s = s.does (f [rd]))))))) ∧
  (∀ (s : State) (i : Fin 16), s.serves (.insp i) →
    let sel := s.core.rd (.insp i) 0x040
    let off := (s.core.rd (.insp i) 0x044 + 2 ^ 32 * s.core.rd (.insp i) 0x048) / 2048 * 2048
    let kind := bits sel 4 2
    let slot := bits sel 16 14
    let bad : Core → Core := fun c => c.inspEnd i (fun x => { x with badSel := true })
    ((s.core.inspAt i).run = true → exec (.fetch i) s = s.doesReg (.insp i) (fun c => c)) ∧
    ((s.core.inspAt i).run = false →
      (s.core.power.mode ≠ .inspect → exec (.fetch i) s = s.doesReg (.insp i) (fun c =>
        (c.inspEnd i (fun x => { x with denied := true })).report (.insp i) 0x06 clsN 0)) ∧
      (s.core.power.mode = .inspect →
        ((s.core.part.dies ≤ sel % 4 ∨ kind = 7 ∨ 384 ≤ bits sel 13 5) → exec (.fetch i) s = s.doesReg (.insp i) bad) ∧
        (sel % 4 < s.core.part.dies → bits sel 13 5 < 384 → kind ≤ 3 →
          let lies := off < (if kind = 3 then 16384 else 32768) ∧ (kind = 2 → slot < 6) ∧ (kind = 3 → slot < 2)
          (¬ lies → exec (.fetch i) s = s.doesReg (.insp i) bad) ∧
          (lies → (s.core.chanter (sel % 4)).st ≠ .held →
            exec (.fetch i) s = s.doesReg (.insp i) (fun c => c.inspEnd i (fun x => { x with busyCell := true }))) ∧
          (lies → (s.core.chanter (sel % 4)).st = .held →
            exec (.fetch i) s = s.doesReg (.insp i) (fun c => c.inspEnd i (fun x => { x with
              run := true,
              data := (SMap.get (fun _ => {}) (c.xdie (sel % 4)).cells (bits sel 13 5)).object kind slot off 2048 })))) ∧
        (sel % 4 < s.core.part.dies → bits sel 13 5 < 384 → 4 ≤ kind → kind ≤ 6 →
          (s.core.hbmObject (sel % 4) kind (bits sel 17 17) (bits sel 31 18) = none →
            exec (.fetch i) s = s.doesReg (.insp i) bad) ∧
          (∀ a size, s.core.hbmObject (sel % 4) kind (bits sel 17 17) (bits sel 31 18) = some (a, size) →
            (size ≤ off → exec (.fetch i) s = s.doesReg (.insp i) bad) ∧
            (off < size → exec (.fetch i) s = s.doesReg (.insp i) (fun c =>
              ((c.inspEnd i (fun x => { x with run := true, data := List.replicate 2048 0 })).enqueueAll (sel % 4) (a + off)
                (min 2048 (size - off)) true false [] 0 (.inspect i)).1))))))) ∧
  (∀ (s : State) (i : Fin 16), s.runs → ((s.core.inspAt i).run = false ∨
      (List.range 8).any (fun k => (s.core.stack k).queue.any (fun r => r.origin == .inspect i)) = true) →
    exec (.inspectFetchDone i) s = s.does (fun c => c)) ∧
  (∀ (s : State) (i : Fin 16), s.runs → (s.core.inspAt i).run = true →
    (List.range 8).any (fun k => (s.core.stack k).queue.any (fun r => r.origin == .inspect i)) = false →
    exec (.inspectFetchDone i) s = s.does (fun c => c.setInsp i { c.inspAt i with run := false, ready := true })) ∧
  (∀ (s : State) (i : Fin 16) (reg : Fin 3) (v : Word), s.serves (.insp i) →
    exec (.inspectSelect i reg v) s = s.doesReg (.insp i) (fun c =>
      (c.wr (.insp i) (0x040 + 4 * reg.val) v.toNat).setInsp i { c.inspAt i with ready := false })) ∧
  (∀ (s : State) (gen width : Nat) (mps : Fin 3), s.runs → linkOk gen width = true →
    (s.core.host.linkUp = false → exec (.linkChange gen width mps) s = s.does (fun c => c)) ∧
    ((s.core.host.linkUp = true ∨ s.core.perst = true ∨ s.core.power.mode = .shelved ∨ s.core.domOn 34 = false) →
      exec (.pcieLinkUp gen width mps) s = s.does (fun c => c)) ∧
    (s.core.host.linkUp = true → exec (.linkChange gen width mps) s = s.does (fun c =>
      ({ c with host := { c.host with gen := gen, width := width, mps := mps } }.raise .pciex 0).report .pciex 0x90 clsN 0)) ∧
    (s.core.host.linkUp = false → s.core.perst = false → s.core.power.mode ≠ .shelved → s.core.domOn 34 = true →
      exec (.pcieLinkUp gen width mps) s = s.does (fun c =>
        { c with host := { c.host with linkUp := true, gen := gen, width := width, mps := mps } })))

/-- R342, R343, R349, R351: TRAIN in BRINGUP or IDLE starts the training of a stack that is neither training nor in
self-refresh, whatever it held is lost, and the attempt is counted; elsewhere it is rejected and reported; where the pair's
domain is off it asks for the switch-on. A training that ends well leaves the stack TRAINED, its values copied to the shadow,
raises TRAIN_DONE, and RATE_DONE where a rate change asked for it; one that fails is tried three times in all, then the stack
is FAILED, a Degraded fault; the end of self-refresh restores the shadow and keeps the contents, or loses them. SET_RATE
trains at the new rate, is queued behind a training, and is only recorded on a stack that is off or FAILED; INJECT_ARM arms
one injection. R258, R269, R336, R337, R340, R341, R345, R350: the upkeep of a TRAINED stack. A due refresh is one more owed,
or, where the limit of 8 (24 above 85 degrees) would be passed, a forced refresh, counted, reported as Degraded and, while a
schedule runs, a breach of its contract; a forced refresh starts in any slot, another in a free slot that pays one owed, and
the banks close; a temperature is kept to 0.25 degrees, 95 degrees reports HOT once and 85 doubles every owed count; a
periodic calibration without a slot counts, the tenth in succession as missed; scrub goes on to the next row of a pass that
reads each row once, unless a refresh or a scheduled unit holds it; a waiting request is served, and the oldest one that waits
too long is promoted, counted. -/
def Obligations.HbmTrainingAndUpkeep : Prop :=
  (
    ∀ (s : State) (d : XDie) (j : Fin 2), s.runs →
      let i := stackNo d j
      let k := hbmPage i
      let x := s.core.stack i
      let dom := 69 + 35 * (i / 2) + i % 2
      (s.core.part.dies ≤ d.val → exec (.trainHbm d j) s = s.does (fun c => c.unmapped .pcie (PageKind.hbm d.val j.val).no 0x044 true)) ∧
      (d.val < s.core.part.dies →
        (s.core.route k = .none → exec (.trainHbm d j) s = s.does id) ∧
        (s.core.route k = .queue → exec (.trainHbm d j) s = s.does (fun c => c.post d.val (.trainHbm d j))) ∧
        (s.core.route k = .serve → s.core.powered k = true → s.core.acts k = false →
          exec (.trainHbm d j) s = s.doesReg k id) ∧
        (s.core.route k = .serve → s.core.powered k = true → s.core.acts k = true →
          (s.core.hbmMode = true → x.st ≠ .training → x.st ≠ .selfRefresh →
            exec (.trainHbm d j) s = s.doesReg k (fun c => c.trainStart i false)) ∧
          ((s.core.hbmMode = false ∨ x.st = .training ∨ x.st = .selfRefresh) →
            exec (.trainHbm d j) s = s.doesReg k (fun c => c.hbmReject i))) ∧
        (s.core.route k = .serve → s.core.powered k = false →
          (s.core.hbmMode = false → exec (.trainHbm d j) s = s.doesReg k id) ∧
          (s.core.hbmMode = true → (s.core.domOn dom = true ∨ (s.core.power.want.elem (dom, true)) = true) →
            exec (.trainHbm d j) s = s.doesReg k (fun c => c.modStack i (fun x => { x with trainPend := true }))) ∧
          (s.core.hbmMode = true → s.core.domOn dom = false → (s.core.power.want.elem (dom, true)) = false →
            s.leaves (exec (.trainHbm d j) s) (fun c => (c.stack i).trainPend = true ∧ c.power.want = s.core.power.want ++ [(dom, true)])))) ∧
      (∀ (c : Core) job, let y := (c.trainStart i job).stack i
        y.st = .training ∧ y.tries = 0 ∧ y.rateJob = job ∧ y.trainPend = false ∧ y.phy = none ∧
        y.mem = { fill := .freeHbm c.free, cells := [] } ∧ y.err = [] ∧ y.openRow = [] ∧ y.rate = (c.stack i).rate ∧
        y.shadow = (c.stack i).shadow ∧ y.ratePend = (c.stack i).ratePend) ∧
      (∀ ok, x.st ≠ .training → x.st ≠ .selfRefresh → exec (.hbmTrainDone d j ok) s = s.does id) ∧
      (x.st = .selfRefresh → (s.core.host.d3.isSome = true ∨ s.core.pageReady k = false) → ∀ ok,
        exec (.hbmTrainDone d j ok) s = s.does id) ∧
      (x.st = .selfRefresh → s.core.host.d3 = none → s.core.pageReady k = true →
        exec (.hbmTrainDone d j true) s = s.does (fun c =>
          c.modStack i (fun x => { x with st := .trained, phy := x.shadow, calFail := [] })) ∧
        exec (.hbmTrainDone d j false) s = s.does (fun c =>
          (((c.modStack i (fun x => { x with st := .failed })).stackLose i).raise k 1).report k 0x80 clsD 0)) ∧
      (x.st = .training →
        s.leaves (exec (.hbmTrainDone d j true) s) (fun t =>
          let c1 := (s.core.modStack i (fun x => { x with
            st := .trained, rateJob := false, phy := some s.core.free, shadow := some s.core.free })).raise k 0
          let c2 : Core := { c1 with free := s.core.free + 1 }
          let c3 := if x.rateJob then c2.raise k 5 else c2
          t = (match x.ratePend with
            | some r => (c3.modStack i (fun x => { x with rate := r, ratePend := none })).trainStart i true
            | none => c3)) ∧
        (x.tries < 2 → exec (.hbmTrainDone d j false) s = s.does (fun c =>
          (c.modStack i (fun x => { x with tries := x.tries + 1 })).trainTry i)) ∧
        (2 ≤ x.tries → exec (.hbmTrainDone d j false) s = s.does (fun c =>
          ((c.modStack i (fun x => { x with st := .failed, rate := x.ratePend.getD x.rate, ratePend := none,
                                            rateJob := false })).raise k 1).report k 0x80 clsD 0))) ∧
      (s.serves (.hbm d.val j.val) →
        exec (.injectArm d j) s = s.doesReg (.hbm d.val j.val) (fun c => c.modStack i (fun x => { x with inject := true })) ∧
        (∀ rate : Fin 4, s.core.hbmMode = true → rate ≠ 3 →
          (x.st = .trained → exec (.setRate d j rate) s = s.doesReg (.hbm d.val j.val) (fun c =>
            (c.modStack i (fun x => { x with rate := rate.val })).trainStart i true)) ∧
          (x.st = .training → exec (.setRate d j rate) s = s.doesReg (.hbm d.val j.val) (fun c =>
            c.modStack i (fun x => { x with ratePend := some rate.val }))) ∧
          ((x.st = .off ∨ x.st = .failed) →
            exec (.setRate d j rate) s = s.doesReg (.hbm d.val j.val) (fun c =>
              c.modStack i (fun x => { x with rate := rate.val })))) ∧
        (∀ rate : Fin 4, (s.core.hbmMode = false ∨ rate = 3 ∨ x.st = .selfRefresh) →
          exec (.setRate d j rate) s = s.doesReg (.hbm d.val j.val) (fun c => c.hbmReject i)))) ∧
  (
    ∀ (s : State) (d : XDie) (j : Fin 2) (pc : Fin 64), s.runs →
      let i := stackNo d j
      let k := hbmPage i
      let x := s.core.stack i
      let lim := if x.fast then 24 else 8
      let n := scrubRow x.scrub
      let held := bit (s.core.rd k 0x040) 1 = false ∨ s.core.winOpen (i / 2) 35 = false ∨ x.refr.elem (n % 64) = true ∨
        x.forced.elem (n % 64) = true ∨ s.core.unitSoon i (n % 64) 16 = true
      exec (.refreshComplete d j pc) s = s.does (fun c => c.modStack i (fun x => { x with refr := x.refr.filter (· != pc.val) })) ∧
      (s.core.stackUp i = false → exec (.refreshDue d j pc) s = s.does id ∧ exec (.refreshSlotStart d j pc) s = s.does id ∧
        (∀ b, exec (.hbmPeriodicCal d j pc b) s = s.does id) ∧ exec (.scrubRow d j) s = s.does id ∧
        exec (.hbmAsyncAdmit d j pc) s = s.does id) ∧
      (s.core.stackUp i = true →
        (x.owedOf pc < lim → exec (.refreshDue d j pc) s = s.does (fun c =>
          (c.modStack i (fun x => x.setOwed pc (x.owedOf pc + 1))).owedPeak i)) ∧
        (lim ≤ x.owedOf pc → exec (.refreshDue d j pc) s = s.does (fun c =>
          (((c.modStack i (fun x => { x with forced := pc.val :: x.forced.filter (· != pc.val) })).inc
            (.xchn (i / 2)) 0x18C).report (.xchn (i / 2)) 0x52 clsD 0).when s.core.power.running (fun c =>
              c.breach (i / 2) .forced 5 (s.core.chanter (i / 2)).pc (s.core.chanter (i / 2)).scyc))) ∧
        (x.refr.elem pc.val = true → exec (.refreshSlotStart d j pc) s = s.does id) ∧
        (x.refr.elem pc.val = false → x.forced.elem pc.val = true → exec (.refreshSlotStart d j pc) s = s.does (fun c =>
          c.modStack i (fun x => { x with
            forced := x.forced.filter (· != pc.val), refr := pc.val :: x.refr, openRow := x.closed pc }))) ∧
        (x.refr.elem pc.val = false → x.forced.elem pc.val = false → (x.owedOf pc = 0 ∨ s.core.winOpen (i / 2) 35 = false) →
          exec (.refreshSlotStart d j pc) s = s.does id) ∧
        (x.refr.elem pc.val = false → x.forced.elem pc.val = false → x.owedOf pc ≠ 0 → s.core.winOpen (i / 2) 35 = true →
          exec (.refreshSlotStart d j pc) s = s.does (fun c =>
            c.modStack i (fun x => ({ x.setOwed pc (x.owedOf pc - 1) with refr := pc.val :: x.refr, openRow := x.closed pc }).cool))) ∧
        (x.owedOf pc = 0 → s.core.winOpen (i / 2) 35 = true → exec (.hbmPeriodicCal d j pc true) s = s.does (fun c =>
          c.modStack i (fun x => { x with calFail := SMap.erase x.calFail pc }))) ∧
        (∀ b n, (b = false ∨ x.owedOf pc ≠ 0 ∨ s.core.winOpen (i / 2) 35 = false) → SMap.get (fun _ => 0) x.calFail pc = n →
          exec (.hbmPeriodicCal d j pc b) s = s.does (fun c =>
            let c := c.modStack i (fun x => { x with calFail := SMap.set (fun _ => 0) x.calFail pc (min (n + 1) 10) })
            if n = 9 then (c.inc k 0x07C).raise k 7 else c)) ∧
        (held → exec (.scrubRow d j) s = s.does id) ∧
        (¬ held → exec (.scrubRow d j) s = s.does (fun c =>
          let c := c.modStack i (fun x => { x with
            openRow := SMap.set (fun _ => 0) x.openRow (n % 64 * 64 + n / 64 % 64) (n / 4096 + 1) })
          let c := ((x.err.map (fun e => e.1)).filter (inScrubRow n)).foldl (fun c w => c.scrubWord i w) c
          if x.scrub + 1 < 2 ^ 26 then c.modStack i (fun x => { x with scrub := x.scrub + 1 })
          else (c.modStack i (fun x => { x with scrub := 0 })).inc k 0x05C)) ∧
        ((x.refr.elem pc.val = true ∨ x.forced.elem pc.val = true ∨ s.core.nextAsync i pc = none) →
          exec (.hbmAsyncAdmit d j pc) s = s.does id) ∧
        (∀ r, x.refr.elem pc.val = false → x.forced.elem pc.val = false → s.core.nextAsync i pc = some r →
          exec (.hbmAsyncAdmit d j pc) s = s.does (fun c => c.serveAsync i r))) ∧
      (x.queue.find? (fun r => pcOf r.addr == pc.val && !r.aged) = none → exec (.hbmAgePromote d j pc) s = s.does id) ∧
      (∀ r, x.queue.find? (fun r => pcOf r.addr == pc.val && !r.aged) = some r →
        exec (.hbmAgePromote d j pc) s = s.does (fun c => (c.modStack i (fun x =>
          { x with queue := x.queue.map (fun q => if q.seq = r.seq then { q with aged := true } else q) })).inc k 0x070)) ∧
      (∀ p q : Nat, q < p → p < 2 ^ 26 → scrubRow p ≠ scrubRow q ∧ scrubRow p < 2 ^ 26) ∧
      (∀ t : BitVec 16, (2 * s.core.part.dies ≤ i ∨ s.core.pageReady k = false) → exec (.hbmTempRead d j t) s = s.does id) ∧
      (∀ t : BitVec 16, i < 2 * s.core.part.dies → s.core.pageReady k = true →
        let v := max (-32750) (toInt 16 t.toNat / 25 * 25)
        let up := decide (8500 < v) && !x.fast
        s.leaves (exec (.hbmTempRead d j t) s) (fun c =>
          toInt 16 (c.stack i).temp = v ∧
          (c.stack i).hot = (if 9500 ≤ v then true else if v < 9000 then false else x.hot) ∧
          (up = true → (c.stack i).owed = x.owed.map (fun e => (e.1, 2 * e.2)) ∧ (c.stack i).fast = true) ∧
          (up = false → (c.stack i).owed = x.owed) ∧
          (∀ n, n ≠ i → c.stack n = s.core.stack n) ∧
          (¬ (9500 ≤ v ∧ x.hot = false) → c.pend = s.core.pend) ∧
          (9500 ≤ v → x.hot = false → c.pend = (s.core.report k 0x81 clsD 0).pend))))

/-- R334, Table 14.1: a run of bytes written to die HBM reads back byte by byte, whatever pages and stacks it crosses, every
other byte of every die is as before, and the memories keep their canonical form; a write by the schedule of whole words
forgets the errors of the words it replaces and no others, and leaves the same bytes. -/
def Obligations.HbmReadsBack : Prop :=
  ∀ (c : Core) (d a : Nat) (bs : List Byte),
    (∀ (e x : Nat), (c.hbmPut d a bs).hbmGet e x =
      if e = d ∧ a ≤ x ∧ x < a + bs.length then (bs[x - a]?).getD 0 else c.hbmGet e x) ∧
    (∀ (e x : Nat), (c.hbmWrite d a bs).hbmGet e x = (c.hbmPut d a bs).hbmGet e x) ∧
    (c.memWf = true → (c.hbmPut d a bs).memWf = true ∧ (c.hbmWrite d a bs).memWf = true) ∧
    (c.hbmPut d a bs).regs = c.regs ∧ (c.hbmPut d a bs).host = c.host ∧ (c.hbmPut d a bs).power = c.power

/-- R37 to R39, R65, R67, R68 (Table 3.4): what becomes of a packet. A block whose bits break the line code, or that breaks
off at a comma, is discarded and counted; a lane that is not UP, or below its step where ALLOW_DOWN_LANES lets it be, only
counts the block. Otherwise it is dropped by the first test it fails and counted there: the CRC, the format, the map; while a
schedule runs then also LATE, EARLY and DUP by its margin and by what the lane holds; a packet that passes goes to the lowest
free slot, payload and all, and is ACCEPTED. With no schedule it is counted in its lag and goes to the Pilot where that is on
in BRINGUP. -/
def Obligations.PacketAcceptance : Prop :=
  ∀ (s : State) (l : Lane) (line : List Bool), s.runs →
    let r := rxBlock (s.core.lane l).pol line
    let k := (s.core.lane l).rxK + 1
    let f : Core → Core := fun c => c.modLane l (fun x => x.comma true)
    ((s.core.rxOn l = false ∨ r = none ∨ (∃ e, r = some (false, e))) → exec (.packetBlockReceived l line) s = s.does id) ∧
    (s.core.rxOn l = true →
      (r = some (true, .error .code) → exec (.packetBlockReceived l line) s = s.does (fun c => (f c).inc (.lane l) 0x060)) ∧
      (r = some (true, .error .align) → exec (.packetBlockReceived l line) s = s.does (fun c => (f c).inc (.lane l) 0x068)) ∧
      ∀ raw, r = some (true, .ok raw) →
        let bs := packetBytes l k raw
        (((s.core.lane l).st ≠ .up ∨ s.core.belowStep l = true ∨ s.core.domOn 36 = false) →
          exec (.packetBlockReceived l line) s = s.does f) ∧
        ((s.core.lane l).st = .up → s.core.belowStep l = false → s.core.domOn 36 = true →
          (∀ e, parsePacket bs = .error e → exec (.packetBlockReceived l line) s = s.does (fun c => (f c).ingInc l e)) ∧
          (∀ p, parsePacket bs = .ok p →
            (s.core.position l p.group p.ch = none →
              exec (.packetBlockReceived l line) s = s.does (fun c => (f c).ingInc l .misrouted)) ∧
            (∀ pos, s.core.position l p.group p.ch = some pos → (s.core.power.running = false ∨ s.core.img = none) →
              exec (.packetBlockReceived l line) s = s.does (fun c =>
                let c := (f c).lagIn p.sample
                if s.core.pilot.on = true ∧ s.core.power.mode = .bringup then c.pilotIn l p else c)) ∧
            (∀ pos i, s.core.position l p.group p.ch = some pos → s.core.power.running = true → s.core.img = some i →
              let b : Nat := p.sample / 256
              let m : Int := i.plan.due i.hdr.mF l pos b - s.core.fcycle i
              let h : Core → Core := fun c => ((f c).lagIn p.sample).marginIn i l m p.sample
              let held := s.core.ingest.slots.any (fun x => x.lane == l && x.pos == pos && x.blk == b)
              (m < 0 → exec (.packetBlockReceived l line) s = s.does (fun c => (h c).ingInc l .late)) ∧
              (i.plan.horizon < m → exec (.packetBlockReceived l line) s = s.does (fun c => (h c).ingInc l .early)) ∧
              (0 ≤ m → m ≤ i.plan.horizon → held = true →
                exec (.packetBlockReceived l line) s = s.does (fun c => (h c).ingInc l .dup)) ∧
              (0 ≤ m → m ≤ i.plan.horizon → held = false → s.core.freeSlot l = none →
                exec (.packetBlockReceived l line) s = s.does h) ∧
              (∀ x, 0 ≤ m → m ≤ i.plan.horizon → held = false → s.core.freeSlot l = some x →
                s.leaves (exec (.packetBlockReceived l line) s) (fun c =>
                  c.ingest.slots = s.core.ingest.slots ++ [⟨l, pos, b, p.mask, p.dflags, m, x⟩] ∧
                  c.io = (s.core.ioPut (slotAddr l x) p.payload).io ∧
                  c.ingCount l InCnt.accepted.no = min (s.core.ingCount l InCnt.accepted.no + 1) 0xFFFFFFFF))))))

/-- R68 to R73, R103, R119, R318, R423: a due packet is read and released; one that is not there is counted as MISSING, or
LANE_DOWN where its lane was down, and every input of it is invalid; a flagged packet, and one outside the guard band, which
begins a slip event, are counted, and are invalid too; WINDOW shows the window of its block, EVAL_BLOCK of its slice the
block, and each used input's samples go through delay, filter and zoom. SNAP copies the eleven counters of the lane selected;
the end of an interval updates the margins, which an interval without a packet keeps, the time to slip, the slip event and the
lags, and begins the next interval empty. -/
def Obligations.DuePacketsAndIntervals : Prop :=
  (∀ (c : Core) (i : Image) (l : Lane) (pos blk : Nat),
    let held := c.ingest.slots.find? (fun x => x.lane == l.val && x.pos == pos && x.blk == blk)
    (held = none → blk < i.plan.b0 → c.readSlot i l pos blk = (c, 0, [])) ∧
    (held = none → i.plan.b0 ≤ blk → c.laneWasDown i l = true → c.readSlot i l pos blk = (c.ingInc l .laneDown, 0, [])) ∧
    (held = none → i.plan.b0 ≤ blk → c.laneWasDown i l = false → c.readSlot i l pos blk = (c.ingInc l .missing, 0, [])) ∧
    (∀ x, held = some x →
      let d := c.readSlot i l pos blk
      let flagged := (x.dflags &&& bits (c.rd .ingest 0x040) 31 16) != 0
      d.1.ingest.slots = c.ingest.slots.filter (fun y => decide (y ≠ x)) ∧
      d.2.2 = c.io.read (slotAddr l x.idx) 8192 ∧ d.1.io = c.io ∧
      d.2.1 = (if c.inBand i x.margin = false ∨ flagged = true then 0 else x.mask) ∧
      (c.inBand i x.margin = false → d.1.ingest.slip = true) ∧
      (c.inBand i x.margin = true → flagged = false →
        d.1 = { c with ingest := { c.ingest with slots := c.ingest.slots.filter (fun y => decide (y ≠ x)) } }))) ∧
  (∀ (s : State) (l : Lane) (pos blk : Nat) (ce ue : List Nat), s.runs →
    ((s.core.power.running = false ∨ s.core.img = none) → exec (.packetDue l pos blk ce ue) s = s.does id) ∧
    (∀ i, s.core.power.running = true → s.core.img = some i →
      (i.plan.map.find? (fun e => e.lane == l.val && e.pos == pos) = none → exec (.packetDue l pos blk ce ue) s = s.does id) ∧
      (∀ m, i.plan.map.find? (fun e => e.lane == l.val && e.pos == pos) = some m →
        let rs := i.plan.dueReads l m.group m.ch
        let bad := ue.filter (inReads rs)
        let e : Core → Core := fun c => bad.foldl (fun c a => c.sramUe i.plan a) (if ce.any (inReads rs) then c.sramCe else c)
        ((blk < i.plan.b0 ∨ i.plan.histL.elem m.ch = false) →
          exec (.packetDue l pos blk ce ue) s = s.does (fun c => ((e c).readSlot i l pos blk).1)) ∧
        (i.plan.b0 ≤ blk → i.plan.histL.elem m.ch = true →
          exec (.packetDue l pos blk ce ue) s = s.does (fun c =>
            let w := (blk - i.plan.b0) * 256 / (i.plan.L * i.plan.P)
            let q := (e c).readSlot i l pos blk
            let c := q.1.winEnter i.plan w
            let evs := (List.range 8).map (fun x => if x = m.ch % 8 then some blk else nth none c.chan.evalBlk x)
            let c := { c with chan := { c.chan with evalBlk := evs } }
            (List.range 16).foldl (fun c x =>
              if i.plan.uses (16 * m.group + x) then
                c.streamDue i.plan (16 * m.group + x) m.ch blk (payloadInput q.2.2 x (q.2.1.testBit x)) (gainBadOf bad)
              else c) ((c.wr64 .crook 0x048 w).noteBlk blk).turned))))) ∧
  (∀ (s : State), s.serves .ingest → s.leaves (exec .snap s) (fun c =>
    c.ingest = s.core.ingest ∧
    ∀ k, k < 11 → c.rd .ingest (0x080 + 4 * k) = s.core.ingCount (s.core.rd .ingest 0x070 % 256) k % 2 ^ 32)) ∧
  (∀ (s : State), s.runs →
    (s.core.domOn 36 = true →
      exec .ingestIntervalEnd s = s.does (fun c => (c.marginEnd.ttsEnd.slipEnd.lagEnd).modInt (fun _ => {}))) ∧
    (s.core.domOn 36 = false → exec .ingestIntervalEnd s = s.does id)) ∧
  (∀ (c : Core), let u := c.ingest.cur
    (∀ a l b h, u.lo = some (a, l) → u.hi = some (b, h) → l < 256 → h < 256 →
      c.marginEnd.rd .ingest 0x054 = ofInt 32 a ∧ c.marginEnd.rd .ingest 0x058 = ofInt 32 b ∧
      c.marginEnd.rd .ingest 0x05C = l + 256 * h) ∧
    (u.lo = none → u.hi = none → c.marginEnd.regs = c.regs) ∧
    (u.n = 0 → c.marginEnd.ingest.drift = c.ingest.drift) ∧
    (∀ x, u.outside = some x → c.ingest.slip = false → c.slipEnd.ingest.slip = true ∧
      c.slipEnd.pend = (c.report .ingest 0x15 c.clsDN x).pend) ∧
    (∀ x, u.outside = some x → c.ingest.slip = true → c.slipEnd = c) ∧
    (u.outside = none → u.n ≠ 0 → c.slipEnd.ingest.slip = false) ∧ (u.outside = none → u.n = 0 → c.slipEnd = c))

/-- R101, R102, R117: CAL_START begins a calibration in CALIBRATE alone, with its buffer cleared and as many passes as the
image needs, and elsewhere records a fault of the page; CAL_ABORT ends one; the end of a pass keeps its sums, one that is not
the last begins the next with the buffer cleared, and after the last the gains of all entries are computed and wait for their
boundary. A turn row that is late stands as invalid throughout, is counted and reported as Degraded; a link that goes down is
a Suspect fault, raised on both its pages, once; a replay is counted. -/
def Obligations.CalibrationAndTurnPath : Prop :=
  (∀ (s : State), s.serves (.fst 0) →
    (∀ i, s.core.img = some i → s.core.power.mode = .calibrate → s.core.chan.cal = none →
      exec .calStart s = s.doesReg (.fst 0) (fun c =>
        let k : CalS := { passes := cdiv (i.plan.nIn * i.plan.nCh) (2 ^ 18), start := max (c.evalBlock + 1) i.plan.b0 }
        { c.calClear with chan := { c.chan with cal := some k } })) ∧
    ((s.core.img = none ∨ s.core.power.mode ≠ .calibrate ∨ s.core.chan.cal ≠ none) →
      exec .calStart s = s.doesReg (.fst 0) (fun c => c.pageFlt (.fst 0) 0x04)) ∧
    (s.core.chan.cal = none → exec .calAbort s = s.doesReg (.fst 0) (fun c => c)) ∧
    (s.core.chan.cal ≠ none → exec .calAbort s = s.doesReg (.fst 0) (fun c =>
      ({ c with chan := { c.chan with cal := none } }).raise (.fst 0) 6))) ∧
  (∀ (s : State), s.runs →
    ((s.core.chan.cal = none ∨ s.core.img = none) → exec .calPassEnd s = s.does id) ∧
    (∀ (k : CalS) (i : Image), s.core.chan.cal = some k → s.core.img = some i →
      let n := min (2 ^ 18) (i.plan.nIn * i.plan.nCh - k.pass * 2 ^ 18)
      let sums := k.sums ++ (List.range n).map (fun x =>
        (leNat (s.core.io.read (calBase + 12 * x) 8), leNat (s.core.io.read (calBase + 12 * x + 8) 4)))
      let r : Core → Core × CalS := fun c => (sums.zip (List.range sums.length)).foldl (fun a e =>
        a.1.calEntry i.plan.rq a.2 e.2 e.1.1 e.1.2) (c, { k with sums := sums })
      (k.ready = true → exec .calPassEnd s = s.does id) ∧
      (k.ready = false → k.pass + 1 < k.passes → exec .calPassEnd s = s.does (fun c =>
        { c.calClear with chan := { c.chan with
          cal := some { k with sums := sums, pass := k.pass + 1, start := k.start + 2 ^ 20 * i.plan.P / 256 } } })) ∧
      (k.ready = false → k.passes ≤ k.pass + 1 → exec .calPassEnd s = s.does (fun c =>
        { (r c).1 with chan := { (r c).1.chan with cal := some { (r c).2 with ready := true } } })))) ∧
  (∀ (s : State) (d : XDie) (k w t : Nat), s.runs →
    ((s.core.running = false ∨ s.core.img = none) → exec (.turnLate d k w t) s = s.does id) ∧
    (∀ i, s.core.running = true → s.core.img = some i →
      ((i.plan.owned s.core.part.dies d)[k]? = none → exec (.turnLate d k w t) s = s.does id) ∧
      (∀ ch, (i.plan.owned s.core.part.dies d)[k]? = some ch →
        ((i.plan.rows ch ≤ t ∨ s.core.part.dies ≤ d.val) → exec (.turnLate d k w t) s = s.does id) ∧
        (t < i.plan.rows ch → d.val < s.core.part.dies → exec (.turnLate d k w t) s = s.does (fun c =>
          let c := (List.range i.plan.nPad).foldl (fun c r => c.stage i.plan ch w t r [0x80, 0x00]) c
          let c := c.modX d (fun x => { x with lateWins := if x.lateWins.elem w then x.lateWins else w :: x.lateWins })
          ((c.inc .crook (0x060 + 4 * d)).raise .crook 0).report .crook 0x30 clsD (i.plan.fineIndex ch w t)))))) ∧
  (∀ (s : State) (d : XDie), s.runs →
    (nth false s.core.links d = true →
      exec (.linkDown d) s = s.does (fun c => ((({ c with links := c.links.set d false }).raise .crook 1).raise (.xdie d) 6).report
        (.xdie d) 0x31 clsS 0) ∧
      exec (.linkReplay d) s = s.does (fun c => c.inc .crook (0x070 + 4 * d.val))) ∧
    (nth false s.core.links d = false →
      exec (.linkDown d) s = s.does (fun c => c) ∧ exec (.linkReplay d) s = s.does (fun c => c)))

/-- R235, R237, R241: an instruction that issues puts the Chanter's PC past it and adds the cycles it occupies to SCYC: one,
and n for a WAIT n. LOOP opens a level at index 0 whose body begins at the next instruction; ENDLOOP goes back to the body
with the index one up while passes are left or the count is 0, and closes the level otherwise. WAITS opens an asynchronous
window and serves what waited for it, and the close of a window leaves none open. Where the instruction is not the next of a
running Chanter, nothing happens. -/
def Obligations.ChanterIssues : Prop :=
  (∀ (s : State) (x : Chip) (i : Image) (t : ChanterS) (ins : Nat), s.runs →
    let go : Core → Core := fun c => c.modChanter x.val (fun t => t.advance ins)
    (s.core.atOp x.val 0x00 = some (i, t, ins) → exec (.chanterNop x) s = s.does go) ∧
    (s.core.atOp x.val 0x01 = some (i, t, ins) → exec (.wait x) s = s.does go) ∧
    (s.core.atOp x.val 0x03 = some (i, t, ins) → exec (.loop x) s = s.does go) ∧
    (s.core.atOp x.val 0x04 = some (i, t, ins) → exec (.endloop x) s = s.does go) ∧
    (s.core.atOp x.val 0x02 = some (i, t, ins) → exec (.waits x) s = s.does (fun c =>
      go (c.modChanter x.val (fun t => { t with win := some (bits ins 37 32, bits ins 31 0), winTc := c.time.tcNs })).asyncOpen)) ∧
    (s.core.atOp x.val 0x00 = none → exec (.chanterNop x) s = s.does id) ∧
    (s.core.atOp x.val 0x01 = none → exec (.wait x) s = s.does id) ∧
    (s.core.atOp x.val 0x02 = none → exec (.waits x) s = s.does id) ∧
    (s.core.atOp x.val 0x03 = none → exec (.loop x) s = s.does id) ∧
    (s.core.atOp x.val 0x04 = none → exec (.endloop x) s = s.does id) ∧
    exec (.asyncWindowClose x) s = s.does (fun c => c.modChanter x.val (fun t => { t with win := none }))) ∧
  (∀ (t : ChanterS) (ins : Nat),
    (t.advance ins).scyc = t.scyc + (if insOp ins = 1 then bits ins 47 0 else 1) ∧
    (t.advance ins).window = t.window ∧ (t.advance ins).mask = t.mask ∧ (t.advance ins).setrQ = t.setrQ ∧
    (insOp ins = 3 → (t.advance ins).pc = t.pc + 1 ∧
      (t.advance ins).loops = t.loops ++ [⟨bits ins 31 0, 0, t.pc + 1⟩]) ∧
    (insOp ins ≠ 3 → insOp ins ≠ 4 → (t.advance ins).pc = t.pc + 1 ∧ (t.advance ins).loops = t.loops) ∧
    (∀ (ls : List LoopS) (l : LoopS), insOp ins = 4 → t.loops = ls ++ [l] →
      (l.count ≠ 0 → l.count ≤ l.index + 1 → (t.advance ins).pc = t.pc + 1 ∧ (t.advance ins).loops = ls) ∧
      ((l.count = 0 ∨ l.index + 1 < l.count) → (t.advance ins).pc = l.body ∧
        (t.advance ins).loops = ls ++ [⟨l.count, (l.index + 1) % 2 ^ 32, l.body⟩])))

/-- R244: MARK copies ID and SCYC to MARK_ID and MARK_SCYC, together with the ATB of the issue cycle, in whole seconds and
nanoseconds. With IRQ = 1 it raises MARK. A later MARK overwrites an earlier one: the values do not depend on what the
registers held. Where MARK is not the next instruction of a running Chanter, nothing happens. -/
def Obligations.MarkRegisters : Prop :=
  (∀ (s : State) (x : Chip), s.runs → s.core.atOp x.val 0x0D = none → exec (.mark x) s = s.does id) ∧
  ∀ (s : State) (x : Chip) (i : Image) (t : ChanterS) (ins : Nat), s.runs →
    s.core.atOp x.val 0x0D = some (i, t, ins) →
    let k := chanterPage x.val
    let ns := (s.core.atbOfCycle i x.val t.scyc / 65536).toNat
    s.leaves (exec (.mark x) s) (fun c =>
      c.rd k 0x068 = bits ins 15 0 ∧ c.rd k 0x06C = t.scyc % 2 ^ 32 ∧ c.rd k 0x070 = t.scyc / 2 ^ 32 % 2 ^ 32 ∧
      c.rd k 0x074 = ns / 1000000000 % 2 ^ 32 ∧ c.rd k 0x078 = ns % 1000000000 ∧
      (bit ins 16 = true → bit (c.rd k 0x010) 0 = true) ∧ (bit ins 16 = false → c.rd k 0x010 = s.core.rd k 0x010) ∧
      c.chanter x.val = t.advance ins ∧ c.xdies = s.core.xdies ∧ c.power = s.core.power)

/-- R242, R243, R246, R249, R250: SETR is posted where fewer than 16 writes wait and is otherwise dropped, counted, raised and
a Notice; the oldest posted write reaches its MBOX word and raises MBOX. SYNC sends its ID to the leading Chanter, which
forgets a barrier that every participant has reached; one that is missing a participant at the end of the fixed latency is
counted, raised and reported, and is FIRST_MISS where none was before. FRAME_END counts its frame and holds an X Chanter where
a hold is due; where the instruction is not the next of a running Chanter, nothing happens; the stepping commands act on every
X Chanter in INSPECT, and elsewhere record a fault of the page. -/
def Obligations.ChanterEvents : Prop :=
  (∀ (s : State) (x : Chip) (i : Image) (t : ChanterS) (ins : Nat), s.runs → let k := chanterPage x.val
    (s.core.atOp x.val 0x0B = none → exec (.setr x) s = s.does id) ∧
    (s.core.atOp x.val 0x0C = none → exec (.sync x) s = s.does id) ∧
    (s.core.atOp x.val 0x0F = none → exec (.frameEnd x) s = s.does id) ∧
    (s.core.atOp x.val 0x3F = none → exec (.halt x) s = s.does id) ∧
    (s.core.atOp 4 0x0E = none → exec .pstep s = s.does id) ∧
    (s.core.atOp x.val 0x0B = some (i, t, ins) →
      (16 ≤ t.setrQ.length → exec (.setr x) s = s.does (fun c =>
        (((c.inc k 0x07C).raise k 5).report k 0x53 clsN 0).modChanter x.val (fun t => t.advance ins))) ∧
      (t.setrQ.length < 16 → exec (.setr x) s = s.does (fun c => (c.modChanter x.val (fun t =>
        { t with setrQ := t.setrQ ++ [(bits ins 35 32, word (bits ins 31 0))] })).modChanter x.val (fun t => t.advance ins)))) ∧
    (∀ n v q, (s.core.chanter x.val).setrQ = (n, v) :: q → exec (.setrApply x) s = s.does (fun c =>
      ((c.modChanter x.val (fun t => { t with setrQ := q })).wr k (0x100 + 4 * n) v.toNat).raise k 1)) ∧
    ((s.core.chanter x.val).setrQ = [] → exec (.setrApply x) s = s.does (fun c => c)) ∧
    (s.core.atOp x.val 0x0F = some (i, t, ins) →
      let hold := decide (x.val < 4) && (t.stepReq == 1 || t.stepReq == 2 && (t.frame + 1) % max i.hdr.fpw 1 == 0)
      (hold = false → exec (.frameEnd x) s = s.does (fun c => (c.modChanter x.val (fun t =>
        { t with frame := t.frame + 1 })).modChanter x.val (fun t => t.advance ins))) ∧
      (hold = true → exec (.frameEnd x) s = s.does (fun c => ((((c.modChanter x.val (fun t =>
        { t with frame := t.frame + 1, st := .held, stepReq := 0 })).modPower (fun p => { p with stepped := true })).raise
          (.xchn x.val) 2)).modChanter x.val (fun t => t.advance ins)))) ∧
    (s.core.atOp x.val 0x3F = some (i, t, ins) → exec (.halt x) s = s.does (fun c =>
      let c := (c.modChanter x.val (fun t => t.advance ins)).raise k 3
      if (4 :: List.range c.part.dies).all (fun y => (c.chanter y).st == .halted) then c.toQuiesce.chantersStop else c)) ∧
    (s.core.atOp x.val 0x0C = some (i, t, ins) → exec (.sync x) s = s.does (fun c =>
      (doSync x.val ins c).modChanter x.val (fun t => t.advance ins)))) ∧
  (∀ (c : Core) (x ins : Nat),
    let key := bits ins 15 8 + 256 * bits ins 4 0
    let seen : ChanterS → Nat := fun t => (t.syncs.find? (fun e => e.1 == key)).elim 0 (fun e => e.2) ||| 2 ^ partBit x
    (seen (c.chanter 4) = bits ins 4 0 → ((doSync x ins c).chanter 4).syncs.find? (fun e => e.1 == key) = none) ∧
    (seen (c.chanter 4) ≠ bits ins 4 0 →
      ((doSync x ins c).chanter 4).syncs.find? (fun e => e.1 == key) = some (key, seen (c.chanter 4))) ∧
    (∀ y, y ≠ 4 → (doSync x ins c).chanter y = c.chanter y)) ∧
  (∀ (s : State) (id : Byte), s.runs →
    let held := (List.range 4).any (fun d => (s.core.chanter d).st == .held)
    let m := (s.core.chanter 4).syncs.find? (fun e => e.1 % 256 == id.toNat && !(held && (e.1 / 256) % 2 == 1))
    (m = none → exec (.barrier id) s = s.does (fun c => c)) ∧
    (∀ e, m = some e → exec (.barrier id) s = s.does (fun c =>
      let t := c.chanter 4
      let c := c.setChanter 4 { t with syncs := t.syncs.filter (fun y => y.1 != e.1) }
      let c := if bit (c.rd .chn 0x180) 6 then c
        else ((c.wr .chn 0x180 64).wr .chn 0x198 (t.pc % 65536 + 6 * 65536)).wr64 .chn 0x19C t.scyc
      ((c.inc .chn 0x080).raise .chn 4).report .chn 0x51 clsS 0))) ∧
  (∀ (s : State) (i : Image) (t : ChanterS) (ins : Nat), s.runs → s.core.atOp 4 0x0E = some (i, t, ins) →
    exec .pstep s = s.does (fun c => (c.modPower (fun p =>
      { p with seg := bits ins 23 0, segAt := t.scyc + 1 })).modChanter 4 (fun t => t.advance ins))) ∧
  (∀ (s : State) (d : XDie), s.serves (.xchn d) →
    let every : (ChanterS → ChanterS) → Core → Core := fun f c =>
      (List.range c.part.dies).foldl (fun c x => c.modChanter x f) c
    (s.core.power.mode = .inspect →
      exec (.hold d) s = s.doesReg (.xchn d) (every (fun t => if t.st = .held then t else { t with stepReq := 1 })) ∧
      exec (.stepFrame d) s = s.doesReg (.xchn d) (every (fun t => t.resume 1)) ∧
      exec (.stepWindow d) s = s.doesReg (.xchn d) (every (fun t => t.resume 2)) ∧
      exec (.run d) s = s.doesReg (.xchn d) (every (fun t => t.resume 0))) ∧
    (s.core.power.mode ≠ .inspect →
      exec (.hold d) s = s.doesReg (.xchn d) (fun c => c.pageFlt (.xchn d) 0x05) ∧
      exec (.stepFrame d) s = s.doesReg (.xchn d) (fun c => c.pageFlt (.xchn d) 0x05) ∧
      exec (.stepWindow d) s = s.doesReg (.xchn d) (fun c => c.pageFlt (.xchn d) 0x05) ∧
      exec (.run d) s = s.doesReg (.xchn d) (fun c => c.pageFlt (.xchn d) 0x05)))

/-- R224, R226, R238, R268, R335, Table 11.5: MOVE starts the transfer of its descriptor on the mover that it names, with the
addresses at the loop indices of its issue and its deadline counted from the issue cycle; the transfer, once complete, has
copied LEN bytes from its source space to its destination, and the mover is free. One that is not complete at its deadline
stops after some of its units, marks the buffer it was filling, and is a breach. HBMQ puts its list's entry 0 DELAY cycles
after issue + 1; at an entry's slot its request goes to the stack, and the next entry's slot comes its DELAY later; of lists
whose slots come together an entry of class S0 goes first. No transfer moves and no slot passes while the die is held. Where
MOVE, HBMQ or CELLS is not the next instruction of a running Chanter, or its descriptor is missing, it starts nothing. A
missed action has the consequence of its kind, and where no action is next there is none. -/
def Obligations.MoversAndLists : Prop :=
  (∀ (s : State) (d : XDie) (i : Image) (t : ChanterS) (ins : Nat), s.runs →
    (∀ bs, s.core.atOp d.val 0x05 = some (i, t, ins) → i.move d.val (bits ins 23 0) = some bs →
      let m : MoveS := { spaces := mvSpaces bs, src := mvSrc bs t.loops, dst := mvDst bs t.loops, len := mvLen bs,
                         win := t.window, pc := t.pc, deadline := t.scyc + mvDeadline bs, from_ := t.scyc }
      exec (.move d) s = s.does (fun c => (c.modX d.val (fun x =>
        { x with movers := SMap.set (fun _ => noMove) x.movers (mvUnit bs) m })).modChanter d.val (fun t => t.advance ins))) ∧
    (∀ l e es, s.core.atOp d.val 0x07 = some (i, t, ins) → i.hbmsList d.val (bits ins 23 0) = some l → l.entries = e :: es →
      let z : ListS := { list := bits ins 23 0, entry := 0, slot := t.scyc + 1 + e.delay, loops := t.loops, win := t.window,
                         pc := t.pc }
      exec (.hbmq d) s = s.does (fun c => (c.modX d.val (fun x => { x with lists := x.lists ++ [z] })).modChanter d.val
        (fun t => t.advance ins))) ∧
    (s.core.atOp d.val 0x05 = none → exec (.move d) s = s.does id) ∧ (s.core.atOp d.val 0x07 = none → exec (.hbmq d) s = s.does id) ∧
    (s.core.atOp d.val 0x05 = some (i, t, ins) → i.move d.val (bits ins 23 0) = none →
      exec (.move d) s = s.does (fun c => c.modChanter d.val (fun t => t.advance ins))) ∧
    (s.core.atOp d.val 0x07 = some (i, t, ins) →
      (∀ l, i.hbmsList d.val (bits ins 23 0) = some l → l.entries = []) →
      exec (.hbmq d) s = s.does (fun c => c.modChanter d.val (fun t => t.advance ins)))) ∧
  (∀ (s : State) (d : XDie) (m : Fin 8), s.runs → s.core.img = none →
    exec (.moveComplete d m) s = s.does id ∧ exec (.contractDeadlineMiss d (some m)) s = s.does id ∧
    exec (.hbmsEntrySlot d) s = s.does id) ∧
  (∀ (s : State) (d : XDie) (m : Fin 8) (i : Image), s.runs → s.core.img = some i →
    let x := (s.core.xdie d).mover m
    ((x = noMove ∨ (s.core.chanter d).st = .held) →
      exec (.moveComplete d m) s = s.does (fun c => c) ∧ exec (.contractDeadlineMiss d (some m)) s = s.does (fun c => c)) ∧
    (x ≠ noMove → (s.core.chanter d).st ≠ .held →
      exec (.moveComplete d m) s = s.does (fun c => (c.moverCopy i.plan d x x.len).moverFree d m) ∧
      exec (.contractDeadlineMiss d (some m)) s = s.does (fun c =>
        let n := 64 * ((Config.freeWord c.free).toNat % max (x.len / 64) 1)
        let c := ({ c with free := c.free + 1 }.moverCopy i.plan d x n).moverFree d m
        let c := if x.spaces / 16 = 3 then c.modX d (fun y => { y with bufBad := y.bufBad.set (bufOf x.dst).1 true }) else c
        c.breach d .deadline 0 x.pc x.deadline))) ∧
  (∀ (s : State) (d : XDie) (i : Image), s.runs → s.core.img = some i →
    let pass : Core → ListS → Core := fun c z => c.modChanter d (fun t => { t with last := max t.last z.slot })
    (((s.core.xdie d).lists = [] ∨ (s.core.chanter d).st = .held) → exec (.hbmsEntrySlot d) s = s.does id) ∧
    (∀ z zs, nextList (i.listClass d) (s.core.xdie d).lists = some (z, zs) → (s.core.chanter d).st ≠ .held →
      (i.hbmsList d z.list = none → exec (.hbmsEntrySlot d) s = s.does id) ∧
      (∀ l, i.hbmsList d z.list = some l →
        (∀ e, l.entries[z.entry]? = some e →
          (∀ e', l.entries[z.entry + 1]? = some e' → exec (.hbmsEntrySlot d) s = s.does (fun c =>
            pass ((c.hbmsIssue i.plan d l e z).modX d (fun x =>
              { x with lists := { z with entry := z.entry + 1, slot := z.slot + e'.delay } :: zs })) z)) ∧
          (l.entries[z.entry + 1]? = none → exec (.hbmsEntrySlot d) s = s.does (fun c =>
            pass ((c.hbmsIssue i.plan d l e z).modX d (fun x => { x with lists := zs })) z))) ∧
        (l.entries[z.entry]? = none → exec (.hbmsEntrySlot d) s = s.does (fun c =>
          pass (c.modX d (fun x => { x with lists := zs })) z))))) ∧
  (∀ (cls : ListS → Nat) (ls : List ListS), (nextList cls ls = none ↔ ls = []) ∧
    (∀ z zs, nextList cls ls = some (z, zs) →
      (∀ y ∈ ls, z.slot < y.slot ∨ z.slot = y.slot ∧ cls z ≤ cls y) ∧ z ∈ ls ∧ zs.length + 1 = ls.length)) ∧
  (∀ (s : State) (d : XDie), s.runs →
    let next := ([1, 2, 3, 4, 8, 9, 10, 12, 13, 14] : List Nat).find? (fun k => (s.core.atAction d k).isSome)
    (next = none → exec (.contractDeadlineMiss d none) s = s.does id) ∧
    (∀ k i t ins bs, next = some k → s.core.atAction d k = some (i, t, ins, bs) →
      exec (.contractDeadlineMiss d none) s = s.does (fun c =>
        ((missAction d k i t bs c).listSlots i d t bs).modChanter d (fun t => t.advance ins))))

/-- R129, R130, R134, R240: a kept entry of the long-term accumulators becomes MARK_LOST where its task was lost, keeps a
marker it held, becomes MARK_OVR where a part leaves ±(2^47 − 1), and otherwise is the exact sum, which is never a marker. A
weight is 0xFFFFFFFF where its count was or is lost, and otherwise the sum, at most 0xFFFFFFFE. A CELLS instruction names its
channel, sub-block and buffer with the loop indices it is given, and UPDATE works on the window that its channel's passes ran
in, where the mode correlates (R13), and then the HBMS list of its descriptor runs; where neither is the next of a running
Chanter, nothing happens. -/
def Obligations.CellsAndUpdate : Prop :=
  (∀ (lost : Bool) (old x : Vis), let m : Int := 2 ^ 47 - 1
    let v := visUpdate lost old x
    (lost = true → v = markLost) ∧ (lost = false → isMark old = true → v = old) ∧
    (lost = false → isMark old = false → (m < old.1 + x.1 ∨ old.1 + x.1 < -m ∨ m < old.2 + x.2 ∨ old.2 + x.2 < -m) →
      v = markOvr) ∧
    (lost = false → isMark old = false → -m ≤ old.1 + x.1 → old.1 + x.1 ≤ m → -m ≤ old.2 + x.2 → old.2 + x.2 ≤ m →
      v = (old.1 + x.1, old.2 + x.2) ∧ isMark v = false) ∧
    isMark markOvr = true ∧ isMark markLost = true) ∧
  (∀ (lost : Bool) (old n : Nat), let v := weightUpdate lost old n
    ((lost = true ∨ old = 0xFFFFFFFF) → v = 0xFFFFFFFF) ∧
    (lost = false → old ≠ 0xFFFFFFFF → v ≤ 0xFFFFFFFE ∧ (old + n ≤ 0xFFFFFFFE → v = old + n) ∧
      (0xFFFFFFFE ≤ old + n → v = 0xFFFFFFFE))) ∧
  (∀ (ins : Nat) (ls : List LoopS), let o := cellsOp ins ls
    (bit ins 16 = false → o.k = bits ins 13 0) ∧ (bit ins 16 = true → o.k = bits ins 13 0 + loopIdx ls (bits ins 15 14)) ∧
    (bit ins 25 = false → o.s = bits ins 22 17) ∧ (bit ins 25 = true → o.s = bits ins 22 17 + loopIdx ls (bits ins 24 23)) ∧
    (bit ins 29 = false → o.b = bits ins 26 26) ∧
    (bit ins 29 = true → o.b = (bits ins 26 26 + loopIdx ls (bits ins 28 27)) % 2) ∧ o.b < 2) ∧
  (∀ (s : State) (d : XDie) (fs : List CellFault), s.runs → s.core.atOp d.val 0x06 = none → exec (.cells d fs) s = s.does id) ∧
  (∀ (s : State) (d : XDie) (fs : List TaskFault), s.runs → s.core.atAction d.val 1 = none →
    exec (.actionUpdate d fs) s = s.does id) ∧
  (∀ (s : State) (d : XDie) (fs : List TaskFault) (i : Image) (t : ChanterS) (ins : Nat) (bs : List Byte), s.runs →
    s.core.atAction d.val 1 = some (i, t, ins, bs) → (i.correlates = false ∨ s.core.updAt i d.val t bs = none) →
    exec (.actionUpdate d fs) s = s.does (fun c => (c.listSlots i d t bs).modChanter d.val (fun t => t.advance ins))) ∧
  (∀ (s : State) (d : XDie) (fs : List CellFault) (i : Image) (t : ChanterS) (ins : Nat), s.runs →
    s.core.atOp d.val 0x06 = some (i, t, ins) →
    exec (.cells d fs) s = s.does (fun c => (doCells d.val fs i t ins c).modChanter d.val (fun t => t.advance ins))) ∧
  (∀ (s : State) (d : XDie) (fs : List TaskFault) (i : Image) (t : ChanterS) (ins : Nat) (bs : List Byte) (u : UpdAt) (m : Nat),
    s.runs → s.core.atAction d.val 1 = some (i, t, ins, bs) → i.correlates = true → s.core.updAt i d.val t bs = some (u, m) →
    let hit : Core → TaskFault → Core := fun c f =>
      match (tasksOf u.p.B)[f.tau]? with
      | none => c
      | some (p, q) =>
        let (c, lost) := c.cellError d ((nth {} i.tasks d.val).holder u.k p q f.second) f.fault
        if lost then c.loseTask u.p d u.k u.ch u.w f.tau else c
    exec (.actionUpdate d fs) s = s.does (fun c =>
      (((fs.foldl hit c).update i u m).listSlots i d t bs).modChanter d.val (fun t => t.advance ins))) ∧
  (∀ (c : Core) (i : Image) (d : Nat) (t : ChanterS) (bs : List Byte) (u : UpdAt) (m : Nat),
    c.updAt i d t bs = some (u, m) →
    let k := (actChan bs t.loops).toNat
    let x := SMap.get (fun _ => (0, 0)) (c.xdie d).chanWin k
    u.d = d ∧ u.k = k ∧ (i.plan.owned c.part.dies d)[k]? = some u.ch ∧ u.lost = (c.xdie d).lostNext.elem k ∧ u.missed = false ∧
    (x.1 = 0 → u.w = t.window ∧ m = t.mask) ∧ (x.1 ≠ 0 → u.w = x.1 - 1 ∧ m = x.2))

/-- R126: A cell decodes each staged word w under R111 and accumulates, for every row of the pass, the products of the row's
words 64p + a and 64q + b: acc_re[a][b] grows by ar·br + ai·bi, acc_im[a][b] by ai·br − ar·bi, and, where the pass counts,
cnt[a][b] by va & vb. The word 0x0080 is an invalid 0 + 0j; of any other word the low byte is the real part and the high byte
the imaginary part, each an int8. On the diagonal, from nothing, acc_im is exactly 0 and acc_re is never negative. -/
def Obligations.CellProducts : Prop :=
  (∀ (t : Tile) (count : Bool) (p q a b : Nat) (rows : List (List Samp)), a < 64 → b < 64 →
    let xa : List Samp → Samp := fun r => nth {} r (64 * p + a)
    let xb : List Samp → Samp := fun r => nth {} r (64 * q + b)
    let old := SMap.get (fun _ => (0, 0)) t.acc (64 * a + b)
    SMap.get (fun _ => (0, 0)) (t.pass count p q rows).acc (64 * a + b) =
      (old.1 + sumI (rows.map (fun r => (xa r).re * (xb r).re + (xa r).im * (xb r).im)),
       old.2 + sumI (rows.map (fun r => (xa r).im * (xb r).re - (xa r).re * (xb r).im))) ∧
    SMap.get (fun _ => 0) (t.pass count p q rows).cnt (64 * a + b) = SMap.get (fun _ => 0) t.cnt (64 * a + b) +
      (if count = true then (rows.filter (fun r => (xa r).v && (xb r).v)).length else 0)) ∧
  (∀ (bs : List Byte) (n : Nat) (lo hi : Byte), bs[2 * n]? = some lo → bs[2 * n + 1]? = some hi →
    nth {} (samples bs) n =
      (if lo = 0x80 ∧ hi = 0x00 then ⟨0, 0, false⟩ else ⟨toInt 8 lo.toNat, toInt 8 hi.toNat, true⟩)) ∧
  (∀ (count : Bool) (p a : Nat) (rows : List (List Samp)), a < 64 →
    let v := SMap.get (fun _ => (0, 0)) (({} : Tile).pass count p p rows).acc (64 * a + a)
    v.2 = 0 ∧ 0 ≤ v.1)

/-- R172, R173, R174, R177, R180, Table 8.3: BANK_SELECT makes a placed target's bank active outside a schedule, and is
INVALID for another target and MODE during one. A swap that Table 8.3 refuses finishes with its status and is reported; one
that it accepts is held by every target it names until its fade begins, its ring busy. REGEN_SLICE and REGEN_CELL compute
their weights, their HBMS list runs, and their Chanter goes on; where neither is the next action of a running Chanter, nothing
happens. -/
def Obligations.BeamCommands : Prop :=
  (∀ (s : State) (r : RingNo) (d : Desc), s.rings r 0x06 d → let t := d.arg0 % 16
    (s.core.bankPlaced t = false → exec (.bankSelect r) s = s.does (fun c => c.finish r stInvalid)) ∧
    (s.core.bankPlaced t = true → s.core.running = true → exec (.bankSelect r) s = s.does (fun c => c.finish r stMode)) ∧
    (s.core.bankPlaced t = true → s.core.running = false → exec (.bankSelect r) s = s.does (fun c =>
      (c.modTarget t (fun x => { x with activeB := d.arg0.testBit 4 })).finish r stAccepted))) ∧
  (∀ (s : State) (r : RingNo) (d : Desc), s.rings r 0x07 d →
    let mask := d.arg0 % 4096
    let len := bits d.arg0 28 12
    let st := s.core.swapStatus mask len d.arg1
    (st.1 ≠ stAccepted → exec (.beamSwap r) s = s.does (fun c => (c.swapRefuse mask).finish r st.1)) ∧
    (st.1 = stAccepted → s.core.power.running = false → exec (.beamSwap r) s = s.does (fun c => c.finish r stAbandoned)) ∧
    (st.1 = stAccepted → s.core.power.running = true → exec (.beamSwap r) s = s.does (fun c =>
      let w : Swap := { mask := mask, act := d.arg1, len := len, ring := r, idx := d.n, kap := st.2 }
      ((setBits mask 12).foldl (fun c t =>
        c.modTarget t (fun x => { x with swap := some w, fading := false, pos := 0 })) c).modRing r
          (fun x => { x with busy := true })))) ∧
  (∀ (c : Core) (mask len act : Nat) (i : Image) (k : Nat), c.running = true → c.img = some i →
    i.plan.swapBlock act = some k → let ts := setBits mask 12
    let bad : Prop := ts = [] ∨ ts.all c.targetUsed = false ∨ len = 0 ∨ 65536 < len
    let busy := ts.any (fun t => (c.target t).swap.isSome && !(c.target t).fading)
    let fading := ts.any (fun t => (c.target t).fading)
    let cold := ts.any (fun t => !(c.target t).otherLoaded)
    let late : Prop := 64 * k / i.plan.L ≤ c.rd64 .crook 0x048
    (bad → c.swapStatus mask len act = (stInvalid, k)) ∧
    (¬ bad → busy = true → c.swapStatus mask len act = (stBusy, k)) ∧
    (¬ bad → busy = false → fading = true → c.swapStatus mask len act = (stFading, k)) ∧
    (¬ bad → busy = false → fading = false → cold = true → c.swapStatus mask len act = (stNotReady, k)) ∧
    (¬ bad → busy = false → fading = false → cold = false → late → c.swapStatus mask len act = (stLate, k)) ∧
    (¬ bad → busy = false → fading = false → cold = false → ¬ late → c.swapStatus mask len act = (stAccepted, k))) ∧
  (∀ (c : Core) (mask len act : Nat), (c.running = false ∨ c.img = none) → c.swapStatus mask len act = (stInvalid, 0)) ∧
  (∀ (s : State) (d : XDie) (i : Image) (t : ChanterS) (ins : Nat) (bs : List Byte), s.runs →
    (s.core.atAction d 8 = none → exec (.actionRegenSlice d) s = s.does id) ∧
    (s.core.atAction d 9 = none → exec (.actionRegenCell d) s = s.does id) ∧
    (s.core.atAction d 8 = some (i, t, ins, bs) → exec (.actionRegenSlice d) s = s.does (fun c =>
      ((doRegenSlice d i t bs c).listSlots i d t bs).modChanter d (fun t => t.advance ins))) ∧
    (s.core.atAction d 9 = some (i, t, ins, bs) → exec (.actionRegenCell d) s = s.does (fun c =>
      ((doRegenCell d i t bs c).listSlots i d t bs).modChanter d (fun t => t.advance ins))))

/-- R155, R163, R164, R270, R271, Table 7.6: an action that reads frames queues each of them, complete at its issue plus its
deadline; the last frame of a reduction interval raises INTERVAL_DONE. The frame at the head goes on once ATB reaches its
launch time, and is held till then; a late one is counted, and dropped or sent with LATE set as the page says. A frame for a
lane that is neither UP nor in RECAL, or for the host while the link is down, is discarded; a lane's frame goes out as a
packet; a ring's frame waits for link credit, with which it joins its ring's items. -/
def Obligations.FramesLeave : Prop :=
  (∀ (s : State) (d : XDie) (i : Image) (t : ChanterS) (ins : Nat) (bs : List Byte), s.runs →
    let queue : Nat → Core → Core := fun k c =>
      let rs := c.reads d k i t bs
      (((((rs.foldl (fun c r => c.queueFrame i d r.frame r.len (t.scyc + actDeadline bs) r.read) c).areaRead d k i t bs).when
        (decide (k = 14 ∧ rs.any (fun r => r.frame.flags.testBit 1) = true)) (fun c => c.raise (.red d) 0)).listSlots i d t bs)).modChanter
          d (fun t => t.advance ins)
    (s.core.atAction d 2 = none → exec (.actionDrainVis d) s = s.does id) ∧
    (s.core.atAction d 3 = none → exec (.actionDrainW d) s = s.does id) ∧
    (s.core.atAction d 4 = none → exec (.actionWinfo d) s = s.does id) ∧
    (s.core.atAction d 10 = none → exec (.actionBeamRead d) s = s.does id) ∧
    (s.core.atAction d 14 = none → exec (.actionRedRead d) s = s.does id) ∧
    (s.core.atAction d 2 = some (i, t, ins, bs) → exec (.actionDrainVis d) s = s.does (queue 2)) ∧
    (s.core.atAction d 3 = some (i, t, ins, bs) → exec (.actionDrainW d) s = s.does (queue 3)) ∧
    (s.core.atAction d 4 = some (i, t, ins, bs) → exec (.actionWinfo d) s = s.does (queue 4)) ∧
    (s.core.atAction d 10 = some (i, t, ins, bs) → exec (.actionBeamRead d) s = s.does (queue 10)) ∧
    (s.core.atAction d 14 = some (i, t, ins, bs) → exec (.actionRedRead d) s = s.does (queue 14))) ∧
  (∀ (s : State) (d : XDie), s.runs → (s.core.xdie d).egress = [] →
    exec (.frameAtHead d) s = s.does id ∧ exec (.frameLaunch d) s = s.does id ∧ exec (.pcieLinkCredit d) s = s.does id) ∧
  (∀ (s : State) (d : XDie) (f : Frame) (q : List Frame), s.runs → (s.core.xdie d).egress = f :: q → f.held = false →
    let late : Prop := (f.launch : Int) * 65536 < s.core.time.atb
    (¬ late → exec (.frameAtHead d) s = s.does (fun c =>
      c.modX d (fun x => { x with egress := { f with held := true } :: x.egress.drop 1 }))) ∧
    (late → bit (s.core.rd (.xdie d) 0x208) 0 = true →
      exec (.frameAtHead d) s = s.does (fun c => (c.popFrame d).frameLateDrop d f.type f.hdr)) ∧
    (late → bit (s.core.rd (.xdie d) 0x208) 0 = false →
      exec (.frameAtHead d) s = s.does (fun c => (((c.inc (.xdie d) 0x248).raise (.xdie d) 2).frameNotice d 0x42).framePath d
        { f with flags := f.flags ||| 1 }))) ∧
  (∀ (s : State) (d : XDie) (f : Frame) (q : List Frame), s.runs → (s.core.xdie d).egress = f :: q →
    (f.held = true → exec (.frameAtHead d) s = s.does (fun c => c)) ∧
    (f.held = true → f.wait = false → (f.launch : Int) * 65536 ≤ s.core.time.atb →
      exec (.frameLaunch d) s = s.does (fun c => c.framePath d f)) ∧
    ((f.held = false ∨ f.wait = true ∨ s.core.time.atb < (f.launch : Int) * 65536) →
      exec (.frameLaunch d) s = s.does (fun c => c)) ∧
    (f.wait = true → s.core.host.linkUp = true → exec (.pcieLinkCredit d) s = s.does (fun c =>
      (c.popFrame d).modRing (f.dest % 4096) (fun x => { x with items := x.items ++ [({ f with wait := false } : Frame).item] }))) ∧
    ((f.wait = false ∨ s.core.host.linkUp = false) → exec (.pcieLinkCredit d) s = s.does (fun c => c))) ∧
  (∀ (c : Core) (d : Nat) (f : Frame),
    (f.dest.testBit 15 = true → c.host.linkUp = false → c.framePath d f = (c.popFrame d).framePathDown d f.type f.hdr) ∧
    (f.dest.testBit 15 = false → ((c.popFrame d).lane (f.dest % 256)).st ≠ .up → ((c.popFrame d).lane (f.dest % 256)).st ≠ .recal →
      c.framePath d f = (c.popFrame d).framePathDown d f.type f.hdr) ∧
    (f.dest.testBit 15 = false →
      (((c.popFrame d).lane (f.dest % 256)).st = .up ∨ ((c.popFrame d).lane (f.dest % 256)).st = .recal) →
      c.framePath d f = ((c.popFrame d).lanePacket (f.dest % 256) f).frameSent d f.type f.hdr) ∧
    (f.dest.testBit 15 = true → c.host.linkUp = true →
      let e := { c with free := c.free + 1 }
      (c.framePath d f = (e.popFrame d).modRing (f.dest % 4096) (fun x => { x with items := x.items ++ [f.item] }) ∨
       c.framePath d f = e.modX d (fun x => { x with egress := { f with held := true, wait := true } :: x.egress.drop 1 }))))

/-- R199 to R210: outside QUIESCE RED_ENTER enters the terms of the interval in accumulation, in their order, each into its
group, and keeps the others; an excluded term only marks its group. RED_CLOSE closes the interval: the next one begins, and
the banks switch. In QUIESCE RED_ENTER enters nothing, and RED_CLOSE emits nothing but an interval whose report had begun to
close; for a unit that is off neither does anything. Where neither is the next action of a running Chanter, nothing happens.
-/
def Obligations.ReductionActions : Prop :=
  (∀ (s : State) (d : XDie) (i : Image) (t : ChanterS) (ins : Nat) (bs : List Byte), s.runs →
    (s.core.atAction d 12 = none → exec (.actionRedEnter d) s = s.does id) ∧
    (s.core.atAction d 13 = none → exec (.actionRedClose d) s = s.does id) ∧
    (s.core.atAction d 12 = some (i, t, ins, bs) →
      exec (.actionRedEnter d) s = s.does (fun c => ((doRedEnter d i c).listSlots i d t bs).modChanter d (fun t => t.advance ins))) ∧
    (s.core.atAction d 13 = some (i, t, ins, bs) →
      exec (.actionRedClose d) s = s.does (fun c => ((doRedClose d i c).listSlots i d t bs).modChanter d (fun t => t.advance ins)))) ∧
  (∀ (c : Core) (d : Nat) (i : Image), let g := i.redCfg d
    let r := (c.xdie d).red
    ((c.power.mode = .quiesce ∨ g.kind = 0) →
      doRedEnter d i c = c.modX d (fun x => { x with red := { x.red with terms := [] } })) ∧
    ((c.power.mode = .quiesce ∧ r.closing = false ∨ g.kind = 0) → doRedClose d i c = c) ∧
    ((c.power.mode ≠ .quiesce ∨ r.closing = true) → g.kind ≠ 0 → ((doRedClose d i c).xdie d).red.interval = r.interval + 1 ∧
      ((doRedClose d i c).xdie d).red.bank = (!r.bank) ∧ ((doRedClose d i c).xdie d).red.closing = false) ∧
    (c.power.mode ≠ .quiesce → g.kind ≠ 0 →
      ((doRedEnter d i c).xdie d).red.terms = r.terms.filter (fun x => x.win / i.redWindows d != r.interval) ∧
      ((doRedEnter d i c).xdie d).red.interval = r.interval ∧
      ((doRedEnter d i c).xdie d).red.groups = (c.dueTerms i d).1.foldl (fun m t =>
        SMap.mod (fun _ => {}) m (g.group t) (fun x =>
          if t.excl then { x with part := true } else x.enter g i.hdr.seed d r.interval (g.group t) t)) r.groups)) ∧
  (∀ (x : RedGrp) (g : RedCfg) (seed : DWord) (d j n : Nat) (t : Term), (x.enter g seed d j n t).n = x.n + 1 ∧
    (g.kind = 1 → (x.enter g seed d j n t).s1 = x.s1 ∧ (x.enter g seed d j n t).s2 = x.s2) ∧
    (g.kind ≠ 1 → (x.enter g seed d j n t).max = x.max ∧ (x.enter g seed d j n t).min = x.min ∧
      (x.enter g seed d j n t).s1.k = x.s1.k + 1 ∧ (x.enter g seed d j n t).s2.k = x.s2.k + 1))

/-- R205: The rounding address of a moment sum is 2^37 | (d << 35) | (kind << 34) | ((j mod 2^21) << 13) | group. d is the
die, kind 0 for S1 and 1 for S2, j the interval; the group, below 8 192, fills bits [12:0]. The step is the term count, so an
address recurs only after 2^21 intervals: with one die, kind and group, two intervals share it exactly when they are a
multiple of 2^21 apart, and otherwise never. -/
def Obligations.MomentRoundingAddresses : Prop :=
  (∀ (d j group : Nat), d < 4 → group < 8192 → ∀ kind, kind < 2 →
    redAddr d kind j group = 2 ^ 37 + d * 2 ^ 35 + kind * 2 ^ 34 + j % 2 ^ 21 * 2 ^ 13 + group) ∧
  (∀ (x : RedGrp) (g : RedCfg) (seed : DWord) (d j n : Nat) (t : Term), g.kind ≠ 1 →
    let e := t.value.sub (f64Exact ((g.shift x).getD (f64OfExact t.value)))
    (x.enter g seed d j n t).s1 = x.s1.add seed (redAddr d 0 j n) 0 e ∧
    (x.enter g seed d j n t).s2 = x.s2.add seed (redAddr d 1 j n) 0 (e.mul e)) ∧
  (∀ (r : RSum) (seed : DWord) (addr : Nat) (e : Exact), r.k < 2 ^ 24 →
    (r.add seed addr 0 e).s = (srBits seed ((f32Exact r.s).add e) addr r.k).1) ∧
  (∀ (d d' kind kind' j j' g g' : Nat), d < 4 → d' < 4 → kind < 2 → kind' < 2 → g < 8192 → g' < 8192 →
    (redAddr d kind j g = redAddr d' kind' j' g' ↔ d = d' ∧ kind = kind' ∧ g = g' ∧ j % 2 ^ 21 = j' % 2 ^ 21))

/-- R231, R232: a commit outside IDLE, without a load begun, or while another is verified, finishes with MODE; otherwise the
image is VERIFYING and its ring waits. The end of the verification rejects the image with the first failure found, or loads it
where none is; it shows the gaps and budgets that it reached. A verification without failure has an image, and one whose size
fails reaches nothing further. -/
def Obligations.ImageCommitAndVerify : Prop :=
  (∀ (s : State) (r : RingNo) (d : Desc), s.rings r 0x02 d →
    ((s.core.power.mode ≠ .idle ∨ s.core.host.loadRing = none ∨ s.core.host.commitRing ≠ none) →
      exec (.imageCommit r) s = s.does (fun c => c.finish r stMode)) ∧
    (s.core.power.mode = .idle → s.core.host.loadRing ≠ none → s.core.host.commitRing = none →
      exec (.imageCommit r) s = s.does (fun c => { c.setBusy r with
        imgSt := 2, host := { (c.setBusy r).host with loadRing := none, commitRing := some r.val } }))) ∧
  (∀ (s : State) (r : Nat), s.runs → s.core.host.commitRing = some r → s.core.imgSt = 2 →
    let b := s.core.io.read 0x0E000000 s.core.host.extent
    let v := s.core.verify b s.core.host.extent
    let shown : Core → Core := fun c =>
      let c := { c with host := { c.host with commitRing := none } }
      let c := v.gaps.elim c (fun g => c.showGaps g)
      v.bud.elim c (fun g => c.showBudgets g)
    (∀ f, v.fail = some f → exec .imageVerifyDone s = s.does (fun c => (shown c).imgRejected r f)) ∧
    (∀ i, v.fail = none → v.img = some i →
      exec .imageVerifyDone s = s.does (fun c => (shown c).imgLoaded r i (imgSects b)))) ∧
  (∀ (s : State), s.runs → (s.core.host.commitRing = none ∨ s.core.imgSt ≠ 2) →
    exec .imageVerifyDone s = s.does (fun c => c)) ∧
  (∀ (c : Core) (b : List Byte) (n : Nat), ((c.verify b n).fail = none → (c.verify b n).img.isSome = true) ∧
    (∀ f, checkSize b n = some f → (c.verify b n).fail = some f ∧ (c.verify b n).gaps = none))

/-- R279 to R281, R344, Table 12.2: in SAFE every request is refused with reason 1; outside STEADY, and during a forced stop,
every request but STOP with reason 2. BRINGUP needs mode IDLE, and asks the HBM pairs off; IDLE needs BRINGUP and every stack
trained at rate 0, else reason 4; SHELVE needs BRINGUP or IDLE, and puts everything outside the Drone domain at reset; START
needs IDLE, an image, trained stacks, a DPLL that is LOCKED or in HOLDOVER, no alarm, the start checks, and a start that is
not too early, in that order; then it asks the image's domains on. STOP ends a schedule, abandons a start, and is no refusal
while a stop runs. -/
def Obligations.ModeRequests : Prop :=
  (∀ (s : State), s.serves .mode →
    let no : Nat → Core → Core := fun n c => c.modeReject n
    let p := s.core.power
    (p.mode = .safe → ∀ b, exec .reqBringup s = s.doesReg .mode (no 1) ∧ exec .reqIdle s = s.doesReg .mode (no 1) ∧
      exec .reqStop s = s.doesReg .mode (no 1) ∧ exec .reqShelve s = s.doesReg .mode (no 1) ∧
      exec (.reqStart b) s = s.doesReg .mode (no 1)) ∧
    (p.mode ≠ .safe → (p.forced = true ∨ p.phase ≠ .steady) → ∀ b, exec .reqBringup s = s.doesReg .mode (no 2) ∧
      exec .reqIdle s = s.doesReg .mode (no 2) ∧ exec .reqShelve s = s.doesReg .mode (no 2) ∧
      exec (.reqStart b) s = s.doesReg .mode (no 2)) ∧
    (p.mode ≠ .safe → p.forced = false → p.phase = .steady →
      (p.mode = .idle → exec .reqBringup s = s.doesReg .mode (fun c =>
        (c.enterMode .bringup).askDomains (xDoms c.part.dies [31, 32]) false)) ∧
      (p.mode ≠ .idle → exec .reqBringup s = s.doesReg .mode (no 1)) ∧
      (p.mode ≠ .bringup → exec .reqIdle s = s.doesReg .mode (no 1)) ∧
      (p.mode = .bringup → (∀ n, n < 2 * s.core.part.dies → s.core.stackUp n = true ∧ (s.core.stack n).rate = 0) →
        exec .reqIdle s = s.doesReg .mode (fun c => c.enterMode .idle)) ∧
      (∀ n, p.mode = .bringup → n < 2 * s.core.part.dies → (s.core.stackUp n = false ∨ (s.core.stack n).rate ≠ 0) →
        exec .reqIdle s = s.doesReg .mode (no 4)) ∧
      (p.mode ≠ .bringup → p.mode ≠ .idle → exec .reqShelve s = s.doesReg .mode (no 1)) ∧
      ((p.mode = .bringup ∨ p.mode = .idle) → exec .reqShelve s = s.doesReg .mode (fun c =>
        let d := c.coldReset.modPower (fun p => { p with shelvedBy := true })
        if c.host.linkUp then d.emit .linkLost else d)) ∧
      (p.mode ≠ .idle → ∀ b, exec (.reqStart b) s = s.doesReg .mode (no 1)) ∧
      (p.mode = .idle → ∀ b, exec (.reqStart b) s = s.doesReg .mode (fun c => c.startIdle b))) ∧
    (p.mode ≠ .safe → p.forced = true → exec .reqStop s = s.doesReg .mode (no 2)) ∧
    (p.mode ≠ .safe → p.forced = false →
      (p.mode.isSchedule = true → exec .reqStop s = s.doesReg .mode (fun c => c.toQuiesce)) ∧
      (p.mode.isSchedule = false → s.core.starting = true → exec .reqStop s = s.doesReg .mode (fun c => c.abandonStart none)) ∧
      (p.mode.isSchedule = false → s.core.starting = false → p.phase ≠ .steady →
        exec .reqStop s = s.doesReg .mode (fun c => c)) ∧
      (p.mode.isSchedule = false → s.core.starting = false → p.phase = .steady →
        exec .reqStop s = s.doesReg .mode (no 1)))) ∧
  (∀ (c : Core) (b : Bool),
    ((c.imgSt ≠ 3 ∨ c.img = none) → c.startIdle b = c.modeReject 3) ∧
    (∀ i, c.imgSt = 3 → c.img = some i →
      (c.allTrained = false → c.startIdle b = c.modeReject 4) ∧
      (c.allTrained = true → c.time.dpll ≠ .locked → c.time.dpll ≠ .holdover → c.startIdle b = c.modeReject 5) ∧
      (c.allTrained = true → (c.time.dpll = .locked ∨ c.time.dpll = .holdover) →
        (c.plant.latch = true ∨ (c.plantEn = true ∧ c.plant.granted = false)) → c.startIdle b = c.modeReject 6) ∧
      (c.allTrained = true → (c.time.dpll = .locked ∨ c.time.dpll = .holdover) → c.plant.latch = false →
        (c.plantEn = false ∨ c.plant.granted = true) → (c.startChecks i).2 = false →
        c.startIdle b = (c.startChecks i).1.modeReject 7) ∧
      (c.allTrained = true → (c.time.dpll = .locked ∨ c.time.dpll = .holdover) → c.plant.latch = false →
        (c.plantEn = false ∨ c.plant.granted = true) → (c.startChecks i).2 = true →
        let d := (c.startChecks i).1
        let n := d.startSample i
        ((d.startEarliest = none ∨ ∃ e, d.startEarliest = some e ∧ (n : Int) < e) → c.startIdle b = d.startLate) ∧
        (∀ e, d.startEarliest = some e → e ≤ (n : Int) → c.startIdle b =
          let x := d.modPower (fun p => { p with phase := .powering, startSample := n, ballast := 0, runOn := false, draw := 0,
                                                 image := if b then some (Mode.ofHdr i.hdr.mode) else none })
          ({ x with img := some { i with plan := { i.plan with start := n } } } : Core).askDomains (i.domains x.part.dies) true)))) ∧
  (∀ (c : Core) (n : Nat), (c.modeReject n).power.reject = n ∧ (c.modeReject n).power.mode = c.power.mode ∧
    (c.modeReject n).power.phase = c.power.phase)

/-- R280, R281, R283, R456, R457: a start passes from POWERING to PRE_ROLL once every domain of the image is on and ready, is
abandoned with 9 where the ceiling stays below the draw at the start and with 8 where its time comes before WAIT_T0, and at T0
runs: every Chanter of the part begins anew, the mode is that of the image or INSPECT, and the duty is full. The end of
POWER_DOWN, with no switch-off left, is IDLE. The lowest domain asked on goes on when the credit and the ceiling allow its
idle power, which the credit pays; the highest asked off goes off on down-credit when no message of its pages waits; a domain
is ready once. -/
def Obligations.StartStopAndDomains : Prop :=
  (∀ (s : State), s.runs →
    (∀ i, s.core.img = some i → s.core.starting = true → s.core.power.phase = .powering →
      ((∀ n ∈ i.domains s.core.part.dies, s.core.domOn n = true ∧ s.core.power.ready.testBit n = true) →
        exec .preRollStart s = s.does (fun c => c.modPower (fun p => { p with phase := .preRoll }))) ∧
      (∀ n ∈ i.domains s.core.part.dies, (s.core.domOn n = false ∨ s.core.power.ready.testBit n = false) →
        exec .preRollStart s = s.does (fun c => c))) ∧
    ((s.core.img = none ∨ s.core.starting = false ∨ s.core.power.phase ≠ .powering) → exec .preRollStart s = s.does id) ∧
    (s.core.starting = true → s.core.ceiling * 1000 < s.core.pStart →
      exec .startCeilingTimeout s = s.does (fun c => c.abandonStart (some 9))) ∧
    ((s.core.starting = false ∨ s.core.pStart ≤ s.core.ceiling * 1000) → exec .startCeilingTimeout s = s.does (fun c => c)) ∧
    (s.core.starting = true → s.core.power.phase ≠ .waitT0 →
      exec .startLateAbandon s = s.does (fun c => c.abandonStart (some 8))) ∧
    ((s.core.starting = false ∨ s.core.power.phase = .waitT0) → exec .startLateAbandon s = s.does (fun c => c)) ∧
    ((s.core.img = none ∨ s.core.starting = false ∨ s.core.power.phase ≠ .waitT0) → exec .scheduleT0 s = s.does (fun c => c)) ∧
    (∀ i, s.core.img = some i → s.core.starting = true → s.core.power.phase = .waitT0 →
      exec .scheduleT0 s = s.does (fun c =>
        let t := c.t0Tick
        let ns := (c.time.atbAt (t * 65536) / 65536).toNat
        let c := (c.timeTo t).modTime (fun u => { u with t0Tc := t })
        let c := (c.wr64 .chn 0x1D0 (ns / 1000000000)).wr .chn 0x1D8 (ns % 1000000000)
        let c := c.syncReset
        let c := c.modPower (fun p => { p with
          phase := .steady, running := true, runOn := false, ballast := 0, draw := 0, duty := c.sReg, seg := 0, segAt := 0,
          stepped := false, stopDrain := false, ramp := false })
        let c := { c with plant := { c.plant with alarmRun := false } }
        (c.enterMode (if c.power.image.isSome then .inspect else Mode.ofHdr i.hdr.mode)).raise .mode 2)) ∧
    (s.core.power.phase = .powerDown → (∀ e ∈ s.core.power.want, e.2 = true) → exec .stopPowerDownDone s = s.does (fun c =>
      (c.modPower (fun p => { p with phase := .steady, image := none, ramp := false, stopDrain := false })).enterMode .idle)) ∧
    ((s.core.power.phase ≠ .powerDown ∨ ∃ e ∈ s.core.power.want, e.2 = false) → exec .stopPowerDownDone s = s.does (fun c => c)) ∧
    (∀ n : Fin 178, let w := idleOf n.val
      (s.core.power.nextOn = some n.val → w ≤ s.core.power.credit → s.core.pDraw + w ≤ s.core.ceiling * 1000 →
        exec (.domainSwitchOn n) s = s.does (fun c => c.modPower (fun p => { p with
          on := p.on ||| 2 ^ n.val, credit := p.credit - w, want := p.want.filter (fun e => e != (n.val, true)) }))) ∧
      ((s.core.power.nextOn ≠ some n.val ∨ s.core.power.credit < w ∨ s.core.ceiling * 1000 < s.core.pDraw + w) →
        exec (.domainSwitchOn n) s = s.does (fun c => c)) ∧
      (s.core.power.nextOff = some n.val → w ≤ s.core.power.down → s.core.domPending n.val = false →
        exec (.domainSwitchOff n) s = s.does (fun c => (c.modPower (fun p => { p with
          down := p.down - w, want := p.want.filter (fun e => e != (n.val, false)) })).domLose n.val)) ∧
      ((s.core.power.nextOff ≠ some n.val ∨ s.core.power.down < w ∨ s.core.domPending n.val = true) →
        exec (.domainSwitchOff n) s = s.does (fun c => c)) ∧
      (s.core.domOn n.val = true → s.core.power.ready.testBit n.val = false → exec (.domainReady n) s = s.does (fun c =>
        let d := c.modPower (fun p => { p with ready := p.ready ||| 2 ^ n.val, keepRegs := p.keepRegs.filter (· != n.val) })
        (if c.power.keepRegs.elem n.val then d else d.resetDomain n.val).domWake n.val)) ∧
      ((s.core.domOn n.val = false ∨ s.core.power.ready.testBit n.val = true) →
        exec (.domainReady n) s = s.does (fun c => c)))) ∧
  (∀ (c : Core) (x : Nat), (x = 4 ∨ x < c.part.dies) →
    c.syncReset.chanter x = { st := .running } ∧ c.syncReset.img = c.img ∧ c.syncReset.io.gain = c.io.gain ∧
    c.syncReset.ingest.slots = [] ∧ c.syncReset.host.seqs = []) ∧
  (∀ (c : Core) (m : Mode), (c.enterMode m).power.mode = m) ∧
  (∀ (s : State) (x : Chip) (late : Bool), s.runs → s.core.atOp x.val 0x10 = none → exec (.windowEnd x late) s = s.does id) ∧
  (∀ (s : State) (x : Chip) (late : Bool) (i : Image) (t : ChanterS) (ins : Nat), s.runs →
    s.core.atOp x.val 0x10 = some (i, t, ins) → exec (.windowEnd x late) s = s.does (fun c =>
      (if x.val = 4 then doWindowEndIo t c else doWindowEndX x.val late i t c).modChanter x.val (fun t => t.advance ins)))

/-- R286: with k = S − a the mask has bit s set if and only if floor(((s + 1)·k + S / 2) / S) > floor((s·k + S / 2) / S); so
of S sub-blocks of which a are executed exactly S − a are withheld, none of them past the last. With S = 16 and k = 2 it is
0x0808. -/
def Obligations.SkipMask : Prop :=
  maskFor 16 14 = 0x0808 ∧ ∀ (s a : Nat), 0 < s → a ≤ s →
    (setBits (maskFor s a) s).length = s - a ∧ maskFor s a < 2 ^ s ∧
    (∀ n, n < s → (maskFor s a).testBit n = decide ((n * (s - a) + s / 2) / s < ((n + 1) * (s - a) + s / 2) / s))

/-- R285, R287, R288, R289, R299: a Breath tick of 1 ms counts the coolant's age and the seconds of a warning, accrues credit
at R_eff, at most twice the largest increment that waits, and down-credit while a decrease waits, and drives the pre-roll and
the ramp; in a freeze the counts alone go on. A forecast tick begins the next slot, and no forecast value is above the
ceiling; STATUS goes out as the port allows, and DEMAND while the target exceeds the ceiling; POWER telemetry goes to its ring
where it is enabled. The ceiling is never above 620 W, nor R_eff above 2 000 W/s. -/
def Obligations.BreathCommands : Prop :=
  (∀ (s : State),
    (s.core.droneOn = false → exec .breathTick s = s.does (fun c => c) ∧ exec .forecastTick s = s.does (fun c => c) ∧
      exec .plantStatusTx s = s.does (fun c => c) ∧ exec .demand s = s.does (fun c => c)) ∧
    (s.core.droneOn = true →
      let aged : Core → Core := fun c => ({ c with plant := { c.plant with coolMs := min (c.plant.coolMs + 1) 0xFFFF } }).modPower
        (fun p => { p with warnMs := if c.plant.warn then p.warnMs + 1 else 0 })
      (s.core.dbg.frozen = true → exec .breathTick s = s.does aged) ∧
      (s.core.dbg.frozen = false → exec .breathTick s = s.does (fun c => (aged c).accrue.preRollTick.rampTick)) ∧
      exec .plantStatusTx s = s.does (fun c => c.plantStatus) ∧
      (s.core.target0 0 ≤ s.core.ceiling → exec .demand s = s.does (fun c => c)) ∧
      ((s.core.ceiling : Int) < s.core.target0 0 → exec .demand s = s.does (fun c => c.plantSend 0x02
        (leBytes 2 (min (c.target0 0).toNat 0xFFFF) ++ leBytes 2 c.rampUp ++
          leBytes 1 (if c.starting then 0 else if c.power.restore then 2 else 1) ++ [0]))) ∧
      s.leaves (exec .forecastTick s) (fun c => c.power.fcSlot = s.core.power.fcSlot + 1 ∧ c.power.mode = s.core.power.mode ∧
        c.power.duty = s.core.power.duty ∧ c.regs = s.core.regs))) ∧
  (∀ (s : State), s.runs →
    (bit (s.core.rd .pwr 0x040) 0 = true → s.core.domOn 36 = true → exec .powerTelemetry s = s.does (fun c =>
      c.telemetry (c.rd .pwr 0x068 % 4096) (telemHdr c.power.fcSlot 0 0 0) c.powerPayload)) ∧
    ((bit (s.core.rd .pwr 0x040) 0 = false ∨ s.core.domOn 36 = false) → exec .powerTelemetry s = s.does (fun c => c))) ∧
  (∀ (c : Core), c.accrue.power.credit = min (c.power.credit + c.rEff) (2 * maxL c.increments) ∧
    c.accrue.power.down = (if c.decreasing then c.power.down + c.rampDown else 0) ∧
    c.accrue.power.ballast = c.power.ballast ∧ c.accrue.power.duty = c.power.duty) ∧
  (∀ (c : Core) (j : Nat), c.forecastVal j ≤ c.ceiling ∧ c.forecastVal j ≤ 0xFFFF) ∧
  (∀ (c : Core), c.ceiling ≤ 6200 ∧ c.rEff ≤ 20000)

/-- R289 to R298: the receiver hunts for the sync byte, takes as many bytes as LEN says, and judges CRC, then TYPE and LEN.
GRANT, COOLANT and ALARM are counted as messages received and end an episode of silence; GRANT sets the rate and the ceiling
and raises GRANT, COOLANT the coolant values, ALARM the latch and the alarm's stop. A message that is invalid is counted as
CRC or BAD; a gap drops the part that came; silence is reported once. Nothing of it happens where the plant is not enabled.
Each sensor slot that is enabled is read over the bus. A junction reading of 100 °C or more warns, until all are below 97 °C;
the case temperature outside 0 to 85 °C is marked, and three missing readings in a row are SENSOR_FAIL; each pulse count gives
the flow, and one low reading, or one that is not low, changes no FLOW_LOW. -/
def Obligations.PlantCommands : Prop :=
  (∀ (s : State), let up := s.core.droneOn && s.core.plantEn
    let got : Core → Core := fun c => (c.inc .plant 0x068).modPlant (fun p => { p with silent := false, silCeil := none })
    (up = false → ∀ a b bs,
      exec (.grant a bs) s = s.does (fun c => c) ∧ exec (.coolant a b bs) s = s.does (fun c => c) ∧
      exec (.alarm bs) s = s.does (fun c => c) ∧ exec (.plantRxInvalid bs) s = s.does (fun c => c) ∧
      exec .plantSilent s = s.does (fun c => c)) ∧
    (s.core.droneOn = true → exec .plantRxGap s = s.does (fun c => c.modPlant (fun p => { p with rx := [] }))) ∧
    (s.core.droneOn = false → exec .plantRxGap s = s.does (fun c => c)) ∧
    (up = true →
      (∀ h x y bs : List Byte, bs = h ++ x ++ y → let r := plantMsg (s.core.plant.rx ++ bs)
        let f : Core → Core := fun c => c.modPlant (fun p => { p with rx := r.2 })
        (r.1 = none → exec (.grant (h ++ x) y) s = s.does f ∧ exec (.coolant h x y) s = s.does f ∧ exec (.alarm bs) s = s.does f ∧
          exec (.plantRxInvalid bs) s = s.does f) ∧
        (∀ k m, r.1 = some (k, m) →
          (k = 0x81 → exec (.grant (h ++ x) y) s = s.does (fun c => ((got (f c)).modPlant (fun p =>
            { p with granted := true, ramp := leAt m 0 2, ceiling := leAt m 2 2 })).raise .plant 3)) ∧
          (k = 0x82 → exec (.coolant h x y) s = s.does (fun c => (got (f c)).modPlant (fun p =>
            { p with inlet := leAt m 0 2, outlet := leAt m 2 2, flow := leAt m 4 2, coolMs := 0, coolOk := true }))) ∧
          (k = 0x83 → s.core.power.mode = .quiesce → s.core.plant.latch = true →
            exec (.alarm bs) s = s.does (fun c => (got (f c)).modPlant (fun p => { p with code := leAt m 0 1 }))) ∧
          (k = 0x83 → (s.core.power.mode ≠ .quiesce ∨ s.core.plant.latch = false) → exec (.alarm bs) s = s.does (fun c =>
            ((((got (f c)).modPlant (fun p => { p with latch := true, code := leAt m 0 1, alarmRun := true })).raise .plant 0).report
              .plant 0x60 clsS 0).alarmStop)) ∧
          (k = 0 → exec (.plantRxInvalid bs) s = s.does (fun c => (f c).inc .plant 0x06C)) ∧
          (k = 1 → exec (.plantRxInvalid bs) s = s.does (fun c => (f c).inc .plant 0x070)) ∧
          (k ≠ 0x81 → exec (.grant (h ++ x) y) s = s.does (fun c => c)) ∧ (k ≠ 0x82 → exec (.coolant h x y) s = s.does (fun c => c)) ∧
          (k ≠ 0x83 → exec (.alarm bs) s = s.does (fun c => c)) ∧ (2 ≤ k → exec (.plantRxInvalid bs) s = s.does (fun c => c)))) ∧
      (s.core.plant.silent = true → exec .plantSilent s = s.does (fun c => c)) ∧
      (s.core.plant.silent = false → exec .plantSilent s = s.does (fun c =>
        ((c.modPlant (fun p => { p with silent := true, silCeil := if p.granted then none else some c.drawNow })).raise
          .plant 1).report .plant 0x61 c.clsDN 0))) ∧
    (s.core.droneOn = true →
      exec .coolantStale s = s.does (fun c => c.modPlant (fun p => { p with coolOk := false })) ∧
      (∀ n, s.leaves (exec (.flowMeasure n) s) (fun c =>
        (bits (s.core.rd .plant 0x060) 15 0 ≠ 0 → c.plant.tach = min (n * 6000 / bits (s.core.rd .plant 0x060) 15 0) 0xFFFF) ∧
        c.plant.tach ≤ 0xFFFF ∧
        (s.core.plant.flowLow = false → s.core.plant.flowSecs = 0 → c.plant.flowLow = false) ∧
        (s.core.plant.flowLow = true → s.core.plant.flowSecs = 0 → c.plant.flowLow = true))) ∧
      (∀ rs, exec (.i2cSensorPoll rs) s = s.does (fun c =>
        let cfg := c.rd .therm 0x040
        (List.range 8).foldl (fun c i =>
          if cfg.testBit i = false then c
          else
            let c := c.emit (.i2c (bits (c.rd .therm (0x050 + 4 * (i / 4))) (8 * (i % 4) + 6) (8 * (i % 4))) (bit (c.rd .therm 0x040) 11)
              0x00 2)
            let r := nth none rs i
            let d := r.elim (c.inc .therm 0x070) (fun w => c.modPlant (fun p => { p with ext := p.ext.set i (ofInt 16 (i2cTemp w)) }))
            if bits cfg 10 8 = i then d.caseRead r else d) c))) ∧
    (s.core.droneOn = false → exec .coolantStale s = s.does (fun c => c) ∧ (∀ n, exec (.flowMeasure n) s = s.does (fun c => c)) ∧
      (∀ rs, exec (.i2cSensorPoll rs) s = s.does (fun c => c)) ∧ (∀ ts, exec (.tjRead ts) s = s.does (fun c => c)))) ∧
  (∀ (junk body crc rest : List Byte) (t n : Byte), (∀ b ∈ junk, b ≠ 0xA5) → body.length = n.toNat → crc.length = 2 →
    plantMsg (junk ++ (0xA5 :: t :: n :: (body ++ (crc ++ rest)))) = (some (plantKind t n body crc, body), rest)) ∧
  (∀ (body crc : List Byte) (t n : Byte), let sum := crc16 (t :: n :: body)
    let good : Prop := crc = [BitVec.ofNat 8 (sum.toNat / 256), BitVec.ofNat 8 sum.toNat]
    let fits : Prop := t.toNat = 0x81 ∧ body.length = 4 ∨ t.toNat = 0x82 ∧ body.length = 6 ∨ t.toNat = 0x83 ∧ body.length = 2
    (¬ good → plantKind t n body crc = 0) ∧ (good → fits → plantKind t n body crc = t.toNat) ∧
    (good → ¬ fits → plantKind t n body crc = 1)) ∧
  (∀ (s : State), s.serves .plant → exec .clrAlarm s = s.doesReg .plant (fun c => c.modPlant (fun p => { p with latch := false }))) ∧
  (∀ (s : State) (rs : List (BitVec 16)), s.core.droneOn = true →
    let l := s.core.part.sensors.filterMap (fun k => (rs[k]?).map (fun r => (r.toInt, k)))
    l ≠ [] → s.leaves (exec (.tjRead rs) s) (fun c =>
      (s.core.plant.warn = false → c.plant.warn = l.any (fun e => decide (10000 ≤ e.1))) ∧
      (s.core.plant.warn = true → c.plant.warn = l.any (fun e => decide (9700 ≤ e.1))))) ∧
  (∀ (c : Core) (w : BitVec 16), let t := i2cTemp w
    (c.caseRead (some w)).plant.caseT = ofInt 16 t ∧ (c.caseRead (some w)).plant.failRun = 0 ∧
    (c.caseRead (some w)).plant.sensorFail = false ∧ ((c.caseRead (some w)).plant.caseBad = true ↔ t < 0 ∨ 8500 < t)) ∧
  (∀ (c : Core), (c.caseRead none).plant.failRun = c.plant.failRun + 1 ∧ (c.caseRead none).plant.caseBad = c.plant.caseBad ∧
    ((c.caseRead none).plant.sensorFail = true ↔ c.plant.sensorFail = true ∨ 2 ≤ c.plant.failRun))

/-- R282, R411 to R420: the slot whose turn it is is taken from its page and accepted; no other page's is. A message of a
class whose flag is outstanding is accepted one class higher; it sets the flag of its final class, or the latch when Fatal, is
the newest of at most 32 history entries, counts SEQ, and is the first-fault record where there was none. FLT_ACK clears the
flags written 1 and the FAULTED of the pages of those classes, CLR_FIRST the first-fault record, CLR_HIST the history and the
Fatal record; HIST_SEL shows the entry that it names. THERMTRIP at 110 °C or more is put out on its pin and is accepted as a
Fatal message, once. A Severe message stops; a Fatal one enters SAFE, in SHELVED too, but where PERST_N or missing rails hold
it there: then the data path goes off (log entry 95). -/
def Obligations.FaultCommands : Prop :=
  (∀ (s : State) (page : Fin 4096), s.runs →
    (∀ p, s.nextSlot = some p → p.page = page.val → exec (.faultAccept page) s = .next (s.after
      ((s.onCore (fun c => { c with pend := c.pend.filter (fun q => q.page != page.val) })).accept p))) ∧
    ((∀ p, s.nextSlot = some p → p.page ≠ page.val) → exec (.faultAccept page) s = .next (s.after s))) ∧
  (∀ (s : State) (p : Pend), let r := s.col.record s.core p
    let cls := s.col.final p.cls
    (s.accept p).col = s.col.accept r cls p.page ∧ (s.accept p).pending = s.pending ∧
    r.orig = p.cls ∧ (r.esc = true ↔ cls ≠ p.cls) ∧ (r.first = true ↔ s.col.first = none)) ∧
  (∀ (l : Collector) (r : FaultRec) (n page : Nat), n < 4 → let m := l.final n
    let k := l.accept r m page
    (m = n ∨ m = n + 1 ∧ n < 3) ∧ (n < 3 → (m = n + 1 ↔ l.flag n = true)) ∧ (m < 3 → k.flag m = true) ∧
    (m = 3 → k.latch = true) ∧ (∀ j, j < 3 → l.flag j = true → k.flag j = true) ∧ (l.latch = true → k.latch = true) ∧
    k.hist = (r :: l.hist).take 32 ∧ k.seq = l.seq + 1 ∧ k.first = some (l.first.getD r)) ∧
  (∀ (s : State), s.serves .flt → let t := s.onCore (fun c => c.lockAccess .flt 0)
    (∀ v : Word, exec (.fltAck v) s = .next (s.after { t with
      col := { t.col with outN := t.col.outN && !v.toNat.testBit 0, outD := t.col.outD && !v.toNat.testBit 1,
                          outS := t.col.outS && !v.toNat.testBit 2 }
      core := { t.core with faulted := t.core.faulted.filter (fun e =>
        !(decide (1 ≤ e.2 ∧ e.2 ≤ 3) && v.toNat.testBit (e.2 - 1))) } })) ∧
    exec .clrFirst s = .next (s.after { t with col := { t.col with first := none } }) ∧
    exec .clrHist s = .next (s.after { t with col := { t.col with hist := [], fatal := none } }) ∧
    (∀ v : Word, exec (.histSel v) s = .next (s.after { t with
      col := { t.col with histSel := t.col.hist[v.toNat % 32]? }, core := t.core.wr .flt 0x070 (v.toNat % 32) }))) ∧
  (∀ (s : State) (k : Fin 40) (r : BitVec 16),
    (s.core.droneOn = true → s.core.part.sensors.elem k.val = true → 11000 ≤ r.toInt → s.core.plant.tripped = false →
      exec (.thermtrip k r) s = .next (s.after ((s.onCore (fun c =>
        (c.modPlant (fun p => { p with tripped := true })).emit .thermtrip)).accept ⟨4, 0x64, clsF, 0, 0⟩))) ∧
    ((s.core.droneOn = false ∨ s.core.part.sensors.elem k.val = false ∨ r.toInt < 11000 ∨ s.core.plant.tripped = true) →
      exec (.thermtrip k r) s = .next (s.after s))) ∧
  (∀ (c : Core) (cls : Nat), (cls < 2 → c.react cls = c) ∧ c.react 2 = c.severeStop ∧
    (2 < cls → (c.power.mode = .safe → c.react cls = c) ∧
      (c.power.mode = .shelved → (c.perst = true ∨ c.power.railsOff = true) →
        c.react cls = c.muteNow.pathOff.pwmMax.plantStatus) ∧
      (c.power.mode ≠ .safe → (c.power.mode ≠ .shelved ∨ c.perst = false ∧ c.power.railsOff = false) → c.react cls = c.enterSafe)))

/-- R377, R399, R424, R425, R427, R428: FLR, a hot reset and the link going down take the host's locks, count the bursts in
progress, abandon a load, reset every ring but its generation, and force a stop, with their own LAST_CAUSE, while the function
answers; DEVRST with its key resets the rings likewise and loses the image, banks and gains, after the stop where one runs.
D3hot keeps SAFE as it is and otherwise forces a stop and powers down; the end of the forced stop enters it where it waits;
the exit asks the mode's domains back, and a commit that waited finishes WITHDRAWN. -/
def Obligations.ResetCommands : Prop :=
  (∀ (s : State), s.runs → let up := s.core.functionUp && s.core.host.linkUp
    let base : Core → Core := fun c => ((c.locksLost 0).resetBursts).loadAbandon.ringsReset.forceStop
    (up = true → exec .flr s = s.does (fun c => ((base c).cause 4).inc .rst 0x04C) ∧
      exec .hotReset s = s.does (fun c => ((base c).cause 2).inc .rst 0x04C) ∧
      exec .pcieLinkDown s = s.does (fun c =>
        let c := (List.range 4).foldl (fun c d =>
          match (c.xdie d).egress with
          | f :: rest => if f.wait then (c.modX d (fun x => { x with egress := rest })).framePathDown d f.type f.hdr else c
          | [] => c) { c with host := { c.host with linkUp := false } }
        ((base c).cause 3).inc .rst 0x04C)) ∧
    (up = false → exec .flr s = s.does (fun c => c) ∧ exec .hotReset s = s.does (fun c => c) ∧
      exec .pcieLinkDown s = s.does (fun c => c) ∧ exec .d3hotEntry s = s.does (fun c => c)) ∧
    (s.core.host.d3 ≠ none → exec .d3hotEntry s = s.does (fun c => c)) ∧
    ((s.core.devBusy = false ∨ s.core.power.forced = true) → exec .devrstDone s = s.does (fun c => c)) ∧
    (s.core.devBusy = true → s.core.power.forced = false → exec .devrstDone s = s.does (fun c =>
      (c.devLose.wr .rst 0x044 (c.rd .rst 0x044 &&& 0xDF)).raise .rst 0)) ∧
    (up = true → s.core.host.d3 = none → s.core.power.mode = .safe → exec .d3hotEntry s = s.does (fun c =>
      { c.inc .rst 0x054 with host := { c.host with d3 := some .safe } })) ∧
    (up = true → s.core.host.d3 = none → s.core.power.mode ≠ .safe → exec .d3hotEntry s = s.does (fun c =>
      let c := c.inc .rst 0x054
      let m := c.power.mode
      let c := if c.imgSt = 1 ∨ c.imgSt = 2 then { c with imgSt := 0, host := { c.host with loadRing := none } } else c
      let c := c.forceStop
      let c := { c with host := { c.host with d3 := some (if c.power.forced then .idle else m) } }
      if c.power.forced then c else c.d3Down)) ∧
    ((s.core.power.forced = false ∨ s.core.power.mode ≠ .idle ∨ s.core.power.phase ≠ .steady) →
      exec .forcedStopDone s = s.does (fun c => c)) ∧
    (s.core.power.forced = true → s.core.power.mode = .idle → s.core.power.phase = .steady →
      exec .forcedStopDone s = s.does (fun c =>
        let c := (c.modPower (fun p => { p with forced := false })).wr .rst 0x044 (c.rd .rst 0x044 &&& 0xBF)
        let c := c.raise .rst 1
        if c.host.d3.isSome then c.d3Down else c)) ∧
    (s.core.host.d3 = none → exec .d3hotExit s = s.does (fun c => c)) ∧
    (s.core.host.d3 ≠ none → (s.core.power.forced = true ∨ s.core.power.mode = .safe) →
      exec .d3hotExit s = s.does (fun c => ({ c with host := { c.host with d3 := none } }).cause 6)) ∧
    (s.core.host.d3 ≠ none → s.core.power.forced = false → s.core.power.mode ≠ .safe → s.core.host.commitRing = none →
      exec .d3hotExit s = s.does (fun c =>
        let c := ({ c with host := { c.host with d3 := none } }).cause 6
        c.gainsOne.askDomains c.backDoms true)) ∧
    (∀ r, s.core.host.d3 ≠ none → s.core.power.forced = false → s.core.power.mode ≠ .safe → s.core.host.commitRing = some r →
      exec .d3hotExit s = s.does (fun c =>
        let c := ({ c with host := { c.host with d3 := none } }).cause 6
        let c := ({ c with host := { c.host with commitRing := none } }).finish r stWithdrawn
        c.gainsOne.askDomains c.backDoms true))) ∧
  (∀ (s : State) (key : BitVec 16), s.serves .rst →
    ((key ≠ 0xDE57 ∨ s.core.power.mode = .shelved ∨ s.core.power.mode = .safe) →
      exec (.devrst key) s = s.doesReg .rst (fun c => c)) ∧
    (key = 0xDE57 → s.core.power.mode ≠ .shelved → s.core.power.mode ≠ .safe →
      exec (.devrst key) s = s.doesReg .rst (fun c =>
        let c := (c.loadAbandon.ringsReset.forceStop.cause 5).inc .rst 0x050
        let c := c.wr .rst 0x044 (c.rd .rst 0x044 ||| 0x20)
        if c.power.forced then c else c.devLose))) ∧
  (∀ (c : Core), c.devLose.img = none ∧ c.devLose.imgSt = 0 ∧ c.devLose.io.gain = ⟨.word 0x1000, []⟩ ∧
    c.devLose.io.hist = c.io.hist)

/-- R424, R426, R429, R447, R448, R454: PERST_N asserted puts everything outside the Drone domain at reset, ends a freeze and
an undefined device, and leaves mode SHELVED, the fault records but SEQ and the HIST view kept; its deassertion enters BRINGUP
with its domains asked on, or SAFE where the Fatal latch is set, once the supplies stand. A power cycle loses every record,
the latch too, and leaves no supply; the Drone supply alone brings the Drone domain. A rail out of tolerance outside what
SHELVED allows leaves the device undefined. -/
def Obligations.SuppliesAndPerst : Prop :=
  (∀ (s : State),
    ((s.core.droneOn = false ∨ s.core.perst = true) → exec .perstNAssert s = .next s) ∧
    (∃ t, exec .perstNAssert s = .next t ∧ t.pending = s.pending ∧
      (s.core.droneOn = true → s.core.perst = false → t.col = { s.col with seq := 0, histSel := none } ∧ t.core.perst = true ∧ t.core.railBad = false ∧
        t.core.power.mode = .shelved ∧ t.core.dbg = { draws := s.core.dbg.draws + 1 } ∧ t.core.img = none ∧
        t.core.lanes = [] ∧ t.core.host = {} ∧ t.core.plant.latch = s.core.plant.latch ∧ t.core.rd .rst 0x044 % 16 = 1)) ∧
    exec .powerCycle s = .next { s with col := {}, core := s.core.powerOff } ∧
    s.core.powerOff.droneOn = false ∧ s.core.powerOff.perst = true ∧ s.core.powerOff.regs = [] ∧
    s.core.powerOff.power = {} ∧ s.core.powerOff.part = s.core.part ∧ s.core.powerOff.otp = s.core.otp ∧
    (s.core.droneOn = true → exec .dronePowerValid s = .next s) ∧
    (s.core.droneOn = false → exec .dronePowerValid s = .next { s with core := { s.core with droneOn := true } }) ∧
    (∀ r, (s.core.droneOn = false → exec (.railOutOfTolerance r) s = s.does (fun c => c)) ∧
      (s.core.droneOn = true → s.core.power.mode = .shelved → s.core.persist = false →
        exec (.railOutOfTolerance r) s = s.does (fun c => c.modPower (fun p => { p with railsOff := true }))) ∧
      (s.core.droneOn = true → (s.core.power.mode ≠ .shelved ∨ s.core.persist = true) →
        exec (.railOutOfTolerance r) s = s.does (fun c => { c with railBad := true }))) ∧
    ((s.core.droneOn = false ∨ s.core.perst = false) → exec .railRestore s = s.does (fun c => c)) ∧
    (s.core.droneOn = true → s.core.perst = true →
      exec .railRestore s = s.does (fun c => c.modPower (fun p => { p with railsOff := false })))) ∧
  (∀ (s : State) (b : Bool),
    ((s.core.droneOn = false ∨ s.core.perst = false ∨ s.core.power.railsOff = true ∨ s.core.power.mode ≠ .shelved) →
      exec (.perstNDeassert b) s = .next (s.after s)) ∧
    (s.core.droneOn = true → s.core.perst = true → s.core.power.railsOff = false → s.core.power.mode = .shelved →
      let back : Core → Core := fun c =>
        let c := { c with perst := false, host := { c.host with lnrev := b } }
        let c := if c.power.shelvedBy then (c.cause 7).modPower (fun p => { p with shelvedBy := false }) else c
        if s.col.latch then c.enterSafe
        else (c.enterMode .bringup).askDomains ([28, 29, 30, 31, 32, 33, 34, 35, 36, 37] ++
          xDoms c.part.dies [27, 28, 29, 30, 31, 32, 33]) true
      exec (.perstNDeassert b) s = .next (s.after (s.onCore back))))

/-- R300, R303, R457: the Pilot runs once its condition holds and its domains are on and ready, and asks for them till then;
it ends, its domains asked off, when the condition fails. The oldest integration whose successor has begun closes: its 256 +
64 × 9 frames go out and PILOT_DONE is raised. -/
def Obligations.PilotCommands : Prop :=
  (∀ (s : State), s.runs → let ready := pilotDoms.all (fun n => s.core.domOn n && s.core.power.ready.testBit n)
    ((s.core.pilotMay = false ∨ s.core.pilot.on = true) → exec .pilotStart s = s.does (fun c => c)) ∧
    (s.core.pilotMay = true → s.core.pilot.on = false → ready = true →
      exec .pilotStart s = s.does (fun c => { c with pilot := { on := true } })) ∧
    (s.core.pilotMay = true → s.core.pilot.on = false → ready = false → exec .pilotStart s = s.does (fun c =>
      c.askDomains (pilotDoms.filter (fun n => !c.power.want.elem (n, true))) true)) ∧
    (s.core.pilotMay = true → exec .pilotStop s = s.does (fun c => c)) ∧
    (s.core.pilotMay = false → exec .pilotStop s = s.does (fun c => c.pilotEnd)) ∧
    (∀ q, s.core.pilot.ints.find? (fun x => s.core.pilot.ints.any (fun y => y.q == x.q + 1)) = some q →
      exec .pilotClose s = s.does (fun c => (({ c with pilot := { c.pilot with
        ints := c.pilot.ints.filter (fun x => x.q != q.q), closed := some q.q } }).pilotFrames q).raise .mode 3)) ∧
    (s.core.pilot.ints.find? (fun x => s.core.pilot.ints.any (fun y => y.q == x.q + 1)) = none →
      exec .pilotClose s = s.does (fun c => c))) ∧
  (∀ (c : Core), c.pilotEnd.pilot = {} ∧
    (c.pilot.on = true → ∀ n ∈ pilotDoms, c.domOn n = true → (n, false) ∈ c.pilotEnd.power.want))

/-- R430 to R435: FREEZE_N and FREEZE with its key freeze the device, unless it is locked, or has been frozen: the PCIe link
goes down, the LTB and the cause are kept. Each TAP instruction is selected as it scans, and ends the driving of the lands
unless it is EXTEST. BYPASS and a closed boundary scan shift one bit of delay; IDCODE, CHALLENGE and DBG_REG put out their
register; a locked DBG_REG answers DENIED, and a request is taken while none waits. A token waits to be verified, unless eight
have failed; verifying draws a new challenge, and opens the scopes of a good token alone. -/
def Obligations.DebugCommands : Prop :=
  (∀ (s : State), s.runs →
    ((s.core.droneOn = false ∨ s.core.perst = true ∨ s.core.debugLocked = true) → exec .freezeN s = s.does (fun c => c)) ∧
    (s.core.droneOn = true → s.core.perst = false → s.core.debugLocked = false →
      exec .freezeN s = s.does (fun c => c.freezeNow 0 0)) ∧
    (s.core.dbg.req = none → exec .dbgAccessDone s = .next (s.after s)) ∧
    (∀ r, s.core.dbg.req = some r → s.core.domOn 36 = false ∨ s.core.domOn 37 = false → exec .dbgAccessDone s = .next (s.after s)) ∧
    (∀ r, let page := bits r.toNat 55 44
      let off := bits r.toNat 43 34 * 4
      let write := r.toNat.testBit 63
      s.core.dbg.req = some r → s.core.domOn 36 = true → s.core.domOn 37 = true → pageAt s.core.part page = none →
        (s.core.winOpen 4 37 = true → exec .dbgAccessDone s = .next (s.after
          (s.onCore (fun c => (c.unmapped .debug page off write).dbgResult 0 true)))) ∧
        (s.core.winOpen 4 37 = false → exec .dbgAccessDone s = .next (s.after s))) ∧
    (∀ r k, let page := bits r.toNat 55 44
      let off := bits r.toNat 43 34 * 4
      let shut := s.core.winOpen k.chip 37 = false ∨ s.core.lockedOut k 1 = true ∨ s.core.hostFirst k = true
      s.core.dbg.req = some r → s.core.domOn 36 = true → s.core.domOn 37 = true → pageAt s.core.part page = some k →
        (shut → exec .dbgAccessDone s = .next (s.after s)) ∧
        (¬ shut → r.toNat.testBit 63 = true → exec .dbgAccessDone s = .next (s.after
          ((s.busWrite k 1 off (r.toNat % 2 ^ 32)).onCore (fun c => (c.cxbServed k.group 1).dbgResult 0 false)))) ∧
        (¬ shut → r.toNat.testBit 63 = false → exec .dbgAccessDone s = .next (s.after
          (s.onCore (fun c => ((((c.lockAccess k 1).takeSnaps k off).aperture k off).cxbServed k.group 1).dbgResult
            (s.readReg k off) false)))))) ∧
  (∀ (s : State) (key : BitVec 16), s.serves .dbg →
    (key = 0xF2EE → exec (.freeze key) s = s.doesReg .dbg (fun c => c.freezeNow 1 0)) ∧
    (key ≠ 0xF2EE → exec (.freeze key) s = s.doesReg .dbg (fun c => c))) ∧
  (∀ (c : Core) (t : Nat) (m : DWord), (c.dbg.frozen = true → c.freezeNow t m = c) ∧
    (c.dbg.frozen = false → let l : DWord := BitVec.ofNat 64 c.ltb
      (c.freezeNow t m).dbg = { c.dbg with frozen := true, trigger := t, trigMsg := m, frzLtb := l, frzPos := none } ∧
      (c.freezeNow t m).host.linkUp = false ∧ (c.freezeNow t m).regs = c.regs)) ∧
  (∀ (s : State),
    (s.core.tapUp = false → ∀ b bs q t, exec (.bypass b) s = s.does (fun c => c) ∧ exec .idcode s = s.does (fun c => c) ∧
      exec (.samplePreload bs) s = s.does (fun c => c) ∧ exec (.extest bs) s = s.does (fun c => c) ∧
      exec (.dbgReg q) s = s.does (fun c => c) ∧ exec .challenge s = s.does (fun c => c) ∧
      exec (.unlock t) s = s.does (fun c => c) ∧ exec .frzRead s = .next (s.after s)) ∧
    (s.core.tapUp = true →
      (∀ b, exec (.bypass b) s = s.does (fun c => (c.select 0xFF).shiftBypass [b])) ∧
      exec .idcode s = s.does (fun c => (c.select 1).emit (.tdo (bitsOf 32 c.idcode))) ∧
      (∀ bs, s.core.bscanShut = true → exec (.samplePreload bs) s = s.does (fun c => (c.select 2).shiftBypass bs) ∧
        exec (.extest bs) s = s.does (fun c => (c.select 3).shiftBypass bs)) ∧
      (∀ bs, s.core.bscanShut = false → exec (.samplePreload bs) s = s.does (fun c => (c.select 2).bscanPass bs) ∧
        exec (.extest bs) s = s.does (fun c => let d := (c.select 3).bscanPass bs
          { d with dbg := { d.dbg with driven := some bs } })) ∧
      (∀ q, s.core.debugOpenFor 0 = false → exec (.dbgReg q) s = s.does (fun c => let d := c.select 0x10
        { d with dbg := { d.dbg with denied := true, done := false, error := false, data := 0 } }.emit (.tdo (bitsOf 64 (2 ^ 34))))) ∧
      (∀ q, s.core.debugOpenFor 0 = true → s.core.dbg.req = none → exec (.dbgReg q) s = s.does (fun c =>
        let d := (c.select 0x10).emit (.tdo (bitsOf 64 (c.select 0x10).dbg.capture))
        { d with dbg := { d.dbg with req := some q, done := false, error := false, denied := false } })) ∧
      (∀ q, s.core.debugOpenFor 0 = true → s.core.dbg.req ≠ none → exec (.dbgReg q) s = s.does (fun c =>
        (c.select 0x10).emit (.tdo (bitsOf 64 (c.select 0x10).dbg.capture)))) ∧
      exec .challenge s = s.does (fun c => (c.select 0x12).emit (.tdo (bitsOf 128 c.challengeNow.toNat))) ∧
      (∀ t, s.core.dbg.barred = true → exec (.unlock t) s = s.does (fun c => c.select 0x13)) ∧
      (∀ t, s.core.dbg.barred = false → exec (.unlock t) s = s.does (fun c => let d := c.select 0x13
        { d with dbg := { d.dbg with token := some t } })) ∧
      (s.core.debugOpenFor 1 = false → exec .frzRead s = .next (s.after (s.onCore (fun c =>
        (c.select 0x11).emit (.tdo (bitsOf 64 0)))))) ∧
      (s.core.debugOpenFor 1 = true → s.core.dbg.frozen = true → exec .frzRead s = .next (s.after (s.onCore (fun c =>
        let n := if s.core.dbg.ir = 0x11 then s.core.dbg.frzPos.getD 0 else 0
        let d := (c.select 0x11).emit (.tdo (bitsOf 64 (s.frzWord n)))
        { d with dbg := { d.dbg with frzPos := some (n + 1) } })))) ∧
      (s.core.debugOpenFor 1 = true → s.core.dbg.frozen = false → exec .frzRead s = .next (s.after (s.onCore (fun c =>
        let n := if s.core.dbg.ir = 0x11 then s.core.dbg.frzPos.getD 0 else 0
        let v := (Config.freeWord c.free).toNat + 2 ^ 32 * (Config.freeWord (c.free + 1)).toNat
        let d := (c.select 0x11).emit (.tdo (bitsOf 64 v))
        { d with dbg := { d.dbg with frzPos := some (n + 1) }, free := c.free + 2 }))))) ∧
    (s.core.dbg.token = none → exec .unlockVerifyDone s = s.does (fun c => c)) ∧
    (∀ t, s.core.dbg.token = some t → s.core.tokenOk t = true → exec .unlockVerifyDone s = s.does (fun c =>
      { c with dbg := { c.dbg with token := none, draws := c.dbg.draws + 1, open_ := true,
                                   scope := c.dbg.scope ||| leAt t 5 1 % 8 } }.raise .sec 0)) ∧
    (∀ t, s.core.dbg.token = some t → s.core.tokenOk t = false → exec .unlockVerifyDone s = s.does (fun c =>
      ({ c with dbg := { c.dbg with token := none, draws := c.dbg.draws + 1, fails := min (c.dbg.fails + 1) 8,
                                    barred := decide (8 ≤ c.dbg.fails + 1) } }.raise .sec 1).report .sec 0xA3 clsN 0)))

/-- R30 to R34, R36 to R38, R61: what is sent over a lane is what is received, whatever the polarity of its pair. The line
carries the packet comma, then the stuffed and scrambled bits of the bytes with their CRC; the receiver finds the comma, takes
the bits after it without a violation, and has a packet that passes the tests of CRC and format, with every field at every
value the format admits, and its payload, byte for byte. A control block of any 64 bytes arrives as those bytes, as a control
block. -/
def Obligations.LineCarriesPackets : Prop :=
  (∀ (pol : Bool) (lane k g ch mask sample flags : Nat) (res payload : List Byte), g < 256 → ch < 128 → mask < 2 ^ 16 →
    sample < 2 ^ 64 → sample % 256 = 0 → flags < 2 ^ 16 → res.length = 14 → payload.length = 8192 →
    let bs := ([0xC3, 0x01] : List Byte) ++ (leBytes 2 g ++ (leBytes 2 ch ++ (leBytes 2 mask ++ (leBytes 8 sample ++
      (leBytes 2 flags ++ (res ++ payload))))))
    let line := packetLine lane k (withCrc bs)
    line.take 64 = packetComma ∧
    ∃ raw, rxBlock pol (line.map (· != pol)) = some (true, .ok raw) ∧
      parsePacket (packetBytes lane k raw) = .ok ⟨g, ch, mask, sample, flags, payload⟩) ∧
  (∀ (pol : Bool) (bs : List Byte), bs.length = 64 → (ctrlLine bs).take 64 = ctrlComma ∧
    ∃ raw, rxBlock pol ((ctrlLine bs).map (· != pol)) = some (false, .ok raw) ∧ ctrlBlockBytes raw = bs)

/-- R9, R48, R55, R60, R102, R144, R249, R279, R305, R318, R338, R349, R367, R393, R403, R404, R437: the commands that a host
gives through a register complete. Where the page is served now and its commands act (`State.serves`: conditions on the state
alone), the next state is the one named here: the core has the command's own effect, on top of the count of an access under a
lock (R393), the queue and the collector are as before, and `State.after` adds the count of departures from the envelope
(Table 11.8). Each clause is the case in which the command has its own effect; the cases that reject it, merge it or count it
stand in the statements of its family. -/
def Obligations.RegisterCommandsComplete : Prop :=
  ∀ (s : State),
    let on : PageKind → Core := fun k => s.core.lockAccess k 0
    let nx : Core → Host.Outcome State Fault Refusal := fun c => .next (s.after { s with core := c })
    (∀ (page off : Fin 4096) (v : Word) (k : PageKind), s.serves k → page.val = k.no → 0x020 ≤ off.val → k.ownRow off.val = false →
      k ≠ .bxb → k ≠ .ring → k ≠ .plant → k ≠ .time 0 → k ≠ .time 1 → s.core.running = false →
      let mask := (k.row off.val).rw ||| (k.row off.val).rws ||| (k.row off.val).rwl
      exec (.registerWrite .pcie page off v) s =
        nx ((on k).wr k off.val ((v.toNat &&& mask) ||| ((on k).rd k off.val &&& (m32 ^^^ mask))))) ∧
    (∀ (page : Fin 4096) (v : Word) (k : PageKind), s.servesHdr page.val k → (on k).irqOn k = false →
      exec (.pageIrqWrite page v) s = nx ((on k).wr k 0x010 ((on k).rd k 0x010 &&& (m32 ^^^ v.toNat)))) ∧
    (∀ (page : Fin 4096) (v : Word) (k : PageKind), s.servesHdr page.val k → (on k).irqOn k = false →
      exec (.irqEnableWrite page false v) s = nx ((on k).writeFields k 0x014 v.toNat)) ∧
    (∀ (page : Fin 4096) (k : PageKind), s.servesHdr page.val k → k.no = page.val → s.core.running = false →
      SMap.wf regReset s.core.regs = true → k ≠ .time 0 → k ≠ .time 1 →
      ∃ t, exec (.unitReset page) s = .next t ∧ ∀ off : Nat, off < 4096 → off ≠ 0x01C → (k.row off).rws = 0 →
        t.core.rd k off = (regReset (k.key off)).toNat) ∧
    (∀ l : Lane, s.serves (.lane l) →
      exec (.train l) s = nx ((on (.lane l)).bringUp l) ∧
      ((s.core.lane l).settings = true → exec (.retrain l) s = nx ((on (.lane l)).fastRetrain l)) ∧
      ((s.core.lane l).recalPending = false → (s.core.lane l).ph ∉ [LanePh.recalAdapt, .recalAlign, .recalScan] →
        (s.core.lane l).st = .up →
        exec (.recal l) s = nx ((on (.lane l)).modLane l (fun x => { x with recalPending := true }))) ∧
      exec (.down l) s = nx ((on (.lane l)).laneDown l) ∧
      ((s.core.lane l).scan = none → (s.core.lane l).st = .up → bits (s.core.scanCfg l) 1 0 ≠ 0 →
        exec (.scanStart l) s = nx ((on (.lane l)).modLane l (fun x =>
          { x with scan := some .command, scanMode := if bits (s.core.scanCfg l) 1 0 = 2 then 2 else 1,
                   scanDwell := max 6 (min 10 (bits (s.core.scanCfg l) 7 4)), scanThresh := bits (s.core.scanCfg l) 27 24 }))) ∧
      ((s.core.lane l).scan ≠ some .recal → exec (.scanAbort l) s = nx ((on (.lane l)).scanStop l)) ∧
      exec (.laneClrCnt l) s = nx ((on (.lane l)).clear (.lane l) [0x060, 0x064, 0x068, 0x06C, 0x070])) ∧
    (∀ (g : Fin 16) (v : Word), s.serves (.lgrp g.val) → s.core.running = false →
      exec (.laneEnWrite g v) s = nx ((on (.lgrp g.val)).applyLaneEn g.val v.toNat)) ∧
    (s.serves .ingest → exec .clrAll s = nx { on .ingest with ingest := { (on .ingest).ingest with cnt := [] } } ∧
      ∃ c, exec .snap s = nx c ∧ c.ingest = s.core.ingest ∧
        ∀ k, k < 11 → c.rd .ingest (0x080 + 4 * k) = s.core.ingCount (s.core.rd .ingest 0x070 % 256) k % 2 ^ 32) ∧
    (s.serves (.fst 0) →
      (∀ i, s.core.img = some i → s.core.power.mode = .calibrate → s.core.chan.cal = none →
        let k : CalS := { passes := cdiv (i.plan.nIn * i.plan.nCh) (2 ^ 18), start := max ((on (.fst 0)).evalBlock + 1) i.plan.b0 }
        let c := (on (.fst 0)).calClear
        exec .calStart s = nx { c with chan := { c.chan with cal := some k } }) ∧
      (s.core.chan.cal ≠ none →
        exec .calAbort s = nx (({ on (.fst 0) with chan := { (on (.fst 0)).chan with cal := none } } : Core).raise (.fst 0) 6)) ∧
      exec .rqsatClr s = nx { on (.fst 0) with io := { (on (.fst 0)).io with rqsat := { fill := .zero, cells := [] } } }) ∧
    (∀ n : Fin 8, s.serves (.fst n) → exec (.fstClrCnt n) s = nx ((on (.fst n)).clear (.fst n)
      [0x070, 0x074, 0x078, 0x07C, 0x080, 0x084, 0x088, 0x08C, 0x090, 0x094, 0x098, 0x09C])) ∧
    (∀ z : Fin 2, s.serves (.zoom z) → exec (.zoomClrCnt z) s = nx ((on (.zoom z)).clear (.zoom z) [0x044])) ∧
    (s.serves .crook → exec .crookClrCnt s = nx ((on .crook).clear .crook
      [0x060, 0x064, 0x068, 0x06C, 0x070, 0x074, 0x078, 0x07C])) ∧
    (∀ d : XDie, s.serves (.xchn d) → s.core.power.mode = .inspect →
      let every (f : ChanterS → ChanterS) : Core := (List.range (on (.xchn d)).part.dies).foldl (fun c x => c.modChanter x f) (on (.xchn d))
      exec (.hold d) s = nx (every (fun t => if t.st = .held then t else { t with stepReq := 1 })) ∧
      exec (.stepFrame d) s = nx (every (fun t => t.resume 1)) ∧ exec (.stepWindow d) s = nx (every (fun t => t.resume 2)) ∧
      exec (.run d) s = nx (every (fun t => t.resume 0))) ∧
    (∀ x : Chip, s.serves (chanterPage x.val) → exec (.chnClrCnt x) s = nx ((on (chanterPage x.val)).clear (chanterPage x.val)
      [0x07C, 0x080, 0x184, 0x188, 0x18C, 0x190, 0x194])) ∧
    (∀ d : XDie, s.serves (.cells d.val) → exec (.cellsClrCnt d) s = nx ((on (.cells d.val)).clear (.cells d.val)
      [0x070, 0x074, 0x078, 0x07C, 0x080, 0x084, 0x088, 0x08C, 0x090])) ∧
    (∀ (d : XDie) (n : Fin 24), s.serves (.clu d.val n.val) → exec (.cluClrCnt d n) s = nx (
      let c := (on (.clu d.val n.val)).clear (.clu d.val n.val) [0x048, 0x04C, 0x050, 0x054]
      c.wr (.clu d.val n.val) 0x040 ((on (.clu d.val n.val)).rd (.clu d.val n.val) 0x040 % 65536))) ∧
    (∀ d : XDie, s.serves (.xdie d.val) →
      exec (.dumpClrCnt d) s = nx (((on (.xdie d.val)).clear (.xdie d.val)
        [0x240, 0x244, 0x248, 0x24C, 0x250, 0x254, 0x258, 0x25C, 0x260]).wr (.xdie d.val) 0x234 ((on (.xdie d.val)).egressLevel d.val)) ∧
      exec (.xdieClrCnt d) s = nx ((on (.xdie d.val)).clear (.xdie d.val) [0x058, 0x05C])) ∧
    (∀ (d : XDie) (j : Fin 2), s.serves (.bsl d.val j.val) → exec (.bslClrCnt d j) s =
      nx ((on (.bsl d.val j.val)).clear (.bsl d.val j.val) [0x060, 0x064, 0x068, 0x06C, 0x070])) ∧
    (∀ d : XDie, s.serves (.red d.val) → exec (.redClrCnt d) s = nx ((on (.red d.val)).clear (.red d.val)
      [0x060, 0x064, 0x068, 0x06C, 0x070, 0x074])) ∧
    (∀ i : Fin 16, s.serves (.insp i) →
      (∀ (reg : Fin 3) (v : Word), exec (.inspectSelect i reg v) s = nx (((on (.insp i)).wr (.insp i) (0x040 + 4 * reg.val)
        v.toNat).setInsp i { (on (.insp i)).inspAt i with ready := false })) ∧
      (let sel := s.core.rd (.insp i) 0x040
       let off := (s.core.rd (.insp i) 0x044 + 2 ^ 32 * s.core.rd (.insp i) 0x048) / 2048 * 2048
       (s.core.inspAt i).run = false → s.core.power.mode = .inspect → sel % 4 < s.core.part.dies → bits sel 13 5 < 384 →
        bits sel 4 2 ≤ 1 → off < 32768 → (s.core.chanter (sel % 4)).st = .held →
        let cell := SMap.get (fun _ => {}) ((on (.insp i)).xdie (sel % 4)).cells (bits sel 13 5)
        let bs := cell.object (bits sel 4 2) (bits sel 16 14) off 2048
        exec (.fetch i) s = nx ((on (.insp i)).inspEnd i (fun x => { x with run := true, data := bs })))) ∧
    (∀ (r : RingNo) (t : Word) (k : PageKind), s.servesHdr (2048 + r.val / 1024) k → s.core.ringActive r = true →
      (t.toNat + 2 ^ 32 - (s.core.ring r).head % 2 ^ 32) % 2 ^ 32 ≤ 2 ^ (s.core.ring r).k →
      (t.toNat + 2 ^ 32 - (s.core.ring r).tail % 2 ^ 32) % 2 ^ 32 ≤ 2 ^ (s.core.ring r).k →
      exec (.doorbellWrite r t) s = nx ((on k).setRing r { s.core.ring r with tail := t.toNat })) ∧
    (s.serves .ring → exec .ringClrCnt s = nx ((on .ring).clear .ring [0x070, 0x074, 0x078, 0x07C, 0x080, 0x084]) ∧
      ∀ v : Word, ∃ c, exec (.ringCfgWrite v) s = nx c ∧ let r := s.core.rd .ring 0x040
        (c.ring r).error = false ∧ (c.ring r).gen = ((s.core.ring r).gen + 1) % 256 ∧ (c.ring r).head = 0 ∧ (c.ring r).tail = 0 ∧
        (c.ring r).fetch = 0 ∧ (c.ring r).dbase = (s.core.ring r).stDbase / 4096 * 4096 ∧
        (c.ring r).cbase = (s.core.ring r).stCbase / 4096 * 4096) ∧
    (∀ (ch : Fin 64) (j : Job), s.serves (.dma ch) → (s.core.dma ch).job = some j → (s.core.dma ch).readback = false → j.pend = 0 →
      (j.dstSp ≠ 0 ∨ j.done = 0) → exec (.abort ch) s = nx ((on (.dma ch)).completeJob ch stAborted)) ∧
    (s.serves .dmag → exec .dmagClrCnt s = nx ((on .dmag).clear .dmag [0x050, 0x054, 0x058, 0x05C])) ∧
    (s.serves .pciex → exec .pciexClrCnt s = nx ((on .pciex).clear .pciex [0x050, 0x054])) ∧
    (s.serves .cxb → exec .cxbClrCnt s = nx ((on .cxb).clear .cxb [0x088, 0x08C, 0x090, 0x094]) ∧
      ∀ g : Fin 16, g.val < 7 + s.core.part.dies →
        ((s.core.lock g).owner = none → exec (.acquire .pcie g) s = nx ((on .cxb).lockGrant g 0)) ∧
        ((s.core.lock g).owner = some 0 → exec (.release .pcie g) s = nx ((on .cxb).lockEnd g))) ∧
    (s.serves .bxb → exec .bxbClrCnt s = nx ((on .bxb).clear .bxb [0x05C, 0x060, 0x064])) ∧
    (∀ (d : XDie) (j : Fin 2), let k := PageKind.hbm d.val j.val
      let i := 2 * d.val + j.val
      s.serves k →
        (s.core.powered k = true → s.core.hbmMode = true → (s.core.stack i).st ≠ .training → (s.core.stack i).st ≠ .selfRefresh →
          exec (.trainHbm d j) s = nx ((on k).trainStart i false)) ∧
        (∀ rate : Fin 4, s.core.hbmMode = true → rate ≠ 3 → (s.core.stack i).st = .trained →
          exec (.setRate d j rate) s = nx (((on k).modStack i (fun x => { x with rate := rate.val })).trainStart i true)) ∧
        exec (.injectArm d j) s = nx ((on k).modStack i (fun x => { x with inject := true })) ∧
        exec (.hbmClrCnt d j) s = nx (((on k).clear (hbmPage i)
          [0x050, 0x05C, 0x060, 0x064, 0x068, 0x06C, 0x070, 0x074, 0x078, 0x07C, 0x080]).owedPeak i)) ∧
    (s.serves .mode → exec .modeClrCnt s = nx ((on .mode).clear .mode [0x060, 0x064]) ∧
      (s.core.power.forced = false → s.core.power.phase = .steady →
        (s.core.power.mode = .idle → exec .reqBringup s =
          nx (((on .mode).enterMode .bringup).askDomains (xDoms (on .mode).part.dies [31, 32]) false)) ∧
        (s.core.power.mode = .bringup → (∀ n, n < 2 * s.core.part.dies → s.core.stackUp n = true ∧ (s.core.stack n).rate = 0) →
          exec .reqIdle s = nx ((on .mode).enterMode .idle)) ∧
        ((s.core.power.mode = .bringup ∨ s.core.power.mode = .idle) → exec .reqShelve s = nx (
          let d := (on .mode).coldReset.modPower (fun p => { p with shelvedBy := true })
          if (on .mode).host.linkUp then d.emit .linkLost else d)) ∧
        (s.core.power.mode = .idle → ∀ (b : Bool) (i : Image), s.core.imgSt = 3 → s.core.img = some i → s.core.allTrained = true →
          (s.core.time.dpll = .locked ∨ s.core.time.dpll = .holdover) → s.core.plant.latch = false → s.core.plantEn = false →
          let d := (on .mode).startChecks i
          d.2 = true → (∃ e, d.1.startEarliest = some e ∧ e ≤ (d.1.startSample i : Int)) →
          ∃ c, exec (.reqStart b) s = nx c ∧ c.power.phase = .powering ∧ c.power.startSample = d.1.startSample i)) ∧
      (s.core.power.forced = false → s.core.power.mode.isSchedule = true → exec .reqStop s = nx (on .mode).toQuiesce)) ∧
    (s.serves .plant → exec .plantClrCnt s = nx ((on .plant).clear .plant [0x068, 0x06C, 0x070]) ∧
      exec .clrAlarm s = nx ((on .plant).modPlant (fun p => { p with latch := false }))) ∧
    (s.serves .therm → exec .thermClrCnt s = nx ((on .therm).clear .therm [0x070])) ∧
    (s.serves (.time 0) → exec .timeClrCnt s = nx ((((on (.time 0)).clear (.time 0) [0x0C8, 0x0CC]).clear (.time 2)
        [0x058, 0x05C]).clear (.time 3) [0x04C, 0x050, 0x054, 0x058] |>.modTime
          (fun t => { t with refs := t.refs.map (fun r => { r with disqual := 0 }) })) ∧
      (s.core.running = false →
        exec .armAtb s = nx ((on (.time 0)).modTime (fun t => { t with armed := true })) ∧
        exec .setEpoch s = nx ((on (.time 0)).modTime (fun t => { t with
          epochS := (on (.time 0)).rd64 (.time 0) 0x0B0,
          epochTc := ((((on (.time 0)).rd64 (.time 0) 0x0A0 * 1000000000 + (on (.time 0)).rd (.time 0) 0x0A8) * 65536 : Nat) -
            (on (.time 0)).time.base) / 65536 })) ∧
        ∀ (v : Word) (den : Bool), s.core.img = none → v ≠ 0 →
          exec (.fccWrite den v) s = nx ((on (.time 0)).wr (.time 0) (if den then 0x0BC else 0x0B8) v.toNat))) ∧
    (s.serves (.time 1) → ∀ (n : Fin 4) (v : Word), (s.core.refEn n = false ∨ v.getLsbD 0 = true) →
      exec (.refCfgWrite n v) s = nx ((on (.time 1)).wr (.time 1) (0x040 + 32 * n) (v.toNat &&& 0x1F))) ∧
    (s.serves .flt → exec .fltClrCnt s = nx ((on .flt).clear .flt [0x090, 0x094, 0x098, 0x09C])) ∧
    (s.serves .rst → s.core.power.mode ≠ .shelved → s.core.power.mode ≠ .safe → exec (.devrst 0xDE57) s = nx (
      let c := ((on .rst).loadAbandon.ringsReset.forceStop.cause 5).inc .rst 0x050
      let c := c.wr .rst 0x044 (c.rd .rst 0x044 ||| 0x20)
      if c.power.forced then c else c.devLose)) ∧
    (s.serves .dbg → exec (.freeze 0xF2EE) s = nx ((on .dbg).freezeNow 1 0))
end

