-- ==== Sys2Proof/Laws/SMap.lean ====
section
/-! SUPPORT. Laws/SMap.lean: reading after writing, and the canonical form of sparse maps. -/

namespace Sys2Proof.Machine

variable {α : Type}

/-! ### Reading after writing -/

@[simp] theorem SMap.get_nil (d : Nat → α) (k : Nat) : SMap.get d [] k = d k := rfl

theorem SMap.get_erase_same (d : Nat → α) (m : SMap α) (k : Nat) : SMap.get d (SMap.erase m k) k = d k := by
  induction m with
  | nil => rfl
  | cons e m ih =>
    obtain ⟨j, v⟩ := e
    by_cases h : j = k <;> simp_all [SMap.erase, SMap.get]

theorem SMap.get_erase_other (d : Nat → α) (m : SMap α) {k j : Nat} (h : j ≠ k) :
    SMap.get d (SMap.erase m k) j = SMap.get d m j := by
  induction m with
  | nil => rfl
  | cons e m ih =>
    obtain ⟨i, v⟩ := e
    by_cases hk : i = k
    · have : ¬ i = j := fun e => h (e ▸ hk)
      simp_all [SMap.erase, SMap.get]
    · simp_all [SMap.erase, SMap.get]

theorem SMap.get_insert_same (d : Nat → α) (m : SMap α) (k : Nat) (v : α) : SMap.get d (SMap.insert m k v) k = v := by
  induction m with
  | nil => simp [SMap.insert, SMap.get]
  | cons e m ih =>
    obtain ⟨j, w⟩ := e
    unfold SMap.insert
    split_ifs with h1 h2
    · simp [SMap.get]
    · simp [SMap.get]
    · have : ¬ j = k := fun e => h2 e.symm
      simp [SMap.get, this, ih]

theorem SMap.get_insert_other (d : Nat → α) (m : SMap α) {k j : Nat} (v : α) (h : j ≠ k) :
    SMap.get d (SMap.insert m k v) j = SMap.get d m j := by
  induction m with
  | nil => simp [SMap.insert, SMap.get, h.symm]
  | cons e m ih =>
    obtain ⟨i, w⟩ := e
    unfold SMap.insert
    split_ifs with h1 h2
    · simp [SMap.get, h.symm]
    · subst h2; simp [SMap.get, h.symm]
    · simp [SMap.get, ih]

@[simp] theorem SMap.get_set_same [DecidableEq α] (d : Nat → α) (m : SMap α) (k : Nat) (v : α) :
    SMap.get d (SMap.set d m k v) k = v := by
  unfold SMap.set
  split_ifs with h
  · rw [SMap.get_erase_same, h]
  · exact SMap.get_insert_same d m k v

theorem SMap.get_set_other [DecidableEq α] (d : Nat → α) (m : SMap α) {k j : Nat} (v : α) (h : j ≠ k) :
    SMap.get d (SMap.set d m k v) j = SMap.get d m j := by
  unfold SMap.set
  split_ifs
  · exact SMap.get_erase_other d m h
  · exact SMap.get_insert_other d m v h

theorem SMap.get_set [DecidableEq α] (d : Nat → α) (m : SMap α) (k j : Nat) (v : α) :
    SMap.get d (SMap.set d m k v) j = if j = k then v else SMap.get d m j := by
  split_ifs with h
  · subst h; simp
  · exact SMap.get_set_other d m v h

theorem SMap.get_mod [DecidableEq α] (d : Nat → α) (m : SMap α) (k j : Nat) (f : α → α) :
    SMap.get d (SMap.mod d m k f) j = if j = k then f (SMap.get d m k) else SMap.get d m j := SMap.get_set ..

/-! ### The canonical form -/

/-- The canonical form as a proposition: keys strictly rising, no entry at its default. -/
theorem SMap.rising_iff (lo : Option Nat) (m : SMap α) :
    SMap.rising lo m = true ↔ m.Pairwise (fun a b => a.1 < b.1) ∧ ∀ e ∈ m, ∀ i ∈ lo, i < e.1 := by
  induction m generalizing lo with
  | nil => cases lo <;> simp [SMap.rising]
  | cons e m ih =>
    obtain ⟨j, v⟩ := e
    cases lo with
    | none => simp [SMap.rising, ih, List.pairwise_cons, and_comm]
    | some i =>
      simp only [SMap.rising, Bool.and_eq_true, decide_eq_true_eq, ih, List.pairwise_cons, List.forall_mem_cons,
        Option.mem_some_iff, forall_eq']
      constructor
      · rintro ⟨h, hp, hm⟩
        exact ⟨⟨hm, hp⟩, h, fun e he => lt_trans h (hm e he)⟩
      · rintro ⟨⟨hm, hp⟩, h, -⟩
        exact ⟨h, hp, hm⟩

theorem SMap.wf_iff [DecidableEq α] (d : Nat → α) (m : SMap α) :
    SMap.wf d m = true ↔ m.Pairwise (fun a b => a.1 < b.1) ∧ ∀ e ∈ m, e.2 ≠ d e.1 := by
  simp [SMap.wf, SMap.rising_iff]

theorem SMap.wf_nil [DecidableEq α] (d : Nat → α) : SMap.wf d [] = true := rfl

/-- A part of a canonical map is canonical. -/
theorem SMap.wf_filter [DecidableEq α] {d : Nat → α} {m : SMap α} (p : Nat × α → Bool) (h : SMap.wf d m = true) :
    SMap.wf d (m.filter p) = true := by
  rw [SMap.wf_iff] at h ⊢
  exact ⟨h.1.filter p, fun e he => h.2 e (List.mem_filter.1 he).1⟩

theorem SMap.wf_erase [DecidableEq α] {d : Nat → α} {m : SMap α} (k : Nat) (h : SMap.wf d m = true) :
    SMap.wf d (SMap.erase m k) = true := SMap.wf_filter _ h

theorem SMap.mem_insert {m : SMap α} {k : Nat} {v : α} {e : Nat × α} (h : e ∈ SMap.insert m k v) :
    e = (k, v) ∨ e ∈ m := by
  induction m with
  | nil => simpa [SMap.insert] using h
  | cons f m ih =>
    obtain ⟨j, w⟩ := f
    unfold SMap.insert at h
    split_ifs at h with h1 h2
    · simpa using h
    · rcases List.mem_cons.1 h with h | h
      · exact .inl h
      · exact .inr (List.mem_cons_of_mem _ h)
    · rcases List.mem_cons.1 h with h | h
      · exact .inr (h ▸ List.mem_cons_self ..)
      · rcases ih h with h | h
        · exact .inl h
        · exact .inr (List.mem_cons_of_mem _ h)

theorem SMap.wf_insert [DecidableEq α] {d : Nat → α} {m : SMap α} {k : Nat} {v : α} (hv : v ≠ d k)
    (h : SMap.wf d m = true) : SMap.wf d (SMap.insert m k v) = true := by
  rw [SMap.wf_iff] at h ⊢
  obtain ⟨hp, hd⟩ := h
  refine ⟨?_, fun e he => ?_⟩
  · induction m with
    | nil => simp [SMap.insert]
    | cons f m ih =>
      obtain ⟨j, w⟩ := f
      rw [List.pairwise_cons] at hp
      unfold SMap.insert
      split_ifs with h1 h2
      · exact List.pairwise_cons.2 ⟨fun e he => by
          rcases List.mem_cons.1 he with rfl | he
          · exact h1
          · exact lt_trans h1 (hp.1 e he), List.pairwise_cons.2 hp⟩
      · subst h2; exact List.pairwise_cons.2 hp
      · refine List.pairwise_cons.2 ⟨fun e he => ?_, ih hp.2 (fun e he => hd e (List.mem_cons_of_mem _ he))⟩
        rcases SMap.mem_insert he with rfl | he
        · show j < k; omega
        · exact hp.1 e he
  · rcases SMap.mem_insert he with rfl | he
    · exact hv
    · exact hd e he

theorem SMap.wf_set [DecidableEq α] {d : Nat → α} {m : SMap α} (k : Nat) (v : α) (h : SMap.wf d m = true) :
    SMap.wf d (SMap.set d m k v) = true := by
  unfold SMap.set
  split_ifs with hv
  · exact SMap.wf_erase k h
  · exact SMap.wf_insert hv h

theorem SMap.mem_blockOf [DecidableEq α] {d : Nat → α} {k : Nat} {vs : List α} {e : Nat × α}
    (h : e ∈ SMap.blockOf d k vs) : k ≤ e.1 ∧ e.1 < k + vs.length ∧ e.2 ≠ d e.1 := by
  induction vs generalizing k with
  | nil => simp [SMap.blockOf] at h
  | cons v vs ih =>
    unfold SMap.blockOf at h
    rw [List.length_cons]
    split_ifs at h with hv
    · have := ih h
      exact ⟨by omega, by omega, this.2.2⟩
    · rcases List.mem_cons.1 h with rfl | h
      · exact ⟨le_refl _, by show k < _; omega, hv⟩
      · have := ih h
        exact ⟨by omega, by omega, this.2.2⟩

theorem SMap.pairwise_blockOf [DecidableEq α] (d : Nat → α) (k : Nat) (vs : List α) :
    (SMap.blockOf d k vs).Pairwise (fun a b => a.1 < b.1) := by
  induction vs generalizing k with
  | nil => simp [SMap.blockOf]
  | cons v vs ih =>
    unfold SMap.blockOf
    split_ifs
    · exact ih (k + 1)
    · refine List.pairwise_cons.2 ⟨fun e he => ?_, ih (k + 1)⟩
      have := (SMap.mem_blockOf he).1
      show k < e.1; omega

/-- Writing a run of values keeps the canonical form. -/
theorem SMap.wf_setRun [DecidableEq α] {d : Nat → α} {m : SMap α} (k : Nat) (vs : List α) (h : SMap.wf d m = true) :
    SMap.wf d (SMap.setRun d m k vs) = true := by
  rw [SMap.wf_iff] at h ⊢
  obtain ⟨hp, hd⟩ := h
  have lo : ∀ e ∈ m.filter (fun e => decide (e.1 < k)), e.1 < k ∧ e.2 ≠ d e.1 := fun e he => by
    have := List.mem_filter.1 he
    exact ⟨by simpa using this.2, hd e this.1⟩
  have hi : ∀ e ∈ m.filter (fun e => decide (k + vs.length ≤ e.1)), k + vs.length ≤ e.1 ∧ e.2 ≠ d e.1 := fun e he => by
    have := List.mem_filter.1 he
    exact ⟨by simpa using this.2, hd e this.1⟩
  refine ⟨List.pairwise_append.2 ⟨List.pairwise_append.2 ⟨hp.filter _, SMap.pairwise_blockOf d k vs, fun a ha b hb => ?_⟩,
    hp.filter _, fun a ha b hb => ?_⟩, fun e he => ?_⟩
  · have := (lo a ha).1; have := (SMap.mem_blockOf hb).1; omega
  · have hb := (hi b hb).1
    rcases List.mem_append.1 ha with ha | ha
    · have := (lo a ha).1; omega
    · have := (SMap.mem_blockOf ha).2.1; omega
  · rcases List.mem_append.1 he with he | he
    · rcases List.mem_append.1 he with he | he
      · exact (lo e he).2
      · exact (SMap.mem_blockOf he).2.2
    · exact (hi e he).2

/-! ### Runs -/

@[simp] theorem SMap.readFrom_length (d : Nat → α) (n k : Nat) (m : SMap α) : (SMap.readFrom d n k m).length = n := by
  induction n generalizing k m with
  | zero => rfl
  | succ n ih =>
    cases m with
    | nil => simp [SMap.readFrom, ih]
    | cons e m =>
      obtain ⟨j, v⟩ := e
      unfold SMap.readFrom
      split_ifs <;> simp [ih]

@[simp] theorem SMap.getRun_length (d : Nat → α) (m : SMap α) (k n : Nat) : (SMap.getRun d m k n).length = n :=
  SMap.readFrom_length ..

/-- In a map that lists nothing below `k`, the run from `k` holds each key's value. -/
theorem SMap.readFrom_eq (d : Nat → α) (n k : Nat) (m : SMap α) (hp : m.Pairwise (fun a b => a.1 < b.1))
    (hk : ∀ e ∈ m, k ≤ e.1) : SMap.readFrom d n k m = (List.range n).map (fun i => SMap.get d m (k + i)) := by
  induction n generalizing k m with
  | zero => rfl
  | succ n ih =>
    rw [List.range_succ_eq_map, List.map_cons, List.map_map]
    cases m with
    | nil =>
      rw [SMap.readFrom, ih (k + 1) [] List.Pairwise.nil (by simp)]
      simp [SMap.get]; intro a _; congr 1; omega
    | cons e m =>
      obtain ⟨j, v⟩ := e
      rw [List.pairwise_cons] at hp
      have hj : k ≤ j := hk (j, v) (List.mem_cons_self ..)
      unfold SMap.readFrom
      split_ifs with h
      · subst h
        rw [ih (j + 1) m hp.2 (fun e he => hp.1 e he)]
        congr 1
        · simp [SMap.get]
        · refine List.map_congr_left (fun i _ => ?_)
          have : ¬ j = j + (i + 1) := by omega
          simp only [Function.comp, SMap.get, Nat.succ_eq_add_one, if_neg this]
          congr 1; omega
      · have lt : k < j := lt_of_le_of_ne hj (fun e => h e.symm)
        rw [ih (k + 1) ((j, v) :: m) (List.pairwise_cons.2 hp) (fun e he => by
          rcases List.mem_cons.1 he with rfl | he
          · exact lt
          · have := hp.1 e he; simp only at this; omega)]
        congr 1
        · have nil : ∀ l : SMap α, (∀ e ∈ l, k < e.1) → SMap.get d l k = d k := by
            intro l hl
            induction l with
            | nil => rfl
            | cons a l ih =>
              have ha := hl a (List.mem_cons_self ..)
              have : ¬ a.1 = k := by omega
              show (if a.1 = k then _ else _) = _
              rw [if_neg this]; exact ih (fun e he => hl e (List.mem_cons_of_mem _ he))
          exact (nil _ (fun e he => by
            rcases List.mem_cons.1 he with rfl | he
            · exact lt
            · have := hp.1 e he; simp only at this; omega)).symm
        · refine List.map_congr_left (fun i _ => ?_)
          simp only [Function.comp, Nat.succ_eq_add_one]
          congr 1; omega

/-- Keys below `k` do not matter to a key from `k` on. -/
theorem SMap.get_dropWhile (d : Nat → α) (m : SMap α) {k j : Nat} (h : k ≤ j) :
    SMap.get d (m.dropWhile (fun e => decide (e.1 < k))) j = SMap.get d m j := by
  induction m with
  | nil => rfl
  | cons e m ih =>
    obtain ⟨i, v⟩ := e
    rw [List.dropWhile_cons]
    split_ifs with hi
    · have hi : i < k := by simpa using hi
      have : ¬ i = j := by omega
      rw [ih]; simp [SMap.get, this]
    · rfl

/-- A run read from a canonical map holds each key's value. -/
theorem SMap.getRun_eq [DecidableEq α] (d : Nat → α) (m : SMap α) (k n : Nat) (h : SMap.wf d m = true) :
    SMap.getRun d m k n = (List.range n).map (fun i => SMap.get d m (k + i)) := by
  have hp := ((SMap.wf_iff d m).1 h).1
  have hs := hp.sublist (List.dropWhile_sublist (p := fun e => decide (e.1 < k)))
  rw [SMap.getRun, SMap.readFrom_eq d n k _ hs]
  · exact List.map_congr_left (fun i _ => SMap.get_dropWhile d m (by omega))
  · clear h hs
    induction m with
    | nil => simp
    | cons e m ih =>
      rw [List.pairwise_cons] at hp
      intro f hf
      rw [List.dropWhile_cons] at hf
      split_ifs at hf with he
      · exact ih hp.2 f hf
      · have he : k ≤ e.1 := by simpa using he
        rcases List.mem_cons.1 hf with rfl | hf
        · exact he
        · have := hp.1 f hf; omega

end Sys2Proof.Machine
end

