-- ==== Sys2Proof/Laws/State.lean ====
section
/-! SUPPORT. Laws/State.lean: each base update of the core, field by field; and reading a numbered collection after it. -/

namespace Sys2Proof.Machine

variable (c : Core)

/-! ### setLane -/

@[simp] theorem Core.setLane_part (n : Nat) (x : LaneS) : (c.setLane n x).part = c.part := rfl
@[simp] theorem Core.setLane_otp (n : Nat) (x : LaneS) : (c.setLane n x).otp = c.otp := rfl
@[simp] theorem Core.setLane_droneOn (n : Nat) (x : LaneS) : (c.setLane n x).droneOn = c.droneOn := rfl
@[simp] theorem Core.setLane_perst (n : Nat) (x : LaneS) : (c.setLane n x).perst = c.perst := rfl
@[simp] theorem Core.setLane_railBad (n : Nat) (x : LaneS) : (c.setLane n x).railBad = c.railBad := rfl
@[simp] theorem Core.setLane_railN (n : Nat) (x : LaneS) : (c.setLane n x).railN = c.railN := rfl
@[simp] theorem Core.setLane_regs (n : Nat) (x : LaneS) : (c.setLane n x).regs = c.regs := rfl
@[simp] theorem Core.setLane_snap (n : Nat) (x : LaneS) : (c.setLane n x).snap = c.snap := rfl
@[simp] theorem Core.setLane_posted (n : Nat) (x : LaneS) : (c.setLane n x).posted = c.posted := rfl
@[simp] theorem Core.setLane_pend (n : Nat) (x : LaneS) : (c.setLane n x).pend = c.pend := rfl
@[simp] theorem Core.setLane_faulted (n : Nat) (x : LaneS) : (c.setLane n x).faulted = c.faulted := rfl
@[simp] theorem Core.setLane_bxbPrio (n : Nat) (x : LaneS) : (c.setLane n x).bxbPrio = c.bxbPrio := rfl
@[simp] theorem Core.setLane_io (n : Nat) (x : LaneS) : (c.setLane n x).io = c.io := rfl
@[simp] theorem Core.setLane_lgrps (n : Nat) (x : LaneS) : (c.setLane n x).lgrps = c.lgrps := rfl
@[simp] theorem Core.setLane_ingest (n : Nat) (x : LaneS) : (c.setLane n x).ingest = c.ingest := rfl
@[simp] theorem Core.setLane_chan (n : Nat) (x : LaneS) : (c.setLane n x).chan = c.chan := rfl
@[simp] theorem Core.setLane_img (n : Nat) (x : LaneS) : (c.setLane n x).img = c.img := rfl
@[simp] theorem Core.setLane_imgSt (n : Nat) (x : LaneS) : (c.setLane n x).imgSt = c.imgSt := rfl
@[simp] theorem Core.setLane_imgReason (n : Nat) (x : LaneS) : (c.setLane n x).imgReason = c.imgReason := rfl
@[simp] theorem Core.setLane_imgMode (n : Nat) (x : LaneS) : (c.setLane n x).imgMode = c.imgMode := rfl
@[simp] theorem Core.setLane_links (n : Nat) (x : LaneS) : (c.setLane n x).links = c.links := rfl
@[simp] theorem Core.setLane_chanters (n : Nat) (x : LaneS) : (c.setLane n x).chanters = c.chanters := rfl
@[simp] theorem Core.setLane_xdies (n : Nat) (x : LaneS) : (c.setLane n x).xdies = c.xdies := rfl
@[simp] theorem Core.setLane_targets (n : Nat) (x : LaneS) : (c.setLane n x).targets = c.targets := rfl
@[simp] theorem Core.setLane_stacksOf (n : Nat) (x : LaneS) : (c.setLane n x).stacksOf = c.stacksOf := rfl
@[simp] theorem Core.setLane_host (n : Nat) (x : LaneS) : (c.setLane n x).host = c.host := rfl
@[simp] theorem Core.setLane_locks (n : Nat) (x : LaneS) : (c.setLane n x).locks = c.locks := rfl
@[simp] theorem Core.setLane_power (n : Nat) (x : LaneS) : (c.setLane n x).power = c.power := rfl
@[simp] theorem Core.setLane_plant (n : Nat) (x : LaneS) : (c.setLane n x).plant = c.plant := rfl
@[simp] theorem Core.setLane_pilot (n : Nat) (x : LaneS) : (c.setLane n x).pilot = c.pilot := rfl
@[simp] theorem Core.setLane_time (n : Nat) (x : LaneS) : (c.setLane n x).time = c.time := rfl
@[simp] theorem Core.setLane_insp (n : Nat) (x : LaneS) : (c.setLane n x).insp = c.insp := rfl
@[simp] theorem Core.setLane_dbg (n : Nat) (x : LaneS) : (c.setLane n x).dbg = c.dbg := rfl
@[simp] theorem Core.setLane_out (n : Nat) (x : LaneS) : (c.setLane n x).out = c.out := rfl
@[simp] theorem Core.setLane_free (n : Nat) (x : LaneS) : (c.setLane n x).free = c.free := rfl

/-! ### setLgrp -/

@[simp] theorem Core.setLgrp_part (n : Nat) (x : LgrpS) : (c.setLgrp n x).part = c.part := rfl
@[simp] theorem Core.setLgrp_otp (n : Nat) (x : LgrpS) : (c.setLgrp n x).otp = c.otp := rfl
@[simp] theorem Core.setLgrp_droneOn (n : Nat) (x : LgrpS) : (c.setLgrp n x).droneOn = c.droneOn := rfl
@[simp] theorem Core.setLgrp_perst (n : Nat) (x : LgrpS) : (c.setLgrp n x).perst = c.perst := rfl
@[simp] theorem Core.setLgrp_railBad (n : Nat) (x : LgrpS) : (c.setLgrp n x).railBad = c.railBad := rfl
@[simp] theorem Core.setLgrp_railN (n : Nat) (x : LgrpS) : (c.setLgrp n x).railN = c.railN := rfl
@[simp] theorem Core.setLgrp_regs (n : Nat) (x : LgrpS) : (c.setLgrp n x).regs = c.regs := rfl
@[simp] theorem Core.setLgrp_snap (n : Nat) (x : LgrpS) : (c.setLgrp n x).snap = c.snap := rfl
@[simp] theorem Core.setLgrp_posted (n : Nat) (x : LgrpS) : (c.setLgrp n x).posted = c.posted := rfl
@[simp] theorem Core.setLgrp_pend (n : Nat) (x : LgrpS) : (c.setLgrp n x).pend = c.pend := rfl
@[simp] theorem Core.setLgrp_faulted (n : Nat) (x : LgrpS) : (c.setLgrp n x).faulted = c.faulted := rfl
@[simp] theorem Core.setLgrp_bxbPrio (n : Nat) (x : LgrpS) : (c.setLgrp n x).bxbPrio = c.bxbPrio := rfl
@[simp] theorem Core.setLgrp_io (n : Nat) (x : LgrpS) : (c.setLgrp n x).io = c.io := rfl
@[simp] theorem Core.setLgrp_lanes (n : Nat) (x : LgrpS) : (c.setLgrp n x).lanes = c.lanes := rfl
@[simp] theorem Core.setLgrp_ingest (n : Nat) (x : LgrpS) : (c.setLgrp n x).ingest = c.ingest := rfl
@[simp] theorem Core.setLgrp_chan (n : Nat) (x : LgrpS) : (c.setLgrp n x).chan = c.chan := rfl
@[simp] theorem Core.setLgrp_img (n : Nat) (x : LgrpS) : (c.setLgrp n x).img = c.img := rfl
@[simp] theorem Core.setLgrp_imgSt (n : Nat) (x : LgrpS) : (c.setLgrp n x).imgSt = c.imgSt := rfl
@[simp] theorem Core.setLgrp_imgReason (n : Nat) (x : LgrpS) : (c.setLgrp n x).imgReason = c.imgReason := rfl
@[simp] theorem Core.setLgrp_imgMode (n : Nat) (x : LgrpS) : (c.setLgrp n x).imgMode = c.imgMode := rfl
@[simp] theorem Core.setLgrp_links (n : Nat) (x : LgrpS) : (c.setLgrp n x).links = c.links := rfl
@[simp] theorem Core.setLgrp_chanters (n : Nat) (x : LgrpS) : (c.setLgrp n x).chanters = c.chanters := rfl
@[simp] theorem Core.setLgrp_xdies (n : Nat) (x : LgrpS) : (c.setLgrp n x).xdies = c.xdies := rfl
@[simp] theorem Core.setLgrp_targets (n : Nat) (x : LgrpS) : (c.setLgrp n x).targets = c.targets := rfl
@[simp] theorem Core.setLgrp_stacksOf (n : Nat) (x : LgrpS) : (c.setLgrp n x).stacksOf = c.stacksOf := rfl
@[simp] theorem Core.setLgrp_host (n : Nat) (x : LgrpS) : (c.setLgrp n x).host = c.host := rfl
@[simp] theorem Core.setLgrp_locks (n : Nat) (x : LgrpS) : (c.setLgrp n x).locks = c.locks := rfl
@[simp] theorem Core.setLgrp_power (n : Nat) (x : LgrpS) : (c.setLgrp n x).power = c.power := rfl
@[simp] theorem Core.setLgrp_plant (n : Nat) (x : LgrpS) : (c.setLgrp n x).plant = c.plant := rfl
@[simp] theorem Core.setLgrp_pilot (n : Nat) (x : LgrpS) : (c.setLgrp n x).pilot = c.pilot := rfl
@[simp] theorem Core.setLgrp_time (n : Nat) (x : LgrpS) : (c.setLgrp n x).time = c.time := rfl
@[simp] theorem Core.setLgrp_insp (n : Nat) (x : LgrpS) : (c.setLgrp n x).insp = c.insp := rfl
@[simp] theorem Core.setLgrp_dbg (n : Nat) (x : LgrpS) : (c.setLgrp n x).dbg = c.dbg := rfl
@[simp] theorem Core.setLgrp_out (n : Nat) (x : LgrpS) : (c.setLgrp n x).out = c.out := rfl
@[simp] theorem Core.setLgrp_free (n : Nat) (x : LgrpS) : (c.setLgrp n x).free = c.free := rfl

/-! ### setChanter -/

@[simp] theorem Core.setChanter_part (n : Nat) (x : ChanterS) : (c.setChanter n x).part = c.part := rfl
@[simp] theorem Core.setChanter_otp (n : Nat) (x : ChanterS) : (c.setChanter n x).otp = c.otp := rfl
@[simp] theorem Core.setChanter_droneOn (n : Nat) (x : ChanterS) : (c.setChanter n x).droneOn = c.droneOn := rfl
@[simp] theorem Core.setChanter_perst (n : Nat) (x : ChanterS) : (c.setChanter n x).perst = c.perst := rfl
@[simp] theorem Core.setChanter_railBad (n : Nat) (x : ChanterS) : (c.setChanter n x).railBad = c.railBad := rfl
@[simp] theorem Core.setChanter_railN (n : Nat) (x : ChanterS) : (c.setChanter n x).railN = c.railN := rfl
@[simp] theorem Core.setChanter_regs (n : Nat) (x : ChanterS) : (c.setChanter n x).regs = c.regs := rfl
@[simp] theorem Core.setChanter_snap (n : Nat) (x : ChanterS) : (c.setChanter n x).snap = c.snap := rfl
@[simp] theorem Core.setChanter_posted (n : Nat) (x : ChanterS) : (c.setChanter n x).posted = c.posted := rfl
@[simp] theorem Core.setChanter_pend (n : Nat) (x : ChanterS) : (c.setChanter n x).pend = c.pend := rfl
@[simp] theorem Core.setChanter_faulted (n : Nat) (x : ChanterS) : (c.setChanter n x).faulted = c.faulted := rfl
@[simp] theorem Core.setChanter_bxbPrio (n : Nat) (x : ChanterS) : (c.setChanter n x).bxbPrio = c.bxbPrio := rfl
@[simp] theorem Core.setChanter_io (n : Nat) (x : ChanterS) : (c.setChanter n x).io = c.io := rfl
@[simp] theorem Core.setChanter_lanes (n : Nat) (x : ChanterS) : (c.setChanter n x).lanes = c.lanes := rfl
@[simp] theorem Core.setChanter_lgrps (n : Nat) (x : ChanterS) : (c.setChanter n x).lgrps = c.lgrps := rfl
@[simp] theorem Core.setChanter_ingest (n : Nat) (x : ChanterS) : (c.setChanter n x).ingest = c.ingest := rfl
@[simp] theorem Core.setChanter_chan (n : Nat) (x : ChanterS) : (c.setChanter n x).chan = c.chan := rfl
@[simp] theorem Core.setChanter_img (n : Nat) (x : ChanterS) : (c.setChanter n x).img = c.img := rfl
@[simp] theorem Core.setChanter_imgSt (n : Nat) (x : ChanterS) : (c.setChanter n x).imgSt = c.imgSt := rfl
@[simp] theorem Core.setChanter_imgReason (n : Nat) (x : ChanterS) : (c.setChanter n x).imgReason = c.imgReason := rfl
@[simp] theorem Core.setChanter_imgMode (n : Nat) (x : ChanterS) : (c.setChanter n x).imgMode = c.imgMode := rfl
@[simp] theorem Core.setChanter_links (n : Nat) (x : ChanterS) : (c.setChanter n x).links = c.links := rfl
@[simp] theorem Core.setChanter_xdies (n : Nat) (x : ChanterS) : (c.setChanter n x).xdies = c.xdies := rfl
@[simp] theorem Core.setChanter_targets (n : Nat) (x : ChanterS) : (c.setChanter n x).targets = c.targets := rfl
@[simp] theorem Core.setChanter_stacksOf (n : Nat) (x : ChanterS) : (c.setChanter n x).stacksOf = c.stacksOf := rfl
@[simp] theorem Core.setChanter_host (n : Nat) (x : ChanterS) : (c.setChanter n x).host = c.host := rfl
@[simp] theorem Core.setChanter_locks (n : Nat) (x : ChanterS) : (c.setChanter n x).locks = c.locks := rfl
@[simp] theorem Core.setChanter_power (n : Nat) (x : ChanterS) : (c.setChanter n x).power = c.power := rfl
@[simp] theorem Core.setChanter_plant (n : Nat) (x : ChanterS) : (c.setChanter n x).plant = c.plant := rfl
@[simp] theorem Core.setChanter_pilot (n : Nat) (x : ChanterS) : (c.setChanter n x).pilot = c.pilot := rfl
@[simp] theorem Core.setChanter_time (n : Nat) (x : ChanterS) : (c.setChanter n x).time = c.time := rfl
@[simp] theorem Core.setChanter_insp (n : Nat) (x : ChanterS) : (c.setChanter n x).insp = c.insp := rfl
@[simp] theorem Core.setChanter_dbg (n : Nat) (x : ChanterS) : (c.setChanter n x).dbg = c.dbg := rfl
@[simp] theorem Core.setChanter_out (n : Nat) (x : ChanterS) : (c.setChanter n x).out = c.out := rfl
@[simp] theorem Core.setChanter_free (n : Nat) (x : ChanterS) : (c.setChanter n x).free = c.free := rfl

/-! ### setX -/

@[simp] theorem Core.setX_part (n : Nat) (x : XDieS) : (c.setX n x).part = c.part := rfl
@[simp] theorem Core.setX_otp (n : Nat) (x : XDieS) : (c.setX n x).otp = c.otp := rfl
@[simp] theorem Core.setX_droneOn (n : Nat) (x : XDieS) : (c.setX n x).droneOn = c.droneOn := rfl
@[simp] theorem Core.setX_perst (n : Nat) (x : XDieS) : (c.setX n x).perst = c.perst := rfl
@[simp] theorem Core.setX_railBad (n : Nat) (x : XDieS) : (c.setX n x).railBad = c.railBad := rfl
@[simp] theorem Core.setX_railN (n : Nat) (x : XDieS) : (c.setX n x).railN = c.railN := rfl
@[simp] theorem Core.setX_regs (n : Nat) (x : XDieS) : (c.setX n x).regs = c.regs := rfl
@[simp] theorem Core.setX_snap (n : Nat) (x : XDieS) : (c.setX n x).snap = c.snap := rfl
@[simp] theorem Core.setX_posted (n : Nat) (x : XDieS) : (c.setX n x).posted = c.posted := rfl
@[simp] theorem Core.setX_pend (n : Nat) (x : XDieS) : (c.setX n x).pend = c.pend := rfl
@[simp] theorem Core.setX_faulted (n : Nat) (x : XDieS) : (c.setX n x).faulted = c.faulted := rfl
@[simp] theorem Core.setX_bxbPrio (n : Nat) (x : XDieS) : (c.setX n x).bxbPrio = c.bxbPrio := rfl
@[simp] theorem Core.setX_io (n : Nat) (x : XDieS) : (c.setX n x).io = c.io := rfl
@[simp] theorem Core.setX_lanes (n : Nat) (x : XDieS) : (c.setX n x).lanes = c.lanes := rfl
@[simp] theorem Core.setX_lgrps (n : Nat) (x : XDieS) : (c.setX n x).lgrps = c.lgrps := rfl
@[simp] theorem Core.setX_ingest (n : Nat) (x : XDieS) : (c.setX n x).ingest = c.ingest := rfl
@[simp] theorem Core.setX_chan (n : Nat) (x : XDieS) : (c.setX n x).chan = c.chan := rfl
@[simp] theorem Core.setX_img (n : Nat) (x : XDieS) : (c.setX n x).img = c.img := rfl
@[simp] theorem Core.setX_imgSt (n : Nat) (x : XDieS) : (c.setX n x).imgSt = c.imgSt := rfl
@[simp] theorem Core.setX_imgReason (n : Nat) (x : XDieS) : (c.setX n x).imgReason = c.imgReason := rfl
@[simp] theorem Core.setX_imgMode (n : Nat) (x : XDieS) : (c.setX n x).imgMode = c.imgMode := rfl
@[simp] theorem Core.setX_links (n : Nat) (x : XDieS) : (c.setX n x).links = c.links := rfl
@[simp] theorem Core.setX_chanters (n : Nat) (x : XDieS) : (c.setX n x).chanters = c.chanters := rfl
@[simp] theorem Core.setX_targets (n : Nat) (x : XDieS) : (c.setX n x).targets = c.targets := rfl
@[simp] theorem Core.setX_stacksOf (n : Nat) (x : XDieS) : (c.setX n x).stacksOf = c.stacksOf := rfl
@[simp] theorem Core.setX_host (n : Nat) (x : XDieS) : (c.setX n x).host = c.host := rfl
@[simp] theorem Core.setX_locks (n : Nat) (x : XDieS) : (c.setX n x).locks = c.locks := rfl
@[simp] theorem Core.setX_power (n : Nat) (x : XDieS) : (c.setX n x).power = c.power := rfl
@[simp] theorem Core.setX_plant (n : Nat) (x : XDieS) : (c.setX n x).plant = c.plant := rfl
@[simp] theorem Core.setX_pilot (n : Nat) (x : XDieS) : (c.setX n x).pilot = c.pilot := rfl
@[simp] theorem Core.setX_time (n : Nat) (x : XDieS) : (c.setX n x).time = c.time := rfl
@[simp] theorem Core.setX_insp (n : Nat) (x : XDieS) : (c.setX n x).insp = c.insp := rfl
@[simp] theorem Core.setX_dbg (n : Nat) (x : XDieS) : (c.setX n x).dbg = c.dbg := rfl
@[simp] theorem Core.setX_out (n : Nat) (x : XDieS) : (c.setX n x).out = c.out := rfl
@[simp] theorem Core.setX_free (n : Nat) (x : XDieS) : (c.setX n x).free = c.free := rfl

/-! ### setTarget -/

@[simp] theorem Core.setTarget_part (n : Nat) (x : TargetS) : (c.setTarget n x).part = c.part := rfl
@[simp] theorem Core.setTarget_otp (n : Nat) (x : TargetS) : (c.setTarget n x).otp = c.otp := rfl
@[simp] theorem Core.setTarget_droneOn (n : Nat) (x : TargetS) : (c.setTarget n x).droneOn = c.droneOn := rfl
@[simp] theorem Core.setTarget_perst (n : Nat) (x : TargetS) : (c.setTarget n x).perst = c.perst := rfl
@[simp] theorem Core.setTarget_railBad (n : Nat) (x : TargetS) : (c.setTarget n x).railBad = c.railBad := rfl
@[simp] theorem Core.setTarget_railN (n : Nat) (x : TargetS) : (c.setTarget n x).railN = c.railN := rfl
@[simp] theorem Core.setTarget_regs (n : Nat) (x : TargetS) : (c.setTarget n x).regs = c.regs := rfl
@[simp] theorem Core.setTarget_snap (n : Nat) (x : TargetS) : (c.setTarget n x).snap = c.snap := rfl
@[simp] theorem Core.setTarget_posted (n : Nat) (x : TargetS) : (c.setTarget n x).posted = c.posted := rfl
@[simp] theorem Core.setTarget_pend (n : Nat) (x : TargetS) : (c.setTarget n x).pend = c.pend := rfl
@[simp] theorem Core.setTarget_faulted (n : Nat) (x : TargetS) : (c.setTarget n x).faulted = c.faulted := rfl
@[simp] theorem Core.setTarget_bxbPrio (n : Nat) (x : TargetS) : (c.setTarget n x).bxbPrio = c.bxbPrio := rfl
@[simp] theorem Core.setTarget_io (n : Nat) (x : TargetS) : (c.setTarget n x).io = c.io := rfl
@[simp] theorem Core.setTarget_lanes (n : Nat) (x : TargetS) : (c.setTarget n x).lanes = c.lanes := rfl
@[simp] theorem Core.setTarget_lgrps (n : Nat) (x : TargetS) : (c.setTarget n x).lgrps = c.lgrps := rfl
@[simp] theorem Core.setTarget_ingest (n : Nat) (x : TargetS) : (c.setTarget n x).ingest = c.ingest := rfl
@[simp] theorem Core.setTarget_chan (n : Nat) (x : TargetS) : (c.setTarget n x).chan = c.chan := rfl
@[simp] theorem Core.setTarget_img (n : Nat) (x : TargetS) : (c.setTarget n x).img = c.img := rfl
@[simp] theorem Core.setTarget_imgSt (n : Nat) (x : TargetS) : (c.setTarget n x).imgSt = c.imgSt := rfl
@[simp] theorem Core.setTarget_imgReason (n : Nat) (x : TargetS) : (c.setTarget n x).imgReason = c.imgReason := rfl
@[simp] theorem Core.setTarget_imgMode (n : Nat) (x : TargetS) : (c.setTarget n x).imgMode = c.imgMode := rfl
@[simp] theorem Core.setTarget_links (n : Nat) (x : TargetS) : (c.setTarget n x).links = c.links := rfl
@[simp] theorem Core.setTarget_chanters (n : Nat) (x : TargetS) : (c.setTarget n x).chanters = c.chanters := rfl
@[simp] theorem Core.setTarget_xdies (n : Nat) (x : TargetS) : (c.setTarget n x).xdies = c.xdies := rfl
@[simp] theorem Core.setTarget_stacksOf (n : Nat) (x : TargetS) : (c.setTarget n x).stacksOf = c.stacksOf := rfl
@[simp] theorem Core.setTarget_host (n : Nat) (x : TargetS) : (c.setTarget n x).host = c.host := rfl
@[simp] theorem Core.setTarget_locks (n : Nat) (x : TargetS) : (c.setTarget n x).locks = c.locks := rfl
@[simp] theorem Core.setTarget_power (n : Nat) (x : TargetS) : (c.setTarget n x).power = c.power := rfl
@[simp] theorem Core.setTarget_plant (n : Nat) (x : TargetS) : (c.setTarget n x).plant = c.plant := rfl
@[simp] theorem Core.setTarget_pilot (n : Nat) (x : TargetS) : (c.setTarget n x).pilot = c.pilot := rfl
@[simp] theorem Core.setTarget_time (n : Nat) (x : TargetS) : (c.setTarget n x).time = c.time := rfl
@[simp] theorem Core.setTarget_insp (n : Nat) (x : TargetS) : (c.setTarget n x).insp = c.insp := rfl
@[simp] theorem Core.setTarget_dbg (n : Nat) (x : TargetS) : (c.setTarget n x).dbg = c.dbg := rfl
@[simp] theorem Core.setTarget_out (n : Nat) (x : TargetS) : (c.setTarget n x).out = c.out := rfl
@[simp] theorem Core.setTarget_free (n : Nat) (x : TargetS) : (c.setTarget n x).free = c.free := rfl

/-! ### setStack -/

@[simp] theorem Core.setStack_part (n : Nat) (x : StackS) : (c.setStack n x).part = c.part := rfl
@[simp] theorem Core.setStack_otp (n : Nat) (x : StackS) : (c.setStack n x).otp = c.otp := rfl
@[simp] theorem Core.setStack_droneOn (n : Nat) (x : StackS) : (c.setStack n x).droneOn = c.droneOn := rfl
@[simp] theorem Core.setStack_perst (n : Nat) (x : StackS) : (c.setStack n x).perst = c.perst := rfl
@[simp] theorem Core.setStack_railBad (n : Nat) (x : StackS) : (c.setStack n x).railBad = c.railBad := rfl
@[simp] theorem Core.setStack_railN (n : Nat) (x : StackS) : (c.setStack n x).railN = c.railN := rfl
@[simp] theorem Core.setStack_regs (n : Nat) (x : StackS) : (c.setStack n x).regs = c.regs := rfl
@[simp] theorem Core.setStack_snap (n : Nat) (x : StackS) : (c.setStack n x).snap = c.snap := rfl
@[simp] theorem Core.setStack_posted (n : Nat) (x : StackS) : (c.setStack n x).posted = c.posted := rfl
@[simp] theorem Core.setStack_pend (n : Nat) (x : StackS) : (c.setStack n x).pend = c.pend := rfl
@[simp] theorem Core.setStack_faulted (n : Nat) (x : StackS) : (c.setStack n x).faulted = c.faulted := rfl
@[simp] theorem Core.setStack_bxbPrio (n : Nat) (x : StackS) : (c.setStack n x).bxbPrio = c.bxbPrio := rfl
@[simp] theorem Core.setStack_io (n : Nat) (x : StackS) : (c.setStack n x).io = c.io := rfl
@[simp] theorem Core.setStack_lanes (n : Nat) (x : StackS) : (c.setStack n x).lanes = c.lanes := rfl
@[simp] theorem Core.setStack_lgrps (n : Nat) (x : StackS) : (c.setStack n x).lgrps = c.lgrps := rfl
@[simp] theorem Core.setStack_ingest (n : Nat) (x : StackS) : (c.setStack n x).ingest = c.ingest := rfl
@[simp] theorem Core.setStack_chan (n : Nat) (x : StackS) : (c.setStack n x).chan = c.chan := rfl
@[simp] theorem Core.setStack_img (n : Nat) (x : StackS) : (c.setStack n x).img = c.img := rfl
@[simp] theorem Core.setStack_imgSt (n : Nat) (x : StackS) : (c.setStack n x).imgSt = c.imgSt := rfl
@[simp] theorem Core.setStack_imgReason (n : Nat) (x : StackS) : (c.setStack n x).imgReason = c.imgReason := rfl
@[simp] theorem Core.setStack_imgMode (n : Nat) (x : StackS) : (c.setStack n x).imgMode = c.imgMode := rfl
@[simp] theorem Core.setStack_links (n : Nat) (x : StackS) : (c.setStack n x).links = c.links := rfl
@[simp] theorem Core.setStack_chanters (n : Nat) (x : StackS) : (c.setStack n x).chanters = c.chanters := rfl
@[simp] theorem Core.setStack_xdies (n : Nat) (x : StackS) : (c.setStack n x).xdies = c.xdies := rfl
@[simp] theorem Core.setStack_targets (n : Nat) (x : StackS) : (c.setStack n x).targets = c.targets := rfl
@[simp] theorem Core.setStack_host (n : Nat) (x : StackS) : (c.setStack n x).host = c.host := rfl
@[simp] theorem Core.setStack_locks (n : Nat) (x : StackS) : (c.setStack n x).locks = c.locks := rfl
@[simp] theorem Core.setStack_power (n : Nat) (x : StackS) : (c.setStack n x).power = c.power := rfl
@[simp] theorem Core.setStack_plant (n : Nat) (x : StackS) : (c.setStack n x).plant = c.plant := rfl
@[simp] theorem Core.setStack_pilot (n : Nat) (x : StackS) : (c.setStack n x).pilot = c.pilot := rfl
@[simp] theorem Core.setStack_time (n : Nat) (x : StackS) : (c.setStack n x).time = c.time := rfl
@[simp] theorem Core.setStack_insp (n : Nat) (x : StackS) : (c.setStack n x).insp = c.insp := rfl
@[simp] theorem Core.setStack_dbg (n : Nat) (x : StackS) : (c.setStack n x).dbg = c.dbg := rfl
@[simp] theorem Core.setStack_out (n : Nat) (x : StackS) : (c.setStack n x).out = c.out := rfl
@[simp] theorem Core.setStack_free (n : Nat) (x : StackS) : (c.setStack n x).free = c.free := rfl

/-! ### setRing -/

@[simp] theorem Core.setRing_part (n : Nat) (x : RingS) : (c.setRing n x).part = c.part := rfl
@[simp] theorem Core.setRing_otp (n : Nat) (x : RingS) : (c.setRing n x).otp = c.otp := rfl
@[simp] theorem Core.setRing_droneOn (n : Nat) (x : RingS) : (c.setRing n x).droneOn = c.droneOn := rfl
@[simp] theorem Core.setRing_perst (n : Nat) (x : RingS) : (c.setRing n x).perst = c.perst := rfl
@[simp] theorem Core.setRing_railBad (n : Nat) (x : RingS) : (c.setRing n x).railBad = c.railBad := rfl
@[simp] theorem Core.setRing_railN (n : Nat) (x : RingS) : (c.setRing n x).railN = c.railN := rfl
@[simp] theorem Core.setRing_regs (n : Nat) (x : RingS) : (c.setRing n x).regs = c.regs := rfl
@[simp] theorem Core.setRing_snap (n : Nat) (x : RingS) : (c.setRing n x).snap = c.snap := rfl
@[simp] theorem Core.setRing_posted (n : Nat) (x : RingS) : (c.setRing n x).posted = c.posted := rfl
@[simp] theorem Core.setRing_pend (n : Nat) (x : RingS) : (c.setRing n x).pend = c.pend := rfl
@[simp] theorem Core.setRing_faulted (n : Nat) (x : RingS) : (c.setRing n x).faulted = c.faulted := rfl
@[simp] theorem Core.setRing_bxbPrio (n : Nat) (x : RingS) : (c.setRing n x).bxbPrio = c.bxbPrio := rfl
@[simp] theorem Core.setRing_io (n : Nat) (x : RingS) : (c.setRing n x).io = c.io := rfl
@[simp] theorem Core.setRing_lanes (n : Nat) (x : RingS) : (c.setRing n x).lanes = c.lanes := rfl
@[simp] theorem Core.setRing_lgrps (n : Nat) (x : RingS) : (c.setRing n x).lgrps = c.lgrps := rfl
@[simp] theorem Core.setRing_ingest (n : Nat) (x : RingS) : (c.setRing n x).ingest = c.ingest := rfl
@[simp] theorem Core.setRing_chan (n : Nat) (x : RingS) : (c.setRing n x).chan = c.chan := rfl
@[simp] theorem Core.setRing_img (n : Nat) (x : RingS) : (c.setRing n x).img = c.img := rfl
@[simp] theorem Core.setRing_imgSt (n : Nat) (x : RingS) : (c.setRing n x).imgSt = c.imgSt := rfl
@[simp] theorem Core.setRing_imgReason (n : Nat) (x : RingS) : (c.setRing n x).imgReason = c.imgReason := rfl
@[simp] theorem Core.setRing_imgMode (n : Nat) (x : RingS) : (c.setRing n x).imgMode = c.imgMode := rfl
@[simp] theorem Core.setRing_links (n : Nat) (x : RingS) : (c.setRing n x).links = c.links := rfl
@[simp] theorem Core.setRing_chanters (n : Nat) (x : RingS) : (c.setRing n x).chanters = c.chanters := rfl
@[simp] theorem Core.setRing_xdies (n : Nat) (x : RingS) : (c.setRing n x).xdies = c.xdies := rfl
@[simp] theorem Core.setRing_targets (n : Nat) (x : RingS) : (c.setRing n x).targets = c.targets := rfl
@[simp] theorem Core.setRing_stacksOf (n : Nat) (x : RingS) : (c.setRing n x).stacksOf = c.stacksOf := rfl
@[simp] theorem Core.setRing_locks (n : Nat) (x : RingS) : (c.setRing n x).locks = c.locks := rfl
@[simp] theorem Core.setRing_power (n : Nat) (x : RingS) : (c.setRing n x).power = c.power := rfl
@[simp] theorem Core.setRing_plant (n : Nat) (x : RingS) : (c.setRing n x).plant = c.plant := rfl
@[simp] theorem Core.setRing_pilot (n : Nat) (x : RingS) : (c.setRing n x).pilot = c.pilot := rfl
@[simp] theorem Core.setRing_time (n : Nat) (x : RingS) : (c.setRing n x).time = c.time := rfl
@[simp] theorem Core.setRing_insp (n : Nat) (x : RingS) : (c.setRing n x).insp = c.insp := rfl
@[simp] theorem Core.setRing_dbg (n : Nat) (x : RingS) : (c.setRing n x).dbg = c.dbg := rfl
@[simp] theorem Core.setRing_out (n : Nat) (x : RingS) : (c.setRing n x).out = c.out := rfl
@[simp] theorem Core.setRing_free (n : Nat) (x : RingS) : (c.setRing n x).free = c.free := rfl

/-! ### setDma -/

@[simp] theorem Core.setDma_part (n : Nat) (x : DmaS) : (c.setDma n x).part = c.part := rfl
@[simp] theorem Core.setDma_otp (n : Nat) (x : DmaS) : (c.setDma n x).otp = c.otp := rfl
@[simp] theorem Core.setDma_droneOn (n : Nat) (x : DmaS) : (c.setDma n x).droneOn = c.droneOn := rfl
@[simp] theorem Core.setDma_perst (n : Nat) (x : DmaS) : (c.setDma n x).perst = c.perst := rfl
@[simp] theorem Core.setDma_railBad (n : Nat) (x : DmaS) : (c.setDma n x).railBad = c.railBad := rfl
@[simp] theorem Core.setDma_railN (n : Nat) (x : DmaS) : (c.setDma n x).railN = c.railN := rfl
@[simp] theorem Core.setDma_regs (n : Nat) (x : DmaS) : (c.setDma n x).regs = c.regs := rfl
@[simp] theorem Core.setDma_snap (n : Nat) (x : DmaS) : (c.setDma n x).snap = c.snap := rfl
@[simp] theorem Core.setDma_posted (n : Nat) (x : DmaS) : (c.setDma n x).posted = c.posted := rfl
@[simp] theorem Core.setDma_pend (n : Nat) (x : DmaS) : (c.setDma n x).pend = c.pend := rfl
@[simp] theorem Core.setDma_faulted (n : Nat) (x : DmaS) : (c.setDma n x).faulted = c.faulted := rfl
@[simp] theorem Core.setDma_bxbPrio (n : Nat) (x : DmaS) : (c.setDma n x).bxbPrio = c.bxbPrio := rfl
@[simp] theorem Core.setDma_io (n : Nat) (x : DmaS) : (c.setDma n x).io = c.io := rfl
@[simp] theorem Core.setDma_lanes (n : Nat) (x : DmaS) : (c.setDma n x).lanes = c.lanes := rfl
@[simp] theorem Core.setDma_lgrps (n : Nat) (x : DmaS) : (c.setDma n x).lgrps = c.lgrps := rfl
@[simp] theorem Core.setDma_ingest (n : Nat) (x : DmaS) : (c.setDma n x).ingest = c.ingest := rfl
@[simp] theorem Core.setDma_chan (n : Nat) (x : DmaS) : (c.setDma n x).chan = c.chan := rfl
@[simp] theorem Core.setDma_img (n : Nat) (x : DmaS) : (c.setDma n x).img = c.img := rfl
@[simp] theorem Core.setDma_imgSt (n : Nat) (x : DmaS) : (c.setDma n x).imgSt = c.imgSt := rfl
@[simp] theorem Core.setDma_imgReason (n : Nat) (x : DmaS) : (c.setDma n x).imgReason = c.imgReason := rfl
@[simp] theorem Core.setDma_imgMode (n : Nat) (x : DmaS) : (c.setDma n x).imgMode = c.imgMode := rfl
@[simp] theorem Core.setDma_links (n : Nat) (x : DmaS) : (c.setDma n x).links = c.links := rfl
@[simp] theorem Core.setDma_chanters (n : Nat) (x : DmaS) : (c.setDma n x).chanters = c.chanters := rfl
@[simp] theorem Core.setDma_xdies (n : Nat) (x : DmaS) : (c.setDma n x).xdies = c.xdies := rfl
@[simp] theorem Core.setDma_targets (n : Nat) (x : DmaS) : (c.setDma n x).targets = c.targets := rfl
@[simp] theorem Core.setDma_stacksOf (n : Nat) (x : DmaS) : (c.setDma n x).stacksOf = c.stacksOf := rfl
@[simp] theorem Core.setDma_locks (n : Nat) (x : DmaS) : (c.setDma n x).locks = c.locks := rfl
@[simp] theorem Core.setDma_power (n : Nat) (x : DmaS) : (c.setDma n x).power = c.power := rfl
@[simp] theorem Core.setDma_plant (n : Nat) (x : DmaS) : (c.setDma n x).plant = c.plant := rfl
@[simp] theorem Core.setDma_pilot (n : Nat) (x : DmaS) : (c.setDma n x).pilot = c.pilot := rfl
@[simp] theorem Core.setDma_time (n : Nat) (x : DmaS) : (c.setDma n x).time = c.time := rfl
@[simp] theorem Core.setDma_insp (n : Nat) (x : DmaS) : (c.setDma n x).insp = c.insp := rfl
@[simp] theorem Core.setDma_dbg (n : Nat) (x : DmaS) : (c.setDma n x).dbg = c.dbg := rfl
@[simp] theorem Core.setDma_out (n : Nat) (x : DmaS) : (c.setDma n x).out = c.out := rfl
@[simp] theorem Core.setDma_free (n : Nat) (x : DmaS) : (c.setDma n x).free = c.free := rfl

/-! ### setInsp -/

@[simp] theorem Core.setInsp_part (n : Nat) (x : InspS) : (c.setInsp n x).part = c.part := rfl
@[simp] theorem Core.setInsp_otp (n : Nat) (x : InspS) : (c.setInsp n x).otp = c.otp := rfl
@[simp] theorem Core.setInsp_droneOn (n : Nat) (x : InspS) : (c.setInsp n x).droneOn = c.droneOn := rfl
@[simp] theorem Core.setInsp_perst (n : Nat) (x : InspS) : (c.setInsp n x).perst = c.perst := rfl
@[simp] theorem Core.setInsp_railBad (n : Nat) (x : InspS) : (c.setInsp n x).railBad = c.railBad := rfl
@[simp] theorem Core.setInsp_railN (n : Nat) (x : InspS) : (c.setInsp n x).railN = c.railN := rfl
@[simp] theorem Core.setInsp_regs (n : Nat) (x : InspS) : (c.setInsp n x).regs = c.regs := rfl
@[simp] theorem Core.setInsp_snap (n : Nat) (x : InspS) : (c.setInsp n x).snap = c.snap := rfl
@[simp] theorem Core.setInsp_posted (n : Nat) (x : InspS) : (c.setInsp n x).posted = c.posted := rfl
@[simp] theorem Core.setInsp_pend (n : Nat) (x : InspS) : (c.setInsp n x).pend = c.pend := rfl
@[simp] theorem Core.setInsp_faulted (n : Nat) (x : InspS) : (c.setInsp n x).faulted = c.faulted := rfl
@[simp] theorem Core.setInsp_bxbPrio (n : Nat) (x : InspS) : (c.setInsp n x).bxbPrio = c.bxbPrio := rfl
@[simp] theorem Core.setInsp_io (n : Nat) (x : InspS) : (c.setInsp n x).io = c.io := rfl
@[simp] theorem Core.setInsp_lanes (n : Nat) (x : InspS) : (c.setInsp n x).lanes = c.lanes := rfl
@[simp] theorem Core.setInsp_lgrps (n : Nat) (x : InspS) : (c.setInsp n x).lgrps = c.lgrps := rfl
@[simp] theorem Core.setInsp_ingest (n : Nat) (x : InspS) : (c.setInsp n x).ingest = c.ingest := rfl
@[simp] theorem Core.setInsp_chan (n : Nat) (x : InspS) : (c.setInsp n x).chan = c.chan := rfl
@[simp] theorem Core.setInsp_img (n : Nat) (x : InspS) : (c.setInsp n x).img = c.img := rfl
@[simp] theorem Core.setInsp_imgSt (n : Nat) (x : InspS) : (c.setInsp n x).imgSt = c.imgSt := rfl
@[simp] theorem Core.setInsp_imgReason (n : Nat) (x : InspS) : (c.setInsp n x).imgReason = c.imgReason := rfl
@[simp] theorem Core.setInsp_imgMode (n : Nat) (x : InspS) : (c.setInsp n x).imgMode = c.imgMode := rfl
@[simp] theorem Core.setInsp_links (n : Nat) (x : InspS) : (c.setInsp n x).links = c.links := rfl
@[simp] theorem Core.setInsp_chanters (n : Nat) (x : InspS) : (c.setInsp n x).chanters = c.chanters := rfl
@[simp] theorem Core.setInsp_xdies (n : Nat) (x : InspS) : (c.setInsp n x).xdies = c.xdies := rfl
@[simp] theorem Core.setInsp_targets (n : Nat) (x : InspS) : (c.setInsp n x).targets = c.targets := rfl
@[simp] theorem Core.setInsp_stacksOf (n : Nat) (x : InspS) : (c.setInsp n x).stacksOf = c.stacksOf := rfl
@[simp] theorem Core.setInsp_host (n : Nat) (x : InspS) : (c.setInsp n x).host = c.host := rfl
@[simp] theorem Core.setInsp_locks (n : Nat) (x : InspS) : (c.setInsp n x).locks = c.locks := rfl
@[simp] theorem Core.setInsp_power (n : Nat) (x : InspS) : (c.setInsp n x).power = c.power := rfl
@[simp] theorem Core.setInsp_plant (n : Nat) (x : InspS) : (c.setInsp n x).plant = c.plant := rfl
@[simp] theorem Core.setInsp_pilot (n : Nat) (x : InspS) : (c.setInsp n x).pilot = c.pilot := rfl
@[simp] theorem Core.setInsp_time (n : Nat) (x : InspS) : (c.setInsp n x).time = c.time := rfl
@[simp] theorem Core.setInsp_dbg (n : Nat) (x : InspS) : (c.setInsp n x).dbg = c.dbg := rfl
@[simp] theorem Core.setInsp_out (n : Nat) (x : InspS) : (c.setInsp n x).out = c.out := rfl
@[simp] theorem Core.setInsp_free (n : Nat) (x : InspS) : (c.setInsp n x).free = c.free := rfl

/-! ### setLock -/

@[simp] theorem Core.setLock_part (n : Nat) (x : LockS) : (c.setLock n x).part = c.part := rfl
@[simp] theorem Core.setLock_otp (n : Nat) (x : LockS) : (c.setLock n x).otp = c.otp := rfl
@[simp] theorem Core.setLock_droneOn (n : Nat) (x : LockS) : (c.setLock n x).droneOn = c.droneOn := rfl
@[simp] theorem Core.setLock_perst (n : Nat) (x : LockS) : (c.setLock n x).perst = c.perst := rfl
@[simp] theorem Core.setLock_railBad (n : Nat) (x : LockS) : (c.setLock n x).railBad = c.railBad := rfl
@[simp] theorem Core.setLock_railN (n : Nat) (x : LockS) : (c.setLock n x).railN = c.railN := rfl
@[simp] theorem Core.setLock_regs (n : Nat) (x : LockS) : (c.setLock n x).regs = c.regs := rfl
@[simp] theorem Core.setLock_snap (n : Nat) (x : LockS) : (c.setLock n x).snap = c.snap := rfl
@[simp] theorem Core.setLock_posted (n : Nat) (x : LockS) : (c.setLock n x).posted = c.posted := rfl
@[simp] theorem Core.setLock_pend (n : Nat) (x : LockS) : (c.setLock n x).pend = c.pend := rfl
@[simp] theorem Core.setLock_faulted (n : Nat) (x : LockS) : (c.setLock n x).faulted = c.faulted := rfl
@[simp] theorem Core.setLock_bxbPrio (n : Nat) (x : LockS) : (c.setLock n x).bxbPrio = c.bxbPrio := rfl
@[simp] theorem Core.setLock_io (n : Nat) (x : LockS) : (c.setLock n x).io = c.io := rfl
@[simp] theorem Core.setLock_lanes (n : Nat) (x : LockS) : (c.setLock n x).lanes = c.lanes := rfl
@[simp] theorem Core.setLock_lgrps (n : Nat) (x : LockS) : (c.setLock n x).lgrps = c.lgrps := rfl
@[simp] theorem Core.setLock_ingest (n : Nat) (x : LockS) : (c.setLock n x).ingest = c.ingest := rfl
@[simp] theorem Core.setLock_chan (n : Nat) (x : LockS) : (c.setLock n x).chan = c.chan := rfl
@[simp] theorem Core.setLock_img (n : Nat) (x : LockS) : (c.setLock n x).img = c.img := rfl
@[simp] theorem Core.setLock_imgSt (n : Nat) (x : LockS) : (c.setLock n x).imgSt = c.imgSt := rfl
@[simp] theorem Core.setLock_imgReason (n : Nat) (x : LockS) : (c.setLock n x).imgReason = c.imgReason := rfl
@[simp] theorem Core.setLock_imgMode (n : Nat) (x : LockS) : (c.setLock n x).imgMode = c.imgMode := rfl
@[simp] theorem Core.setLock_links (n : Nat) (x : LockS) : (c.setLock n x).links = c.links := rfl
@[simp] theorem Core.setLock_chanters (n : Nat) (x : LockS) : (c.setLock n x).chanters = c.chanters := rfl
@[simp] theorem Core.setLock_xdies (n : Nat) (x : LockS) : (c.setLock n x).xdies = c.xdies := rfl
@[simp] theorem Core.setLock_targets (n : Nat) (x : LockS) : (c.setLock n x).targets = c.targets := rfl
@[simp] theorem Core.setLock_stacksOf (n : Nat) (x : LockS) : (c.setLock n x).stacksOf = c.stacksOf := rfl
@[simp] theorem Core.setLock_host (n : Nat) (x : LockS) : (c.setLock n x).host = c.host := rfl
@[simp] theorem Core.setLock_power (n : Nat) (x : LockS) : (c.setLock n x).power = c.power := rfl
@[simp] theorem Core.setLock_plant (n : Nat) (x : LockS) : (c.setLock n x).plant = c.plant := rfl
@[simp] theorem Core.setLock_pilot (n : Nat) (x : LockS) : (c.setLock n x).pilot = c.pilot := rfl
@[simp] theorem Core.setLock_time (n : Nat) (x : LockS) : (c.setLock n x).time = c.time := rfl
@[simp] theorem Core.setLock_insp (n : Nat) (x : LockS) : (c.setLock n x).insp = c.insp := rfl
@[simp] theorem Core.setLock_dbg (n : Nat) (x : LockS) : (c.setLock n x).dbg = c.dbg := rfl
@[simp] theorem Core.setLock_out (n : Nat) (x : LockS) : (c.setLock n x).out = c.out := rfl
@[simp] theorem Core.setLock_free (n : Nat) (x : LockS) : (c.setLock n x).free = c.free := rfl

/-! ### setDelay -/

@[simp] theorem Core.setDelay_part (n : Nat) (x : DelayS) : (c.setDelay n x).part = c.part := rfl
@[simp] theorem Core.setDelay_otp (n : Nat) (x : DelayS) : (c.setDelay n x).otp = c.otp := rfl
@[simp] theorem Core.setDelay_droneOn (n : Nat) (x : DelayS) : (c.setDelay n x).droneOn = c.droneOn := rfl
@[simp] theorem Core.setDelay_perst (n : Nat) (x : DelayS) : (c.setDelay n x).perst = c.perst := rfl
@[simp] theorem Core.setDelay_railBad (n : Nat) (x : DelayS) : (c.setDelay n x).railBad = c.railBad := rfl
@[simp] theorem Core.setDelay_railN (n : Nat) (x : DelayS) : (c.setDelay n x).railN = c.railN := rfl
@[simp] theorem Core.setDelay_regs (n : Nat) (x : DelayS) : (c.setDelay n x).regs = c.regs := rfl
@[simp] theorem Core.setDelay_snap (n : Nat) (x : DelayS) : (c.setDelay n x).snap = c.snap := rfl
@[simp] theorem Core.setDelay_posted (n : Nat) (x : DelayS) : (c.setDelay n x).posted = c.posted := rfl
@[simp] theorem Core.setDelay_pend (n : Nat) (x : DelayS) : (c.setDelay n x).pend = c.pend := rfl
@[simp] theorem Core.setDelay_faulted (n : Nat) (x : DelayS) : (c.setDelay n x).faulted = c.faulted := rfl
@[simp] theorem Core.setDelay_bxbPrio (n : Nat) (x : DelayS) : (c.setDelay n x).bxbPrio = c.bxbPrio := rfl
@[simp] theorem Core.setDelay_io (n : Nat) (x : DelayS) : (c.setDelay n x).io = c.io := rfl
@[simp] theorem Core.setDelay_lanes (n : Nat) (x : DelayS) : (c.setDelay n x).lanes = c.lanes := rfl
@[simp] theorem Core.setDelay_lgrps (n : Nat) (x : DelayS) : (c.setDelay n x).lgrps = c.lgrps := rfl
@[simp] theorem Core.setDelay_ingest (n : Nat) (x : DelayS) : (c.setDelay n x).ingest = c.ingest := rfl
@[simp] theorem Core.setDelay_img (n : Nat) (x : DelayS) : (c.setDelay n x).img = c.img := rfl
@[simp] theorem Core.setDelay_imgSt (n : Nat) (x : DelayS) : (c.setDelay n x).imgSt = c.imgSt := rfl
@[simp] theorem Core.setDelay_imgReason (n : Nat) (x : DelayS) : (c.setDelay n x).imgReason = c.imgReason := rfl
@[simp] theorem Core.setDelay_imgMode (n : Nat) (x : DelayS) : (c.setDelay n x).imgMode = c.imgMode := rfl
@[simp] theorem Core.setDelay_links (n : Nat) (x : DelayS) : (c.setDelay n x).links = c.links := rfl
@[simp] theorem Core.setDelay_chanters (n : Nat) (x : DelayS) : (c.setDelay n x).chanters = c.chanters := rfl
@[simp] theorem Core.setDelay_xdies (n : Nat) (x : DelayS) : (c.setDelay n x).xdies = c.xdies := rfl
@[simp] theorem Core.setDelay_targets (n : Nat) (x : DelayS) : (c.setDelay n x).targets = c.targets := rfl
@[simp] theorem Core.setDelay_stacksOf (n : Nat) (x : DelayS) : (c.setDelay n x).stacksOf = c.stacksOf := rfl
@[simp] theorem Core.setDelay_host (n : Nat) (x : DelayS) : (c.setDelay n x).host = c.host := rfl
@[simp] theorem Core.setDelay_locks (n : Nat) (x : DelayS) : (c.setDelay n x).locks = c.locks := rfl
@[simp] theorem Core.setDelay_power (n : Nat) (x : DelayS) : (c.setDelay n x).power = c.power := rfl
@[simp] theorem Core.setDelay_plant (n : Nat) (x : DelayS) : (c.setDelay n x).plant = c.plant := rfl
@[simp] theorem Core.setDelay_pilot (n : Nat) (x : DelayS) : (c.setDelay n x).pilot = c.pilot := rfl
@[simp] theorem Core.setDelay_time (n : Nat) (x : DelayS) : (c.setDelay n x).time = c.time := rfl
@[simp] theorem Core.setDelay_insp (n : Nat) (x : DelayS) : (c.setDelay n x).insp = c.insp := rfl
@[simp] theorem Core.setDelay_dbg (n : Nat) (x : DelayS) : (c.setDelay n x).dbg = c.dbg := rfl
@[simp] theorem Core.setDelay_out (n : Nat) (x : DelayS) : (c.setDelay n x).out = c.out := rfl
@[simp] theorem Core.setDelay_free (n : Nat) (x : DelayS) : (c.setDelay n x).free = c.free := rfl

/-! ### setReg -/

@[simp] theorem Core.setReg_part (n : Nat) (x : Word) : (c.setReg n x).part = c.part := rfl
@[simp] theorem Core.setReg_otp (n : Nat) (x : Word) : (c.setReg n x).otp = c.otp := rfl
@[simp] theorem Core.setReg_droneOn (n : Nat) (x : Word) : (c.setReg n x).droneOn = c.droneOn := rfl
@[simp] theorem Core.setReg_perst (n : Nat) (x : Word) : (c.setReg n x).perst = c.perst := rfl
@[simp] theorem Core.setReg_railBad (n : Nat) (x : Word) : (c.setReg n x).railBad = c.railBad := rfl
@[simp] theorem Core.setReg_railN (n : Nat) (x : Word) : (c.setReg n x).railN = c.railN := rfl
@[simp] theorem Core.setReg_snap (n : Nat) (x : Word) : (c.setReg n x).snap = c.snap := rfl
@[simp] theorem Core.setReg_posted (n : Nat) (x : Word) : (c.setReg n x).posted = c.posted := rfl
@[simp] theorem Core.setReg_pend (n : Nat) (x : Word) : (c.setReg n x).pend = c.pend := rfl
@[simp] theorem Core.setReg_faulted (n : Nat) (x : Word) : (c.setReg n x).faulted = c.faulted := rfl
@[simp] theorem Core.setReg_bxbPrio (n : Nat) (x : Word) : (c.setReg n x).bxbPrio = c.bxbPrio := rfl
@[simp] theorem Core.setReg_io (n : Nat) (x : Word) : (c.setReg n x).io = c.io := rfl
@[simp] theorem Core.setReg_lanes (n : Nat) (x : Word) : (c.setReg n x).lanes = c.lanes := rfl
@[simp] theorem Core.setReg_lgrps (n : Nat) (x : Word) : (c.setReg n x).lgrps = c.lgrps := rfl
@[simp] theorem Core.setReg_ingest (n : Nat) (x : Word) : (c.setReg n x).ingest = c.ingest := rfl
@[simp] theorem Core.setReg_chan (n : Nat) (x : Word) : (c.setReg n x).chan = c.chan := rfl
@[simp] theorem Core.setReg_img (n : Nat) (x : Word) : (c.setReg n x).img = c.img := rfl
@[simp] theorem Core.setReg_imgSt (n : Nat) (x : Word) : (c.setReg n x).imgSt = c.imgSt := rfl
@[simp] theorem Core.setReg_imgReason (n : Nat) (x : Word) : (c.setReg n x).imgReason = c.imgReason := rfl
@[simp] theorem Core.setReg_imgMode (n : Nat) (x : Word) : (c.setReg n x).imgMode = c.imgMode := rfl
@[simp] theorem Core.setReg_links (n : Nat) (x : Word) : (c.setReg n x).links = c.links := rfl
@[simp] theorem Core.setReg_chanters (n : Nat) (x : Word) : (c.setReg n x).chanters = c.chanters := rfl
@[simp] theorem Core.setReg_xdies (n : Nat) (x : Word) : (c.setReg n x).xdies = c.xdies := rfl
@[simp] theorem Core.setReg_targets (n : Nat) (x : Word) : (c.setReg n x).targets = c.targets := rfl
@[simp] theorem Core.setReg_stacksOf (n : Nat) (x : Word) : (c.setReg n x).stacksOf = c.stacksOf := rfl
@[simp] theorem Core.setReg_host (n : Nat) (x : Word) : (c.setReg n x).host = c.host := rfl
@[simp] theorem Core.setReg_locks (n : Nat) (x : Word) : (c.setReg n x).locks = c.locks := rfl
@[simp] theorem Core.setReg_power (n : Nat) (x : Word) : (c.setReg n x).power = c.power := rfl
@[simp] theorem Core.setReg_plant (n : Nat) (x : Word) : (c.setReg n x).plant = c.plant := rfl
@[simp] theorem Core.setReg_pilot (n : Nat) (x : Word) : (c.setReg n x).pilot = c.pilot := rfl
@[simp] theorem Core.setReg_time (n : Nat) (x : Word) : (c.setReg n x).time = c.time := rfl
@[simp] theorem Core.setReg_insp (n : Nat) (x : Word) : (c.setReg n x).insp = c.insp := rfl
@[simp] theorem Core.setReg_dbg (n : Nat) (x : Word) : (c.setReg n x).dbg = c.dbg := rfl
@[simp] theorem Core.setReg_out (n : Nat) (x : Word) : (c.setReg n x).out = c.out := rfl
@[simp] theorem Core.setReg_free (n : Nat) (x : Word) : (c.setReg n x).free = c.free := rfl

/-! ### wr -/

@[simp] theorem Core.wr_part (k : PageKind) (o v : Nat) : (c.wr k o v).part = c.part := rfl
@[simp] theorem Core.wr_otp (k : PageKind) (o v : Nat) : (c.wr k o v).otp = c.otp := rfl
@[simp] theorem Core.wr_droneOn (k : PageKind) (o v : Nat) : (c.wr k o v).droneOn = c.droneOn := rfl
@[simp] theorem Core.wr_perst (k : PageKind) (o v : Nat) : (c.wr k o v).perst = c.perst := rfl
@[simp] theorem Core.wr_railBad (k : PageKind) (o v : Nat) : (c.wr k o v).railBad = c.railBad := rfl
@[simp] theorem Core.wr_railN (k : PageKind) (o v : Nat) : (c.wr k o v).railN = c.railN := rfl
@[simp] theorem Core.wr_snap (k : PageKind) (o v : Nat) : (c.wr k o v).snap = c.snap := rfl
@[simp] theorem Core.wr_posted (k : PageKind) (o v : Nat) : (c.wr k o v).posted = c.posted := rfl
@[simp] theorem Core.wr_pend (k : PageKind) (o v : Nat) : (c.wr k o v).pend = c.pend := rfl
@[simp] theorem Core.wr_faulted (k : PageKind) (o v : Nat) : (c.wr k o v).faulted = c.faulted := rfl
@[simp] theorem Core.wr_bxbPrio (k : PageKind) (o v : Nat) : (c.wr k o v).bxbPrio = c.bxbPrio := rfl
@[simp] theorem Core.wr_io (k : PageKind) (o v : Nat) : (c.wr k o v).io = c.io := rfl
@[simp] theorem Core.wr_lanes (k : PageKind) (o v : Nat) : (c.wr k o v).lanes = c.lanes := rfl
@[simp] theorem Core.wr_lgrps (k : PageKind) (o v : Nat) : (c.wr k o v).lgrps = c.lgrps := rfl
@[simp] theorem Core.wr_ingest (k : PageKind) (o v : Nat) : (c.wr k o v).ingest = c.ingest := rfl
@[simp] theorem Core.wr_chan (k : PageKind) (o v : Nat) : (c.wr k o v).chan = c.chan := rfl
@[simp] theorem Core.wr_img (k : PageKind) (o v : Nat) : (c.wr k o v).img = c.img := rfl
@[simp] theorem Core.wr_imgSt (k : PageKind) (o v : Nat) : (c.wr k o v).imgSt = c.imgSt := rfl
@[simp] theorem Core.wr_imgReason (k : PageKind) (o v : Nat) : (c.wr k o v).imgReason = c.imgReason := rfl
@[simp] theorem Core.wr_imgMode (k : PageKind) (o v : Nat) : (c.wr k o v).imgMode = c.imgMode := rfl
@[simp] theorem Core.wr_links (k : PageKind) (o v : Nat) : (c.wr k o v).links = c.links := rfl
@[simp] theorem Core.wr_chanters (k : PageKind) (o v : Nat) : (c.wr k o v).chanters = c.chanters := rfl
@[simp] theorem Core.wr_xdies (k : PageKind) (o v : Nat) : (c.wr k o v).xdies = c.xdies := rfl
@[simp] theorem Core.wr_targets (k : PageKind) (o v : Nat) : (c.wr k o v).targets = c.targets := rfl
@[simp] theorem Core.wr_stacksOf (k : PageKind) (o v : Nat) : (c.wr k o v).stacksOf = c.stacksOf := rfl
@[simp] theorem Core.wr_host (k : PageKind) (o v : Nat) : (c.wr k o v).host = c.host := rfl
@[simp] theorem Core.wr_locks (k : PageKind) (o v : Nat) : (c.wr k o v).locks = c.locks := rfl
@[simp] theorem Core.wr_power (k : PageKind) (o v : Nat) : (c.wr k o v).power = c.power := rfl
@[simp] theorem Core.wr_plant (k : PageKind) (o v : Nat) : (c.wr k o v).plant = c.plant := rfl
@[simp] theorem Core.wr_pilot (k : PageKind) (o v : Nat) : (c.wr k o v).pilot = c.pilot := rfl
@[simp] theorem Core.wr_time (k : PageKind) (o v : Nat) : (c.wr k o v).time = c.time := rfl
@[simp] theorem Core.wr_insp (k : PageKind) (o v : Nat) : (c.wr k o v).insp = c.insp := rfl
@[simp] theorem Core.wr_dbg (k : PageKind) (o v : Nat) : (c.wr k o v).dbg = c.dbg := rfl
@[simp] theorem Core.wr_out (k : PageKind) (o v : Nat) : (c.wr k o v).out = c.out := rfl
@[simp] theorem Core.wr_free (k : PageKind) (o v : Nat) : (c.wr k o v).free = c.free := rfl

/-! ### inc -/

@[simp] theorem Core.inc_part (k : PageKind) (o n : Nat) : (c.inc k o n).part = c.part := rfl
@[simp] theorem Core.inc_otp (k : PageKind) (o n : Nat) : (c.inc k o n).otp = c.otp := rfl
@[simp] theorem Core.inc_droneOn (k : PageKind) (o n : Nat) : (c.inc k o n).droneOn = c.droneOn := rfl
@[simp] theorem Core.inc_perst (k : PageKind) (o n : Nat) : (c.inc k o n).perst = c.perst := rfl
@[simp] theorem Core.inc_railBad (k : PageKind) (o n : Nat) : (c.inc k o n).railBad = c.railBad := rfl
@[simp] theorem Core.inc_railN (k : PageKind) (o n : Nat) : (c.inc k o n).railN = c.railN := rfl
@[simp] theorem Core.inc_snap (k : PageKind) (o n : Nat) : (c.inc k o n).snap = c.snap := rfl
@[simp] theorem Core.inc_posted (k : PageKind) (o n : Nat) : (c.inc k o n).posted = c.posted := rfl
@[simp] theorem Core.inc_pend (k : PageKind) (o n : Nat) : (c.inc k o n).pend = c.pend := rfl
@[simp] theorem Core.inc_faulted (k : PageKind) (o n : Nat) : (c.inc k o n).faulted = c.faulted := rfl
@[simp] theorem Core.inc_bxbPrio (k : PageKind) (o n : Nat) : (c.inc k o n).bxbPrio = c.bxbPrio := rfl
@[simp] theorem Core.inc_io (k : PageKind) (o n : Nat) : (c.inc k o n).io = c.io := rfl
@[simp] theorem Core.inc_lanes (k : PageKind) (o n : Nat) : (c.inc k o n).lanes = c.lanes := rfl
@[simp] theorem Core.inc_lgrps (k : PageKind) (o n : Nat) : (c.inc k o n).lgrps = c.lgrps := rfl
@[simp] theorem Core.inc_ingest (k : PageKind) (o n : Nat) : (c.inc k o n).ingest = c.ingest := rfl
@[simp] theorem Core.inc_chan (k : PageKind) (o n : Nat) : (c.inc k o n).chan = c.chan := rfl
@[simp] theorem Core.inc_img (k : PageKind) (o n : Nat) : (c.inc k o n).img = c.img := rfl
@[simp] theorem Core.inc_imgSt (k : PageKind) (o n : Nat) : (c.inc k o n).imgSt = c.imgSt := rfl
@[simp] theorem Core.inc_imgReason (k : PageKind) (o n : Nat) : (c.inc k o n).imgReason = c.imgReason := rfl
@[simp] theorem Core.inc_imgMode (k : PageKind) (o n : Nat) : (c.inc k o n).imgMode = c.imgMode := rfl
@[simp] theorem Core.inc_links (k : PageKind) (o n : Nat) : (c.inc k o n).links = c.links := rfl
@[simp] theorem Core.inc_chanters (k : PageKind) (o n : Nat) : (c.inc k o n).chanters = c.chanters := rfl
@[simp] theorem Core.inc_xdies (k : PageKind) (o n : Nat) : (c.inc k o n).xdies = c.xdies := rfl
@[simp] theorem Core.inc_targets (k : PageKind) (o n : Nat) : (c.inc k o n).targets = c.targets := rfl
@[simp] theorem Core.inc_stacksOf (k : PageKind) (o n : Nat) : (c.inc k o n).stacksOf = c.stacksOf := rfl
@[simp] theorem Core.inc_host (k : PageKind) (o n : Nat) : (c.inc k o n).host = c.host := rfl
@[simp] theorem Core.inc_locks (k : PageKind) (o n : Nat) : (c.inc k o n).locks = c.locks := rfl
@[simp] theorem Core.inc_power (k : PageKind) (o n : Nat) : (c.inc k o n).power = c.power := rfl
@[simp] theorem Core.inc_plant (k : PageKind) (o n : Nat) : (c.inc k o n).plant = c.plant := rfl
@[simp] theorem Core.inc_pilot (k : PageKind) (o n : Nat) : (c.inc k o n).pilot = c.pilot := rfl
@[simp] theorem Core.inc_time (k : PageKind) (o n : Nat) : (c.inc k o n).time = c.time := rfl
@[simp] theorem Core.inc_insp (k : PageKind) (o n : Nat) : (c.inc k o n).insp = c.insp := rfl
@[simp] theorem Core.inc_dbg (k : PageKind) (o n : Nat) : (c.inc k o n).dbg = c.dbg := rfl
@[simp] theorem Core.inc_out (k : PageKind) (o n : Nat) : (c.inc k o n).out = c.out := rfl
@[simp] theorem Core.inc_free (k : PageKind) (o n : Nat) : (c.inc k o n).free = c.free := rfl

/-! ### emit -/

@[simp] theorem Core.emit_part (o : Output) : (c.emit o).part = c.part := rfl
@[simp] theorem Core.emit_otp (o : Output) : (c.emit o).otp = c.otp := rfl
@[simp] theorem Core.emit_droneOn (o : Output) : (c.emit o).droneOn = c.droneOn := rfl
@[simp] theorem Core.emit_perst (o : Output) : (c.emit o).perst = c.perst := rfl
@[simp] theorem Core.emit_railBad (o : Output) : (c.emit o).railBad = c.railBad := rfl
@[simp] theorem Core.emit_railN (o : Output) : (c.emit o).railN = c.railN := rfl
@[simp] theorem Core.emit_regs (o : Output) : (c.emit o).regs = c.regs := rfl
@[simp] theorem Core.emit_snap (o : Output) : (c.emit o).snap = c.snap := rfl
@[simp] theorem Core.emit_posted (o : Output) : (c.emit o).posted = c.posted := rfl
@[simp] theorem Core.emit_pend (o : Output) : (c.emit o).pend = c.pend := rfl
@[simp] theorem Core.emit_faulted (o : Output) : (c.emit o).faulted = c.faulted := rfl
@[simp] theorem Core.emit_bxbPrio (o : Output) : (c.emit o).bxbPrio = c.bxbPrio := rfl
@[simp] theorem Core.emit_io (o : Output) : (c.emit o).io = c.io := rfl
@[simp] theorem Core.emit_lanes (o : Output) : (c.emit o).lanes = c.lanes := rfl
@[simp] theorem Core.emit_lgrps (o : Output) : (c.emit o).lgrps = c.lgrps := rfl
@[simp] theorem Core.emit_ingest (o : Output) : (c.emit o).ingest = c.ingest := rfl
@[simp] theorem Core.emit_chan (o : Output) : (c.emit o).chan = c.chan := rfl
@[simp] theorem Core.emit_img (o : Output) : (c.emit o).img = c.img := rfl
@[simp] theorem Core.emit_imgSt (o : Output) : (c.emit o).imgSt = c.imgSt := rfl
@[simp] theorem Core.emit_imgReason (o : Output) : (c.emit o).imgReason = c.imgReason := rfl
@[simp] theorem Core.emit_imgMode (o : Output) : (c.emit o).imgMode = c.imgMode := rfl
@[simp] theorem Core.emit_links (o : Output) : (c.emit o).links = c.links := rfl
@[simp] theorem Core.emit_chanters (o : Output) : (c.emit o).chanters = c.chanters := rfl
@[simp] theorem Core.emit_xdies (o : Output) : (c.emit o).xdies = c.xdies := rfl
@[simp] theorem Core.emit_targets (o : Output) : (c.emit o).targets = c.targets := rfl
@[simp] theorem Core.emit_stacksOf (o : Output) : (c.emit o).stacksOf = c.stacksOf := rfl
@[simp] theorem Core.emit_host (o : Output) : (c.emit o).host = c.host := rfl
@[simp] theorem Core.emit_locks (o : Output) : (c.emit o).locks = c.locks := rfl
@[simp] theorem Core.emit_power (o : Output) : (c.emit o).power = c.power := rfl
@[simp] theorem Core.emit_plant (o : Output) : (c.emit o).plant = c.plant := rfl
@[simp] theorem Core.emit_pilot (o : Output) : (c.emit o).pilot = c.pilot := rfl
@[simp] theorem Core.emit_time (o : Output) : (c.emit o).time = c.time := rfl
@[simp] theorem Core.emit_insp (o : Output) : (c.emit o).insp = c.insp := rfl
@[simp] theorem Core.emit_dbg (o : Output) : (c.emit o).dbg = c.dbg := rfl
@[simp] theorem Core.emit_free (o : Output) : (c.emit o).free = c.free := rfl

/-! ### modPower -/

@[simp] theorem Core.modPower_part (f : PowerS → PowerS) : (c.modPower f).part = c.part := rfl
@[simp] theorem Core.modPower_otp (f : PowerS → PowerS) : (c.modPower f).otp = c.otp := rfl
@[simp] theorem Core.modPower_droneOn (f : PowerS → PowerS) : (c.modPower f).droneOn = c.droneOn := rfl
@[simp] theorem Core.modPower_perst (f : PowerS → PowerS) : (c.modPower f).perst = c.perst := rfl
@[simp] theorem Core.modPower_railBad (f : PowerS → PowerS) : (c.modPower f).railBad = c.railBad := rfl
@[simp] theorem Core.modPower_railN (f : PowerS → PowerS) : (c.modPower f).railN = c.railN := rfl
@[simp] theorem Core.modPower_regs (f : PowerS → PowerS) : (c.modPower f).regs = c.regs := rfl
@[simp] theorem Core.modPower_snap (f : PowerS → PowerS) : (c.modPower f).snap = c.snap := rfl
@[simp] theorem Core.modPower_posted (f : PowerS → PowerS) : (c.modPower f).posted = c.posted := rfl
@[simp] theorem Core.modPower_pend (f : PowerS → PowerS) : (c.modPower f).pend = c.pend := rfl
@[simp] theorem Core.modPower_faulted (f : PowerS → PowerS) : (c.modPower f).faulted = c.faulted := rfl
@[simp] theorem Core.modPower_bxbPrio (f : PowerS → PowerS) : (c.modPower f).bxbPrio = c.bxbPrio := rfl
@[simp] theorem Core.modPower_io (f : PowerS → PowerS) : (c.modPower f).io = c.io := rfl
@[simp] theorem Core.modPower_lanes (f : PowerS → PowerS) : (c.modPower f).lanes = c.lanes := rfl
@[simp] theorem Core.modPower_lgrps (f : PowerS → PowerS) : (c.modPower f).lgrps = c.lgrps := rfl
@[simp] theorem Core.modPower_ingest (f : PowerS → PowerS) : (c.modPower f).ingest = c.ingest := rfl
@[simp] theorem Core.modPower_chan (f : PowerS → PowerS) : (c.modPower f).chan = c.chan := rfl
@[simp] theorem Core.modPower_img (f : PowerS → PowerS) : (c.modPower f).img = c.img := rfl
@[simp] theorem Core.modPower_imgSt (f : PowerS → PowerS) : (c.modPower f).imgSt = c.imgSt := rfl
@[simp] theorem Core.modPower_imgReason (f : PowerS → PowerS) : (c.modPower f).imgReason = c.imgReason := rfl
@[simp] theorem Core.modPower_imgMode (f : PowerS → PowerS) : (c.modPower f).imgMode = c.imgMode := rfl
@[simp] theorem Core.modPower_links (f : PowerS → PowerS) : (c.modPower f).links = c.links := rfl
@[simp] theorem Core.modPower_chanters (f : PowerS → PowerS) : (c.modPower f).chanters = c.chanters := rfl
@[simp] theorem Core.modPower_xdies (f : PowerS → PowerS) : (c.modPower f).xdies = c.xdies := rfl
@[simp] theorem Core.modPower_targets (f : PowerS → PowerS) : (c.modPower f).targets = c.targets := rfl
@[simp] theorem Core.modPower_stacksOf (f : PowerS → PowerS) : (c.modPower f).stacksOf = c.stacksOf := rfl
@[simp] theorem Core.modPower_host (f : PowerS → PowerS) : (c.modPower f).host = c.host := rfl
@[simp] theorem Core.modPower_locks (f : PowerS → PowerS) : (c.modPower f).locks = c.locks := rfl
@[simp] theorem Core.modPower_plant (f : PowerS → PowerS) : (c.modPower f).plant = c.plant := rfl
@[simp] theorem Core.modPower_pilot (f : PowerS → PowerS) : (c.modPower f).pilot = c.pilot := rfl
@[simp] theorem Core.modPower_time (f : PowerS → PowerS) : (c.modPower f).time = c.time := rfl
@[simp] theorem Core.modPower_insp (f : PowerS → PowerS) : (c.modPower f).insp = c.insp := rfl
@[simp] theorem Core.modPower_dbg (f : PowerS → PowerS) : (c.modPower f).dbg = c.dbg := rfl
@[simp] theorem Core.modPower_out (f : PowerS → PowerS) : (c.modPower f).out = c.out := rfl
@[simp] theorem Core.modPower_free (f : PowerS → PowerS) : (c.modPower f).free = c.free := rfl

/-! ### modPlant -/

@[simp] theorem Core.modPlant_part (f : PlantS → PlantS) : (c.modPlant f).part = c.part := rfl
@[simp] theorem Core.modPlant_otp (f : PlantS → PlantS) : (c.modPlant f).otp = c.otp := rfl
@[simp] theorem Core.modPlant_droneOn (f : PlantS → PlantS) : (c.modPlant f).droneOn = c.droneOn := rfl
@[simp] theorem Core.modPlant_perst (f : PlantS → PlantS) : (c.modPlant f).perst = c.perst := rfl
@[simp] theorem Core.modPlant_railBad (f : PlantS → PlantS) : (c.modPlant f).railBad = c.railBad := rfl
@[simp] theorem Core.modPlant_railN (f : PlantS → PlantS) : (c.modPlant f).railN = c.railN := rfl
@[simp] theorem Core.modPlant_regs (f : PlantS → PlantS) : (c.modPlant f).regs = c.regs := rfl
@[simp] theorem Core.modPlant_snap (f : PlantS → PlantS) : (c.modPlant f).snap = c.snap := rfl
@[simp] theorem Core.modPlant_posted (f : PlantS → PlantS) : (c.modPlant f).posted = c.posted := rfl
@[simp] theorem Core.modPlant_pend (f : PlantS → PlantS) : (c.modPlant f).pend = c.pend := rfl
@[simp] theorem Core.modPlant_faulted (f : PlantS → PlantS) : (c.modPlant f).faulted = c.faulted := rfl
@[simp] theorem Core.modPlant_bxbPrio (f : PlantS → PlantS) : (c.modPlant f).bxbPrio = c.bxbPrio := rfl
@[simp] theorem Core.modPlant_io (f : PlantS → PlantS) : (c.modPlant f).io = c.io := rfl
@[simp] theorem Core.modPlant_lanes (f : PlantS → PlantS) : (c.modPlant f).lanes = c.lanes := rfl
@[simp] theorem Core.modPlant_lgrps (f : PlantS → PlantS) : (c.modPlant f).lgrps = c.lgrps := rfl
@[simp] theorem Core.modPlant_ingest (f : PlantS → PlantS) : (c.modPlant f).ingest = c.ingest := rfl
@[simp] theorem Core.modPlant_chan (f : PlantS → PlantS) : (c.modPlant f).chan = c.chan := rfl
@[simp] theorem Core.modPlant_img (f : PlantS → PlantS) : (c.modPlant f).img = c.img := rfl
@[simp] theorem Core.modPlant_imgSt (f : PlantS → PlantS) : (c.modPlant f).imgSt = c.imgSt := rfl
@[simp] theorem Core.modPlant_imgReason (f : PlantS → PlantS) : (c.modPlant f).imgReason = c.imgReason := rfl
@[simp] theorem Core.modPlant_imgMode (f : PlantS → PlantS) : (c.modPlant f).imgMode = c.imgMode := rfl
@[simp] theorem Core.modPlant_links (f : PlantS → PlantS) : (c.modPlant f).links = c.links := rfl
@[simp] theorem Core.modPlant_chanters (f : PlantS → PlantS) : (c.modPlant f).chanters = c.chanters := rfl
@[simp] theorem Core.modPlant_xdies (f : PlantS → PlantS) : (c.modPlant f).xdies = c.xdies := rfl
@[simp] theorem Core.modPlant_targets (f : PlantS → PlantS) : (c.modPlant f).targets = c.targets := rfl
@[simp] theorem Core.modPlant_stacksOf (f : PlantS → PlantS) : (c.modPlant f).stacksOf = c.stacksOf := rfl
@[simp] theorem Core.modPlant_host (f : PlantS → PlantS) : (c.modPlant f).host = c.host := rfl
@[simp] theorem Core.modPlant_locks (f : PlantS → PlantS) : (c.modPlant f).locks = c.locks := rfl
@[simp] theorem Core.modPlant_power (f : PlantS → PlantS) : (c.modPlant f).power = c.power := rfl
@[simp] theorem Core.modPlant_pilot (f : PlantS → PlantS) : (c.modPlant f).pilot = c.pilot := rfl
@[simp] theorem Core.modPlant_time (f : PlantS → PlantS) : (c.modPlant f).time = c.time := rfl
@[simp] theorem Core.modPlant_insp (f : PlantS → PlantS) : (c.modPlant f).insp = c.insp := rfl
@[simp] theorem Core.modPlant_dbg (f : PlantS → PlantS) : (c.modPlant f).dbg = c.dbg := rfl
@[simp] theorem Core.modPlant_out (f : PlantS → PlantS) : (c.modPlant f).out = c.out := rfl
@[simp] theorem Core.modPlant_free (f : PlantS → PlantS) : (c.modPlant f).free = c.free := rfl

/-! ### modTime -/

@[simp] theorem Core.modTime_part (f : TimeS → TimeS) : (c.modTime f).part = c.part := rfl
@[simp] theorem Core.modTime_otp (f : TimeS → TimeS) : (c.modTime f).otp = c.otp := rfl
@[simp] theorem Core.modTime_droneOn (f : TimeS → TimeS) : (c.modTime f).droneOn = c.droneOn := rfl
@[simp] theorem Core.modTime_perst (f : TimeS → TimeS) : (c.modTime f).perst = c.perst := rfl
@[simp] theorem Core.modTime_railBad (f : TimeS → TimeS) : (c.modTime f).railBad = c.railBad := rfl
@[simp] theorem Core.modTime_railN (f : TimeS → TimeS) : (c.modTime f).railN = c.railN := rfl
@[simp] theorem Core.modTime_regs (f : TimeS → TimeS) : (c.modTime f).regs = c.regs := rfl
@[simp] theorem Core.modTime_snap (f : TimeS → TimeS) : (c.modTime f).snap = c.snap := rfl
@[simp] theorem Core.modTime_posted (f : TimeS → TimeS) : (c.modTime f).posted = c.posted := rfl
@[simp] theorem Core.modTime_pend (f : TimeS → TimeS) : (c.modTime f).pend = c.pend := rfl
@[simp] theorem Core.modTime_faulted (f : TimeS → TimeS) : (c.modTime f).faulted = c.faulted := rfl
@[simp] theorem Core.modTime_bxbPrio (f : TimeS → TimeS) : (c.modTime f).bxbPrio = c.bxbPrio := rfl
@[simp] theorem Core.modTime_io (f : TimeS → TimeS) : (c.modTime f).io = c.io := rfl
@[simp] theorem Core.modTime_lanes (f : TimeS → TimeS) : (c.modTime f).lanes = c.lanes := rfl
@[simp] theorem Core.modTime_lgrps (f : TimeS → TimeS) : (c.modTime f).lgrps = c.lgrps := rfl
@[simp] theorem Core.modTime_ingest (f : TimeS → TimeS) : (c.modTime f).ingest = c.ingest := rfl
@[simp] theorem Core.modTime_chan (f : TimeS → TimeS) : (c.modTime f).chan = c.chan := rfl
@[simp] theorem Core.modTime_img (f : TimeS → TimeS) : (c.modTime f).img = c.img := rfl
@[simp] theorem Core.modTime_imgSt (f : TimeS → TimeS) : (c.modTime f).imgSt = c.imgSt := rfl
@[simp] theorem Core.modTime_imgReason (f : TimeS → TimeS) : (c.modTime f).imgReason = c.imgReason := rfl
@[simp] theorem Core.modTime_imgMode (f : TimeS → TimeS) : (c.modTime f).imgMode = c.imgMode := rfl
@[simp] theorem Core.modTime_links (f : TimeS → TimeS) : (c.modTime f).links = c.links := rfl
@[simp] theorem Core.modTime_chanters (f : TimeS → TimeS) : (c.modTime f).chanters = c.chanters := rfl
@[simp] theorem Core.modTime_xdies (f : TimeS → TimeS) : (c.modTime f).xdies = c.xdies := rfl
@[simp] theorem Core.modTime_targets (f : TimeS → TimeS) : (c.modTime f).targets = c.targets := rfl
@[simp] theorem Core.modTime_stacksOf (f : TimeS → TimeS) : (c.modTime f).stacksOf = c.stacksOf := rfl
@[simp] theorem Core.modTime_host (f : TimeS → TimeS) : (c.modTime f).host = c.host := rfl
@[simp] theorem Core.modTime_locks (f : TimeS → TimeS) : (c.modTime f).locks = c.locks := rfl
@[simp] theorem Core.modTime_power (f : TimeS → TimeS) : (c.modTime f).power = c.power := rfl
@[simp] theorem Core.modTime_plant (f : TimeS → TimeS) : (c.modTime f).plant = c.plant := rfl
@[simp] theorem Core.modTime_pilot (f : TimeS → TimeS) : (c.modTime f).pilot = c.pilot := rfl
@[simp] theorem Core.modTime_insp (f : TimeS → TimeS) : (c.modTime f).insp = c.insp := rfl
@[simp] theorem Core.modTime_dbg (f : TimeS → TimeS) : (c.modTime f).dbg = c.dbg := rfl
@[simp] theorem Core.modTime_out (f : TimeS → TimeS) : (c.modTime f).out = c.out := rfl
@[simp] theorem Core.modTime_free (f : TimeS → TimeS) : (c.modTime f).free = c.free := rfl

/-! ### modLane -/

@[simp] theorem Core.modLane_part (n : Nat) (f : LaneS → LaneS) : (c.modLane n f).part = c.part := rfl
@[simp] theorem Core.modLane_otp (n : Nat) (f : LaneS → LaneS) : (c.modLane n f).otp = c.otp := rfl
@[simp] theorem Core.modLane_droneOn (n : Nat) (f : LaneS → LaneS) : (c.modLane n f).droneOn = c.droneOn := rfl
@[simp] theorem Core.modLane_perst (n : Nat) (f : LaneS → LaneS) : (c.modLane n f).perst = c.perst := rfl
@[simp] theorem Core.modLane_railBad (n : Nat) (f : LaneS → LaneS) : (c.modLane n f).railBad = c.railBad := rfl
@[simp] theorem Core.modLane_railN (n : Nat) (f : LaneS → LaneS) : (c.modLane n f).railN = c.railN := rfl
@[simp] theorem Core.modLane_regs (n : Nat) (f : LaneS → LaneS) : (c.modLane n f).regs = c.regs := rfl
@[simp] theorem Core.modLane_snap (n : Nat) (f : LaneS → LaneS) : (c.modLane n f).snap = c.snap := rfl
@[simp] theorem Core.modLane_posted (n : Nat) (f : LaneS → LaneS) : (c.modLane n f).posted = c.posted := rfl
@[simp] theorem Core.modLane_pend (n : Nat) (f : LaneS → LaneS) : (c.modLane n f).pend = c.pend := rfl
@[simp] theorem Core.modLane_faulted (n : Nat) (f : LaneS → LaneS) : (c.modLane n f).faulted = c.faulted := rfl
@[simp] theorem Core.modLane_bxbPrio (n : Nat) (f : LaneS → LaneS) : (c.modLane n f).bxbPrio = c.bxbPrio := rfl
@[simp] theorem Core.modLane_io (n : Nat) (f : LaneS → LaneS) : (c.modLane n f).io = c.io := rfl
@[simp] theorem Core.modLane_lgrps (n : Nat) (f : LaneS → LaneS) : (c.modLane n f).lgrps = c.lgrps := rfl
@[simp] theorem Core.modLane_ingest (n : Nat) (f : LaneS → LaneS) : (c.modLane n f).ingest = c.ingest := rfl
@[simp] theorem Core.modLane_chan (n : Nat) (f : LaneS → LaneS) : (c.modLane n f).chan = c.chan := rfl
@[simp] theorem Core.modLane_img (n : Nat) (f : LaneS → LaneS) : (c.modLane n f).img = c.img := rfl
@[simp] theorem Core.modLane_imgSt (n : Nat) (f : LaneS → LaneS) : (c.modLane n f).imgSt = c.imgSt := rfl
@[simp] theorem Core.modLane_imgReason (n : Nat) (f : LaneS → LaneS) : (c.modLane n f).imgReason = c.imgReason := rfl
@[simp] theorem Core.modLane_imgMode (n : Nat) (f : LaneS → LaneS) : (c.modLane n f).imgMode = c.imgMode := rfl
@[simp] theorem Core.modLane_links (n : Nat) (f : LaneS → LaneS) : (c.modLane n f).links = c.links := rfl
@[simp] theorem Core.modLane_chanters (n : Nat) (f : LaneS → LaneS) : (c.modLane n f).chanters = c.chanters := rfl
@[simp] theorem Core.modLane_xdies (n : Nat) (f : LaneS → LaneS) : (c.modLane n f).xdies = c.xdies := rfl
@[simp] theorem Core.modLane_targets (n : Nat) (f : LaneS → LaneS) : (c.modLane n f).targets = c.targets := rfl
@[simp] theorem Core.modLane_stacksOf (n : Nat) (f : LaneS → LaneS) : (c.modLane n f).stacksOf = c.stacksOf := rfl
@[simp] theorem Core.modLane_host (n : Nat) (f : LaneS → LaneS) : (c.modLane n f).host = c.host := rfl
@[simp] theorem Core.modLane_locks (n : Nat) (f : LaneS → LaneS) : (c.modLane n f).locks = c.locks := rfl
@[simp] theorem Core.modLane_power (n : Nat) (f : LaneS → LaneS) : (c.modLane n f).power = c.power := rfl
@[simp] theorem Core.modLane_plant (n : Nat) (f : LaneS → LaneS) : (c.modLane n f).plant = c.plant := rfl
@[simp] theorem Core.modLane_pilot (n : Nat) (f : LaneS → LaneS) : (c.modLane n f).pilot = c.pilot := rfl
@[simp] theorem Core.modLane_time (n : Nat) (f : LaneS → LaneS) : (c.modLane n f).time = c.time := rfl
@[simp] theorem Core.modLane_insp (n : Nat) (f : LaneS → LaneS) : (c.modLane n f).insp = c.insp := rfl
@[simp] theorem Core.modLane_dbg (n : Nat) (f : LaneS → LaneS) : (c.modLane n f).dbg = c.dbg := rfl
@[simp] theorem Core.modLane_out (n : Nat) (f : LaneS → LaneS) : (c.modLane n f).out = c.out := rfl
@[simp] theorem Core.modLane_free (n : Nat) (f : LaneS → LaneS) : (c.modLane n f).free = c.free := rfl

/-! ### modX -/

@[simp] theorem Core.modX_part (n : Nat) (f : XDieS → XDieS) : (c.modX n f).part = c.part := rfl
@[simp] theorem Core.modX_otp (n : Nat) (f : XDieS → XDieS) : (c.modX n f).otp = c.otp := rfl
@[simp] theorem Core.modX_droneOn (n : Nat) (f : XDieS → XDieS) : (c.modX n f).droneOn = c.droneOn := rfl
@[simp] theorem Core.modX_perst (n : Nat) (f : XDieS → XDieS) : (c.modX n f).perst = c.perst := rfl
@[simp] theorem Core.modX_railBad (n : Nat) (f : XDieS → XDieS) : (c.modX n f).railBad = c.railBad := rfl
@[simp] theorem Core.modX_railN (n : Nat) (f : XDieS → XDieS) : (c.modX n f).railN = c.railN := rfl
@[simp] theorem Core.modX_regs (n : Nat) (f : XDieS → XDieS) : (c.modX n f).regs = c.regs := rfl
@[simp] theorem Core.modX_snap (n : Nat) (f : XDieS → XDieS) : (c.modX n f).snap = c.snap := rfl
@[simp] theorem Core.modX_posted (n : Nat) (f : XDieS → XDieS) : (c.modX n f).posted = c.posted := rfl
@[simp] theorem Core.modX_pend (n : Nat) (f : XDieS → XDieS) : (c.modX n f).pend = c.pend := rfl
@[simp] theorem Core.modX_faulted (n : Nat) (f : XDieS → XDieS) : (c.modX n f).faulted = c.faulted := rfl
@[simp] theorem Core.modX_bxbPrio (n : Nat) (f : XDieS → XDieS) : (c.modX n f).bxbPrio = c.bxbPrio := rfl
@[simp] theorem Core.modX_io (n : Nat) (f : XDieS → XDieS) : (c.modX n f).io = c.io := rfl
@[simp] theorem Core.modX_lanes (n : Nat) (f : XDieS → XDieS) : (c.modX n f).lanes = c.lanes := rfl
@[simp] theorem Core.modX_lgrps (n : Nat) (f : XDieS → XDieS) : (c.modX n f).lgrps = c.lgrps := rfl
@[simp] theorem Core.modX_ingest (n : Nat) (f : XDieS → XDieS) : (c.modX n f).ingest = c.ingest := rfl
@[simp] theorem Core.modX_chan (n : Nat) (f : XDieS → XDieS) : (c.modX n f).chan = c.chan := rfl
@[simp] theorem Core.modX_img (n : Nat) (f : XDieS → XDieS) : (c.modX n f).img = c.img := rfl
@[simp] theorem Core.modX_imgSt (n : Nat) (f : XDieS → XDieS) : (c.modX n f).imgSt = c.imgSt := rfl
@[simp] theorem Core.modX_imgReason (n : Nat) (f : XDieS → XDieS) : (c.modX n f).imgReason = c.imgReason := rfl
@[simp] theorem Core.modX_imgMode (n : Nat) (f : XDieS → XDieS) : (c.modX n f).imgMode = c.imgMode := rfl
@[simp] theorem Core.modX_links (n : Nat) (f : XDieS → XDieS) : (c.modX n f).links = c.links := rfl
@[simp] theorem Core.modX_chanters (n : Nat) (f : XDieS → XDieS) : (c.modX n f).chanters = c.chanters := rfl
@[simp] theorem Core.modX_targets (n : Nat) (f : XDieS → XDieS) : (c.modX n f).targets = c.targets := rfl
@[simp] theorem Core.modX_stacksOf (n : Nat) (f : XDieS → XDieS) : (c.modX n f).stacksOf = c.stacksOf := rfl
@[simp] theorem Core.modX_host (n : Nat) (f : XDieS → XDieS) : (c.modX n f).host = c.host := rfl
@[simp] theorem Core.modX_locks (n : Nat) (f : XDieS → XDieS) : (c.modX n f).locks = c.locks := rfl
@[simp] theorem Core.modX_power (n : Nat) (f : XDieS → XDieS) : (c.modX n f).power = c.power := rfl
@[simp] theorem Core.modX_plant (n : Nat) (f : XDieS → XDieS) : (c.modX n f).plant = c.plant := rfl
@[simp] theorem Core.modX_pilot (n : Nat) (f : XDieS → XDieS) : (c.modX n f).pilot = c.pilot := rfl
@[simp] theorem Core.modX_time (n : Nat) (f : XDieS → XDieS) : (c.modX n f).time = c.time := rfl
@[simp] theorem Core.modX_insp (n : Nat) (f : XDieS → XDieS) : (c.modX n f).insp = c.insp := rfl
@[simp] theorem Core.modX_dbg (n : Nat) (f : XDieS → XDieS) : (c.modX n f).dbg = c.dbg := rfl
@[simp] theorem Core.modX_out (n : Nat) (f : XDieS → XDieS) : (c.modX n f).out = c.out := rfl
@[simp] theorem Core.modX_free (n : Nat) (f : XDieS → XDieS) : (c.modX n f).free = c.free := rfl

/-! ### modStack -/

@[simp] theorem Core.modStack_part (n : Nat) (f : StackS → StackS) : (c.modStack n f).part = c.part := rfl
@[simp] theorem Core.modStack_otp (n : Nat) (f : StackS → StackS) : (c.modStack n f).otp = c.otp := rfl
@[simp] theorem Core.modStack_droneOn (n : Nat) (f : StackS → StackS) : (c.modStack n f).droneOn = c.droneOn := rfl
@[simp] theorem Core.modStack_perst (n : Nat) (f : StackS → StackS) : (c.modStack n f).perst = c.perst := rfl
@[simp] theorem Core.modStack_railBad (n : Nat) (f : StackS → StackS) : (c.modStack n f).railBad = c.railBad := rfl
@[simp] theorem Core.modStack_railN (n : Nat) (f : StackS → StackS) : (c.modStack n f).railN = c.railN := rfl
@[simp] theorem Core.modStack_regs (n : Nat) (f : StackS → StackS) : (c.modStack n f).regs = c.regs := rfl
@[simp] theorem Core.modStack_snap (n : Nat) (f : StackS → StackS) : (c.modStack n f).snap = c.snap := rfl
@[simp] theorem Core.modStack_posted (n : Nat) (f : StackS → StackS) : (c.modStack n f).posted = c.posted := rfl
@[simp] theorem Core.modStack_pend (n : Nat) (f : StackS → StackS) : (c.modStack n f).pend = c.pend := rfl
@[simp] theorem Core.modStack_faulted (n : Nat) (f : StackS → StackS) : (c.modStack n f).faulted = c.faulted := rfl
@[simp] theorem Core.modStack_bxbPrio (n : Nat) (f : StackS → StackS) : (c.modStack n f).bxbPrio = c.bxbPrio := rfl
@[simp] theorem Core.modStack_io (n : Nat) (f : StackS → StackS) : (c.modStack n f).io = c.io := rfl
@[simp] theorem Core.modStack_lanes (n : Nat) (f : StackS → StackS) : (c.modStack n f).lanes = c.lanes := rfl
@[simp] theorem Core.modStack_lgrps (n : Nat) (f : StackS → StackS) : (c.modStack n f).lgrps = c.lgrps := rfl
@[simp] theorem Core.modStack_ingest (n : Nat) (f : StackS → StackS) : (c.modStack n f).ingest = c.ingest := rfl
@[simp] theorem Core.modStack_chan (n : Nat) (f : StackS → StackS) : (c.modStack n f).chan = c.chan := rfl
@[simp] theorem Core.modStack_img (n : Nat) (f : StackS → StackS) : (c.modStack n f).img = c.img := rfl
@[simp] theorem Core.modStack_imgSt (n : Nat) (f : StackS → StackS) : (c.modStack n f).imgSt = c.imgSt := rfl
@[simp] theorem Core.modStack_imgReason (n : Nat) (f : StackS → StackS) : (c.modStack n f).imgReason = c.imgReason := rfl
@[simp] theorem Core.modStack_imgMode (n : Nat) (f : StackS → StackS) : (c.modStack n f).imgMode = c.imgMode := rfl
@[simp] theorem Core.modStack_links (n : Nat) (f : StackS → StackS) : (c.modStack n f).links = c.links := rfl
@[simp] theorem Core.modStack_chanters (n : Nat) (f : StackS → StackS) : (c.modStack n f).chanters = c.chanters := rfl
@[simp] theorem Core.modStack_xdies (n : Nat) (f : StackS → StackS) : (c.modStack n f).xdies = c.xdies := rfl
@[simp] theorem Core.modStack_targets (n : Nat) (f : StackS → StackS) : (c.modStack n f).targets = c.targets := rfl
@[simp] theorem Core.modStack_host (n : Nat) (f : StackS → StackS) : (c.modStack n f).host = c.host := rfl
@[simp] theorem Core.modStack_locks (n : Nat) (f : StackS → StackS) : (c.modStack n f).locks = c.locks := rfl
@[simp] theorem Core.modStack_power (n : Nat) (f : StackS → StackS) : (c.modStack n f).power = c.power := rfl
@[simp] theorem Core.modStack_plant (n : Nat) (f : StackS → StackS) : (c.modStack n f).plant = c.plant := rfl
@[simp] theorem Core.modStack_pilot (n : Nat) (f : StackS → StackS) : (c.modStack n f).pilot = c.pilot := rfl
@[simp] theorem Core.modStack_time (n : Nat) (f : StackS → StackS) : (c.modStack n f).time = c.time := rfl
@[simp] theorem Core.modStack_insp (n : Nat) (f : StackS → StackS) : (c.modStack n f).insp = c.insp := rfl
@[simp] theorem Core.modStack_dbg (n : Nat) (f : StackS → StackS) : (c.modStack n f).dbg = c.dbg := rfl
@[simp] theorem Core.modStack_out (n : Nat) (f : StackS → StackS) : (c.modStack n f).out = c.out := rfl
@[simp] theorem Core.modStack_free (n : Nat) (f : StackS → StackS) : (c.modStack n f).free = c.free := rfl

/-! ### modChanter -/

@[simp] theorem Core.modChanter_part (n : Nat) (f : ChanterS → ChanterS) : (c.modChanter n f).part = c.part := rfl
@[simp] theorem Core.modChanter_otp (n : Nat) (f : ChanterS → ChanterS) : (c.modChanter n f).otp = c.otp := rfl
@[simp] theorem Core.modChanter_droneOn (n : Nat) (f : ChanterS → ChanterS) : (c.modChanter n f).droneOn = c.droneOn := rfl
@[simp] theorem Core.modChanter_perst (n : Nat) (f : ChanterS → ChanterS) : (c.modChanter n f).perst = c.perst := rfl
@[simp] theorem Core.modChanter_railBad (n : Nat) (f : ChanterS → ChanterS) : (c.modChanter n f).railBad = c.railBad := rfl
@[simp] theorem Core.modChanter_railN (n : Nat) (f : ChanterS → ChanterS) : (c.modChanter n f).railN = c.railN := rfl
@[simp] theorem Core.modChanter_regs (n : Nat) (f : ChanterS → ChanterS) : (c.modChanter n f).regs = c.regs := rfl
@[simp] theorem Core.modChanter_snap (n : Nat) (f : ChanterS → ChanterS) : (c.modChanter n f).snap = c.snap := rfl
@[simp] theorem Core.modChanter_posted (n : Nat) (f : ChanterS → ChanterS) : (c.modChanter n f).posted = c.posted := rfl
@[simp] theorem Core.modChanter_pend (n : Nat) (f : ChanterS → ChanterS) : (c.modChanter n f).pend = c.pend := rfl
@[simp] theorem Core.modChanter_faulted (n : Nat) (f : ChanterS → ChanterS) : (c.modChanter n f).faulted = c.faulted := rfl
@[simp] theorem Core.modChanter_bxbPrio (n : Nat) (f : ChanterS → ChanterS) : (c.modChanter n f).bxbPrio = c.bxbPrio := rfl
@[simp] theorem Core.modChanter_io (n : Nat) (f : ChanterS → ChanterS) : (c.modChanter n f).io = c.io := rfl
@[simp] theorem Core.modChanter_lanes (n : Nat) (f : ChanterS → ChanterS) : (c.modChanter n f).lanes = c.lanes := rfl
@[simp] theorem Core.modChanter_lgrps (n : Nat) (f : ChanterS → ChanterS) : (c.modChanter n f).lgrps = c.lgrps := rfl
@[simp] theorem Core.modChanter_ingest (n : Nat) (f : ChanterS → ChanterS) : (c.modChanter n f).ingest = c.ingest := rfl
@[simp] theorem Core.modChanter_chan (n : Nat) (f : ChanterS → ChanterS) : (c.modChanter n f).chan = c.chan := rfl
@[simp] theorem Core.modChanter_img (n : Nat) (f : ChanterS → ChanterS) : (c.modChanter n f).img = c.img := rfl
@[simp] theorem Core.modChanter_imgSt (n : Nat) (f : ChanterS → ChanterS) : (c.modChanter n f).imgSt = c.imgSt := rfl
@[simp] theorem Core.modChanter_imgReason (n : Nat) (f : ChanterS → ChanterS) : (c.modChanter n f).imgReason = c.imgReason := rfl
@[simp] theorem Core.modChanter_imgMode (n : Nat) (f : ChanterS → ChanterS) : (c.modChanter n f).imgMode = c.imgMode := rfl
@[simp] theorem Core.modChanter_links (n : Nat) (f : ChanterS → ChanterS) : (c.modChanter n f).links = c.links := rfl
@[simp] theorem Core.modChanter_xdies (n : Nat) (f : ChanterS → ChanterS) : (c.modChanter n f).xdies = c.xdies := rfl
@[simp] theorem Core.modChanter_targets (n : Nat) (f : ChanterS → ChanterS) : (c.modChanter n f).targets = c.targets := rfl
@[simp] theorem Core.modChanter_stacksOf (n : Nat) (f : ChanterS → ChanterS) : (c.modChanter n f).stacksOf = c.stacksOf := rfl
@[simp] theorem Core.modChanter_host (n : Nat) (f : ChanterS → ChanterS) : (c.modChanter n f).host = c.host := rfl
@[simp] theorem Core.modChanter_locks (n : Nat) (f : ChanterS → ChanterS) : (c.modChanter n f).locks = c.locks := rfl
@[simp] theorem Core.modChanter_power (n : Nat) (f : ChanterS → ChanterS) : (c.modChanter n f).power = c.power := rfl
@[simp] theorem Core.modChanter_plant (n : Nat) (f : ChanterS → ChanterS) : (c.modChanter n f).plant = c.plant := rfl
@[simp] theorem Core.modChanter_pilot (n : Nat) (f : ChanterS → ChanterS) : (c.modChanter n f).pilot = c.pilot := rfl
@[simp] theorem Core.modChanter_time (n : Nat) (f : ChanterS → ChanterS) : (c.modChanter n f).time = c.time := rfl
@[simp] theorem Core.modChanter_insp (n : Nat) (f : ChanterS → ChanterS) : (c.modChanter n f).insp = c.insp := rfl
@[simp] theorem Core.modChanter_dbg (n : Nat) (f : ChanterS → ChanterS) : (c.modChanter n f).dbg = c.dbg := rfl
@[simp] theorem Core.modChanter_out (n : Nat) (f : ChanterS → ChanterS) : (c.modChanter n f).out = c.out := rfl
@[simp] theorem Core.modChanter_free (n : Nat) (f : ChanterS → ChanterS) : (c.modChanter n f).free = c.free := rfl

/-! ### modTarget -/

@[simp] theorem Core.modTarget_part (n : Nat) (f : TargetS → TargetS) : (c.modTarget n f).part = c.part := rfl
@[simp] theorem Core.modTarget_otp (n : Nat) (f : TargetS → TargetS) : (c.modTarget n f).otp = c.otp := rfl
@[simp] theorem Core.modTarget_droneOn (n : Nat) (f : TargetS → TargetS) : (c.modTarget n f).droneOn = c.droneOn := rfl
@[simp] theorem Core.modTarget_perst (n : Nat) (f : TargetS → TargetS) : (c.modTarget n f).perst = c.perst := rfl
@[simp] theorem Core.modTarget_railBad (n : Nat) (f : TargetS → TargetS) : (c.modTarget n f).railBad = c.railBad := rfl
@[simp] theorem Core.modTarget_railN (n : Nat) (f : TargetS → TargetS) : (c.modTarget n f).railN = c.railN := rfl
@[simp] theorem Core.modTarget_regs (n : Nat) (f : TargetS → TargetS) : (c.modTarget n f).regs = c.regs := rfl
@[simp] theorem Core.modTarget_snap (n : Nat) (f : TargetS → TargetS) : (c.modTarget n f).snap = c.snap := rfl
@[simp] theorem Core.modTarget_posted (n : Nat) (f : TargetS → TargetS) : (c.modTarget n f).posted = c.posted := rfl
@[simp] theorem Core.modTarget_pend (n : Nat) (f : TargetS → TargetS) : (c.modTarget n f).pend = c.pend := rfl
@[simp] theorem Core.modTarget_faulted (n : Nat) (f : TargetS → TargetS) : (c.modTarget n f).faulted = c.faulted := rfl
@[simp] theorem Core.modTarget_bxbPrio (n : Nat) (f : TargetS → TargetS) : (c.modTarget n f).bxbPrio = c.bxbPrio := rfl
@[simp] theorem Core.modTarget_io (n : Nat) (f : TargetS → TargetS) : (c.modTarget n f).io = c.io := rfl
@[simp] theorem Core.modTarget_lanes (n : Nat) (f : TargetS → TargetS) : (c.modTarget n f).lanes = c.lanes := rfl
@[simp] theorem Core.modTarget_lgrps (n : Nat) (f : TargetS → TargetS) : (c.modTarget n f).lgrps = c.lgrps := rfl
@[simp] theorem Core.modTarget_ingest (n : Nat) (f : TargetS → TargetS) : (c.modTarget n f).ingest = c.ingest := rfl
@[simp] theorem Core.modTarget_chan (n : Nat) (f : TargetS → TargetS) : (c.modTarget n f).chan = c.chan := rfl
@[simp] theorem Core.modTarget_img (n : Nat) (f : TargetS → TargetS) : (c.modTarget n f).img = c.img := rfl
@[simp] theorem Core.modTarget_imgSt (n : Nat) (f : TargetS → TargetS) : (c.modTarget n f).imgSt = c.imgSt := rfl
@[simp] theorem Core.modTarget_imgReason (n : Nat) (f : TargetS → TargetS) : (c.modTarget n f).imgReason = c.imgReason := rfl
@[simp] theorem Core.modTarget_imgMode (n : Nat) (f : TargetS → TargetS) : (c.modTarget n f).imgMode = c.imgMode := rfl
@[simp] theorem Core.modTarget_links (n : Nat) (f : TargetS → TargetS) : (c.modTarget n f).links = c.links := rfl
@[simp] theorem Core.modTarget_chanters (n : Nat) (f : TargetS → TargetS) : (c.modTarget n f).chanters = c.chanters := rfl
@[simp] theorem Core.modTarget_xdies (n : Nat) (f : TargetS → TargetS) : (c.modTarget n f).xdies = c.xdies := rfl
@[simp] theorem Core.modTarget_stacksOf (n : Nat) (f : TargetS → TargetS) : (c.modTarget n f).stacksOf = c.stacksOf := rfl
@[simp] theorem Core.modTarget_host (n : Nat) (f : TargetS → TargetS) : (c.modTarget n f).host = c.host := rfl
@[simp] theorem Core.modTarget_locks (n : Nat) (f : TargetS → TargetS) : (c.modTarget n f).locks = c.locks := rfl
@[simp] theorem Core.modTarget_power (n : Nat) (f : TargetS → TargetS) : (c.modTarget n f).power = c.power := rfl
@[simp] theorem Core.modTarget_plant (n : Nat) (f : TargetS → TargetS) : (c.modTarget n f).plant = c.plant := rfl
@[simp] theorem Core.modTarget_pilot (n : Nat) (f : TargetS → TargetS) : (c.modTarget n f).pilot = c.pilot := rfl
@[simp] theorem Core.modTarget_time (n : Nat) (f : TargetS → TargetS) : (c.modTarget n f).time = c.time := rfl
@[simp] theorem Core.modTarget_insp (n : Nat) (f : TargetS → TargetS) : (c.modTarget n f).insp = c.insp := rfl
@[simp] theorem Core.modTarget_dbg (n : Nat) (f : TargetS → TargetS) : (c.modTarget n f).dbg = c.dbg := rfl
@[simp] theorem Core.modTarget_out (n : Nat) (f : TargetS → TargetS) : (c.modTarget n f).out = c.out := rfl
@[simp] theorem Core.modTarget_free (n : Nat) (f : TargetS → TargetS) : (c.modTarget n f).free = c.free := rfl

/-! ### modRing -/

@[simp] theorem Core.modRing_part (n : Nat) (f : RingS → RingS) : (c.modRing n f).part = c.part := rfl
@[simp] theorem Core.modRing_otp (n : Nat) (f : RingS → RingS) : (c.modRing n f).otp = c.otp := rfl
@[simp] theorem Core.modRing_droneOn (n : Nat) (f : RingS → RingS) : (c.modRing n f).droneOn = c.droneOn := rfl
@[simp] theorem Core.modRing_perst (n : Nat) (f : RingS → RingS) : (c.modRing n f).perst = c.perst := rfl
@[simp] theorem Core.modRing_railBad (n : Nat) (f : RingS → RingS) : (c.modRing n f).railBad = c.railBad := rfl
@[simp] theorem Core.modRing_railN (n : Nat) (f : RingS → RingS) : (c.modRing n f).railN = c.railN := rfl
@[simp] theorem Core.modRing_regs (n : Nat) (f : RingS → RingS) : (c.modRing n f).regs = c.regs := rfl
@[simp] theorem Core.modRing_snap (n : Nat) (f : RingS → RingS) : (c.modRing n f).snap = c.snap := rfl
@[simp] theorem Core.modRing_posted (n : Nat) (f : RingS → RingS) : (c.modRing n f).posted = c.posted := rfl
@[simp] theorem Core.modRing_pend (n : Nat) (f : RingS → RingS) : (c.modRing n f).pend = c.pend := rfl
@[simp] theorem Core.modRing_faulted (n : Nat) (f : RingS → RingS) : (c.modRing n f).faulted = c.faulted := rfl
@[simp] theorem Core.modRing_bxbPrio (n : Nat) (f : RingS → RingS) : (c.modRing n f).bxbPrio = c.bxbPrio := rfl
@[simp] theorem Core.modRing_io (n : Nat) (f : RingS → RingS) : (c.modRing n f).io = c.io := rfl
@[simp] theorem Core.modRing_lanes (n : Nat) (f : RingS → RingS) : (c.modRing n f).lanes = c.lanes := rfl
@[simp] theorem Core.modRing_lgrps (n : Nat) (f : RingS → RingS) : (c.modRing n f).lgrps = c.lgrps := rfl
@[simp] theorem Core.modRing_ingest (n : Nat) (f : RingS → RingS) : (c.modRing n f).ingest = c.ingest := rfl
@[simp] theorem Core.modRing_chan (n : Nat) (f : RingS → RingS) : (c.modRing n f).chan = c.chan := rfl
@[simp] theorem Core.modRing_img (n : Nat) (f : RingS → RingS) : (c.modRing n f).img = c.img := rfl
@[simp] theorem Core.modRing_imgSt (n : Nat) (f : RingS → RingS) : (c.modRing n f).imgSt = c.imgSt := rfl
@[simp] theorem Core.modRing_imgReason (n : Nat) (f : RingS → RingS) : (c.modRing n f).imgReason = c.imgReason := rfl
@[simp] theorem Core.modRing_imgMode (n : Nat) (f : RingS → RingS) : (c.modRing n f).imgMode = c.imgMode := rfl
@[simp] theorem Core.modRing_links (n : Nat) (f : RingS → RingS) : (c.modRing n f).links = c.links := rfl
@[simp] theorem Core.modRing_chanters (n : Nat) (f : RingS → RingS) : (c.modRing n f).chanters = c.chanters := rfl
@[simp] theorem Core.modRing_xdies (n : Nat) (f : RingS → RingS) : (c.modRing n f).xdies = c.xdies := rfl
@[simp] theorem Core.modRing_targets (n : Nat) (f : RingS → RingS) : (c.modRing n f).targets = c.targets := rfl
@[simp] theorem Core.modRing_stacksOf (n : Nat) (f : RingS → RingS) : (c.modRing n f).stacksOf = c.stacksOf := rfl
@[simp] theorem Core.modRing_locks (n : Nat) (f : RingS → RingS) : (c.modRing n f).locks = c.locks := rfl
@[simp] theorem Core.modRing_power (n : Nat) (f : RingS → RingS) : (c.modRing n f).power = c.power := rfl
@[simp] theorem Core.modRing_plant (n : Nat) (f : RingS → RingS) : (c.modRing n f).plant = c.plant := rfl
@[simp] theorem Core.modRing_pilot (n : Nat) (f : RingS → RingS) : (c.modRing n f).pilot = c.pilot := rfl
@[simp] theorem Core.modRing_time (n : Nat) (f : RingS → RingS) : (c.modRing n f).time = c.time := rfl
@[simp] theorem Core.modRing_insp (n : Nat) (f : RingS → RingS) : (c.modRing n f).insp = c.insp := rfl
@[simp] theorem Core.modRing_dbg (n : Nat) (f : RingS → RingS) : (c.modRing n f).dbg = c.dbg := rfl
@[simp] theorem Core.modRing_out (n : Nat) (f : RingS → RingS) : (c.modRing n f).out = c.out := rfl
@[simp] theorem Core.modRing_free (n : Nat) (f : RingS → RingS) : (c.modRing n f).free = c.free := rfl

/-! ### modDma -/

@[simp] theorem Core.modDma_part (n : Nat) (f : DmaS → DmaS) : (c.modDma n f).part = c.part := rfl
@[simp] theorem Core.modDma_otp (n : Nat) (f : DmaS → DmaS) : (c.modDma n f).otp = c.otp := rfl
@[simp] theorem Core.modDma_droneOn (n : Nat) (f : DmaS → DmaS) : (c.modDma n f).droneOn = c.droneOn := rfl
@[simp] theorem Core.modDma_perst (n : Nat) (f : DmaS → DmaS) : (c.modDma n f).perst = c.perst := rfl
@[simp] theorem Core.modDma_railBad (n : Nat) (f : DmaS → DmaS) : (c.modDma n f).railBad = c.railBad := rfl
@[simp] theorem Core.modDma_railN (n : Nat) (f : DmaS → DmaS) : (c.modDma n f).railN = c.railN := rfl
@[simp] theorem Core.modDma_regs (n : Nat) (f : DmaS → DmaS) : (c.modDma n f).regs = c.regs := rfl
@[simp] theorem Core.modDma_snap (n : Nat) (f : DmaS → DmaS) : (c.modDma n f).snap = c.snap := rfl
@[simp] theorem Core.modDma_posted (n : Nat) (f : DmaS → DmaS) : (c.modDma n f).posted = c.posted := rfl
@[simp] theorem Core.modDma_pend (n : Nat) (f : DmaS → DmaS) : (c.modDma n f).pend = c.pend := rfl
@[simp] theorem Core.modDma_faulted (n : Nat) (f : DmaS → DmaS) : (c.modDma n f).faulted = c.faulted := rfl
@[simp] theorem Core.modDma_bxbPrio (n : Nat) (f : DmaS → DmaS) : (c.modDma n f).bxbPrio = c.bxbPrio := rfl
@[simp] theorem Core.modDma_io (n : Nat) (f : DmaS → DmaS) : (c.modDma n f).io = c.io := rfl
@[simp] theorem Core.modDma_lanes (n : Nat) (f : DmaS → DmaS) : (c.modDma n f).lanes = c.lanes := rfl
@[simp] theorem Core.modDma_lgrps (n : Nat) (f : DmaS → DmaS) : (c.modDma n f).lgrps = c.lgrps := rfl
@[simp] theorem Core.modDma_ingest (n : Nat) (f : DmaS → DmaS) : (c.modDma n f).ingest = c.ingest := rfl
@[simp] theorem Core.modDma_chan (n : Nat) (f : DmaS → DmaS) : (c.modDma n f).chan = c.chan := rfl
@[simp] theorem Core.modDma_img (n : Nat) (f : DmaS → DmaS) : (c.modDma n f).img = c.img := rfl
@[simp] theorem Core.modDma_imgSt (n : Nat) (f : DmaS → DmaS) : (c.modDma n f).imgSt = c.imgSt := rfl
@[simp] theorem Core.modDma_imgReason (n : Nat) (f : DmaS → DmaS) : (c.modDma n f).imgReason = c.imgReason := rfl
@[simp] theorem Core.modDma_imgMode (n : Nat) (f : DmaS → DmaS) : (c.modDma n f).imgMode = c.imgMode := rfl
@[simp] theorem Core.modDma_links (n : Nat) (f : DmaS → DmaS) : (c.modDma n f).links = c.links := rfl
@[simp] theorem Core.modDma_chanters (n : Nat) (f : DmaS → DmaS) : (c.modDma n f).chanters = c.chanters := rfl
@[simp] theorem Core.modDma_xdies (n : Nat) (f : DmaS → DmaS) : (c.modDma n f).xdies = c.xdies := rfl
@[simp] theorem Core.modDma_targets (n : Nat) (f : DmaS → DmaS) : (c.modDma n f).targets = c.targets := rfl
@[simp] theorem Core.modDma_stacksOf (n : Nat) (f : DmaS → DmaS) : (c.modDma n f).stacksOf = c.stacksOf := rfl
@[simp] theorem Core.modDma_locks (n : Nat) (f : DmaS → DmaS) : (c.modDma n f).locks = c.locks := rfl
@[simp] theorem Core.modDma_power (n : Nat) (f : DmaS → DmaS) : (c.modDma n f).power = c.power := rfl
@[simp] theorem Core.modDma_plant (n : Nat) (f : DmaS → DmaS) : (c.modDma n f).plant = c.plant := rfl
@[simp] theorem Core.modDma_pilot (n : Nat) (f : DmaS → DmaS) : (c.modDma n f).pilot = c.pilot := rfl
@[simp] theorem Core.modDma_time (n : Nat) (f : DmaS → DmaS) : (c.modDma n f).time = c.time := rfl
@[simp] theorem Core.modDma_insp (n : Nat) (f : DmaS → DmaS) : (c.modDma n f).insp = c.insp := rfl
@[simp] theorem Core.modDma_dbg (n : Nat) (f : DmaS → DmaS) : (c.modDma n f).dbg = c.dbg := rfl
@[simp] theorem Core.modDma_out (n : Nat) (f : DmaS → DmaS) : (c.modDma n f).out = c.out := rfl
@[simp] theorem Core.modDma_free (n : Nat) (f : DmaS → DmaS) : (c.modDma n f).free = c.free := rfl

/-! ### ioPut -/

@[simp] theorem Core.ioPut_part (a : Nat) (bs : List Byte) : (c.ioPut a bs).part = c.part := rfl
@[simp] theorem Core.ioPut_otp (a : Nat) (bs : List Byte) : (c.ioPut a bs).otp = c.otp := rfl
@[simp] theorem Core.ioPut_droneOn (a : Nat) (bs : List Byte) : (c.ioPut a bs).droneOn = c.droneOn := rfl
@[simp] theorem Core.ioPut_perst (a : Nat) (bs : List Byte) : (c.ioPut a bs).perst = c.perst := rfl
@[simp] theorem Core.ioPut_railBad (a : Nat) (bs : List Byte) : (c.ioPut a bs).railBad = c.railBad := rfl
@[simp] theorem Core.ioPut_railN (a : Nat) (bs : List Byte) : (c.ioPut a bs).railN = c.railN := rfl
@[simp] theorem Core.ioPut_regs (a : Nat) (bs : List Byte) : (c.ioPut a bs).regs = c.regs := rfl
@[simp] theorem Core.ioPut_snap (a : Nat) (bs : List Byte) : (c.ioPut a bs).snap = c.snap := rfl
@[simp] theorem Core.ioPut_posted (a : Nat) (bs : List Byte) : (c.ioPut a bs).posted = c.posted := rfl
@[simp] theorem Core.ioPut_pend (a : Nat) (bs : List Byte) : (c.ioPut a bs).pend = c.pend := rfl
@[simp] theorem Core.ioPut_faulted (a : Nat) (bs : List Byte) : (c.ioPut a bs).faulted = c.faulted := rfl
@[simp] theorem Core.ioPut_bxbPrio (a : Nat) (bs : List Byte) : (c.ioPut a bs).bxbPrio = c.bxbPrio := rfl
@[simp] theorem Core.ioPut_lanes (a : Nat) (bs : List Byte) : (c.ioPut a bs).lanes = c.lanes := rfl
@[simp] theorem Core.ioPut_lgrps (a : Nat) (bs : List Byte) : (c.ioPut a bs).lgrps = c.lgrps := rfl
@[simp] theorem Core.ioPut_ingest (a : Nat) (bs : List Byte) : (c.ioPut a bs).ingest = c.ingest := rfl
@[simp] theorem Core.ioPut_chan (a : Nat) (bs : List Byte) : (c.ioPut a bs).chan = c.chan := rfl
@[simp] theorem Core.ioPut_img (a : Nat) (bs : List Byte) : (c.ioPut a bs).img = c.img := rfl
@[simp] theorem Core.ioPut_imgSt (a : Nat) (bs : List Byte) : (c.ioPut a bs).imgSt = c.imgSt := rfl
@[simp] theorem Core.ioPut_imgReason (a : Nat) (bs : List Byte) : (c.ioPut a bs).imgReason = c.imgReason := rfl
@[simp] theorem Core.ioPut_imgMode (a : Nat) (bs : List Byte) : (c.ioPut a bs).imgMode = c.imgMode := rfl
@[simp] theorem Core.ioPut_links (a : Nat) (bs : List Byte) : (c.ioPut a bs).links = c.links := rfl
@[simp] theorem Core.ioPut_chanters (a : Nat) (bs : List Byte) : (c.ioPut a bs).chanters = c.chanters := rfl
@[simp] theorem Core.ioPut_xdies (a : Nat) (bs : List Byte) : (c.ioPut a bs).xdies = c.xdies := rfl
@[simp] theorem Core.ioPut_targets (a : Nat) (bs : List Byte) : (c.ioPut a bs).targets = c.targets := rfl
@[simp] theorem Core.ioPut_stacksOf (a : Nat) (bs : List Byte) : (c.ioPut a bs).stacksOf = c.stacksOf := rfl
@[simp] theorem Core.ioPut_host (a : Nat) (bs : List Byte) : (c.ioPut a bs).host = c.host := rfl
@[simp] theorem Core.ioPut_locks (a : Nat) (bs : List Byte) : (c.ioPut a bs).locks = c.locks := rfl
@[simp] theorem Core.ioPut_power (a : Nat) (bs : List Byte) : (c.ioPut a bs).power = c.power := rfl
@[simp] theorem Core.ioPut_plant (a : Nat) (bs : List Byte) : (c.ioPut a bs).plant = c.plant := rfl
@[simp] theorem Core.ioPut_pilot (a : Nat) (bs : List Byte) : (c.ioPut a bs).pilot = c.pilot := rfl
@[simp] theorem Core.ioPut_time (a : Nat) (bs : List Byte) : (c.ioPut a bs).time = c.time := rfl
@[simp] theorem Core.ioPut_insp (a : Nat) (bs : List Byte) : (c.ioPut a bs).insp = c.insp := rfl
@[simp] theorem Core.ioPut_dbg (a : Nat) (bs : List Byte) : (c.ioPut a bs).dbg = c.dbg := rfl
@[simp] theorem Core.ioPut_out (a : Nat) (bs : List Byte) : (c.ioPut a bs).out = c.out := rfl
@[simp] theorem Core.ioPut_free (a : Nat) (bs : List Byte) : (c.ioPut a bs).free = c.free := rfl

@[simp] theorem Core.modPower_self (f : PowerS → PowerS) : (c.modPower f).power = f c.power := rfl
@[simp] theorem Core.modPlant_self (f : PlantS → PlantS) : (c.modPlant f).plant = f c.plant := rfl
@[simp] theorem Core.modTime_self (f : TimeS → TimeS) : (c.modTime f).time = f c.time := rfl
@[simp] theorem Core.emit_out (o : Output) : (c.emit o).out = c.out ++ [o] := rfl

/-! ### Collections -/

theorem Core.lane_setLane (n m : Nat) (x : LaneS) : (c.setLane n x).lane m = if m = n then x else c.lane m := SMap.get_set ..
@[simp] theorem Core.lane_setLane_same (n : Nat) (x : LaneS) : (c.setLane n x).lane n = x := SMap.get_set_same ..
theorem Core.lane_modLane (n m : Nat) (f : LaneS → LaneS) : (c.modLane n f).lane m = if m = n then f (c.lane n) else c.lane m := SMap.get_set ..
@[simp] theorem Core.lane_modLane_same (n : Nat) (f : LaneS → LaneS) : (c.modLane n f).lane n = f (c.lane n) := SMap.get_set_same ..
theorem Core.lgrp_setLgrp (n m : Nat) (x : LgrpS) : (c.setLgrp n x).lgrp m = if m = n then x else c.lgrp m := SMap.get_set ..
@[simp] theorem Core.lgrp_setLgrp_same (n : Nat) (x : LgrpS) : (c.setLgrp n x).lgrp n = x := SMap.get_set_same ..
theorem Core.chanter_setChanter (n m : Nat) (x : ChanterS) : (c.setChanter n x).chanter m = if m = n then x else c.chanter m := SMap.get_set ..
@[simp] theorem Core.chanter_setChanter_same (n : Nat) (x : ChanterS) : (c.setChanter n x).chanter n = x := SMap.get_set_same ..
theorem Core.chanter_modChanter (n m : Nat) (f : ChanterS → ChanterS) : (c.modChanter n f).chanter m = if m = n then f (c.chanter n) else c.chanter m := SMap.get_set ..
@[simp] theorem Core.chanter_modChanter_same (n : Nat) (f : ChanterS → ChanterS) : (c.modChanter n f).chanter n = f (c.chanter n) := SMap.get_set_same ..
theorem Core.xdie_setX (n m : Nat) (x : XDieS) : (c.setX n x).xdie m = if m = n then x else c.xdie m := SMap.get_set ..
@[simp] theorem Core.xdie_setX_same (n : Nat) (x : XDieS) : (c.setX n x).xdie n = x := SMap.get_set_same ..
theorem Core.xdie_modX (n m : Nat) (f : XDieS → XDieS) : (c.modX n f).xdie m = if m = n then f (c.xdie n) else c.xdie m := SMap.get_set ..
@[simp] theorem Core.xdie_modX_same (n : Nat) (f : XDieS → XDieS) : (c.modX n f).xdie n = f (c.xdie n) := SMap.get_set_same ..
theorem Core.target_setTarget (n m : Nat) (x : TargetS) : (c.setTarget n x).target m = if m = n then x else c.target m := SMap.get_set ..
@[simp] theorem Core.target_setTarget_same (n : Nat) (x : TargetS) : (c.setTarget n x).target n = x := SMap.get_set_same ..
theorem Core.target_modTarget (n m : Nat) (f : TargetS → TargetS) : (c.modTarget n f).target m = if m = n then f (c.target n) else c.target m := SMap.get_set ..
@[simp] theorem Core.target_modTarget_same (n : Nat) (f : TargetS → TargetS) : (c.modTarget n f).target n = f (c.target n) := SMap.get_set_same ..
theorem Core.stack_setStack (n m : Nat) (x : StackS) : (c.setStack n x).stack m = if m = n then x else c.stack m := SMap.get_set ..
@[simp] theorem Core.stack_setStack_same (n : Nat) (x : StackS) : (c.setStack n x).stack n = x := SMap.get_set_same ..
theorem Core.stack_modStack (n m : Nat) (f : StackS → StackS) : (c.modStack n f).stack m = if m = n then f (c.stack n) else c.stack m := SMap.get_set ..
@[simp] theorem Core.stack_modStack_same (n : Nat) (f : StackS → StackS) : (c.modStack n f).stack n = f (c.stack n) := SMap.get_set_same ..
theorem Core.ring_setRing (n m : Nat) (x : RingS) : (c.setRing n x).ring m = if m = n then x else c.ring m := SMap.get_set ..
@[simp] theorem Core.ring_setRing_same (n : Nat) (x : RingS) : (c.setRing n x).ring n = x := SMap.get_set_same ..
theorem Core.ring_modRing (n m : Nat) (f : RingS → RingS) : (c.modRing n f).ring m = if m = n then f (c.ring n) else c.ring m := SMap.get_set ..
@[simp] theorem Core.ring_modRing_same (n : Nat) (f : RingS → RingS) : (c.modRing n f).ring n = f (c.ring n) := SMap.get_set_same ..
theorem Core.dma_setDma (n m : Nat) (x : DmaS) : (c.setDma n x).dma m = if m = n then x else c.dma m := SMap.get_set ..
@[simp] theorem Core.dma_setDma_same (n : Nat) (x : DmaS) : (c.setDma n x).dma n = x := SMap.get_set_same ..
theorem Core.dma_modDma (n m : Nat) (f : DmaS → DmaS) : (c.modDma n f).dma m = if m = n then f (c.dma n) else c.dma m := SMap.get_set ..
@[simp] theorem Core.dma_modDma_same (n : Nat) (f : DmaS → DmaS) : (c.modDma n f).dma n = f (c.dma n) := SMap.get_set_same ..
theorem Core.inspAt_setInsp (n m : Nat) (x : InspS) : (c.setInsp n x).inspAt m = if m = n then x else c.inspAt m := SMap.get_set ..
@[simp] theorem Core.inspAt_setInsp_same (n : Nat) (x : InspS) : (c.setInsp n x).inspAt n = x := SMap.get_set_same ..
theorem Core.lock_setLock (n m : Nat) (x : LockS) : (c.setLock n x).lock m = if m = n then x else c.lock m := SMap.get_set ..
@[simp] theorem Core.lock_setLock_same (n : Nat) (x : LockS) : (c.setLock n x).lock n = x := SMap.get_set_same ..
theorem Core.delay_setDelay (n m : Nat) (x : DelayS) : (c.setDelay n x).delay m = if m = n then x else c.delay m := SMap.get_set ..
@[simp] theorem Core.delay_setDelay_same (n : Nat) (x : DelayS) : (c.setDelay n x).delay n = x := SMap.get_set_same ..

/-! ### Registers -/

theorem Core.reg_setReg (k j : Nat) (w : Word) : (c.setReg k w).reg j = if j = k then w else c.reg j := SMap.get_set ..
@[simp] theorem Core.reg_setReg_same (k : Nat) (w : Word) : (c.setReg k w).reg k = w := SMap.get_set_same ..
/-- A register of a changed core that keeps the register file. -/
theorem Core.rd_congr {c c' : Core} (h : c'.regs = c.regs) (k : PageKind) (o : Nat) : c'.rd k o = c.rd k o := by
  simp [Core.rd, Core.reg, h]
theorem Core.rd_wr (k j : PageKind) (o p v : Nat) :
    (c.wr k o v).rd j p = if j.key p = k.key o then v % 2 ^ 32 else c.rd j p := by
  unfold Core.rd Core.wr
  rw [Core.reg_setReg]
  split_ifs <;> simp [word]
@[simp] theorem Core.rd_wr_same (k : PageKind) (o v : Nat) : (c.wr k o v).rd k o = v % 2 ^ 32 := by
  rw [Core.rd_wr, if_pos rfl]
theorem Core.rd_inc (k j : PageKind) (o p n : Nat) :
    (c.inc k o n).rd j p = if j.key p = k.key o then (satInc (c.reg (k.key o)) n).toNat else c.rd j p := by
  unfold Core.rd Core.inc
  rw [Core.reg_setReg]
  split_ifs <;> rfl

end Sys2Proof.Machine
end

