-- ==== Sys2Proof/Laws/Ops.lean ====
section
/-! SUPPORT. Laws/Ops.lean: all that raising an event bit, sending a message, reporting a fault and clearing counters can
change. -/

namespace Sys2Proof.Machine

variable (c : Core)

theorem Core.clear_induct (k : PageKind) (l : List Nat) (P : Core → Prop) (h : P c)
    (hs : ∀ d o, P d → P (d.wr k o 0)) : P (c.clear k l) := by
  unfold Core.clear
  induction l generalizing c with
  | nil => exact h
  | cons o l ih => exact ih (c.wr k o 0) (hs c o h)

theorem Core.raise_cases (k : PageKind) (b : Nat) (P : Core → Prop) (h : P (c.wr k 0x010 (c.rd k 0x010 ||| 2 ^ b)))
    (hs : ∀ d v, P d → P (d.msix v)) : P (c.raise k b) := by
  unfold Core.raise
  dsimp only
  split_ifs
  · exact hs _ _ h
  · exact h

theorem Core.when_eq (p : Bool) (f : Core → Core) : c.when p f = if p = true then f c else c := rfl
@[simp] theorem Core.when_true (f : Core → Core) : c.when true f = f c := rfl
@[simp] theorem Core.when_false (f : Core → Core) : c.when false f = c := rfl

/-! ### msix -/

@[simp] theorem Core.msix_part (v : Nat) : (c.msix v).part = c.part := by unfold Core.msix; split_ifs <;> rfl
@[simp] theorem Core.msix_otp (v : Nat) : (c.msix v).otp = c.otp := by unfold Core.msix; split_ifs <;> rfl
@[simp] theorem Core.msix_droneOn (v : Nat) : (c.msix v).droneOn = c.droneOn := by unfold Core.msix; split_ifs <;> rfl
@[simp] theorem Core.msix_perst (v : Nat) : (c.msix v).perst = c.perst := by unfold Core.msix; split_ifs <;> rfl
@[simp] theorem Core.msix_railBad (v : Nat) : (c.msix v).railBad = c.railBad := by unfold Core.msix; split_ifs <;> rfl
@[simp] theorem Core.msix_railN (v : Nat) : (c.msix v).railN = c.railN := by unfold Core.msix; split_ifs <;> rfl
@[simp] theorem Core.msix_regs (v : Nat) : (c.msix v).regs = c.regs := by unfold Core.msix; split_ifs <;> rfl
@[simp] theorem Core.msix_snap (v : Nat) : (c.msix v).snap = c.snap := by unfold Core.msix; split_ifs <;> rfl
@[simp] theorem Core.msix_posted (v : Nat) : (c.msix v).posted = c.posted := by unfold Core.msix; split_ifs <;> rfl
@[simp] theorem Core.msix_pend (v : Nat) : (c.msix v).pend = c.pend := by unfold Core.msix; split_ifs <;> rfl
@[simp] theorem Core.msix_faulted (v : Nat) : (c.msix v).faulted = c.faulted := by unfold Core.msix; split_ifs <;> rfl
@[simp] theorem Core.msix_bxbPrio (v : Nat) : (c.msix v).bxbPrio = c.bxbPrio := by unfold Core.msix; split_ifs <;> rfl
@[simp] theorem Core.msix_io (v : Nat) : (c.msix v).io = c.io := by unfold Core.msix; split_ifs <;> rfl
@[simp] theorem Core.msix_lanes (v : Nat) : (c.msix v).lanes = c.lanes := by unfold Core.msix; split_ifs <;> rfl
@[simp] theorem Core.msix_lgrps (v : Nat) : (c.msix v).lgrps = c.lgrps := by unfold Core.msix; split_ifs <;> rfl
@[simp] theorem Core.msix_ingest (v : Nat) : (c.msix v).ingest = c.ingest := by unfold Core.msix; split_ifs <;> rfl
@[simp] theorem Core.msix_chan (v : Nat) : (c.msix v).chan = c.chan := by unfold Core.msix; split_ifs <;> rfl
@[simp] theorem Core.msix_img (v : Nat) : (c.msix v).img = c.img := by unfold Core.msix; split_ifs <;> rfl
@[simp] theorem Core.msix_imgSt (v : Nat) : (c.msix v).imgSt = c.imgSt := by unfold Core.msix; split_ifs <;> rfl
@[simp] theorem Core.msix_imgReason (v : Nat) : (c.msix v).imgReason = c.imgReason := by unfold Core.msix; split_ifs <;> rfl
@[simp] theorem Core.msix_imgMode (v : Nat) : (c.msix v).imgMode = c.imgMode := by unfold Core.msix; split_ifs <;> rfl
@[simp] theorem Core.msix_links (v : Nat) : (c.msix v).links = c.links := by unfold Core.msix; split_ifs <;> rfl
@[simp] theorem Core.msix_chanters (v : Nat) : (c.msix v).chanters = c.chanters := by unfold Core.msix; split_ifs <;> rfl
@[simp] theorem Core.msix_xdies (v : Nat) : (c.msix v).xdies = c.xdies := by unfold Core.msix; split_ifs <;> rfl
@[simp] theorem Core.msix_targets (v : Nat) : (c.msix v).targets = c.targets := by unfold Core.msix; split_ifs <;> rfl
@[simp] theorem Core.msix_stacksOf (v : Nat) : (c.msix v).stacksOf = c.stacksOf := by unfold Core.msix; split_ifs <;> rfl
@[simp] theorem Core.msix_locks (v : Nat) : (c.msix v).locks = c.locks := by unfold Core.msix; split_ifs <;> rfl
@[simp] theorem Core.msix_power (v : Nat) : (c.msix v).power = c.power := by unfold Core.msix; split_ifs <;> rfl
@[simp] theorem Core.msix_plant (v : Nat) : (c.msix v).plant = c.plant := by unfold Core.msix; split_ifs <;> rfl
@[simp] theorem Core.msix_pilot (v : Nat) : (c.msix v).pilot = c.pilot := by unfold Core.msix; split_ifs <;> rfl
@[simp] theorem Core.msix_time (v : Nat) : (c.msix v).time = c.time := by unfold Core.msix; split_ifs <;> rfl
@[simp] theorem Core.msix_insp (v : Nat) : (c.msix v).insp = c.insp := by unfold Core.msix; split_ifs <;> rfl
@[simp] theorem Core.msix_dbg (v : Nat) : (c.msix v).dbg = c.dbg := by unfold Core.msix; split_ifs <;> rfl
@[simp] theorem Core.msix_free (v : Nat) : (c.msix v).free = c.free := by unfold Core.msix; split_ifs <;> rfl

/-! ### raise -/

@[simp] theorem Core.raise_part (k : PageKind) (b : Nat) : (c.raise k b).part = c.part := by exact Core.raise_cases c k b (fun d => d.part = c.part) (Core.wr_part ..) (fun d v h => (Core.msix_part d v).trans h)
@[simp] theorem Core.raise_otp (k : PageKind) (b : Nat) : (c.raise k b).otp = c.otp := by exact Core.raise_cases c k b (fun d => d.otp = c.otp) (Core.wr_otp ..) (fun d v h => (Core.msix_otp d v).trans h)
@[simp] theorem Core.raise_droneOn (k : PageKind) (b : Nat) : (c.raise k b).droneOn = c.droneOn := by exact Core.raise_cases c k b (fun d => d.droneOn = c.droneOn) (Core.wr_droneOn ..) (fun d v h => (Core.msix_droneOn d v).trans h)
@[simp] theorem Core.raise_perst (k : PageKind) (b : Nat) : (c.raise k b).perst = c.perst := by exact Core.raise_cases c k b (fun d => d.perst = c.perst) (Core.wr_perst ..) (fun d v h => (Core.msix_perst d v).trans h)
@[simp] theorem Core.raise_railBad (k : PageKind) (b : Nat) : (c.raise k b).railBad = c.railBad := by exact Core.raise_cases c k b (fun d => d.railBad = c.railBad) (Core.wr_railBad ..) (fun d v h => (Core.msix_railBad d v).trans h)
@[simp] theorem Core.raise_railN (k : PageKind) (b : Nat) : (c.raise k b).railN = c.railN := by exact Core.raise_cases c k b (fun d => d.railN = c.railN) (Core.wr_railN ..) (fun d v h => (Core.msix_railN d v).trans h)
@[simp] theorem Core.raise_snap (k : PageKind) (b : Nat) : (c.raise k b).snap = c.snap := by exact Core.raise_cases c k b (fun d => d.snap = c.snap) (Core.wr_snap ..) (fun d v h => (Core.msix_snap d v).trans h)
@[simp] theorem Core.raise_posted (k : PageKind) (b : Nat) : (c.raise k b).posted = c.posted := by exact Core.raise_cases c k b (fun d => d.posted = c.posted) (Core.wr_posted ..) (fun d v h => (Core.msix_posted d v).trans h)
@[simp] theorem Core.raise_pend (k : PageKind) (b : Nat) : (c.raise k b).pend = c.pend := by exact Core.raise_cases c k b (fun d => d.pend = c.pend) (Core.wr_pend ..) (fun d v h => (Core.msix_pend d v).trans h)
@[simp] theorem Core.raise_faulted (k : PageKind) (b : Nat) : (c.raise k b).faulted = c.faulted := by exact Core.raise_cases c k b (fun d => d.faulted = c.faulted) (Core.wr_faulted ..) (fun d v h => (Core.msix_faulted d v).trans h)
@[simp] theorem Core.raise_bxbPrio (k : PageKind) (b : Nat) : (c.raise k b).bxbPrio = c.bxbPrio := by exact Core.raise_cases c k b (fun d => d.bxbPrio = c.bxbPrio) (Core.wr_bxbPrio ..) (fun d v h => (Core.msix_bxbPrio d v).trans h)
@[simp] theorem Core.raise_io (k : PageKind) (b : Nat) : (c.raise k b).io = c.io := by exact Core.raise_cases c k b (fun d => d.io = c.io) (Core.wr_io ..) (fun d v h => (Core.msix_io d v).trans h)
@[simp] theorem Core.raise_lanes (k : PageKind) (b : Nat) : (c.raise k b).lanes = c.lanes := by exact Core.raise_cases c k b (fun d => d.lanes = c.lanes) (Core.wr_lanes ..) (fun d v h => (Core.msix_lanes d v).trans h)
@[simp] theorem Core.raise_lgrps (k : PageKind) (b : Nat) : (c.raise k b).lgrps = c.lgrps := by exact Core.raise_cases c k b (fun d => d.lgrps = c.lgrps) (Core.wr_lgrps ..) (fun d v h => (Core.msix_lgrps d v).trans h)
@[simp] theorem Core.raise_ingest (k : PageKind) (b : Nat) : (c.raise k b).ingest = c.ingest := by exact Core.raise_cases c k b (fun d => d.ingest = c.ingest) (Core.wr_ingest ..) (fun d v h => (Core.msix_ingest d v).trans h)
@[simp] theorem Core.raise_chan (k : PageKind) (b : Nat) : (c.raise k b).chan = c.chan := by exact Core.raise_cases c k b (fun d => d.chan = c.chan) (Core.wr_chan ..) (fun d v h => (Core.msix_chan d v).trans h)
@[simp] theorem Core.raise_img (k : PageKind) (b : Nat) : (c.raise k b).img = c.img := by exact Core.raise_cases c k b (fun d => d.img = c.img) (Core.wr_img ..) (fun d v h => (Core.msix_img d v).trans h)
@[simp] theorem Core.raise_imgSt (k : PageKind) (b : Nat) : (c.raise k b).imgSt = c.imgSt := by exact Core.raise_cases c k b (fun d => d.imgSt = c.imgSt) (Core.wr_imgSt ..) (fun d v h => (Core.msix_imgSt d v).trans h)
@[simp] theorem Core.raise_imgReason (k : PageKind) (b : Nat) : (c.raise k b).imgReason = c.imgReason := by exact Core.raise_cases c k b (fun d => d.imgReason = c.imgReason) (Core.wr_imgReason ..) (fun d v h => (Core.msix_imgReason d v).trans h)
@[simp] theorem Core.raise_imgMode (k : PageKind) (b : Nat) : (c.raise k b).imgMode = c.imgMode := by exact Core.raise_cases c k b (fun d => d.imgMode = c.imgMode) (Core.wr_imgMode ..) (fun d v h => (Core.msix_imgMode d v).trans h)
@[simp] theorem Core.raise_links (k : PageKind) (b : Nat) : (c.raise k b).links = c.links := by exact Core.raise_cases c k b (fun d => d.links = c.links) (Core.wr_links ..) (fun d v h => (Core.msix_links d v).trans h)
@[simp] theorem Core.raise_chanters (k : PageKind) (b : Nat) : (c.raise k b).chanters = c.chanters := by exact Core.raise_cases c k b (fun d => d.chanters = c.chanters) (Core.wr_chanters ..) (fun d v h => (Core.msix_chanters d v).trans h)
@[simp] theorem Core.raise_xdies (k : PageKind) (b : Nat) : (c.raise k b).xdies = c.xdies := by exact Core.raise_cases c k b (fun d => d.xdies = c.xdies) (Core.wr_xdies ..) (fun d v h => (Core.msix_xdies d v).trans h)
@[simp] theorem Core.raise_targets (k : PageKind) (b : Nat) : (c.raise k b).targets = c.targets := by exact Core.raise_cases c k b (fun d => d.targets = c.targets) (Core.wr_targets ..) (fun d v h => (Core.msix_targets d v).trans h)
@[simp] theorem Core.raise_stacksOf (k : PageKind) (b : Nat) : (c.raise k b).stacksOf = c.stacksOf := by exact Core.raise_cases c k b (fun d => d.stacksOf = c.stacksOf) (Core.wr_stacksOf ..) (fun d v h => (Core.msix_stacksOf d v).trans h)
@[simp] theorem Core.raise_locks (k : PageKind) (b : Nat) : (c.raise k b).locks = c.locks := by exact Core.raise_cases c k b (fun d => d.locks = c.locks) (Core.wr_locks ..) (fun d v h => (Core.msix_locks d v).trans h)
@[simp] theorem Core.raise_power (k : PageKind) (b : Nat) : (c.raise k b).power = c.power := by exact Core.raise_cases c k b (fun d => d.power = c.power) (Core.wr_power ..) (fun d v h => (Core.msix_power d v).trans h)
@[simp] theorem Core.raise_plant (k : PageKind) (b : Nat) : (c.raise k b).plant = c.plant := by exact Core.raise_cases c k b (fun d => d.plant = c.plant) (Core.wr_plant ..) (fun d v h => (Core.msix_plant d v).trans h)
@[simp] theorem Core.raise_pilot (k : PageKind) (b : Nat) : (c.raise k b).pilot = c.pilot := by exact Core.raise_cases c k b (fun d => d.pilot = c.pilot) (Core.wr_pilot ..) (fun d v h => (Core.msix_pilot d v).trans h)
@[simp] theorem Core.raise_time (k : PageKind) (b : Nat) : (c.raise k b).time = c.time := by exact Core.raise_cases c k b (fun d => d.time = c.time) (Core.wr_time ..) (fun d v h => (Core.msix_time d v).trans h)
@[simp] theorem Core.raise_insp (k : PageKind) (b : Nat) : (c.raise k b).insp = c.insp := by exact Core.raise_cases c k b (fun d => d.insp = c.insp) (Core.wr_insp ..) (fun d v h => (Core.msix_insp d v).trans h)
@[simp] theorem Core.raise_dbg (k : PageKind) (b : Nat) : (c.raise k b).dbg = c.dbg := by exact Core.raise_cases c k b (fun d => d.dbg = c.dbg) (Core.wr_dbg ..) (fun d v h => (Core.msix_dbg d v).trans h)
@[simp] theorem Core.raise_free (k : PageKind) (b : Nat) : (c.raise k b).free = c.free := by exact Core.raise_cases c k b (fun d => d.free = c.free) (Core.wr_free ..) (fun d v h => (Core.msix_free d v).trans h)

/-! ### report -/

@[simp] theorem Core.report_part (k : PageKind) (kind cls addr : Nat) : (c.report k kind cls addr).part = c.part := by unfold Core.report; split_ifs <;> rfl
@[simp] theorem Core.report_otp (k : PageKind) (kind cls addr : Nat) : (c.report k kind cls addr).otp = c.otp := by unfold Core.report; split_ifs <;> rfl
@[simp] theorem Core.report_droneOn (k : PageKind) (kind cls addr : Nat) : (c.report k kind cls addr).droneOn = c.droneOn := by unfold Core.report; split_ifs <;> rfl
@[simp] theorem Core.report_perst (k : PageKind) (kind cls addr : Nat) : (c.report k kind cls addr).perst = c.perst := by unfold Core.report; split_ifs <;> rfl
@[simp] theorem Core.report_railBad (k : PageKind) (kind cls addr : Nat) : (c.report k kind cls addr).railBad = c.railBad := by unfold Core.report; split_ifs <;> rfl
@[simp] theorem Core.report_railN (k : PageKind) (kind cls addr : Nat) : (c.report k kind cls addr).railN = c.railN := by unfold Core.report; split_ifs <;> rfl
@[simp] theorem Core.report_snap (k : PageKind) (kind cls addr : Nat) : (c.report k kind cls addr).snap = c.snap := by unfold Core.report; split_ifs <;> rfl
@[simp] theorem Core.report_posted (k : PageKind) (kind cls addr : Nat) : (c.report k kind cls addr).posted = c.posted := by unfold Core.report; split_ifs <;> rfl
@[simp] theorem Core.report_faulted (k : PageKind) (kind cls addr : Nat) : (c.report k kind cls addr).faulted = c.faulted := by unfold Core.report; split_ifs <;> rfl
@[simp] theorem Core.report_bxbPrio (k : PageKind) (kind cls addr : Nat) : (c.report k kind cls addr).bxbPrio = c.bxbPrio := by unfold Core.report; split_ifs <;> rfl
@[simp] theorem Core.report_io (k : PageKind) (kind cls addr : Nat) : (c.report k kind cls addr).io = c.io := by unfold Core.report; split_ifs <;> rfl
@[simp] theorem Core.report_lanes (k : PageKind) (kind cls addr : Nat) : (c.report k kind cls addr).lanes = c.lanes := by unfold Core.report; split_ifs <;> rfl
@[simp] theorem Core.report_lgrps (k : PageKind) (kind cls addr : Nat) : (c.report k kind cls addr).lgrps = c.lgrps := by unfold Core.report; split_ifs <;> rfl
@[simp] theorem Core.report_ingest (k : PageKind) (kind cls addr : Nat) : (c.report k kind cls addr).ingest = c.ingest := by unfold Core.report; split_ifs <;> rfl
@[simp] theorem Core.report_chan (k : PageKind) (kind cls addr : Nat) : (c.report k kind cls addr).chan = c.chan := by unfold Core.report; split_ifs <;> rfl
@[simp] theorem Core.report_img (k : PageKind) (kind cls addr : Nat) : (c.report k kind cls addr).img = c.img := by unfold Core.report; split_ifs <;> rfl
@[simp] theorem Core.report_imgSt (k : PageKind) (kind cls addr : Nat) : (c.report k kind cls addr).imgSt = c.imgSt := by unfold Core.report; split_ifs <;> rfl
@[simp] theorem Core.report_imgReason (k : PageKind) (kind cls addr : Nat) : (c.report k kind cls addr).imgReason = c.imgReason := by unfold Core.report; split_ifs <;> rfl
@[simp] theorem Core.report_imgMode (k : PageKind) (kind cls addr : Nat) : (c.report k kind cls addr).imgMode = c.imgMode := by unfold Core.report; split_ifs <;> rfl
@[simp] theorem Core.report_links (k : PageKind) (kind cls addr : Nat) : (c.report k kind cls addr).links = c.links := by unfold Core.report; split_ifs <;> rfl
@[simp] theorem Core.report_chanters (k : PageKind) (kind cls addr : Nat) : (c.report k kind cls addr).chanters = c.chanters := by unfold Core.report; split_ifs <;> rfl
@[simp] theorem Core.report_xdies (k : PageKind) (kind cls addr : Nat) : (c.report k kind cls addr).xdies = c.xdies := by unfold Core.report; split_ifs <;> rfl
@[simp] theorem Core.report_targets (k : PageKind) (kind cls addr : Nat) : (c.report k kind cls addr).targets = c.targets := by unfold Core.report; split_ifs <;> rfl
@[simp] theorem Core.report_stacksOf (k : PageKind) (kind cls addr : Nat) : (c.report k kind cls addr).stacksOf = c.stacksOf := by unfold Core.report; split_ifs <;> rfl
@[simp] theorem Core.report_host (k : PageKind) (kind cls addr : Nat) : (c.report k kind cls addr).host = c.host := by unfold Core.report; split_ifs <;> rfl
@[simp] theorem Core.report_locks (k : PageKind) (kind cls addr : Nat) : (c.report k kind cls addr).locks = c.locks := by unfold Core.report; split_ifs <;> rfl
@[simp] theorem Core.report_power (k : PageKind) (kind cls addr : Nat) : (c.report k kind cls addr).power = c.power := by unfold Core.report; split_ifs <;> rfl
@[simp] theorem Core.report_plant (k : PageKind) (kind cls addr : Nat) : (c.report k kind cls addr).plant = c.plant := by unfold Core.report; split_ifs <;> rfl
@[simp] theorem Core.report_pilot (k : PageKind) (kind cls addr : Nat) : (c.report k kind cls addr).pilot = c.pilot := by unfold Core.report; split_ifs <;> rfl
@[simp] theorem Core.report_time (k : PageKind) (kind cls addr : Nat) : (c.report k kind cls addr).time = c.time := by unfold Core.report; split_ifs <;> rfl
@[simp] theorem Core.report_insp (k : PageKind) (kind cls addr : Nat) : (c.report k kind cls addr).insp = c.insp := by unfold Core.report; split_ifs <;> rfl
@[simp] theorem Core.report_dbg (k : PageKind) (kind cls addr : Nat) : (c.report k kind cls addr).dbg = c.dbg := by unfold Core.report; split_ifs <;> rfl
@[simp] theorem Core.report_out (k : PageKind) (kind cls addr : Nat) : (c.report k kind cls addr).out = c.out := by unfold Core.report; split_ifs <;> rfl
@[simp] theorem Core.report_free (k : PageKind) (kind cls addr : Nat) : (c.report k kind cls addr).free = c.free := by unfold Core.report; split_ifs <;> rfl

/-! ### pageFlt -/

@[simp] theorem Core.pageFlt_part (k : PageKind) (kind : Nat) : (c.pageFlt k kind).part = c.part := by exact Core.report_part ..
@[simp] theorem Core.pageFlt_otp (k : PageKind) (kind : Nat) : (c.pageFlt k kind).otp = c.otp := by exact Core.report_otp ..
@[simp] theorem Core.pageFlt_droneOn (k : PageKind) (kind : Nat) : (c.pageFlt k kind).droneOn = c.droneOn := by exact Core.report_droneOn ..
@[simp] theorem Core.pageFlt_perst (k : PageKind) (kind : Nat) : (c.pageFlt k kind).perst = c.perst := by exact Core.report_perst ..
@[simp] theorem Core.pageFlt_railBad (k : PageKind) (kind : Nat) : (c.pageFlt k kind).railBad = c.railBad := by exact Core.report_railBad ..
@[simp] theorem Core.pageFlt_railN (k : PageKind) (kind : Nat) : (c.pageFlt k kind).railN = c.railN := by exact Core.report_railN ..
@[simp] theorem Core.pageFlt_snap (k : PageKind) (kind : Nat) : (c.pageFlt k kind).snap = c.snap := by exact Core.report_snap ..
@[simp] theorem Core.pageFlt_posted (k : PageKind) (kind : Nat) : (c.pageFlt k kind).posted = c.posted := by exact Core.report_posted ..
@[simp] theorem Core.pageFlt_faulted (k : PageKind) (kind : Nat) : (c.pageFlt k kind).faulted = c.faulted := by exact Core.report_faulted ..
@[simp] theorem Core.pageFlt_bxbPrio (k : PageKind) (kind : Nat) : (c.pageFlt k kind).bxbPrio = c.bxbPrio := by exact Core.report_bxbPrio ..
@[simp] theorem Core.pageFlt_io (k : PageKind) (kind : Nat) : (c.pageFlt k kind).io = c.io := by exact Core.report_io ..
@[simp] theorem Core.pageFlt_lanes (k : PageKind) (kind : Nat) : (c.pageFlt k kind).lanes = c.lanes := by exact Core.report_lanes ..
@[simp] theorem Core.pageFlt_lgrps (k : PageKind) (kind : Nat) : (c.pageFlt k kind).lgrps = c.lgrps := by exact Core.report_lgrps ..
@[simp] theorem Core.pageFlt_ingest (k : PageKind) (kind : Nat) : (c.pageFlt k kind).ingest = c.ingest := by exact Core.report_ingest ..
@[simp] theorem Core.pageFlt_chan (k : PageKind) (kind : Nat) : (c.pageFlt k kind).chan = c.chan := by exact Core.report_chan ..
@[simp] theorem Core.pageFlt_img (k : PageKind) (kind : Nat) : (c.pageFlt k kind).img = c.img := by exact Core.report_img ..
@[simp] theorem Core.pageFlt_imgSt (k : PageKind) (kind : Nat) : (c.pageFlt k kind).imgSt = c.imgSt := by exact Core.report_imgSt ..
@[simp] theorem Core.pageFlt_imgReason (k : PageKind) (kind : Nat) : (c.pageFlt k kind).imgReason = c.imgReason := by exact Core.report_imgReason ..
@[simp] theorem Core.pageFlt_imgMode (k : PageKind) (kind : Nat) : (c.pageFlt k kind).imgMode = c.imgMode := by exact Core.report_imgMode ..
@[simp] theorem Core.pageFlt_links (k : PageKind) (kind : Nat) : (c.pageFlt k kind).links = c.links := by exact Core.report_links ..
@[simp] theorem Core.pageFlt_chanters (k : PageKind) (kind : Nat) : (c.pageFlt k kind).chanters = c.chanters := by exact Core.report_chanters ..
@[simp] theorem Core.pageFlt_xdies (k : PageKind) (kind : Nat) : (c.pageFlt k kind).xdies = c.xdies := by exact Core.report_xdies ..
@[simp] theorem Core.pageFlt_targets (k : PageKind) (kind : Nat) : (c.pageFlt k kind).targets = c.targets := by exact Core.report_targets ..
@[simp] theorem Core.pageFlt_stacksOf (k : PageKind) (kind : Nat) : (c.pageFlt k kind).stacksOf = c.stacksOf := by exact Core.report_stacksOf ..
@[simp] theorem Core.pageFlt_host (k : PageKind) (kind : Nat) : (c.pageFlt k kind).host = c.host := by exact Core.report_host ..
@[simp] theorem Core.pageFlt_locks (k : PageKind) (kind : Nat) : (c.pageFlt k kind).locks = c.locks := by exact Core.report_locks ..
@[simp] theorem Core.pageFlt_power (k : PageKind) (kind : Nat) : (c.pageFlt k kind).power = c.power := by exact Core.report_power ..
@[simp] theorem Core.pageFlt_plant (k : PageKind) (kind : Nat) : (c.pageFlt k kind).plant = c.plant := by exact Core.report_plant ..
@[simp] theorem Core.pageFlt_pilot (k : PageKind) (kind : Nat) : (c.pageFlt k kind).pilot = c.pilot := by exact Core.report_pilot ..
@[simp] theorem Core.pageFlt_time (k : PageKind) (kind : Nat) : (c.pageFlt k kind).time = c.time := by exact Core.report_time ..
@[simp] theorem Core.pageFlt_insp (k : PageKind) (kind : Nat) : (c.pageFlt k kind).insp = c.insp := by exact Core.report_insp ..
@[simp] theorem Core.pageFlt_dbg (k : PageKind) (kind : Nat) : (c.pageFlt k kind).dbg = c.dbg := by exact Core.report_dbg ..
@[simp] theorem Core.pageFlt_out (k : PageKind) (kind : Nat) : (c.pageFlt k kind).out = c.out := by exact Core.report_out ..
@[simp] theorem Core.pageFlt_free (k : PageKind) (kind : Nat) : (c.pageFlt k kind).free = c.free := by exact Core.report_free ..

/-! ### clear -/

@[simp] theorem Core.clear_part (k : PageKind) (l : List Nat) : (c.clear k l).part = c.part := by exact Core.clear_induct c k l (fun d => d.part = c.part) rfl (fun d o h => (Core.wr_part d k o 0).trans h)
@[simp] theorem Core.clear_otp (k : PageKind) (l : List Nat) : (c.clear k l).otp = c.otp := by exact Core.clear_induct c k l (fun d => d.otp = c.otp) rfl (fun d o h => (Core.wr_otp d k o 0).trans h)
@[simp] theorem Core.clear_droneOn (k : PageKind) (l : List Nat) : (c.clear k l).droneOn = c.droneOn := by exact Core.clear_induct c k l (fun d => d.droneOn = c.droneOn) rfl (fun d o h => (Core.wr_droneOn d k o 0).trans h)
@[simp] theorem Core.clear_perst (k : PageKind) (l : List Nat) : (c.clear k l).perst = c.perst := by exact Core.clear_induct c k l (fun d => d.perst = c.perst) rfl (fun d o h => (Core.wr_perst d k o 0).trans h)
@[simp] theorem Core.clear_railBad (k : PageKind) (l : List Nat) : (c.clear k l).railBad = c.railBad := by exact Core.clear_induct c k l (fun d => d.railBad = c.railBad) rfl (fun d o h => (Core.wr_railBad d k o 0).trans h)
@[simp] theorem Core.clear_railN (k : PageKind) (l : List Nat) : (c.clear k l).railN = c.railN := by exact Core.clear_induct c k l (fun d => d.railN = c.railN) rfl (fun d o h => (Core.wr_railN d k o 0).trans h)
@[simp] theorem Core.clear_snap (k : PageKind) (l : List Nat) : (c.clear k l).snap = c.snap := by exact Core.clear_induct c k l (fun d => d.snap = c.snap) rfl (fun d o h => (Core.wr_snap d k o 0).trans h)
@[simp] theorem Core.clear_posted (k : PageKind) (l : List Nat) : (c.clear k l).posted = c.posted := by exact Core.clear_induct c k l (fun d => d.posted = c.posted) rfl (fun d o h => (Core.wr_posted d k o 0).trans h)
@[simp] theorem Core.clear_pend (k : PageKind) (l : List Nat) : (c.clear k l).pend = c.pend := by exact Core.clear_induct c k l (fun d => d.pend = c.pend) rfl (fun d o h => (Core.wr_pend d k o 0).trans h)
@[simp] theorem Core.clear_faulted (k : PageKind) (l : List Nat) : (c.clear k l).faulted = c.faulted := by exact Core.clear_induct c k l (fun d => d.faulted = c.faulted) rfl (fun d o h => (Core.wr_faulted d k o 0).trans h)
@[simp] theorem Core.clear_bxbPrio (k : PageKind) (l : List Nat) : (c.clear k l).bxbPrio = c.bxbPrio := by exact Core.clear_induct c k l (fun d => d.bxbPrio = c.bxbPrio) rfl (fun d o h => (Core.wr_bxbPrio d k o 0).trans h)
@[simp] theorem Core.clear_io (k : PageKind) (l : List Nat) : (c.clear k l).io = c.io := by exact Core.clear_induct c k l (fun d => d.io = c.io) rfl (fun d o h => (Core.wr_io d k o 0).trans h)
@[simp] theorem Core.clear_lanes (k : PageKind) (l : List Nat) : (c.clear k l).lanes = c.lanes := by exact Core.clear_induct c k l (fun d => d.lanes = c.lanes) rfl (fun d o h => (Core.wr_lanes d k o 0).trans h)
@[simp] theorem Core.clear_lgrps (k : PageKind) (l : List Nat) : (c.clear k l).lgrps = c.lgrps := by exact Core.clear_induct c k l (fun d => d.lgrps = c.lgrps) rfl (fun d o h => (Core.wr_lgrps d k o 0).trans h)
@[simp] theorem Core.clear_ingest (k : PageKind) (l : List Nat) : (c.clear k l).ingest = c.ingest := by exact Core.clear_induct c k l (fun d => d.ingest = c.ingest) rfl (fun d o h => (Core.wr_ingest d k o 0).trans h)
@[simp] theorem Core.clear_chan (k : PageKind) (l : List Nat) : (c.clear k l).chan = c.chan := by exact Core.clear_induct c k l (fun d => d.chan = c.chan) rfl (fun d o h => (Core.wr_chan d k o 0).trans h)
@[simp] theorem Core.clear_img (k : PageKind) (l : List Nat) : (c.clear k l).img = c.img := by exact Core.clear_induct c k l (fun d => d.img = c.img) rfl (fun d o h => (Core.wr_img d k o 0).trans h)
@[simp] theorem Core.clear_imgSt (k : PageKind) (l : List Nat) : (c.clear k l).imgSt = c.imgSt := by exact Core.clear_induct c k l (fun d => d.imgSt = c.imgSt) rfl (fun d o h => (Core.wr_imgSt d k o 0).trans h)
@[simp] theorem Core.clear_imgReason (k : PageKind) (l : List Nat) : (c.clear k l).imgReason = c.imgReason := by exact Core.clear_induct c k l (fun d => d.imgReason = c.imgReason) rfl (fun d o h => (Core.wr_imgReason d k o 0).trans h)
@[simp] theorem Core.clear_imgMode (k : PageKind) (l : List Nat) : (c.clear k l).imgMode = c.imgMode := by exact Core.clear_induct c k l (fun d => d.imgMode = c.imgMode) rfl (fun d o h => (Core.wr_imgMode d k o 0).trans h)
@[simp] theorem Core.clear_links (k : PageKind) (l : List Nat) : (c.clear k l).links = c.links := by exact Core.clear_induct c k l (fun d => d.links = c.links) rfl (fun d o h => (Core.wr_links d k o 0).trans h)
@[simp] theorem Core.clear_chanters (k : PageKind) (l : List Nat) : (c.clear k l).chanters = c.chanters := by exact Core.clear_induct c k l (fun d => d.chanters = c.chanters) rfl (fun d o h => (Core.wr_chanters d k o 0).trans h)
@[simp] theorem Core.clear_xdies (k : PageKind) (l : List Nat) : (c.clear k l).xdies = c.xdies := by exact Core.clear_induct c k l (fun d => d.xdies = c.xdies) rfl (fun d o h => (Core.wr_xdies d k o 0).trans h)
@[simp] theorem Core.clear_targets (k : PageKind) (l : List Nat) : (c.clear k l).targets = c.targets := by exact Core.clear_induct c k l (fun d => d.targets = c.targets) rfl (fun d o h => (Core.wr_targets d k o 0).trans h)
@[simp] theorem Core.clear_stacksOf (k : PageKind) (l : List Nat) : (c.clear k l).stacksOf = c.stacksOf := by exact Core.clear_induct c k l (fun d => d.stacksOf = c.stacksOf) rfl (fun d o h => (Core.wr_stacksOf d k o 0).trans h)
@[simp] theorem Core.clear_host (k : PageKind) (l : List Nat) : (c.clear k l).host = c.host := by exact Core.clear_induct c k l (fun d => d.host = c.host) rfl (fun d o h => (Core.wr_host d k o 0).trans h)
@[simp] theorem Core.clear_locks (k : PageKind) (l : List Nat) : (c.clear k l).locks = c.locks := by exact Core.clear_induct c k l (fun d => d.locks = c.locks) rfl (fun d o h => (Core.wr_locks d k o 0).trans h)
@[simp] theorem Core.clear_power (k : PageKind) (l : List Nat) : (c.clear k l).power = c.power := by exact Core.clear_induct c k l (fun d => d.power = c.power) rfl (fun d o h => (Core.wr_power d k o 0).trans h)
@[simp] theorem Core.clear_plant (k : PageKind) (l : List Nat) : (c.clear k l).plant = c.plant := by exact Core.clear_induct c k l (fun d => d.plant = c.plant) rfl (fun d o h => (Core.wr_plant d k o 0).trans h)
@[simp] theorem Core.clear_pilot (k : PageKind) (l : List Nat) : (c.clear k l).pilot = c.pilot := by exact Core.clear_induct c k l (fun d => d.pilot = c.pilot) rfl (fun d o h => (Core.wr_pilot d k o 0).trans h)
@[simp] theorem Core.clear_time (k : PageKind) (l : List Nat) : (c.clear k l).time = c.time := by exact Core.clear_induct c k l (fun d => d.time = c.time) rfl (fun d o h => (Core.wr_time d k o 0).trans h)
@[simp] theorem Core.clear_insp (k : PageKind) (l : List Nat) : (c.clear k l).insp = c.insp := by exact Core.clear_induct c k l (fun d => d.insp = c.insp) rfl (fun d o h => (Core.wr_insp d k o 0).trans h)
@[simp] theorem Core.clear_dbg (k : PageKind) (l : List Nat) : (c.clear k l).dbg = c.dbg := by exact Core.clear_induct c k l (fun d => d.dbg = c.dbg) rfl (fun d o h => (Core.wr_dbg d k o 0).trans h)
@[simp] theorem Core.clear_out (k : PageKind) (l : List Nat) : (c.clear k l).out = c.out := by exact Core.clear_induct c k l (fun d => d.out = c.out) rfl (fun d o h => (Core.wr_out d k o 0).trans h)
@[simp] theorem Core.clear_free (k : PageKind) (l : List Nat) : (c.clear k l).free = c.free := by exact Core.clear_induct c k l (fun d => d.free = c.free) rfl (fun d o h => (Core.wr_free d k o 0).trans h)

/-! ### lockGrant -/

@[simp] theorem Core.lockGrant_part (g m : Nat) : (c.lockGrant g m).part = c.part := by exact (Core.raise_part ..).trans ((Core.inc_part ..).trans (Core.setLock_part ..))
@[simp] theorem Core.lockGrant_otp (g m : Nat) : (c.lockGrant g m).otp = c.otp := by exact (Core.raise_otp ..).trans ((Core.inc_otp ..).trans (Core.setLock_otp ..))
@[simp] theorem Core.lockGrant_droneOn (g m : Nat) : (c.lockGrant g m).droneOn = c.droneOn := by exact (Core.raise_droneOn ..).trans ((Core.inc_droneOn ..).trans (Core.setLock_droneOn ..))
@[simp] theorem Core.lockGrant_perst (g m : Nat) : (c.lockGrant g m).perst = c.perst := by exact (Core.raise_perst ..).trans ((Core.inc_perst ..).trans (Core.setLock_perst ..))
@[simp] theorem Core.lockGrant_railBad (g m : Nat) : (c.lockGrant g m).railBad = c.railBad := by exact (Core.raise_railBad ..).trans ((Core.inc_railBad ..).trans (Core.setLock_railBad ..))
@[simp] theorem Core.lockGrant_railN (g m : Nat) : (c.lockGrant g m).railN = c.railN := by exact (Core.raise_railN ..).trans ((Core.inc_railN ..).trans (Core.setLock_railN ..))
@[simp] theorem Core.lockGrant_snap (g m : Nat) : (c.lockGrant g m).snap = c.snap := by exact (Core.raise_snap ..).trans ((Core.inc_snap ..).trans (Core.setLock_snap ..))
@[simp] theorem Core.lockGrant_posted (g m : Nat) : (c.lockGrant g m).posted = c.posted := by exact (Core.raise_posted ..).trans ((Core.inc_posted ..).trans (Core.setLock_posted ..))
@[simp] theorem Core.lockGrant_pend (g m : Nat) : (c.lockGrant g m).pend = c.pend := by exact (Core.raise_pend ..).trans ((Core.inc_pend ..).trans (Core.setLock_pend ..))
@[simp] theorem Core.lockGrant_faulted (g m : Nat) : (c.lockGrant g m).faulted = c.faulted := by exact (Core.raise_faulted ..).trans ((Core.inc_faulted ..).trans (Core.setLock_faulted ..))
@[simp] theorem Core.lockGrant_bxbPrio (g m : Nat) : (c.lockGrant g m).bxbPrio = c.bxbPrio := by exact (Core.raise_bxbPrio ..).trans ((Core.inc_bxbPrio ..).trans (Core.setLock_bxbPrio ..))
@[simp] theorem Core.lockGrant_io (g m : Nat) : (c.lockGrant g m).io = c.io := by exact (Core.raise_io ..).trans ((Core.inc_io ..).trans (Core.setLock_io ..))
@[simp] theorem Core.lockGrant_lanes (g m : Nat) : (c.lockGrant g m).lanes = c.lanes := by exact (Core.raise_lanes ..).trans ((Core.inc_lanes ..).trans (Core.setLock_lanes ..))
@[simp] theorem Core.lockGrant_lgrps (g m : Nat) : (c.lockGrant g m).lgrps = c.lgrps := by exact (Core.raise_lgrps ..).trans ((Core.inc_lgrps ..).trans (Core.setLock_lgrps ..))
@[simp] theorem Core.lockGrant_ingest (g m : Nat) : (c.lockGrant g m).ingest = c.ingest := by exact (Core.raise_ingest ..).trans ((Core.inc_ingest ..).trans (Core.setLock_ingest ..))
@[simp] theorem Core.lockGrant_chan (g m : Nat) : (c.lockGrant g m).chan = c.chan := by exact (Core.raise_chan ..).trans ((Core.inc_chan ..).trans (Core.setLock_chan ..))
@[simp] theorem Core.lockGrant_img (g m : Nat) : (c.lockGrant g m).img = c.img := by exact (Core.raise_img ..).trans ((Core.inc_img ..).trans (Core.setLock_img ..))
@[simp] theorem Core.lockGrant_imgSt (g m : Nat) : (c.lockGrant g m).imgSt = c.imgSt := by exact (Core.raise_imgSt ..).trans ((Core.inc_imgSt ..).trans (Core.setLock_imgSt ..))
@[simp] theorem Core.lockGrant_imgReason (g m : Nat) : (c.lockGrant g m).imgReason = c.imgReason := by exact (Core.raise_imgReason ..).trans ((Core.inc_imgReason ..).trans (Core.setLock_imgReason ..))
@[simp] theorem Core.lockGrant_imgMode (g m : Nat) : (c.lockGrant g m).imgMode = c.imgMode := by exact (Core.raise_imgMode ..).trans ((Core.inc_imgMode ..).trans (Core.setLock_imgMode ..))
@[simp] theorem Core.lockGrant_links (g m : Nat) : (c.lockGrant g m).links = c.links := by exact (Core.raise_links ..).trans ((Core.inc_links ..).trans (Core.setLock_links ..))
@[simp] theorem Core.lockGrant_chanters (g m : Nat) : (c.lockGrant g m).chanters = c.chanters := by exact (Core.raise_chanters ..).trans ((Core.inc_chanters ..).trans (Core.setLock_chanters ..))
@[simp] theorem Core.lockGrant_xdies (g m : Nat) : (c.lockGrant g m).xdies = c.xdies := by exact (Core.raise_xdies ..).trans ((Core.inc_xdies ..).trans (Core.setLock_xdies ..))
@[simp] theorem Core.lockGrant_targets (g m : Nat) : (c.lockGrant g m).targets = c.targets := by exact (Core.raise_targets ..).trans ((Core.inc_targets ..).trans (Core.setLock_targets ..))
@[simp] theorem Core.lockGrant_stacksOf (g m : Nat) : (c.lockGrant g m).stacksOf = c.stacksOf := by exact (Core.raise_stacksOf ..).trans ((Core.inc_stacksOf ..).trans (Core.setLock_stacksOf ..))
@[simp] theorem Core.lockGrant_power (g m : Nat) : (c.lockGrant g m).power = c.power := by exact (Core.raise_power ..).trans ((Core.inc_power ..).trans (Core.setLock_power ..))
@[simp] theorem Core.lockGrant_plant (g m : Nat) : (c.lockGrant g m).plant = c.plant := by exact (Core.raise_plant ..).trans ((Core.inc_plant ..).trans (Core.setLock_plant ..))
@[simp] theorem Core.lockGrant_pilot (g m : Nat) : (c.lockGrant g m).pilot = c.pilot := by exact (Core.raise_pilot ..).trans ((Core.inc_pilot ..).trans (Core.setLock_pilot ..))
@[simp] theorem Core.lockGrant_time (g m : Nat) : (c.lockGrant g m).time = c.time := by exact (Core.raise_time ..).trans ((Core.inc_time ..).trans (Core.setLock_time ..))
@[simp] theorem Core.lockGrant_insp (g m : Nat) : (c.lockGrant g m).insp = c.insp := by exact (Core.raise_insp ..).trans ((Core.inc_insp ..).trans (Core.setLock_insp ..))
@[simp] theorem Core.lockGrant_dbg (g m : Nat) : (c.lockGrant g m).dbg = c.dbg := by exact (Core.raise_dbg ..).trans ((Core.inc_dbg ..).trans (Core.setLock_dbg ..))
@[simp] theorem Core.lockGrant_free (g m : Nat) : (c.lockGrant g m).free = c.free := by exact (Core.raise_free ..).trans ((Core.inc_free ..).trans (Core.setLock_free ..))

/-! ### lockEnd -/

@[simp] theorem Core.lockEnd_part (g : Nat) : (c.lockEnd g).part = c.part := by unfold Core.lockEnd; dsimp only; split <;> first | exact (Core.lockGrant_part ..).trans (Core.setLock_part ..) | exact Core.setLock_part ..
@[simp] theorem Core.lockEnd_otp (g : Nat) : (c.lockEnd g).otp = c.otp := by unfold Core.lockEnd; dsimp only; split <;> first | exact (Core.lockGrant_otp ..).trans (Core.setLock_otp ..) | exact Core.setLock_otp ..
@[simp] theorem Core.lockEnd_droneOn (g : Nat) : (c.lockEnd g).droneOn = c.droneOn := by unfold Core.lockEnd; dsimp only; split <;> first | exact (Core.lockGrant_droneOn ..).trans (Core.setLock_droneOn ..) | exact Core.setLock_droneOn ..
@[simp] theorem Core.lockEnd_perst (g : Nat) : (c.lockEnd g).perst = c.perst := by unfold Core.lockEnd; dsimp only; split <;> first | exact (Core.lockGrant_perst ..).trans (Core.setLock_perst ..) | exact Core.setLock_perst ..
@[simp] theorem Core.lockEnd_railBad (g : Nat) : (c.lockEnd g).railBad = c.railBad := by unfold Core.lockEnd; dsimp only; split <;> first | exact (Core.lockGrant_railBad ..).trans (Core.setLock_railBad ..) | exact Core.setLock_railBad ..
@[simp] theorem Core.lockEnd_railN (g : Nat) : (c.lockEnd g).railN = c.railN := by unfold Core.lockEnd; dsimp only; split <;> first | exact (Core.lockGrant_railN ..).trans (Core.setLock_railN ..) | exact Core.setLock_railN ..
@[simp] theorem Core.lockEnd_snap (g : Nat) : (c.lockEnd g).snap = c.snap := by unfold Core.lockEnd; dsimp only; split <;> first | exact (Core.lockGrant_snap ..).trans (Core.setLock_snap ..) | exact Core.setLock_snap ..
@[simp] theorem Core.lockEnd_posted (g : Nat) : (c.lockEnd g).posted = c.posted := by unfold Core.lockEnd; dsimp only; split <;> first | exact (Core.lockGrant_posted ..).trans (Core.setLock_posted ..) | exact Core.setLock_posted ..
@[simp] theorem Core.lockEnd_pend (g : Nat) : (c.lockEnd g).pend = c.pend := by unfold Core.lockEnd; dsimp only; split <;> first | exact (Core.lockGrant_pend ..).trans (Core.setLock_pend ..) | exact Core.setLock_pend ..
@[simp] theorem Core.lockEnd_faulted (g : Nat) : (c.lockEnd g).faulted = c.faulted := by unfold Core.lockEnd; dsimp only; split <;> first | exact (Core.lockGrant_faulted ..).trans (Core.setLock_faulted ..) | exact Core.setLock_faulted ..
@[simp] theorem Core.lockEnd_bxbPrio (g : Nat) : (c.lockEnd g).bxbPrio = c.bxbPrio := by unfold Core.lockEnd; dsimp only; split <;> first | exact (Core.lockGrant_bxbPrio ..).trans (Core.setLock_bxbPrio ..) | exact Core.setLock_bxbPrio ..
@[simp] theorem Core.lockEnd_io (g : Nat) : (c.lockEnd g).io = c.io := by unfold Core.lockEnd; dsimp only; split <;> first | exact (Core.lockGrant_io ..).trans (Core.setLock_io ..) | exact Core.setLock_io ..
@[simp] theorem Core.lockEnd_lanes (g : Nat) : (c.lockEnd g).lanes = c.lanes := by unfold Core.lockEnd; dsimp only; split <;> first | exact (Core.lockGrant_lanes ..).trans (Core.setLock_lanes ..) | exact Core.setLock_lanes ..
@[simp] theorem Core.lockEnd_lgrps (g : Nat) : (c.lockEnd g).lgrps = c.lgrps := by unfold Core.lockEnd; dsimp only; split <;> first | exact (Core.lockGrant_lgrps ..).trans (Core.setLock_lgrps ..) | exact Core.setLock_lgrps ..
@[simp] theorem Core.lockEnd_ingest (g : Nat) : (c.lockEnd g).ingest = c.ingest := by unfold Core.lockEnd; dsimp only; split <;> first | exact (Core.lockGrant_ingest ..).trans (Core.setLock_ingest ..) | exact Core.setLock_ingest ..
@[simp] theorem Core.lockEnd_chan (g : Nat) : (c.lockEnd g).chan = c.chan := by unfold Core.lockEnd; dsimp only; split <;> first | exact (Core.lockGrant_chan ..).trans (Core.setLock_chan ..) | exact Core.setLock_chan ..
@[simp] theorem Core.lockEnd_img (g : Nat) : (c.lockEnd g).img = c.img := by unfold Core.lockEnd; dsimp only; split <;> first | exact (Core.lockGrant_img ..).trans (Core.setLock_img ..) | exact Core.setLock_img ..
@[simp] theorem Core.lockEnd_imgSt (g : Nat) : (c.lockEnd g).imgSt = c.imgSt := by unfold Core.lockEnd; dsimp only; split <;> first | exact (Core.lockGrant_imgSt ..).trans (Core.setLock_imgSt ..) | exact Core.setLock_imgSt ..
@[simp] theorem Core.lockEnd_imgReason (g : Nat) : (c.lockEnd g).imgReason = c.imgReason := by unfold Core.lockEnd; dsimp only; split <;> first | exact (Core.lockGrant_imgReason ..).trans (Core.setLock_imgReason ..) | exact Core.setLock_imgReason ..
@[simp] theorem Core.lockEnd_imgMode (g : Nat) : (c.lockEnd g).imgMode = c.imgMode := by unfold Core.lockEnd; dsimp only; split <;> first | exact (Core.lockGrant_imgMode ..).trans (Core.setLock_imgMode ..) | exact Core.setLock_imgMode ..
@[simp] theorem Core.lockEnd_links (g : Nat) : (c.lockEnd g).links = c.links := by unfold Core.lockEnd; dsimp only; split <;> first | exact (Core.lockGrant_links ..).trans (Core.setLock_links ..) | exact Core.setLock_links ..
@[simp] theorem Core.lockEnd_chanters (g : Nat) : (c.lockEnd g).chanters = c.chanters := by unfold Core.lockEnd; dsimp only; split <;> first | exact (Core.lockGrant_chanters ..).trans (Core.setLock_chanters ..) | exact Core.setLock_chanters ..
@[simp] theorem Core.lockEnd_xdies (g : Nat) : (c.lockEnd g).xdies = c.xdies := by unfold Core.lockEnd; dsimp only; split <;> first | exact (Core.lockGrant_xdies ..).trans (Core.setLock_xdies ..) | exact Core.setLock_xdies ..
@[simp] theorem Core.lockEnd_targets (g : Nat) : (c.lockEnd g).targets = c.targets := by unfold Core.lockEnd; dsimp only; split <;> first | exact (Core.lockGrant_targets ..).trans (Core.setLock_targets ..) | exact Core.setLock_targets ..
@[simp] theorem Core.lockEnd_stacksOf (g : Nat) : (c.lockEnd g).stacksOf = c.stacksOf := by unfold Core.lockEnd; dsimp only; split <;> first | exact (Core.lockGrant_stacksOf ..).trans (Core.setLock_stacksOf ..) | exact Core.setLock_stacksOf ..
@[simp] theorem Core.lockEnd_power (g : Nat) : (c.lockEnd g).power = c.power := by unfold Core.lockEnd; dsimp only; split <;> first | exact (Core.lockGrant_power ..).trans (Core.setLock_power ..) | exact Core.setLock_power ..
@[simp] theorem Core.lockEnd_plant (g : Nat) : (c.lockEnd g).plant = c.plant := by unfold Core.lockEnd; dsimp only; split <;> first | exact (Core.lockGrant_plant ..).trans (Core.setLock_plant ..) | exact Core.setLock_plant ..
@[simp] theorem Core.lockEnd_pilot (g : Nat) : (c.lockEnd g).pilot = c.pilot := by unfold Core.lockEnd; dsimp only; split <;> first | exact (Core.lockGrant_pilot ..).trans (Core.setLock_pilot ..) | exact Core.setLock_pilot ..
@[simp] theorem Core.lockEnd_time (g : Nat) : (c.lockEnd g).time = c.time := by unfold Core.lockEnd; dsimp only; split <;> first | exact (Core.lockGrant_time ..).trans (Core.setLock_time ..) | exact Core.setLock_time ..
@[simp] theorem Core.lockEnd_insp (g : Nat) : (c.lockEnd g).insp = c.insp := by unfold Core.lockEnd; dsimp only; split <;> first | exact (Core.lockGrant_insp ..).trans (Core.setLock_insp ..) | exact Core.setLock_insp ..
@[simp] theorem Core.lockEnd_dbg (g : Nat) : (c.lockEnd g).dbg = c.dbg := by unfold Core.lockEnd; dsimp only; split <;> first | exact (Core.lockGrant_dbg ..).trans (Core.setLock_dbg ..) | exact Core.setLock_dbg ..
@[simp] theorem Core.lockEnd_free (g : Nat) : (c.lockEnd g).free = c.free := by unfold Core.lockEnd; dsimp only; split <;> first | exact (Core.lockGrant_free ..).trans (Core.setLock_free ..) | exact Core.setLock_free ..

/-! ### lockExpire -/

@[simp] theorem Core.lockExpire_part (g : Nat) : (c.lockExpire g).part = c.part := by exact (Core.lockEnd_part ..).trans ((Core.report_part ..).trans ((Core.raise_part ..).trans (Core.inc_part ..)))
@[simp] theorem Core.lockExpire_otp (g : Nat) : (c.lockExpire g).otp = c.otp := by exact (Core.lockEnd_otp ..).trans ((Core.report_otp ..).trans ((Core.raise_otp ..).trans (Core.inc_otp ..)))
@[simp] theorem Core.lockExpire_droneOn (g : Nat) : (c.lockExpire g).droneOn = c.droneOn := by exact (Core.lockEnd_droneOn ..).trans ((Core.report_droneOn ..).trans ((Core.raise_droneOn ..).trans (Core.inc_droneOn ..)))
@[simp] theorem Core.lockExpire_perst (g : Nat) : (c.lockExpire g).perst = c.perst := by exact (Core.lockEnd_perst ..).trans ((Core.report_perst ..).trans ((Core.raise_perst ..).trans (Core.inc_perst ..)))
@[simp] theorem Core.lockExpire_railBad (g : Nat) : (c.lockExpire g).railBad = c.railBad := by exact (Core.lockEnd_railBad ..).trans ((Core.report_railBad ..).trans ((Core.raise_railBad ..).trans (Core.inc_railBad ..)))
@[simp] theorem Core.lockExpire_railN (g : Nat) : (c.lockExpire g).railN = c.railN := by exact (Core.lockEnd_railN ..).trans ((Core.report_railN ..).trans ((Core.raise_railN ..).trans (Core.inc_railN ..)))
@[simp] theorem Core.lockExpire_snap (g : Nat) : (c.lockExpire g).snap = c.snap := by exact (Core.lockEnd_snap ..).trans ((Core.report_snap ..).trans ((Core.raise_snap ..).trans (Core.inc_snap ..)))
@[simp] theorem Core.lockExpire_posted (g : Nat) : (c.lockExpire g).posted = c.posted := by exact (Core.lockEnd_posted ..).trans ((Core.report_posted ..).trans ((Core.raise_posted ..).trans (Core.inc_posted ..)))
@[simp] theorem Core.lockExpire_faulted (g : Nat) : (c.lockExpire g).faulted = c.faulted := by exact (Core.lockEnd_faulted ..).trans ((Core.report_faulted ..).trans ((Core.raise_faulted ..).trans (Core.inc_faulted ..)))
@[simp] theorem Core.lockExpire_bxbPrio (g : Nat) : (c.lockExpire g).bxbPrio = c.bxbPrio := by exact (Core.lockEnd_bxbPrio ..).trans ((Core.report_bxbPrio ..).trans ((Core.raise_bxbPrio ..).trans (Core.inc_bxbPrio ..)))
@[simp] theorem Core.lockExpire_io (g : Nat) : (c.lockExpire g).io = c.io := by exact (Core.lockEnd_io ..).trans ((Core.report_io ..).trans ((Core.raise_io ..).trans (Core.inc_io ..)))
@[simp] theorem Core.lockExpire_lanes (g : Nat) : (c.lockExpire g).lanes = c.lanes := by exact (Core.lockEnd_lanes ..).trans ((Core.report_lanes ..).trans ((Core.raise_lanes ..).trans (Core.inc_lanes ..)))
@[simp] theorem Core.lockExpire_lgrps (g : Nat) : (c.lockExpire g).lgrps = c.lgrps := by exact (Core.lockEnd_lgrps ..).trans ((Core.report_lgrps ..).trans ((Core.raise_lgrps ..).trans (Core.inc_lgrps ..)))
@[simp] theorem Core.lockExpire_ingest (g : Nat) : (c.lockExpire g).ingest = c.ingest := by exact (Core.lockEnd_ingest ..).trans ((Core.report_ingest ..).trans ((Core.raise_ingest ..).trans (Core.inc_ingest ..)))
@[simp] theorem Core.lockExpire_chan (g : Nat) : (c.lockExpire g).chan = c.chan := by exact (Core.lockEnd_chan ..).trans ((Core.report_chan ..).trans ((Core.raise_chan ..).trans (Core.inc_chan ..)))
@[simp] theorem Core.lockExpire_img (g : Nat) : (c.lockExpire g).img = c.img := by exact (Core.lockEnd_img ..).trans ((Core.report_img ..).trans ((Core.raise_img ..).trans (Core.inc_img ..)))
@[simp] theorem Core.lockExpire_imgSt (g : Nat) : (c.lockExpire g).imgSt = c.imgSt := by exact (Core.lockEnd_imgSt ..).trans ((Core.report_imgSt ..).trans ((Core.raise_imgSt ..).trans (Core.inc_imgSt ..)))
@[simp] theorem Core.lockExpire_imgReason (g : Nat) : (c.lockExpire g).imgReason = c.imgReason := by exact (Core.lockEnd_imgReason ..).trans ((Core.report_imgReason ..).trans ((Core.raise_imgReason ..).trans (Core.inc_imgReason ..)))
@[simp] theorem Core.lockExpire_imgMode (g : Nat) : (c.lockExpire g).imgMode = c.imgMode := by exact (Core.lockEnd_imgMode ..).trans ((Core.report_imgMode ..).trans ((Core.raise_imgMode ..).trans (Core.inc_imgMode ..)))
@[simp] theorem Core.lockExpire_links (g : Nat) : (c.lockExpire g).links = c.links := by exact (Core.lockEnd_links ..).trans ((Core.report_links ..).trans ((Core.raise_links ..).trans (Core.inc_links ..)))
@[simp] theorem Core.lockExpire_chanters (g : Nat) : (c.lockExpire g).chanters = c.chanters := by exact (Core.lockEnd_chanters ..).trans ((Core.report_chanters ..).trans ((Core.raise_chanters ..).trans (Core.inc_chanters ..)))
@[simp] theorem Core.lockExpire_xdies (g : Nat) : (c.lockExpire g).xdies = c.xdies := by exact (Core.lockEnd_xdies ..).trans ((Core.report_xdies ..).trans ((Core.raise_xdies ..).trans (Core.inc_xdies ..)))
@[simp] theorem Core.lockExpire_targets (g : Nat) : (c.lockExpire g).targets = c.targets := by exact (Core.lockEnd_targets ..).trans ((Core.report_targets ..).trans ((Core.raise_targets ..).trans (Core.inc_targets ..)))
@[simp] theorem Core.lockExpire_stacksOf (g : Nat) : (c.lockExpire g).stacksOf = c.stacksOf := by exact (Core.lockEnd_stacksOf ..).trans ((Core.report_stacksOf ..).trans ((Core.raise_stacksOf ..).trans (Core.inc_stacksOf ..)))
@[simp] theorem Core.lockExpire_power (g : Nat) : (c.lockExpire g).power = c.power := by exact (Core.lockEnd_power ..).trans ((Core.report_power ..).trans ((Core.raise_power ..).trans (Core.inc_power ..)))
@[simp] theorem Core.lockExpire_plant (g : Nat) : (c.lockExpire g).plant = c.plant := by exact (Core.lockEnd_plant ..).trans ((Core.report_plant ..).trans ((Core.raise_plant ..).trans (Core.inc_plant ..)))
@[simp] theorem Core.lockExpire_pilot (g : Nat) : (c.lockExpire g).pilot = c.pilot := by exact (Core.lockEnd_pilot ..).trans ((Core.report_pilot ..).trans ((Core.raise_pilot ..).trans (Core.inc_pilot ..)))
@[simp] theorem Core.lockExpire_time (g : Nat) : (c.lockExpire g).time = c.time := by exact (Core.lockEnd_time ..).trans ((Core.report_time ..).trans ((Core.raise_time ..).trans (Core.inc_time ..)))
@[simp] theorem Core.lockExpire_insp (g : Nat) : (c.lockExpire g).insp = c.insp := by exact (Core.lockEnd_insp ..).trans ((Core.report_insp ..).trans ((Core.raise_insp ..).trans (Core.inc_insp ..)))
@[simp] theorem Core.lockExpire_dbg (g : Nat) : (c.lockExpire g).dbg = c.dbg := by exact (Core.lockEnd_dbg ..).trans ((Core.report_dbg ..).trans ((Core.raise_dbg ..).trans (Core.inc_dbg ..)))
@[simp] theorem Core.lockExpire_free (g : Nat) : (c.lockExpire g).free = c.free := by exact (Core.lockEnd_free ..).trans ((Core.report_free ..).trans ((Core.raise_free ..).trans (Core.inc_free ..)))

/-! ### lockAccess -/

@[simp] theorem Core.lockAccess_part (k : PageKind) (m : Nat) : (c.lockAccess k m).part = c.part := by unfold Core.lockAccess; dsimp only; split_ifs <;> first | exact Core.lockExpire_part .. | exact Core.setLock_part .. | rfl
@[simp] theorem Core.lockAccess_otp (k : PageKind) (m : Nat) : (c.lockAccess k m).otp = c.otp := by unfold Core.lockAccess; dsimp only; split_ifs <;> first | exact Core.lockExpire_otp .. | exact Core.setLock_otp .. | rfl
@[simp] theorem Core.lockAccess_droneOn (k : PageKind) (m : Nat) : (c.lockAccess k m).droneOn = c.droneOn := by unfold Core.lockAccess; dsimp only; split_ifs <;> first | exact Core.lockExpire_droneOn .. | exact Core.setLock_droneOn .. | rfl
@[simp] theorem Core.lockAccess_perst (k : PageKind) (m : Nat) : (c.lockAccess k m).perst = c.perst := by unfold Core.lockAccess; dsimp only; split_ifs <;> first | exact Core.lockExpire_perst .. | exact Core.setLock_perst .. | rfl
@[simp] theorem Core.lockAccess_railBad (k : PageKind) (m : Nat) : (c.lockAccess k m).railBad = c.railBad := by unfold Core.lockAccess; dsimp only; split_ifs <;> first | exact Core.lockExpire_railBad .. | exact Core.setLock_railBad .. | rfl
@[simp] theorem Core.lockAccess_railN (k : PageKind) (m : Nat) : (c.lockAccess k m).railN = c.railN := by unfold Core.lockAccess; dsimp only; split_ifs <;> first | exact Core.lockExpire_railN .. | exact Core.setLock_railN .. | rfl
@[simp] theorem Core.lockAccess_snap (k : PageKind) (m : Nat) : (c.lockAccess k m).snap = c.snap := by unfold Core.lockAccess; dsimp only; split_ifs <;> first | exact Core.lockExpire_snap .. | exact Core.setLock_snap .. | rfl
@[simp] theorem Core.lockAccess_posted (k : PageKind) (m : Nat) : (c.lockAccess k m).posted = c.posted := by unfold Core.lockAccess; dsimp only; split_ifs <;> first | exact Core.lockExpire_posted .. | exact Core.setLock_posted .. | rfl
@[simp] theorem Core.lockAccess_faulted (k : PageKind) (m : Nat) : (c.lockAccess k m).faulted = c.faulted := by unfold Core.lockAccess; dsimp only; split_ifs <;> first | exact Core.lockExpire_faulted .. | exact Core.setLock_faulted .. | rfl
@[simp] theorem Core.lockAccess_bxbPrio (k : PageKind) (m : Nat) : (c.lockAccess k m).bxbPrio = c.bxbPrio := by unfold Core.lockAccess; dsimp only; split_ifs <;> first | exact Core.lockExpire_bxbPrio .. | exact Core.setLock_bxbPrio .. | rfl
@[simp] theorem Core.lockAccess_io (k : PageKind) (m : Nat) : (c.lockAccess k m).io = c.io := by unfold Core.lockAccess; dsimp only; split_ifs <;> first | exact Core.lockExpire_io .. | exact Core.setLock_io .. | rfl
@[simp] theorem Core.lockAccess_lanes (k : PageKind) (m : Nat) : (c.lockAccess k m).lanes = c.lanes := by unfold Core.lockAccess; dsimp only; split_ifs <;> first | exact Core.lockExpire_lanes .. | exact Core.setLock_lanes .. | rfl
@[simp] theorem Core.lockAccess_lgrps (k : PageKind) (m : Nat) : (c.lockAccess k m).lgrps = c.lgrps := by unfold Core.lockAccess; dsimp only; split_ifs <;> first | exact Core.lockExpire_lgrps .. | exact Core.setLock_lgrps .. | rfl
@[simp] theorem Core.lockAccess_ingest (k : PageKind) (m : Nat) : (c.lockAccess k m).ingest = c.ingest := by unfold Core.lockAccess; dsimp only; split_ifs <;> first | exact Core.lockExpire_ingest .. | exact Core.setLock_ingest .. | rfl
@[simp] theorem Core.lockAccess_chan (k : PageKind) (m : Nat) : (c.lockAccess k m).chan = c.chan := by unfold Core.lockAccess; dsimp only; split_ifs <;> first | exact Core.lockExpire_chan .. | exact Core.setLock_chan .. | rfl
@[simp] theorem Core.lockAccess_img (k : PageKind) (m : Nat) : (c.lockAccess k m).img = c.img := by unfold Core.lockAccess; dsimp only; split_ifs <;> first | exact Core.lockExpire_img .. | exact Core.setLock_img .. | rfl
@[simp] theorem Core.lockAccess_imgSt (k : PageKind) (m : Nat) : (c.lockAccess k m).imgSt = c.imgSt := by unfold Core.lockAccess; dsimp only; split_ifs <;> first | exact Core.lockExpire_imgSt .. | exact Core.setLock_imgSt .. | rfl
@[simp] theorem Core.lockAccess_imgReason (k : PageKind) (m : Nat) : (c.lockAccess k m).imgReason = c.imgReason := by unfold Core.lockAccess; dsimp only; split_ifs <;> first | exact Core.lockExpire_imgReason .. | exact Core.setLock_imgReason .. | rfl
@[simp] theorem Core.lockAccess_imgMode (k : PageKind) (m : Nat) : (c.lockAccess k m).imgMode = c.imgMode := by unfold Core.lockAccess; dsimp only; split_ifs <;> first | exact Core.lockExpire_imgMode .. | exact Core.setLock_imgMode .. | rfl
@[simp] theorem Core.lockAccess_links (k : PageKind) (m : Nat) : (c.lockAccess k m).links = c.links := by unfold Core.lockAccess; dsimp only; split_ifs <;> first | exact Core.lockExpire_links .. | exact Core.setLock_links .. | rfl
@[simp] theorem Core.lockAccess_chanters (k : PageKind) (m : Nat) : (c.lockAccess k m).chanters = c.chanters := by unfold Core.lockAccess; dsimp only; split_ifs <;> first | exact Core.lockExpire_chanters .. | exact Core.setLock_chanters .. | rfl
@[simp] theorem Core.lockAccess_xdies (k : PageKind) (m : Nat) : (c.lockAccess k m).xdies = c.xdies := by unfold Core.lockAccess; dsimp only; split_ifs <;> first | exact Core.lockExpire_xdies .. | exact Core.setLock_xdies .. | rfl
@[simp] theorem Core.lockAccess_targets (k : PageKind) (m : Nat) : (c.lockAccess k m).targets = c.targets := by unfold Core.lockAccess; dsimp only; split_ifs <;> first | exact Core.lockExpire_targets .. | exact Core.setLock_targets .. | rfl
@[simp] theorem Core.lockAccess_stacksOf (k : PageKind) (m : Nat) : (c.lockAccess k m).stacksOf = c.stacksOf := by unfold Core.lockAccess; dsimp only; split_ifs <;> first | exact Core.lockExpire_stacksOf .. | exact Core.setLock_stacksOf .. | rfl
@[simp] theorem Core.lockAccess_power (k : PageKind) (m : Nat) : (c.lockAccess k m).power = c.power := by unfold Core.lockAccess; dsimp only; split_ifs <;> first | exact Core.lockExpire_power .. | exact Core.setLock_power .. | rfl
@[simp] theorem Core.lockAccess_plant (k : PageKind) (m : Nat) : (c.lockAccess k m).plant = c.plant := by unfold Core.lockAccess; dsimp only; split_ifs <;> first | exact Core.lockExpire_plant .. | exact Core.setLock_plant .. | rfl
@[simp] theorem Core.lockAccess_pilot (k : PageKind) (m : Nat) : (c.lockAccess k m).pilot = c.pilot := by unfold Core.lockAccess; dsimp only; split_ifs <;> first | exact Core.lockExpire_pilot .. | exact Core.setLock_pilot .. | rfl
@[simp] theorem Core.lockAccess_time (k : PageKind) (m : Nat) : (c.lockAccess k m).time = c.time := by unfold Core.lockAccess; dsimp only; split_ifs <;> first | exact Core.lockExpire_time .. | exact Core.setLock_time .. | rfl
@[simp] theorem Core.lockAccess_insp (k : PageKind) (m : Nat) : (c.lockAccess k m).insp = c.insp := by unfold Core.lockAccess; dsimp only; split_ifs <;> first | exact Core.lockExpire_insp .. | exact Core.setLock_insp .. | rfl
@[simp] theorem Core.lockAccess_dbg (k : PageKind) (m : Nat) : (c.lockAccess k m).dbg = c.dbg := by unfold Core.lockAccess; dsimp only; split_ifs <;> first | exact Core.lockExpire_dbg .. | exact Core.setLock_dbg .. | rfl
@[simp] theorem Core.lockAccess_free (k : PageKind) (m : Nat) : (c.lockAccess k m).free = c.free := by unfold Core.lockAccess; dsimp only; split_ifs <;> first | exact Core.lockExpire_free .. | exact Core.setLock_free .. | rfl

/-! ### wr64 -/

@[simp] theorem Core.wr64_part (k : PageKind) (o v : Nat) : (c.wr64 k o v).part = c.part := by exact (Core.wr_part ..).trans (Core.wr_part ..)
@[simp] theorem Core.wr64_otp (k : PageKind) (o v : Nat) : (c.wr64 k o v).otp = c.otp := by exact (Core.wr_otp ..).trans (Core.wr_otp ..)
@[simp] theorem Core.wr64_droneOn (k : PageKind) (o v : Nat) : (c.wr64 k o v).droneOn = c.droneOn := by exact (Core.wr_droneOn ..).trans (Core.wr_droneOn ..)
@[simp] theorem Core.wr64_perst (k : PageKind) (o v : Nat) : (c.wr64 k o v).perst = c.perst := by exact (Core.wr_perst ..).trans (Core.wr_perst ..)
@[simp] theorem Core.wr64_railBad (k : PageKind) (o v : Nat) : (c.wr64 k o v).railBad = c.railBad := by exact (Core.wr_railBad ..).trans (Core.wr_railBad ..)
@[simp] theorem Core.wr64_railN (k : PageKind) (o v : Nat) : (c.wr64 k o v).railN = c.railN := by exact (Core.wr_railN ..).trans (Core.wr_railN ..)
@[simp] theorem Core.wr64_snap (k : PageKind) (o v : Nat) : (c.wr64 k o v).snap = c.snap := by exact (Core.wr_snap ..).trans (Core.wr_snap ..)
@[simp] theorem Core.wr64_posted (k : PageKind) (o v : Nat) : (c.wr64 k o v).posted = c.posted := by exact (Core.wr_posted ..).trans (Core.wr_posted ..)
@[simp] theorem Core.wr64_pend (k : PageKind) (o v : Nat) : (c.wr64 k o v).pend = c.pend := by exact (Core.wr_pend ..).trans (Core.wr_pend ..)
@[simp] theorem Core.wr64_faulted (k : PageKind) (o v : Nat) : (c.wr64 k o v).faulted = c.faulted := by exact (Core.wr_faulted ..).trans (Core.wr_faulted ..)
@[simp] theorem Core.wr64_bxbPrio (k : PageKind) (o v : Nat) : (c.wr64 k o v).bxbPrio = c.bxbPrio := by exact (Core.wr_bxbPrio ..).trans (Core.wr_bxbPrio ..)
@[simp] theorem Core.wr64_io (k : PageKind) (o v : Nat) : (c.wr64 k o v).io = c.io := by exact (Core.wr_io ..).trans (Core.wr_io ..)
@[simp] theorem Core.wr64_lanes (k : PageKind) (o v : Nat) : (c.wr64 k o v).lanes = c.lanes := by exact (Core.wr_lanes ..).trans (Core.wr_lanes ..)
@[simp] theorem Core.wr64_lgrps (k : PageKind) (o v : Nat) : (c.wr64 k o v).lgrps = c.lgrps := by exact (Core.wr_lgrps ..).trans (Core.wr_lgrps ..)
@[simp] theorem Core.wr64_ingest (k : PageKind) (o v : Nat) : (c.wr64 k o v).ingest = c.ingest := by exact (Core.wr_ingest ..).trans (Core.wr_ingest ..)
@[simp] theorem Core.wr64_chan (k : PageKind) (o v : Nat) : (c.wr64 k o v).chan = c.chan := by exact (Core.wr_chan ..).trans (Core.wr_chan ..)
@[simp] theorem Core.wr64_img (k : PageKind) (o v : Nat) : (c.wr64 k o v).img = c.img := by exact (Core.wr_img ..).trans (Core.wr_img ..)
@[simp] theorem Core.wr64_imgSt (k : PageKind) (o v : Nat) : (c.wr64 k o v).imgSt = c.imgSt := by exact (Core.wr_imgSt ..).trans (Core.wr_imgSt ..)
@[simp] theorem Core.wr64_imgReason (k : PageKind) (o v : Nat) : (c.wr64 k o v).imgReason = c.imgReason := by exact (Core.wr_imgReason ..).trans (Core.wr_imgReason ..)
@[simp] theorem Core.wr64_imgMode (k : PageKind) (o v : Nat) : (c.wr64 k o v).imgMode = c.imgMode := by exact (Core.wr_imgMode ..).trans (Core.wr_imgMode ..)
@[simp] theorem Core.wr64_links (k : PageKind) (o v : Nat) : (c.wr64 k o v).links = c.links := by exact (Core.wr_links ..).trans (Core.wr_links ..)
@[simp] theorem Core.wr64_chanters (k : PageKind) (o v : Nat) : (c.wr64 k o v).chanters = c.chanters := by exact (Core.wr_chanters ..).trans (Core.wr_chanters ..)
@[simp] theorem Core.wr64_xdies (k : PageKind) (o v : Nat) : (c.wr64 k o v).xdies = c.xdies := by exact (Core.wr_xdies ..).trans (Core.wr_xdies ..)
@[simp] theorem Core.wr64_targets (k : PageKind) (o v : Nat) : (c.wr64 k o v).targets = c.targets := by exact (Core.wr_targets ..).trans (Core.wr_targets ..)
@[simp] theorem Core.wr64_stacksOf (k : PageKind) (o v : Nat) : (c.wr64 k o v).stacksOf = c.stacksOf := by exact (Core.wr_stacksOf ..).trans (Core.wr_stacksOf ..)
@[simp] theorem Core.wr64_host (k : PageKind) (o v : Nat) : (c.wr64 k o v).host = c.host := by exact (Core.wr_host ..).trans (Core.wr_host ..)
@[simp] theorem Core.wr64_locks (k : PageKind) (o v : Nat) : (c.wr64 k o v).locks = c.locks := by exact (Core.wr_locks ..).trans (Core.wr_locks ..)
@[simp] theorem Core.wr64_power (k : PageKind) (o v : Nat) : (c.wr64 k o v).power = c.power := by exact (Core.wr_power ..).trans (Core.wr_power ..)
@[simp] theorem Core.wr64_plant (k : PageKind) (o v : Nat) : (c.wr64 k o v).plant = c.plant := by exact (Core.wr_plant ..).trans (Core.wr_plant ..)
@[simp] theorem Core.wr64_pilot (k : PageKind) (o v : Nat) : (c.wr64 k o v).pilot = c.pilot := by exact (Core.wr_pilot ..).trans (Core.wr_pilot ..)
@[simp] theorem Core.wr64_time (k : PageKind) (o v : Nat) : (c.wr64 k o v).time = c.time := by exact (Core.wr_time ..).trans (Core.wr_time ..)
@[simp] theorem Core.wr64_insp (k : PageKind) (o v : Nat) : (c.wr64 k o v).insp = c.insp := by exact (Core.wr_insp ..).trans (Core.wr_insp ..)
@[simp] theorem Core.wr64_dbg (k : PageKind) (o v : Nat) : (c.wr64 k o v).dbg = c.dbg := by exact (Core.wr_dbg ..).trans (Core.wr_dbg ..)
@[simp] theorem Core.wr64_out (k : PageKind) (o v : Nat) : (c.wr64 k o v).out = c.out := by exact (Core.wr_out ..).trans (Core.wr_out ..)
@[simp] theorem Core.wr64_free (k : PageKind) (o v : Nat) : (c.wr64 k o v).free = c.free := by exact (Core.wr_free ..).trans (Core.wr_free ..)

/-! ### inc64 -/

@[simp] theorem Core.inc64_part (k : PageKind) (o v : Nat) : (c.inc64 k o v).part = c.part := by exact Core.wr64_part ..
@[simp] theorem Core.inc64_otp (k : PageKind) (o v : Nat) : (c.inc64 k o v).otp = c.otp := by exact Core.wr64_otp ..
@[simp] theorem Core.inc64_droneOn (k : PageKind) (o v : Nat) : (c.inc64 k o v).droneOn = c.droneOn := by exact Core.wr64_droneOn ..
@[simp] theorem Core.inc64_perst (k : PageKind) (o v : Nat) : (c.inc64 k o v).perst = c.perst := by exact Core.wr64_perst ..
@[simp] theorem Core.inc64_railBad (k : PageKind) (o v : Nat) : (c.inc64 k o v).railBad = c.railBad := by exact Core.wr64_railBad ..
@[simp] theorem Core.inc64_railN (k : PageKind) (o v : Nat) : (c.inc64 k o v).railN = c.railN := by exact Core.wr64_railN ..
@[simp] theorem Core.inc64_snap (k : PageKind) (o v : Nat) : (c.inc64 k o v).snap = c.snap := by exact Core.wr64_snap ..
@[simp] theorem Core.inc64_posted (k : PageKind) (o v : Nat) : (c.inc64 k o v).posted = c.posted := by exact Core.wr64_posted ..
@[simp] theorem Core.inc64_pend (k : PageKind) (o v : Nat) : (c.inc64 k o v).pend = c.pend := by exact Core.wr64_pend ..
@[simp] theorem Core.inc64_faulted (k : PageKind) (o v : Nat) : (c.inc64 k o v).faulted = c.faulted := by exact Core.wr64_faulted ..
@[simp] theorem Core.inc64_bxbPrio (k : PageKind) (o v : Nat) : (c.inc64 k o v).bxbPrio = c.bxbPrio := by exact Core.wr64_bxbPrio ..
@[simp] theorem Core.inc64_io (k : PageKind) (o v : Nat) : (c.inc64 k o v).io = c.io := by exact Core.wr64_io ..
@[simp] theorem Core.inc64_lanes (k : PageKind) (o v : Nat) : (c.inc64 k o v).lanes = c.lanes := by exact Core.wr64_lanes ..
@[simp] theorem Core.inc64_lgrps (k : PageKind) (o v : Nat) : (c.inc64 k o v).lgrps = c.lgrps := by exact Core.wr64_lgrps ..
@[simp] theorem Core.inc64_ingest (k : PageKind) (o v : Nat) : (c.inc64 k o v).ingest = c.ingest := by exact Core.wr64_ingest ..
@[simp] theorem Core.inc64_chan (k : PageKind) (o v : Nat) : (c.inc64 k o v).chan = c.chan := by exact Core.wr64_chan ..
@[simp] theorem Core.inc64_img (k : PageKind) (o v : Nat) : (c.inc64 k o v).img = c.img := by exact Core.wr64_img ..
@[simp] theorem Core.inc64_imgSt (k : PageKind) (o v : Nat) : (c.inc64 k o v).imgSt = c.imgSt := by exact Core.wr64_imgSt ..
@[simp] theorem Core.inc64_imgReason (k : PageKind) (o v : Nat) : (c.inc64 k o v).imgReason = c.imgReason := by exact Core.wr64_imgReason ..
@[simp] theorem Core.inc64_imgMode (k : PageKind) (o v : Nat) : (c.inc64 k o v).imgMode = c.imgMode := by exact Core.wr64_imgMode ..
@[simp] theorem Core.inc64_links (k : PageKind) (o v : Nat) : (c.inc64 k o v).links = c.links := by exact Core.wr64_links ..
@[simp] theorem Core.inc64_chanters (k : PageKind) (o v : Nat) : (c.inc64 k o v).chanters = c.chanters := by exact Core.wr64_chanters ..
@[simp] theorem Core.inc64_xdies (k : PageKind) (o v : Nat) : (c.inc64 k o v).xdies = c.xdies := by exact Core.wr64_xdies ..
@[simp] theorem Core.inc64_targets (k : PageKind) (o v : Nat) : (c.inc64 k o v).targets = c.targets := by exact Core.wr64_targets ..
@[simp] theorem Core.inc64_stacksOf (k : PageKind) (o v : Nat) : (c.inc64 k o v).stacksOf = c.stacksOf := by exact Core.wr64_stacksOf ..
@[simp] theorem Core.inc64_host (k : PageKind) (o v : Nat) : (c.inc64 k o v).host = c.host := by exact Core.wr64_host ..
@[simp] theorem Core.inc64_locks (k : PageKind) (o v : Nat) : (c.inc64 k o v).locks = c.locks := by exact Core.wr64_locks ..
@[simp] theorem Core.inc64_power (k : PageKind) (o v : Nat) : (c.inc64 k o v).power = c.power := by exact Core.wr64_power ..
@[simp] theorem Core.inc64_plant (k : PageKind) (o v : Nat) : (c.inc64 k o v).plant = c.plant := by exact Core.wr64_plant ..
@[simp] theorem Core.inc64_pilot (k : PageKind) (o v : Nat) : (c.inc64 k o v).pilot = c.pilot := by exact Core.wr64_pilot ..
@[simp] theorem Core.inc64_time (k : PageKind) (o v : Nat) : (c.inc64 k o v).time = c.time := by exact Core.wr64_time ..
@[simp] theorem Core.inc64_insp (k : PageKind) (o v : Nat) : (c.inc64 k o v).insp = c.insp := by exact Core.wr64_insp ..
@[simp] theorem Core.inc64_dbg (k : PageKind) (o v : Nat) : (c.inc64 k o v).dbg = c.dbg := by exact Core.wr64_dbg ..
@[simp] theorem Core.inc64_out (k : PageKind) (o v : Nat) : (c.inc64 k o v).out = c.out := by exact Core.wr64_out ..
@[simp] theorem Core.inc64_free (k : PageKind) (o v : Nat) : (c.inc64 k o v).free = c.free := by exact Core.wr64_free ..

/-! ### Reading a collection after them -/

theorem Core.lane_congr {c d : Core} (h : c.lanes = d.lanes) (n : Nat) : c.lane n = d.lane n := by unfold Core.lane; rw [h]
@[simp] theorem Core.lane_wr (k : PageKind) (x v : Nat) (n : Nat) : (c.wr k x v).lane n = c.lane n := Core.lane_congr (Core.wr_lanes ..) n
@[simp] theorem Core.lane_inc (k : PageKind) (x v : Nat) (n : Nat) : (c.inc k x v).lane n = c.lane n := Core.lane_congr (Core.inc_lanes ..) n
@[simp] theorem Core.lane_emit (x : Output) (n : Nat) : (c.emit x).lane n = c.lane n := Core.lane_congr (Core.emit_lanes ..) n
@[simp] theorem Core.lane_msix (v : Nat) (n : Nat) : (c.msix v).lane n = c.lane n := Core.lane_congr (Core.msix_lanes ..) n
@[simp] theorem Core.lane_raise (k : PageKind) (b : Nat) (n : Nat) : (c.raise k b).lane n = c.lane n := Core.lane_congr (Core.raise_lanes ..) n
@[simp] theorem Core.lane_report (k : PageKind) (kind cls addr : Nat) (n : Nat) : (c.report k kind cls addr).lane n = c.lane n := Core.lane_congr (Core.report_lanes ..) n
@[simp] theorem Core.lane_pageFlt (k : PageKind) (kind : Nat) (n : Nat) : (c.pageFlt k kind).lane n = c.lane n := Core.lane_congr (Core.pageFlt_lanes ..) n
@[simp] theorem Core.lane_clear (k : PageKind) (l : List Nat) (n : Nat) : (c.clear k l).lane n = c.lane n := Core.lane_congr (Core.clear_lanes ..) n
@[simp] theorem Core.lane_lockGrant (x y : Nat) (n : Nat) : (c.lockGrant x y).lane n = c.lane n := Core.lane_congr (Core.lockGrant_lanes ..) n
@[simp] theorem Core.lane_lockEnd (x : Nat) (n : Nat) : (c.lockEnd x).lane n = c.lane n := Core.lane_congr (Core.lockEnd_lanes ..) n
@[simp] theorem Core.lane_lockExpire (x : Nat) (n : Nat) : (c.lockExpire x).lane n = c.lane n := Core.lane_congr (Core.lockExpire_lanes ..) n
@[simp] theorem Core.lane_lockAccess (k : PageKind) (m : Nat) (n : Nat) : (c.lockAccess k m).lane n = c.lane n := Core.lane_congr (Core.lockAccess_lanes ..) n
@[simp] theorem Core.lane_wr64 (k : PageKind) (o v : Nat) (n : Nat) : (c.wr64 k o v).lane n = c.lane n := Core.lane_congr (Core.wr64_lanes ..) n
@[simp] theorem Core.lane_inc64 (k : PageKind) (o v : Nat) (n : Nat) : (c.inc64 k o v).lane n = c.lane n := Core.lane_congr (Core.inc64_lanes ..) n
theorem Core.lgrp_congr {c d : Core} (h : c.lgrps = d.lgrps) (n : Nat) : c.lgrp n = d.lgrp n := by unfold Core.lgrp; rw [h]
@[simp] theorem Core.lgrp_wr (k : PageKind) (x v : Nat) (n : Nat) : (c.wr k x v).lgrp n = c.lgrp n := Core.lgrp_congr (Core.wr_lgrps ..) n
@[simp] theorem Core.lgrp_inc (k : PageKind) (x v : Nat) (n : Nat) : (c.inc k x v).lgrp n = c.lgrp n := Core.lgrp_congr (Core.inc_lgrps ..) n
@[simp] theorem Core.lgrp_emit (x : Output) (n : Nat) : (c.emit x).lgrp n = c.lgrp n := Core.lgrp_congr (Core.emit_lgrps ..) n
@[simp] theorem Core.lgrp_msix (v : Nat) (n : Nat) : (c.msix v).lgrp n = c.lgrp n := Core.lgrp_congr (Core.msix_lgrps ..) n
@[simp] theorem Core.lgrp_raise (k : PageKind) (b : Nat) (n : Nat) : (c.raise k b).lgrp n = c.lgrp n := Core.lgrp_congr (Core.raise_lgrps ..) n
@[simp] theorem Core.lgrp_report (k : PageKind) (kind cls addr : Nat) (n : Nat) : (c.report k kind cls addr).lgrp n = c.lgrp n := Core.lgrp_congr (Core.report_lgrps ..) n
@[simp] theorem Core.lgrp_pageFlt (k : PageKind) (kind : Nat) (n : Nat) : (c.pageFlt k kind).lgrp n = c.lgrp n := Core.lgrp_congr (Core.pageFlt_lgrps ..) n
@[simp] theorem Core.lgrp_clear (k : PageKind) (l : List Nat) (n : Nat) : (c.clear k l).lgrp n = c.lgrp n := Core.lgrp_congr (Core.clear_lgrps ..) n
@[simp] theorem Core.lgrp_lockGrant (x y : Nat) (n : Nat) : (c.lockGrant x y).lgrp n = c.lgrp n := Core.lgrp_congr (Core.lockGrant_lgrps ..) n
@[simp] theorem Core.lgrp_lockEnd (x : Nat) (n : Nat) : (c.lockEnd x).lgrp n = c.lgrp n := Core.lgrp_congr (Core.lockEnd_lgrps ..) n
@[simp] theorem Core.lgrp_lockExpire (x : Nat) (n : Nat) : (c.lockExpire x).lgrp n = c.lgrp n := Core.lgrp_congr (Core.lockExpire_lgrps ..) n
@[simp] theorem Core.lgrp_lockAccess (k : PageKind) (m : Nat) (n : Nat) : (c.lockAccess k m).lgrp n = c.lgrp n := Core.lgrp_congr (Core.lockAccess_lgrps ..) n
@[simp] theorem Core.lgrp_wr64 (k : PageKind) (o v : Nat) (n : Nat) : (c.wr64 k o v).lgrp n = c.lgrp n := Core.lgrp_congr (Core.wr64_lgrps ..) n
@[simp] theorem Core.lgrp_inc64 (k : PageKind) (o v : Nat) (n : Nat) : (c.inc64 k o v).lgrp n = c.lgrp n := Core.lgrp_congr (Core.inc64_lgrps ..) n
theorem Core.chanter_congr {c d : Core} (h : c.chanters = d.chanters) (n : Nat) : c.chanter n = d.chanter n := by unfold Core.chanter; rw [h]
@[simp] theorem Core.chanter_wr (k : PageKind) (x v : Nat) (n : Nat) : (c.wr k x v).chanter n = c.chanter n := Core.chanter_congr (Core.wr_chanters ..) n
@[simp] theorem Core.chanter_inc (k : PageKind) (x v : Nat) (n : Nat) : (c.inc k x v).chanter n = c.chanter n := Core.chanter_congr (Core.inc_chanters ..) n
@[simp] theorem Core.chanter_emit (x : Output) (n : Nat) : (c.emit x).chanter n = c.chanter n := Core.chanter_congr (Core.emit_chanters ..) n
@[simp] theorem Core.chanter_msix (v : Nat) (n : Nat) : (c.msix v).chanter n = c.chanter n := Core.chanter_congr (Core.msix_chanters ..) n
@[simp] theorem Core.chanter_raise (k : PageKind) (b : Nat) (n : Nat) : (c.raise k b).chanter n = c.chanter n := Core.chanter_congr (Core.raise_chanters ..) n
@[simp] theorem Core.chanter_report (k : PageKind) (kind cls addr : Nat) (n : Nat) : (c.report k kind cls addr).chanter n = c.chanter n := Core.chanter_congr (Core.report_chanters ..) n
@[simp] theorem Core.chanter_pageFlt (k : PageKind) (kind : Nat) (n : Nat) : (c.pageFlt k kind).chanter n = c.chanter n := Core.chanter_congr (Core.pageFlt_chanters ..) n
@[simp] theorem Core.chanter_clear (k : PageKind) (l : List Nat) (n : Nat) : (c.clear k l).chanter n = c.chanter n := Core.chanter_congr (Core.clear_chanters ..) n
@[simp] theorem Core.chanter_lockGrant (x y : Nat) (n : Nat) : (c.lockGrant x y).chanter n = c.chanter n := Core.chanter_congr (Core.lockGrant_chanters ..) n
@[simp] theorem Core.chanter_lockEnd (x : Nat) (n : Nat) : (c.lockEnd x).chanter n = c.chanter n := Core.chanter_congr (Core.lockEnd_chanters ..) n
@[simp] theorem Core.chanter_lockExpire (x : Nat) (n : Nat) : (c.lockExpire x).chanter n = c.chanter n := Core.chanter_congr (Core.lockExpire_chanters ..) n
@[simp] theorem Core.chanter_lockAccess (k : PageKind) (m : Nat) (n : Nat) : (c.lockAccess k m).chanter n = c.chanter n := Core.chanter_congr (Core.lockAccess_chanters ..) n
@[simp] theorem Core.chanter_wr64 (k : PageKind) (o v : Nat) (n : Nat) : (c.wr64 k o v).chanter n = c.chanter n := Core.chanter_congr (Core.wr64_chanters ..) n
@[simp] theorem Core.chanter_inc64 (k : PageKind) (o v : Nat) (n : Nat) : (c.inc64 k o v).chanter n = c.chanter n := Core.chanter_congr (Core.inc64_chanters ..) n
theorem Core.xdie_congr {c d : Core} (h : c.xdies = d.xdies) (n : Nat) : c.xdie n = d.xdie n := by unfold Core.xdie; rw [h]
@[simp] theorem Core.xdie_wr (k : PageKind) (x v : Nat) (n : Nat) : (c.wr k x v).xdie n = c.xdie n := Core.xdie_congr (Core.wr_xdies ..) n
@[simp] theorem Core.xdie_inc (k : PageKind) (x v : Nat) (n : Nat) : (c.inc k x v).xdie n = c.xdie n := Core.xdie_congr (Core.inc_xdies ..) n
@[simp] theorem Core.xdie_emit (x : Output) (n : Nat) : (c.emit x).xdie n = c.xdie n := Core.xdie_congr (Core.emit_xdies ..) n
@[simp] theorem Core.xdie_msix (v : Nat) (n : Nat) : (c.msix v).xdie n = c.xdie n := Core.xdie_congr (Core.msix_xdies ..) n
@[simp] theorem Core.xdie_raise (k : PageKind) (b : Nat) (n : Nat) : (c.raise k b).xdie n = c.xdie n := Core.xdie_congr (Core.raise_xdies ..) n
@[simp] theorem Core.xdie_report (k : PageKind) (kind cls addr : Nat) (n : Nat) : (c.report k kind cls addr).xdie n = c.xdie n := Core.xdie_congr (Core.report_xdies ..) n
@[simp] theorem Core.xdie_pageFlt (k : PageKind) (kind : Nat) (n : Nat) : (c.pageFlt k kind).xdie n = c.xdie n := Core.xdie_congr (Core.pageFlt_xdies ..) n
@[simp] theorem Core.xdie_clear (k : PageKind) (l : List Nat) (n : Nat) : (c.clear k l).xdie n = c.xdie n := Core.xdie_congr (Core.clear_xdies ..) n
@[simp] theorem Core.xdie_lockGrant (x y : Nat) (n : Nat) : (c.lockGrant x y).xdie n = c.xdie n := Core.xdie_congr (Core.lockGrant_xdies ..) n
@[simp] theorem Core.xdie_lockEnd (x : Nat) (n : Nat) : (c.lockEnd x).xdie n = c.xdie n := Core.xdie_congr (Core.lockEnd_xdies ..) n
@[simp] theorem Core.xdie_lockExpire (x : Nat) (n : Nat) : (c.lockExpire x).xdie n = c.xdie n := Core.xdie_congr (Core.lockExpire_xdies ..) n
@[simp] theorem Core.xdie_lockAccess (k : PageKind) (m : Nat) (n : Nat) : (c.lockAccess k m).xdie n = c.xdie n := Core.xdie_congr (Core.lockAccess_xdies ..) n
@[simp] theorem Core.xdie_wr64 (k : PageKind) (o v : Nat) (n : Nat) : (c.wr64 k o v).xdie n = c.xdie n := Core.xdie_congr (Core.wr64_xdies ..) n
@[simp] theorem Core.xdie_inc64 (k : PageKind) (o v : Nat) (n : Nat) : (c.inc64 k o v).xdie n = c.xdie n := Core.xdie_congr (Core.inc64_xdies ..) n
theorem Core.target_congr {c d : Core} (h : c.targets = d.targets) (n : Nat) : c.target n = d.target n := by unfold Core.target; rw [h]
@[simp] theorem Core.target_wr (k : PageKind) (x v : Nat) (n : Nat) : (c.wr k x v).target n = c.target n := Core.target_congr (Core.wr_targets ..) n
@[simp] theorem Core.target_inc (k : PageKind) (x v : Nat) (n : Nat) : (c.inc k x v).target n = c.target n := Core.target_congr (Core.inc_targets ..) n
@[simp] theorem Core.target_emit (x : Output) (n : Nat) : (c.emit x).target n = c.target n := Core.target_congr (Core.emit_targets ..) n
@[simp] theorem Core.target_msix (v : Nat) (n : Nat) : (c.msix v).target n = c.target n := Core.target_congr (Core.msix_targets ..) n
@[simp] theorem Core.target_raise (k : PageKind) (b : Nat) (n : Nat) : (c.raise k b).target n = c.target n := Core.target_congr (Core.raise_targets ..) n
@[simp] theorem Core.target_report (k : PageKind) (kind cls addr : Nat) (n : Nat) : (c.report k kind cls addr).target n = c.target n := Core.target_congr (Core.report_targets ..) n
@[simp] theorem Core.target_pageFlt (k : PageKind) (kind : Nat) (n : Nat) : (c.pageFlt k kind).target n = c.target n := Core.target_congr (Core.pageFlt_targets ..) n
@[simp] theorem Core.target_clear (k : PageKind) (l : List Nat) (n : Nat) : (c.clear k l).target n = c.target n := Core.target_congr (Core.clear_targets ..) n
@[simp] theorem Core.target_lockGrant (x y : Nat) (n : Nat) : (c.lockGrant x y).target n = c.target n := Core.target_congr (Core.lockGrant_targets ..) n
@[simp] theorem Core.target_lockEnd (x : Nat) (n : Nat) : (c.lockEnd x).target n = c.target n := Core.target_congr (Core.lockEnd_targets ..) n
@[simp] theorem Core.target_lockExpire (x : Nat) (n : Nat) : (c.lockExpire x).target n = c.target n := Core.target_congr (Core.lockExpire_targets ..) n
@[simp] theorem Core.target_lockAccess (k : PageKind) (m : Nat) (n : Nat) : (c.lockAccess k m).target n = c.target n := Core.target_congr (Core.lockAccess_targets ..) n
@[simp] theorem Core.target_wr64 (k : PageKind) (o v : Nat) (n : Nat) : (c.wr64 k o v).target n = c.target n := Core.target_congr (Core.wr64_targets ..) n
@[simp] theorem Core.target_inc64 (k : PageKind) (o v : Nat) (n : Nat) : (c.inc64 k o v).target n = c.target n := Core.target_congr (Core.inc64_targets ..) n
theorem Core.stack_congr {c d : Core} (h : c.stacksOf = d.stacksOf) (n : Nat) : c.stack n = d.stack n := by unfold Core.stack; rw [h]
@[simp] theorem Core.stack_wr (k : PageKind) (x v : Nat) (n : Nat) : (c.wr k x v).stack n = c.stack n := Core.stack_congr (Core.wr_stacksOf ..) n
@[simp] theorem Core.stack_inc (k : PageKind) (x v : Nat) (n : Nat) : (c.inc k x v).stack n = c.stack n := Core.stack_congr (Core.inc_stacksOf ..) n
@[simp] theorem Core.stack_emit (x : Output) (n : Nat) : (c.emit x).stack n = c.stack n := Core.stack_congr (Core.emit_stacksOf ..) n
@[simp] theorem Core.stack_msix (v : Nat) (n : Nat) : (c.msix v).stack n = c.stack n := Core.stack_congr (Core.msix_stacksOf ..) n
@[simp] theorem Core.stack_raise (k : PageKind) (b : Nat) (n : Nat) : (c.raise k b).stack n = c.stack n := Core.stack_congr (Core.raise_stacksOf ..) n
@[simp] theorem Core.stack_report (k : PageKind) (kind cls addr : Nat) (n : Nat) : (c.report k kind cls addr).stack n = c.stack n := Core.stack_congr (Core.report_stacksOf ..) n
@[simp] theorem Core.stack_pageFlt (k : PageKind) (kind : Nat) (n : Nat) : (c.pageFlt k kind).stack n = c.stack n := Core.stack_congr (Core.pageFlt_stacksOf ..) n
@[simp] theorem Core.stack_clear (k : PageKind) (l : List Nat) (n : Nat) : (c.clear k l).stack n = c.stack n := Core.stack_congr (Core.clear_stacksOf ..) n
@[simp] theorem Core.stack_lockGrant (x y : Nat) (n : Nat) : (c.lockGrant x y).stack n = c.stack n := Core.stack_congr (Core.lockGrant_stacksOf ..) n
@[simp] theorem Core.stack_lockEnd (x : Nat) (n : Nat) : (c.lockEnd x).stack n = c.stack n := Core.stack_congr (Core.lockEnd_stacksOf ..) n
@[simp] theorem Core.stack_lockExpire (x : Nat) (n : Nat) : (c.lockExpire x).stack n = c.stack n := Core.stack_congr (Core.lockExpire_stacksOf ..) n
@[simp] theorem Core.stack_lockAccess (k : PageKind) (m : Nat) (n : Nat) : (c.lockAccess k m).stack n = c.stack n := Core.stack_congr (Core.lockAccess_stacksOf ..) n
@[simp] theorem Core.stack_wr64 (k : PageKind) (o v : Nat) (n : Nat) : (c.wr64 k o v).stack n = c.stack n := Core.stack_congr (Core.wr64_stacksOf ..) n
@[simp] theorem Core.stack_inc64 (k : PageKind) (o v : Nat) (n : Nat) : (c.inc64 k o v).stack n = c.stack n := Core.stack_congr (Core.inc64_stacksOf ..) n
theorem Core.lock_congr {c d : Core} (h : c.locks = d.locks) (n : Nat) : c.lock n = d.lock n := by unfold Core.lock; rw [h]
@[simp] theorem Core.lock_wr (k : PageKind) (x v : Nat) (n : Nat) : (c.wr k x v).lock n = c.lock n := Core.lock_congr (Core.wr_locks ..) n
@[simp] theorem Core.lock_inc (k : PageKind) (x v : Nat) (n : Nat) : (c.inc k x v).lock n = c.lock n := Core.lock_congr (Core.inc_locks ..) n
@[simp] theorem Core.lock_emit (x : Output) (n : Nat) : (c.emit x).lock n = c.lock n := Core.lock_congr (Core.emit_locks ..) n
@[simp] theorem Core.lock_msix (v : Nat) (n : Nat) : (c.msix v).lock n = c.lock n := Core.lock_congr (Core.msix_locks ..) n
@[simp] theorem Core.lock_raise (k : PageKind) (b : Nat) (n : Nat) : (c.raise k b).lock n = c.lock n := Core.lock_congr (Core.raise_locks ..) n
@[simp] theorem Core.lock_report (k : PageKind) (kind cls addr : Nat) (n : Nat) : (c.report k kind cls addr).lock n = c.lock n := Core.lock_congr (Core.report_locks ..) n
@[simp] theorem Core.lock_pageFlt (k : PageKind) (kind : Nat) (n : Nat) : (c.pageFlt k kind).lock n = c.lock n := Core.lock_congr (Core.pageFlt_locks ..) n
@[simp] theorem Core.lock_clear (k : PageKind) (l : List Nat) (n : Nat) : (c.clear k l).lock n = c.lock n := Core.lock_congr (Core.clear_locks ..) n
@[simp] theorem Core.lock_wr64 (k : PageKind) (o v : Nat) (n : Nat) : (c.wr64 k o v).lock n = c.lock n := Core.lock_congr (Core.wr64_locks ..) n
@[simp] theorem Core.lock_inc64 (k : PageKind) (o v : Nat) (n : Nat) : (c.inc64 k o v).lock n = c.lock n := Core.lock_congr (Core.inc64_locks ..) n

/-! ### Registers -/

/-- Keys of two registers of one page agree only at one offset; of two pages, never (R9, R264). -/
theorem PageKind.key_inj {k : PageKind} {o p : Nat} : k.key o = k.key p ↔ o = p := by simp [PageKind.key]

theorem Core.raise_regs (k : PageKind) (b : Nat) :
    (c.raise k b).regs = (c.wr k 0x010 (c.rd k 0x010 ||| 2 ^ b)).regs := by
  unfold Core.raise; dsimp only; split_ifs <;> simp [Core.pageMsg]

/-- Raising an event changes PAGE_IRQ of its page, and no other register (R403). -/
theorem Core.rd_raise (k j : PageKind) (b p : Nat) :
    (c.raise k b).rd j p = if j.key p = k.key 0x010 then (c.rd k 0x010 ||| 2 ^ b) % 2 ^ 32 else c.rd j p := by
  rw [Core.rd_congr (c.raise_regs k b), Core.rd_wr]

/-- A report changes no register but the count of coalesced messages (R414). -/
theorem Core.rd_report (k j : PageKind) (kind cls addr p : Nat) (h : j.key p ≠ PageKind.flt.key 0x090) :
    (c.report k kind cls addr).rd j p = c.rd j p := by
  unfold Core.report
  split_ifs
  · exact (Core.rd_inc c .flt j 0x090 p 1).trans (if_neg h)
  · rfl

/-- What a report leaves pending: the page's own slot, or one more repeat in it (R414). -/
theorem Core.report_pend (k : PageKind) (kind cls addr : Nat) :
    (c.report k kind cls addr).pend =
      if c.pend.any (fun p => p.page == k.no) then
        c.pend.map (fun p => if p.page = k.no then { p with coalesced := min (p.coalesced + 1) 0xFFFF } else p)
      else c.pend ++ [⟨k.no, kind, cls, addr % 2 ^ 42, 0⟩] := by
  unfold Core.report; split_ifs <;> rfl

/-- A CLR_CNT command sets the listed registers to 0 and changes no other. -/
theorem Core.rd_clear (k j : PageKind) (l : List Nat) (p : Nat) :
    (c.clear k l).rd j p = if ∃ o ∈ l, j.key p = k.key o then 0 else c.rd j p := by
  unfold Core.clear
  induction l generalizing c with
  | nil => simp
  | cons o l ih =>
    rw [List.foldl_cons, ih, Core.rd_wr]
    by_cases h1 : ∃ o ∈ l, j.key p = k.key o
    · obtain ⟨q, hq, e⟩ := h1
      rw [if_pos ⟨q, hq, e⟩, if_pos ⟨q, by simp [hq], e⟩]
    · rw [if_neg h1]
      by_cases h2 : j.key p = k.key o
      · rw [if_pos h2, if_pos ⟨o, by simp, h2⟩]; rfl
      · rw [if_neg h2, if_neg]
        rintro ⟨q, hq, e⟩
        rcases List.mem_cons.1 hq with rfl | hq
        · exact h2 e
        · exact h1 ⟨q, hq, e⟩

/-- A lock that is granted or ends touches, of the registers, CXB's counts and events, and the count of coalesced messages
(R393, R394, R414). -/
theorem Core.rd_lockAccess (k j : PageKind) (m p : Nat) (h1 : j.key p ≠ PageKind.cxb.key 0x010)
    (h2 : j.key p ≠ PageKind.cxb.key 0x088) (h3 : j.key p ≠ PageKind.cxb.key 0x08C) (h4 : j.key p ≠ PageKind.flt.key 0x090) :
    (c.lockAccess k m).rd j p = c.rd j p := by
  have hs : ∀ (d : Core) g x, (d.setLock g x).rd j p = d.rd j p := fun d g x => Core.rd_congr (Core.setLock_regs ..) j p
  have hg : ∀ (d : Core) g x, (d.lockGrant g x).rd j p = d.rd j p := fun d g x => by
    unfold Core.lockGrant
    dsimp only
    rw [Core.rd_raise, if_neg h1, Core.rd_inc, if_neg h2, hs]
  have he : ∀ (d : Core) g, (d.lockEnd g).rd j p = d.rd j p := fun d g => by
    unfold Core.lockEnd
    dsimp only
    split
    · rw [hg, hs]
    · rw [hs]
  unfold Core.lockAccess
  dsimp only
  split_ifs
  · unfold Core.lockExpire
    rw [he, Core.rd_report _ _ _ _ _ _ _ h4, Core.rd_raise, if_neg h1, Core.rd_inc, if_neg h3]
  · rw [hs]
  · rfl

/-! ### Rings and channels -/

theorem Core.msix_host (v : Nat) : ∃ p, (c.msix v).host = { c.host with pbits := p } := by
  unfold Core.msix
  split_ifs
  · exact ⟨c.host.pbits, rfl⟩
  · exact ⟨_, rfl⟩
  · exact ⟨c.host.pbits, rfl⟩
  · exact ⟨c.host.pbits, rfl⟩

/-- Of the host interface, an event can change the pending message bits alone (R362, R403). -/
theorem Core.raise_host (k : PageKind) (b : Nat) : ∃ p, (c.raise k b).host = { c.host with pbits := p } := by
  refine Core.raise_cases c k b (fun d => ∃ p, d.host = { c.host with pbits := p }) ⟨c.host.pbits, rfl⟩ (fun d v h => ?_)
  obtain ⟨p, h⟩ := h
  obtain ⟨q, e⟩ := d.msix_host v
  exact ⟨q, by rw [e, h]⟩

@[simp] theorem Core.ring_raise (k : PageKind) (b r : Nat) : (c.raise k b).ring r = c.ring r := by
  obtain ⟨p, h⟩ := c.raise_host k b
  unfold Core.ring; rw [h]

@[simp] theorem Core.dma_raise (k : PageKind) (b r : Nat) : (c.raise k b).dma r = c.dma r := by
  obtain ⟨p, h⟩ := c.raise_host k b
  unfold Core.dma; rw [h]

@[simp] theorem Core.ring_report (k : PageKind) (kind cls addr r : Nat) : (c.report k kind cls addr).ring r = c.ring r := by
  unfold Core.ring; rw [Core.report_host]

@[simp] theorem Core.dma_report (k : PageKind) (kind cls addr r : Nat) : (c.report k kind cls addr).dma r = c.dma r := by
  unfold Core.dma; rw [Core.report_host]

theorem Core.lockGrant_host (g m : Nat) : ∃ p, (c.lockGrant g m).host = { c.host with pbits := p } := Core.raise_host ..

theorem Core.lockEnd_host (g : Nat) : ∃ p, (c.lockEnd g).host = { c.host with pbits := p } := by
  unfold Core.lockEnd
  dsimp only
  split
  · exact Core.lockGrant_host ..
  · exact ⟨c.host.pbits, rfl⟩

/-- The count of a lock's access changes of the host interface the pending message bits alone. -/
theorem Core.lockAccess_host (k : PageKind) (m : Nat) : ∃ p, (c.lockAccess k m).host = { c.host with pbits := p } := by
  unfold Core.lockAccess
  dsimp only
  split_ifs
  · unfold Core.lockExpire
    obtain ⟨p, h⟩ := Core.lockEnd_host (((c.inc .cxb 0x08C).raise .cxb 1).report .cxb 0x07 clsN 0) k.group
    obtain ⟨q, e⟩ := Core.raise_host (c.inc .cxb 0x08C) .cxb 1
    exact ⟨p, by rw [h, Core.report_host, e]; rfl⟩
  · exact ⟨c.host.pbits, rfl⟩
  · exact ⟨c.host.pbits, rfl⟩

@[simp] theorem Core.ring_lockAccess (k : PageKind) (m r : Nat) : (c.lockAccess k m).ring r = c.ring r := by
  obtain ⟨p, h⟩ := c.lockAccess_host k m
  unfold Core.ring; rw [h]

@[simp] theorem Core.dma_lockAccess (k : PageKind) (m r : Nat) : (c.lockAccess k m).dma r = c.dma r := by
  obtain ⟨p, h⟩ := c.lockAccess_host k m
  unfold Core.dma; rw [h]

/-! ### The register file stays canonical -/

theorem Core.regsWf_setReg {c : Core} (k : Nat) (w : Word) (h : SMap.wf regReset c.regs = true) :
    SMap.wf regReset (c.setReg k w).regs = true := SMap.wf_set k w h

theorem Core.regsWf_raise {c : Core} (k : PageKind) (b : Nat) (h : SMap.wf regReset c.regs = true) :
    SMap.wf regReset (c.raise k b).regs = true := by
  rw [Core.raise_regs]; exact Core.regsWf_setReg _ _ h

theorem Core.regsWf_report {c : Core} (k : PageKind) (kind cls addr : Nat) (h : SMap.wf regReset c.regs = true) :
    SMap.wf regReset (c.report k kind cls addr).regs = true := by
  unfold Core.report
  split_ifs
  · exact Core.regsWf_setReg _ _ h
  · exact h

theorem Core.regsWf_lockGrant {c : Core} (g m : Nat) (h : SMap.wf regReset c.regs = true) :
    SMap.wf regReset (c.lockGrant g m).regs = true := Core.regsWf_raise _ _ (Core.regsWf_setReg _ _ h)

theorem Core.regsWf_lockEnd {c : Core} (g : Nat) (h : SMap.wf regReset c.regs = true) :
    SMap.wf regReset (c.lockEnd g).regs = true := by
  unfold Core.lockEnd
  dsimp only
  split
  · exact Core.regsWf_lockGrant _ _ h
  · exact h

/-- Counting an access for a lock keeps the register file canonical. -/
theorem Core.regsWf_lockAccess {c : Core} (k : PageKind) (m : Nat) (h : SMap.wf regReset c.regs = true) :
    SMap.wf regReset (c.lockAccess k m).regs = true := by
  unfold Core.lockAccess
  dsimp only
  split_ifs
  · exact Core.regsWf_lockEnd _ (Core.regsWf_report _ _ _ _ (Core.regsWf_raise _ _ (Core.regsWf_setReg _ _ h)))
  · exact h
  · exact h

end Sys2Proof.Machine
end

