-- ==== Sys2Proof/Laws/Gate.lean ====
section
/-! SUPPORT. Laws/Gate.lean: what a command passes before its effect, said once: an event acts, a register command is
served, and what the envelope's count adds. -/

namespace Sys2Proof.Machine

/-! ### The queue and the collector -/

@[simp] theorem State.after_pending (s t : State) : (s.after t).pending = t.pending := rfl
@[simp] theorem State.after_col (s t : State) : (s.after t).col = t.col := rfl
@[simp] theorem State.onCore_pending (s : State) (f : Core → Core) : (s.onCore f).pending = s.pending := rfl
@[simp] theorem State.onCore_col (s : State) (f : Core → Core) : (s.onCore f).col = s.col := rfl
@[simp] theorem State.onCore_core (s : State) (f : Core → Core) : (s.onCore f).core = f s.core := rfl

/-- The envelope's count changes the register file alone, and there CNT_ENV_EXIT alone. -/
theorem Core.envNote_eq (a b : Core) : b.envNote b = b ∧ (a.envNote b = b ∨ a.envNote b = b.inc .chn 0x194) := by
  unfold Core.envNote
  constructor
  · split_ifs with h
    · exact absurd h.2.2.2 (by simp [h.2.2.1])
    · rfl
  · split_ifs
    · exact .inr rfl
    · exact .inl rfl

/-- In a device that no rail has left undefined, nothing but the envelope's count comes on top of an effect. -/
theorem State.after_eq (s t : State) (h : s.core.railBad = false) :
    s.after t = { t with core := s.core.envNote t.core } := by simp [State.after, h]

/-- While no schedule runs before or after, nothing comes on top of an effect. -/
theorem State.after_idle (s t : State) (h : s.core.railBad = false) (hr : s.core.running = false ∨ t.core.running = false) :
    s.after t = t := by
  rw [State.after_eq s t h, Core.envNote, if_neg]
  rintro ⟨h1, h2, -⟩
  rcases hr with hr | hr <;> simp_all

/-! ### Commands that act on the core -/

/-- Two effects that agree on the present core give one outcome. -/
theorem State.does_congr {s : State} {f g : Core → Core} (h : f s.core = g s.core) : s.does f = s.does g := by
  simp [State.does, State.onCore, h]

theorem State.does_leaves {s : State} {o : Host.Outcome State Fault Refusal} {f : Core → Core} {P : Core → Prop}
    (h : o = s.does f) (hp : P (f s.core)) : s.leaves o P := ⟨f s.core, h, hp⟩

theorem act_does (f : Core → Core) (s : State) (h : s.runs) : act f s = s.does f := by
  simp [act, State.live, State.does, h.1]

/-- An event whose effect on the present core is `g`. -/
theorem act_does_of {f g : Core → Core} {s : State} (h : s.runs) (e : f s.core = g s.core) : act f s = s.does g :=
  (act_does f s h).trans (State.does_congr e)

theorem act_frozen (f : Core → Core) (s : State) (h : s.core.dbg.frozen = true) : act f s = .next s := by
  simp [act, State.live, h]

theorem actDrone_does (f : Core → Core) (s : State) : actDrone f s = s.does f := rfl

@[simp] theorem State.onCore_id (s : State) : s.onCore (fun c => c) = s := rfl

theorem Core.pageReady_congr {c d : Core} (h : c.power = d.power) (k : PageKind) : c.pageReady k = d.pageReady k := by
  unfold Core.pageReady
  rw [h]

@[simp] theorem Core.pageReady_lockAccess (c : Core) (k j : PageKind) (m : Nat) :
    (c.lockAccess k m).pageReady j = c.pageReady j := Core.pageReady_congr (by simp) j

/-- The count of a lock's accesses leaves the header of every page but PAGE_IRQ. -/
theorem Core.rd_lockAccess_ctl (c : Core) (k j : PageKind) (m : Nat) : (c.lockAccess k m).rd j 0x008 = c.rd j 0x008 :=
  Core.rd_lockAccess c k j m 0x008 (by simp only [PageKind.key]; omega) (by simp only [PageKind.key]; omega)
    (by simp only [PageKind.key]; omega) (by simp only [PageKind.key]; omega)

@[simp] theorem Core.acts_lockAccess (c : Core) (k j : PageKind) (m : Nat) : (c.lockAccess k m).acts j = c.acts j := by
  simp [Core.acts, Core.rd_lockAccess_ctl]

theorem regCmdF_served (i : Instr) (k : PageKind) (f : State → State) (s : State) (h : s.serves k) :
    regCmdF i k f s = f (s.onCore (fun c => c.lockAccess k 0)) := by
  obtain ⟨-, hp, hr, ha⟩ := h
  have hq : (s.onCore (fun c => c.lockAccess k 0)).core.acts k = true := (Core.acts_lockAccess s.core k k 0).trans ha
  simp only [regCmdF, hp, hr, hq, if_true]

/-- A register command that is served has its effect. -/
theorem regCmd_does (i : Instr) (k : PageKind) (f : Core → Core) (s : State) (h : s.serves k) :
    regCmd i k f s = s.doesReg k f := by
  simp only [regCmd, State.live, h.1.1, regCmdF_served i k _ s h]
  rfl

theorem State.doesReg_congr {s : State} {k : PageKind} {f g : Core → Core}
    (h : f (s.core.lockAccess k 0) = g (s.core.lockAccess k 0)) : s.doesReg k f = s.doesReg k g :=
  State.does_congr h

/-- A register command whose effect, after the count of its lock, is `g`. -/
theorem regCmd_doesReg_of {i : Instr} {k : PageKind} {f g : Core → Core} {s : State} (h : s.serves k)
    (e : f (s.core.lockAccess k 0) = g (s.core.lockAccess k 0)) : regCmd i k f s = s.doesReg k g :=
  (regCmd_does i k f s h).trans (State.doesReg_congr e)

theorem State.doesReg_leaves {s : State} {k : PageKind} {o : Host.Outcome State Fault Refusal} {f : Core → Core}
    {P : Core → Prop} (h : o = s.doesReg k f) (hp : P (f (s.core.lockAccess k 0))) : s.leaves o P :=
  State.does_leaves h hp

theorem regCmdS_next (i : Instr) (k : PageKind) (f : State → State) (s : State) (h : s.serves k) :
    regCmdS i k f s = .next (s.after (f (s.onCore (fun c => c.lockAccess k 0)))) := by
  simp only [regCmdS, State.live, h.1.1, regCmdF_served i k _ s h]
  rfl

theorem hdrCmd_next (i : Instr) (page : Nat) (k : PageKind) (f : PageKind → State → State) (s : State)
    (h : s.servesHdr page k) : hdrCmd i page f s = .next (s.after (f k (s.onCore (fun c => c.lockAccess k 0)))) := by
  obtain ⟨hr, hp, hs, ha⟩ := h
  have hq : (s.onCore (fun c => c.lockAccess k 0)).core.pageReady k = true :=
    (Core.pageReady_lockAccess s.core k k 0).trans ha
  have g : hdrCmdF i page f s = f k (s.onCore (fun c => c.lockAccess k 0)) := by
    simp only [hdrCmdF, hp, hs, hq, if_true]
  rw [hdrCmd, State.live, hr.1, g]
  rfl

/-- A ring command that runs has its effect on its descriptor. -/
theorem exec_does_of {r op : Nat} {d : Desc} {f : Desc → Core → Core} {g : Core → Core} {s : State} (h : s.rings r op d)
    (e : f d s.core = g s.core) : act (fun c => c.exec r op f) s = s.does g := by
  refine act_does_of h.1 ?_
  simp only [Core.exec, h.2.1, h.2.2.1, h.2.2.2, Option.isSome_none, Bool.false_eq_true, false_and, if_false]
  exact e

/-- Every command answers a next state. -/
theorem act_next (f : Core → Core) (s : State) : ∃ t, act f s = .next t ∧ t.pending = s.pending ∧ t.col = s.col := by
  refine ⟨_, rfl, ?_, ?_⟩ <;> (unfold State.live; split_ifs <;> rfl)

theorem actDrone_next (f : Core → Core) (s : State) :
    ∃ t, actDrone f s = .next t ∧ t.pending = s.pending ∧ t.col = s.col := ⟨_, rfl, rfl, rfl⟩

/-- A host command on a page changes the core alone, or has its effect after a count of its lock. -/
theorem regCmdF_cases (i : Instr) (k : PageKind) (f : State → State) (s : State) :
    (∃ g, regCmdF i k f s = s.onCore g) ∨ ∃ g, regCmdF i k f s = f (s.onCore g) := by
  unfold regCmdF
  cases pageAt s.core.part k.no with
  | none => exact .inl ⟨_, rfl⟩
  | some p =>
    dsimp only
    cases s.core.route k with
    | none => exact .inl ⟨fun c => c, rfl⟩
    | queue => exact .inl ⟨_, rfl⟩
    | serve =>
      dsimp only
      by_cases h : (s.onCore (fun c => c.lockAccess k 0)).core.acts k = true
      · rw [if_pos h]; exact .inr ⟨_, rfl⟩
      · rw [if_neg h]; exact .inl ⟨_, rfl⟩

theorem hdrCmdF_cases (i : Instr) (page : Nat) (f : PageKind → State → State) (s : State) :
    (∃ g, hdrCmdF i page f s = s.onCore g) ∨ ∃ g k, hdrCmdF i page f s = f k (s.onCore g) := by
  unfold hdrCmdF
  cases pageAt s.core.part page with
  | none => exact .inl ⟨_, rfl⟩
  | some k =>
    dsimp only
    cases s.core.route k with
    | none => exact .inl ⟨fun c => c, rfl⟩
    | queue => exact .inl ⟨_, rfl⟩
    | serve =>
      dsimp only
      by_cases h : (s.onCore (fun c => c.lockAccess k 0)).core.pageReady k = true
      · rw [if_pos h]; exact .inr ⟨_, _, rfl⟩
      · rw [if_neg h]; exact .inl ⟨_, rfl⟩

/-- Whatever a host command on a page meets, it leaves the queue, and but for its effect the collector. -/
theorem regCmdF_keeps (i : Instr) (k : PageKind) (f : State → State) (s : State) (hf : ∀ s, (f s).pending = s.pending) :
    (regCmdF i k f s).pending = s.pending := by
  rcases regCmdF_cases i k f s with ⟨g, h⟩ | ⟨g, h⟩ <;> rw [h]
  · rfl
  · exact hf _

theorem regCmdF_onCore_col (i : Instr) (k : PageKind) (f : Core → Core) (s : State) :
    (regCmdF i k (State.onCore f) s).col = s.col := by
  rcases regCmdF_cases i k (State.onCore f) s with ⟨g, h⟩ | ⟨g, h⟩ <;> rw [h] <;> rfl

theorem hdrCmdF_keeps (i : Instr) (page : Nat) (f : PageKind → State → State) (s : State)
    (hf : ∀ k s, (f k s).pending = s.pending) : (hdrCmdF i page f s).pending = s.pending := by
  rcases hdrCmdF_cases i page f s with ⟨g, h⟩ | ⟨g, k, h⟩ <;> rw [h]
  · rfl
  · exact hf _ _

theorem State.live_pending (f : State → State) (s : State) (hf : (f s).pending = s.pending) :
    (s.live f).pending = s.pending := by
  unfold State.live
  cases s.core.dbg.frozen
  · exact hf
  · rfl

theorem State.live_col (f : State → State) (s : State) (hf : (f s).col = s.col) : (s.live f).col = s.col := by
  unfold State.live
  cases s.core.dbg.frozen
  · exact hf
  · rfl

theorem regCmd_next (i : Instr) (k : PageKind) (f : Core → Core) (s : State) :
    ∃ t, regCmd i k f s = .next t ∧ t.pending = s.pending ∧ t.col = s.col :=
  ⟨_, rfl, State.live_pending _ s (regCmdF_keeps i k _ s (fun _ => rfl)), State.live_col _ s (regCmdF_onCore_col i k f s)⟩

end Sys2Proof.Machine
end

