-- ==== Sys2Proof/Laws/Exec.lean ====
section
/-! SUPPORT. Laws/Exec.lean: what every command of the table can do outside the core, said once. -/

namespace Sys2Proof.Machine

/-- A property of the queue and the collector that no change of the core touches, and that each operation on the collector
keeps: acceptance of a message and the commands of page FLT. -/
structure State.Closed (P : State → Prop) : Prop where
  core : ∀ s c, P s → P { s with core := c }
  accept : ∀ s p, P s → P (s.accept p)
  ack : ∀ s v, P s → P (doFltAck v s)
  first : ∀ s, P s → P (doClrFirst s)
  clear : ∀ s, P s → P (doClrHist s)
  sel : ∀ s v, P s → P (doHistSel v s)
  noSel : ∀ s, P s → P { s with col := { s.col with histSel := none } }
  perst : ∀ s, P s → P { s with col := { s.col with seq := 0, histSel := none } }

namespace State.Closed

variable {P : State → Prop} (h : State.Closed P)
include h

theorem onCore {s : State} (g : Core → Core) (hp : P s) : P (s.onCore g) := h.core s _ hp

theorem after {s t : State} (hp : P t) : P (s.after t) := h.core t _ hp

theorem live {s : State} {f : State → State} (hp : P s) (hf : P (f s)) : P (s.live f) := by
  unfold State.live
  cases s.core.dbg.frozen
  · exact h.after hf
  · exact hp

theorem regCmdF {i : Instr} {k : PageKind} {f : State → State} {s : State} (hp : P s) (hf : ∀ s, P s → P (f s)) :
    P (Sys2Proof.Machine.regCmdF i k f s) := by
  rcases regCmdF_cases i k f s with ⟨g, e⟩ | ⟨g, e⟩ <;> rw [e]
  · exact h.onCore g hp
  · exact hf _ (h.onCore g hp)

theorem hdrCmdF {i : Instr} {page : Nat} {f : PageKind → State → State} {s : State} (hp : P s)
    (hf : ∀ k s, P s → P (f k s)) : P (Sys2Proof.Machine.hdrCmdF i page f s) := by
  rcases hdrCmdF_cases i page f s with ⟨g, e⟩ | ⟨g, k, e⟩ <;> rw [e]
  · exact h.onCore g hp
  · exact hf _ _ (h.onCore g hp)

theorem resetSide {s : State} (k : PageKind) (hp : P s) : P (s.resetSide k) := by
  unfold State.resetSide
  split
  all_goals first | exact h.onCore _ hp | exact h.noSel _ hp | exact hp

theorem unitReset (k : PageKind) {s : State} (hp : P s) : P (doUnitReset k s) := by
  unfold doUnitReset
  split_ifs
  · exact h.onCore _ hp
  · exact h.onCore _ (h.resetSide k (h.onCore _ hp))

omit h in
theorem hdr {p : Part} {page : Nat} {f : PageKind → State → State} {e : Eff} (he : Eff.hdr p page f = some e)
    (hf : ∀ k s, P s → P (f k s)) {s : State} (hp : P s) : P (e.f s) := by
  unfold Eff.hdr at he
  cases hk : pageAt p page with
  | none => rw [hk] at he; cases he
  | some k => rw [hk] at he; cases he; exact hf k s hp

theorem reg {k : PageKind} {f : Core → Core} {e : Eff} (he : some (Eff.reg k f) = some e) {s : State} (hp : P s) : P (e.f s) := by
  cases he; exact h.core _ _ hp

theorem own {k : PageKind} {g : Gate} {f : Core → Core} {e : Eff} (he : some (Eff.mk k g (State.onCore f)) = some e) {s : State} (hp : P s) :
    P (e.f s) := by
  cases he; exact h.core _ _ hp

omit h in
theorem flt {k : PageKind} {f : State → State} {e : Eff} (he : some (Eff.mk k .acts f) = some e) (hf : ∀ s, P s → P (f s)) {s : State}
    (hp : P s) : P (e.f s) := by
  cases he; exact hf s hp

/-- What a register write can give keeps the property. -/
theorem effect {p : Part} {i : Instr} {e : Eff} (he : effectOf p i = some e) {s : State} (hp : P s) : P (e.f s) := by
  cases i <;> first
    | exact (Option.some_ne_none e (Eq.symm he)).elim
    | exact h.reg he hp
    | exact h.own he hp
    | exact State.Closed.hdr he (fun k s hp => h.core _ _ hp) hp
    | exact State.Closed.hdr he (fun k s hp => h.unitReset k hp) hp
    | exact State.Closed.flt he (fun s => h.ack s _) hp
    | exact State.Closed.flt he (fun s => h.first s) hp
    | exact State.Closed.flt he (fun s => h.clear s) hp
    | exact State.Closed.flt he (fun s => h.sel s _) hp

omit h in
theorem run {e : Eff} {s : State} (hf : ∀ s, P s → P (e.f s)) (hp : P s) : P (e.run s) := by
  unfold Eff.run
  cases e.gate with
  | acts => by_cases g : s.core.acts e.page = true <;> simp only [g, if_true] <;> first | exact hf _ hp | exact hp
  | header => by_cases g : s.core.pageReady e.page = true <;> simp only [g, if_true] <;> first | exact hf _ hp | exact hp
  | own => exact hf _ hp

theorem busWrite {s : State} (k : PageKind) (m off v : Nat) (hp : P s) : P (s.busWrite k m off v) := by
  unfold State.busWrite
  dsimp only
  refine h.onCore _ ?_
  have hp := h.onCore (fun c => c.lockAccess k m) hp
  generalize s.onCore (fun c => c.lockAccess k m) = s at hp
  generalize k.cmdsOf off v = is
  induction is generalizing s with
  | nil => exact hp
  | cons i is ih =>
    rw [List.foldl_cons]
    cases he : effectOf s.core.part i with
    | none => exact ih s hp
    | some e => exact ih _ (State.Closed.run (fun s => h.effect he) hp)

theorem serveRead {s : State} (k : PageKind) (m page off : Nat) (hp : P s) : P (s.serveRead k m page off) :=
  h.core s _ hp

theorem pairAccess {s : State} (k : PageKind) (page off : Nat) (w : Bool) (v : DWord) (hp : P s) :
    P (s.pairAccess k page off w v) := by
  unfold State.pairAccess
  split_ifs
  · exact h.busWrite _ _ _ _ (h.busWrite _ _ _ _ hp)
  · exact h.serveRead _ _ _ _ (h.serveRead _ _ _ _ hp)

theorem apply {s : State} (i : Instr) (hp : P s) : P (s.apply i) := by
  unfold State.apply
  split <;> split
  · exact h.core _ _ hp
  · exact hp
  · exact h.serveRead _ _ _ _ hp
  · exact hp
  · exact h.pairAccess _ _ _ _ _ hp
  · exact hp
  · next e => exact State.Closed.run (fun s => h.effect e) (h.core _ _ hp)
  · exact hp

end State.Closed

theorem act_closed {P : State → Prop} (h : State.Closed P) (f : Core → Core) {s : State} (hp : P s) :
    ∃ t, act f s = .next t ∧ P t := ⟨_, rfl, h.live hp (h.onCore f hp)⟩

theorem actDrone_closed {P : State → Prop} (h : State.Closed P) (f : Core → Core) {s : State} (hp : P s) :
    ∃ t, actDrone f s = .next t ∧ P t := ⟨_, rfl, h.after (h.onCore f hp)⟩

theorem regCmd_closed {P : State → Prop} (h : State.Closed P) (i : Instr) (k : PageKind) (f : Core → Core) {s : State}
    (hp : P s) : ∃ t, regCmd i k f s = .next t ∧ P t := ⟨_, rfl, h.live hp (h.regCmdF hp (fun _ => h.onCore f))⟩

theorem regCmdS_closed {P : State → Prop} (h : State.Closed P) (i : Instr) (k : PageKind) (f : State → State) {s : State}
    (hp : P s) (hf : ∀ s, P s → P (f s)) : ∃ t, regCmdS i k f s = .next t ∧ P t :=
  ⟨_, rfl, h.live hp (h.regCmdF hp hf)⟩

theorem hdrCmd_closed {P : State → Prop} (h : State.Closed P) (i : Instr) (page : Nat) (f : PageKind → State → State)
    {s : State} (hp : P s) (hf : ∀ k s, P s → P (f k s)) : ∃ t, hdrCmd i page f s = .next t ∧ P t :=
  ⟨_, rfl, h.live hp (h.hdrCmdF hp hf)⟩

theorem lockCmd_closed {P : State → Prop} (h : State.Closed P) (i : Instr) (m : Master) (f : Core → Core) {s : State}
    (hp : P s) : ∃ t, lockCmd i m f s = .next t ∧ P t := by
  cases m
  · exact regCmd_closed h _ _ _ hp
  all_goals exact act_closed h _ hp

theorem doThermtrip_closed {P : State → Prop} (h : State.Closed P) (n : Nat) (r : Int) {s : State} (hp : P s) :
    P (doThermtrip n r s) := by
  unfold doThermtrip
  split_ifs
  · exact hp
  · exact h.accept _ _ (h.core _ _ hp)

theorem doFaultAccept_closed {P : State → Prop} (h : State.Closed P) (n : Nat) {s : State} (hp : P s) :
    P (doFaultAccept n s) := by
  unfold doFaultAccept
  split
  · split_ifs
    · exact h.accept _ _ (h.core _ _ hp)
    · exact hp
  · exact hp

theorem readAccess_closed {P : State → Prop} (h : State.Closed P) (m : Master) (page off : Fin 4096) {s : State} (hp : P s) :
    P (readAccess m page off s) := by
  unfold readAccess
  split
  · exact hp
  · by_cases h4 : off.val % 4 ≠ 0
    · rw [if_pos h4]; exact hp
    · rw [if_neg h4]
      split
      · split
        · exact hp
        · exact h.core _ _ hp
        · exact h.serveRead _ _ _ _ hp
      · split_ifs
        · exact hp
        · exact h.serveRead _ _ _ _ hp
        · exact h.core _ _ hp
      · exact hp
      · split_ifs
        · exact hp
        · exact h.serveRead _ _ _ _ hp

theorem accessSizeCmd_closed {P : State → Prop} (h : State.Closed P) (page off : Fin 4096) (n : Nat) (w : Bool) (v : DWord)
    {s : State} (hp : P s) : P (accessSizeCmd page off n w v s) := by
  unfold accessSizeCmd
  by_cases h1 : s.core.bar0Ok page.val off.val n = false
  · rw [if_pos h1]; exact h.onCore _ hp
  · rw [if_neg h1]
    split
    · exact hp
    · by_cases h4 : n = 4
      · rw [if_pos h4]; exact hp
      · rw [if_neg h4]
        split
        · exact hp
        · exact h.core _ _ hp
        · exact h.pairAccess _ _ _ _ _ hp

theorem doPostedApply_closed {P : State → Prop} (h : State.Closed P) (x : Chip) {s : State} (hp : P s) :
    P (doPostedApply x s) := by
  unfold doPostedApply
  split
  · exact hp
  · dsimp only
    split_ifs
    · exact hp
    · refine h.onCore _ (h.apply _ ?_)
      split
      · exact h.core _ _ (h.core _ _ hp)
      · exact h.core _ _ hp

theorem doDbgAccess_closed {P : State → Prop} (h : State.Closed P) {s : State} (hp : P s) : P (doDbgAccess s) := by
  unfold doDbgAccess
  split
  · exact hp
  · dsimp only
    by_cases h1 : s.core.domOn 36 = false ∨ s.core.domOn 37 = false
    · rw [if_pos h1]; exact hp
    · rw [if_neg h1]
      split
      · by_cases h2 : s.core.winOpen 4 37 = true
        · rw [if_pos h2]; exact h.core _ _ hp
        · rw [if_neg h2]; exact hp
      · split_ifs
        · exact hp
        · exact h.onCore _ (h.busWrite _ _ _ _ hp)
        · exact h.core _ _ hp

theorem doFrzRead_closed {P : State → Prop} (h : State.Closed P) {s : State} (hp : P s) : P (doFrzRead s) := by
  unfold doFrzRead
  dsimp only
  split_ifs
  · exact hp
  all_goals exact h.core _ _ hp

theorem doPerstDeassert_closed {P : State → Prop} (h : State.Closed P) (b : Bool) {s : State} (hp : P s) :
    P (doPerstDeassert b s) := by
  unfold doPerstDeassert
  dsimp only
  split_ifs
  · exact hp
  all_goals exact h.core _ _ hp

theorem doPerst_closed {P : State → Prop} (h : State.Closed P) {s : State} (hp : P s) : P (doPerst s) := by
  unfold doPerst
  split_ifs
  · exact hp
  · exact h.core _ _ (h.perst _ hp)

/-- Every command but POWER_CYCLE answers a next state and keeps a closed property. -/
theorem exec_closed {P : State → Prop} (h : State.Closed P) (i : Instr) (s : State) (hp : P s) (hi : i ≠ .powerCycle) :
    ∃ t, exec i s = .next t ∧ P t := by
  cases i <;> first
    | exact act_closed h _ hp
    | exact regCmd_closed h _ _ _ hp
    | exact actDrone_closed h _ hp
    | exact regCmdS_closed h _ _ _ hp (fun _ => h.ack _ _)
    | exact regCmdS_closed h _ _ _ hp (fun _ => h.first _)
    | exact regCmdS_closed h _ _ _ hp (fun _ => h.clear _)
    | exact regCmdS_closed h _ _ _ hp (fun _ => h.sel _ _)
    | exact hdrCmd_closed h _ _ _ hp (fun _ _ => h.core _ _)
    | exact hdrCmd_closed h _ _ _ hp (fun k _ => h.unitReset k)
    | exact lockCmd_closed h _ _ _ hp
    | exact ⟨_, rfl, h.live hp (doFaultAccept_closed h _ hp)⟩
    | exact ⟨_, rfl, h.live hp (readAccess_closed h _ _ _ hp)⟩
    | exact ⟨_, rfl, h.live hp (accessSizeCmd_closed h _ _ _ _ _ hp)⟩
    | exact ⟨_, rfl, h.live hp (doPostedApply_closed h _ hp)⟩
    | exact ⟨_, rfl, h.live hp (doDbgAccess_closed h hp)⟩
    | exact ⟨_, rfl, h.after (doThermtrip_closed h _ _ hp)⟩
    | exact ⟨_, rfl, h.after (doFrzRead_closed h hp)⟩
    | exact ⟨_, rfl, h.after (doPerstDeassert_closed h _ hp)⟩
    | exact ⟨_, rfl, doPerst_closed h hp⟩
    | exact ⟨_, rfl, h.core _ _ hp⟩
    | exact absurd rfl hi

end Sys2Proof.Machine
end

