-- ==== Sys2Proof/Laws/Issue.lean ====
section
/-! SUPPORT. Laws/Issue.lean: what issuing an instruction or starting an action does, said once. -/

namespace Sys2Proof.Machine

/-- An instruction at the head of its Chanter has its effect, and the Chanter goes on past it. -/
theorem issue_does {s : State} {x op : Nat} {i : Image} {t : ChanterS} {ins : Nat}
    (f : Image → ChanterS → Nat → Core → Core) (h : s.runs) (ha : s.core.atOp x op = some (i, t, ins)) :
    act (fun c => c.issue x op f) s = s.does (fun c => (f i t ins c).modChanter x (fun t => t.advance ins)) := by
  refine act_does_of h ?_
  simp only [Core.issue, ha]

/-- Any other instruction at the head, or none, and nothing happens. -/
theorem issue_not {s : State} {x op : Nat} (f : Image → ChanterS → Nat → Core → Core) (h : s.runs)
    (ha : s.core.atOp x op = none) : act (fun c => c.issue x op f) s = s.does (fun c => c) := by
  refine act_does_of h ?_
  simp only [Core.issue, ha]

/-- An action at the head of its Chanter has its effect, the HBMS list that it names starts, and the Chanter goes on past it. -/
theorem action_does {s : State} {d kind : Nat} {i : Image} {t : ChanterS} {ins : Nat} {bs : List Byte}
    (f : Image → ChanterS → List Byte → Core → Core) (h : s.runs) (ha : s.core.atAction d kind = some (i, t, ins, bs)) :
    act (fun c => c.action d kind f) s =
      s.does (fun c => ((f i t bs c).listSlots i d t bs).modChanter d (fun t => t.advance ins)) := by
  refine act_does_of h ?_
  simp only [Core.action, ha]

/-- What the head of a Chanter holds: it runs, an image is loaded, and its instruction has the opcode asked for. -/
theorem Core.atOp_some {c : Core} {x op : Nat} {i : Image} {t : ChanterS} {ins : Nat} (h : c.atOp x op = some (i, t, ins)) :
    c.power.running = true ∧ (c.chanter x).st = .running ∧ c.img = some i ∧ t = c.chanter x ∧
      (i.prog x).at t.pc = some ins ∧ insOp ins = op := by
  unfold Core.atOp at h
  dsimp only at h
  by_cases hr : c.power.running = false ∨ (c.chanter x).st ≠ .running
  · rw [if_pos hr] at h; cases h
  · rw [if_neg hr] at h
    simp only [not_or, Bool.not_eq_false, ne_eq, not_not] at hr
    cases hi : c.img with
    | none => simp [hi] at h
    | some j =>
      rw [hi] at h
      cases hp : (j.prog x).at (c.chanter x).pc with
      | none => simp [hp] at h
      | some n =>
        simp only [hp] at h
        by_cases ho : insOp n = op
        · rw [if_pos ho] at h; cases h; exact ⟨hr.1, hr.2, rfl, rfl, hp, ho⟩
        · rw [if_neg ho] at h; cases h

end Sys2Proof.Machine
end

