-- ==== Sys2Proof/Laws/Lanes.lean ====
section
/-! SUPPORT. Laws/Lanes.lean: what the transitions of a lane touch: the lane itself, and of the registers none that configures it. -/

namespace Sys2Proof.Machine

variable (c : Core)

/-! ### The configuration of a lane is read from its page alone -/

@[simp] theorem Core.rd_modLane (n : Nat) (f : LaneS → LaneS) (k : PageKind) (o : Nat) : (c.modLane n f).rd k o = c.rd k o := rfl
@[simp] theorem Core.relayed_modLane (n m : Nat) (f : LaneS → LaneS) : (c.modLane n f).relayed m = c.relayed m := rfl
@[simp] theorem Core.txReturn_modLane (n m : Nat) (f : LaneS → LaneS) : (c.modLane n f).txReturn m = c.txReturn m := rfl
@[simp] theorem Core.ctrlLane_modLane (n m : Nat) (f : LaneS → LaneS) : (c.modLane n f).ctrlLane m = c.ctrlLane m := rfl
@[simp] theorem Core.bothWays_modLane (n m : Nat) (f : LaneS → LaneS) : (c.modLane n f).bothWays m = c.bothWays m := rfl
@[simp] theorem Core.maxStep_modLane (n m : Nat) (f : LaneS → LaneS) : (c.modLane n f).maxStep m = c.maxStep m := rfl
@[simp] theorem Core.txMode_modLane (n m : Nat) (f : LaneS → LaneS) : (c.modLane n f).txMode m = c.txMode m := rfl
@[simp] theorem Core.autoRetrain_modLane (n m : Nat) (f : LaneS → LaneS) : (c.modLane n f).autoRetrain m = c.autoRetrain m := rfl
@[simp] theorem Core.laneOn_modLane (n m : Nat) (f : LaneS → LaneS) : (c.modLane n f).laneOn m = c.laneOn m := rfl
@[simp] theorem Core.scanCfg_modLane (n m : Nat) (f : LaneS → LaneS) : (c.modLane n f).scanCfg m = c.scanCfg m := rfl
@[simp] theorem Core.ctrlOf_modLane (n m : Nat) (f : LaneS → LaneS) : (c.modLane n f).ctrlOf m = c.ctrlOf m := rfl
@[simp] theorem Core.relayOk_modLane (n m : Nat) (f : LaneS → LaneS) : (c.modLane n f).relayOk m = c.relayOk m := rfl
@[simp] theorem Core.route_modLane (n : Nat) (f : LaneS → LaneS) (k : PageKind) : (c.modLane n f).route k = c.route k := rfl

/-! ### Other lanes -/

theorem Core.lane_modLane_other {n m : Nat} (f : LaneS → LaneS) (h : m ≠ n) : (c.modLane n f).lane m = c.lane m := by
  rw [Core.lane_modLane, if_neg h]

@[simp] theorem Core.scanPart_lane (g m : Nat) : (c.scanPart g).lane m = c.lane m := rfl
@[simp] theorem Core.scanPart_pend (g : Nat) : (c.scanPart g).pend = c.pend := rfl

theorem Core.scanStop_other {n m : Nat} (h : m ≠ n) : (c.scanStop n).lane m = c.lane m := by
  unfold Core.scanStop; split
  · rfl
  · split_ifs <;> simp [Core.lane_modLane_other _ _ h]

theorem Core.scanStop_self (n : Nat) : (c.scanStop n).lane n = { c.lane n with scan := none } := by
  unfold Core.scanStop; split
  · next h => rw [← h]
  · split_ifs <;> simp

@[simp] theorem Core.scanStop_pend (n : Nat) : (c.scanStop n).pend = c.pend := by
  unfold Core.scanStop; split
  · rfl
  · split_ifs <;> simp

theorem Core.laneQuit_other {n m : Nat} (h : m ≠ n) : (c.laneQuit n).lane m = c.lane m := by
  unfold Core.laneQuit; rw [Core.lane_modLane_other _ _ h, Core.scanStop_other _ h]

/-- A lane that stops being UP keeps no scan and no recalibration (R55, R59). -/
theorem Core.laneQuit_self (n : Nat) :
    (c.laneQuit n).lane n = { c.lane n with scan := none, recalPending := false, ph := .none } := by
  unfold Core.laneQuit; rw [Core.lane_modLane_same, Core.scanStop_self]

@[simp] theorem Core.laneQuit_pend (n : Nat) : (c.laneQuit n).pend = c.pend := by unfold Core.laneQuit; simp

/-- A block reaches a lane that receives: `comma` is what its comma does to the lane (R34, R42). -/
theorem rxBlk_on {c : Core} {l : Nat} {packet : Bool} (f : Core → Core) (h : c.rxOn l = true) :
    rxBlk l packet f c = f (c.modLane l (fun x => x.comma packet)) := by
  unfold rxBlk Core.when
  rw [if_pos h]

theorem rxBlk_off {c : Core} {l : Nat} {packet : Bool} (f : Core → Core) (h : c.rxOn l = false) : rxBlk l packet f c = c := by
  unfold rxBlk Core.when
  rw [h]; rfl

/-- The page a lane's commands act on. -/
theorem lane_page (p : Part) (l : Lane) : pageAt p (PageKind.lane l.val).no = some (.lane l.val) := by
  have h := l.isLt
  show pageAt p (256 + l.val) = _
  unfold pageAt
  rw [if_neg, if_neg, if_neg, if_neg, if_neg, if_neg, if_neg, if_neg, if_neg, if_neg, if_neg, if_neg, if_neg, if_neg,
    if_neg, if_neg, if_neg, if_neg, if_neg, if_neg, if_neg, if_pos, Nat.add_sub_cancel_left]
  all_goals omega

end Sys2Proof.Machine
end

