-- ==== Sys2Proof/Laws/Line.lean ====
section
/-! SUPPORT. Laws/Line.lean: what a receiver takes out of the line code is what the transmitter put in. -/

namespace Sys2Proof.Machine

/-- Destuffing takes out every bit that stuffing put in, and meets no violation. -/
theorem destuffFrom_stuffFrom (bs : List Bool) : ∀ (last : Option Bool) (run : Nat), run < 24 →
    destuffFrom bs.length last run (stuffFrom last run bs) = .ok bs := by
  induction bs with
  | nil => intros; rfl
  | cons b bs ih =>
    intro last run hr
    rw [List.length_cons]
    by_cases h : (if last = some b then run + 1 else 1) = 24
    · rw [show stuffFrom last run (b :: bs) = b :: (!b) :: stuffFrom (some !b) 1 bs by simp only [stuffFrom]; rw [if_pos h]]
      rw [destuffFrom, if_neg (by omega), h]
      cases bs with
      | nil => simp [destuffFrom, Except.map]
      | cons d ds =>
        rw [List.length_cons, destuffFrom, if_pos rfl, if_neg (by simp)]
        have := ih (some !b) 1 (by omega)
        rw [List.length_cons] at this
        rw [this]; rfl
    · rw [show stuffFrom last run (b :: bs) = b :: stuffFrom (some b) (if last = some b then run + 1 else 1) bs by
        simp only [stuffFrom]; rw [if_neg h]]
      rw [destuffFrom, if_neg (by omega), ih _ _ (by split_ifs at h ⊢ <;> omega)]
      rfl

theorem destuff_stuff (bs : List Bool) : destuffFrom bs.length none 0 (stuff bs) = .ok bs :=
  destuffFrom_stuffFrom bs none 0 (by decide)

/-- The receiver finds a comma and the boundary 32 bits after its transition (R37). -/
theorem comma_packet (l : List Bool) : commaFrom false 0 (packetComma ++ l) = some (true, l) := by
  simp [commaFrom, packetComma, List.replicate]

theorem comma_ctrl (l : List Bool) : commaFrom false 0 (ctrlComma ++ l) = some (false, l) := by
  simp [commaFrom, ctrlComma, List.replicate]

/-- The additive scrambler is its own inverse. -/
theorem scramble_scramble (l : List Bool) : ∀ st, scramble st (scramble st l) = l := by
  induction l with
  | nil => intro; rfl
  | cons d ds ih =>
    intro st
    simp only [scramble, ih]
    congr 1
    cases d <;> cases st.testBit 30 <;> cases st.testBit 27 <;> rfl

theorem bitsByte_byteBits (b : Byte) : bitsByte (byteBits b) = b := by
  revert b
  decide +kernel

theorem byteBits_length (b : Byte) : (byteBits b).length = 8 := rfl

theorem serialBytes_serialBits (bs : List Byte) : serialBytes bs.length (serialBits bs) = bs := by
  induction bs with
  | nil => rfl
  | cons b bs ih =>
    have e : serialBits (b :: bs) = byteBits b ++ serialBits bs := rfl
    rw [e, List.length_cons, serialBytes, List.take_left' (byteBits_length b), List.drop_left' (byteBits_length b),
      bitsByte_byteBits, ih]

theorem serialBits_length (bs : List Byte) : (serialBits bs).length = 8 * bs.length := by
  induction bs with
  | nil => rfl
  | cons b bs ih =>
    have e : serialBits (b :: bs) = byteBits b ++ serialBits bs := rfl
    rw [e, List.length_append, byteBits_length, ih, List.length_cons]; omega

theorem scramble_length (l : List Bool) : ∀ st, (scramble st l).length = l.length := by
  induction l with
  | nil => intro; rfl
  | cons d ds ih => intro st; simp [scramble, ih]

theorem map_ne_false (l : List Bool) : l.map (· != false) = l := by
  induction l with
  | nil => rfl
  | cons b l ih => rw [List.map_cons, ih]; cases b <;> rfl

/-- A packet block as it leaves is received with the bits that were sent in it (R30, R34, R36 to R38). -/
theorem rxBlock_packet (lane k : Nat) (bs : List Byte) (h : bs.length = 8228) :
    rxBlock false (packetLine lane k bs) = some (true, .ok (scramble (packetSeed lane k) (serialBits bs))) := by
  have n : (scramble (packetSeed lane k) (serialBits bs)).length = 65824 := by rw [scramble_length, serialBits_length, h]
  have d := destuff_stuff (scramble (packetSeed lane k) (serialBits bs))
  rw [n] at d
  rw [rxBlock, map_ne_false, packetLine, comma_packet, Option.map_some]
  simp only [if_true, d]

theorem packetBytes_line (lane k : Nat) (bs : List Byte) (h : bs.length = 8228) :
    packetBytes lane k (scramble (packetSeed lane k) (serialBits bs)) = bs := by
  rw [packetBytes, scramble_scramble, ← h, serialBytes_serialBits]

/-- The same of a control block. -/
theorem rxBlock_ctrl (bs : List Byte) (h : bs.length = 64) :
    rxBlock false (ctrlLine bs) = some (false, .ok (scramble ctrlSeed (serialBits bs))) := by
  have n : (scramble ctrlSeed (serialBits bs)).length = 512 := by rw [scramble_length, serialBits_length, h]
  have d := destuff_stuff (scramble ctrlSeed (serialBits bs))
  rw [n] at d
  rw [rxBlock, map_ne_false, ctrlLine, comma_ctrl, Option.map_some]
  simp only [Bool.false_eq_true, if_false, d]

theorem ctrlBlockBytes_line (bs : List Byte) (h : bs.length = 64) :
    ctrlBlockBytes (scramble ctrlSeed (serialBits bs)) = bs := by
  rw [ctrlBlockBytes, scramble_scramble, ← h, serialBytes_serialBits]

theorem leBytes_length (n : Nat) : ∀ v, (leBytes n v).length = n := by
  induction n with
  | zero => intro; rfl
  | succ n ih => intro v; simp [leBytes, ih]

theorem leNat_leBytes (n : Nat) : ∀ v, v < 256 ^ n → leNat (leBytes n v) = v := by
  induction n with
  | zero => intro v h; simp at h; subst h; rfl
  | succ n ih =>
    intro v h
    have h' : v / 256 < 256 ^ n := by
      rw [Nat.div_lt_iff_lt_mul (by decide)]
      rwa [Nat.pow_succ] at h
    simp only [leBytes, leNat, ih _ h', BitVec.toNat_ofNat]
    omega

/-- A field behind `a.length` bytes. -/
theorem leAt_append (a b : List Byte) (n v : Nat) (h : v < 256 ^ n) : leAt (a ++ (leBytes n v ++ b)) a.length n = v := by
  rw [leAt, List.drop_left, List.take_left' (leBytes_length n v), leNat_leBytes n v h]

/-- A receiver finds the CRC that a transmitter appended (R31). -/
theorem leAt_withCrc (bs : List Byte) : leAt (withCrc bs) bs.length 4 = (crc32c bs).toNat := by
  have h := leAt_append bs [] 4 (crc32c bs).toNat (crc32c bs).isLt
  rwa [List.append_nil] at h

end Sys2Proof.Machine
end

