-- ==== Sys2Proof/Laws/Mem.lean ====
section
/-! SUPPORT. Laws/Mem.lean: reading after writing, and the canonical form, of every memory of the package. -/

namespace Sys2Proof.Machine

/-! ### One memory -/

theorem Mem.get_set (m : Mem) (a b : Nat) (v : Byte) : (m.set a v).get b = if b = a then v else m.get b := SMap.get_set ..

theorem Mem.wf_set {m : Mem} (a : Nat) (v : Byte) (h : m.wf = true) : (m.set a v).wf = true := SMap.wf_set a v h

theorem Mem.wf_put {m : Mem} (a : Nat) (bs : List Byte) (h : m.wf = true) : (m.put a bs).wf = true :=
  SMap.wf_setRun a bs h

theorem Mem.wf_empty (f : Fill) : Mem.wf { fill := f } = true := rfl

theorem Mem.read_length (m : Mem) (a n : Nat) : (m.read a n).length = n := SMap.getRun_length ..

/-- Reading a run gives each byte in turn. -/
theorem Mem.read_eq (m : Mem) (a n : Nat) (h : m.wf = true) :
    m.read a n = (List.range n).map (fun i => m.get (a + i)) := SMap.getRun_eq _ _ _ _ h

theorem SMap.get_append_left {α : Type} (d : Nat → α) (m n : SMap α) (k : Nat) (h : ∀ e ∈ n, e.1 ≠ k) :
    SMap.get d (m ++ n) k = SMap.get d m k := by
  induction m with
  | nil =>
    induction n with
    | nil => rfl
    | cons e n ih =>
      obtain ⟨j, v⟩ := e
      have hj : j ≠ k := h (j, v) (by simp)
      have := ih (fun e he => h e (by simp [he]))
      simpa [SMap.get, hj] using this
  | cons e m ih =>
    obtain ⟨j, v⟩ := e
    simp only [List.cons_append, SMap.get]
    split_ifs <;> simp [ih]

theorem SMap.get_append_right {α : Type} (d : Nat → α) (m n : SMap α) (k : Nat) (h : ∀ e ∈ m, e.1 ≠ k) :
    SMap.get d (m ++ n) k = SMap.get d n k := by
  induction m with
  | nil => rfl
  | cons e m ih =>
    obtain ⟨j, v⟩ := e
    have hj : j ≠ k := h (j, v) (by simp)
    simpa [SMap.get, hj] using ih (fun e he => h e (by simp [he]))

theorem SMap.get_filter_keep {α : Type} (d : Nat → α) (m : SMap α) (p : Nat → Bool) (k : Nat) (h : p k = true) :
    SMap.get d (m.filter (fun e => p e.1)) k = SMap.get d m k := by
  induction m with
  | nil => rfl
  | cons e m ih =>
    obtain ⟨j, v⟩ := e
    by_cases hj : j = k
    · subst hj; simp [SMap.get, h]
    · by_cases hp : p j = true
      · simp [SMap.get, hj, hp, ih]
      · simp [SMap.get, hj, hp, ih]

theorem SMap.get_blockOf {α : Type} [DecidableEq α] (d : Nat → α) (k : Nat) (vs : List α) (j : Nat) :
    SMap.get d (SMap.blockOf d k vs) j = if k ≤ j ∧ j < k + vs.length then (vs[j - k]?).getD (d j) else d j := by
  induction vs generalizing k with
  | nil => simp [SMap.blockOf]
  | cons v vs ih =>
    unfold SMap.blockOf
    by_cases hj : j = k
    · subst hj
      by_cases hv : v = d j
      · rw [if_pos hv, ih, if_neg (by omega)]; simp [hv]
      · rw [if_neg hv]; simp [SMap.get]
    · have e : (v :: vs)[j - k]? = if k < j then vs[j - (k + 1)]? else some v := by
        split_ifs with h
        · obtain ⟨i, rfl⟩ : ∃ i, j = k + 1 + i := ⟨j - (k + 1), by omega⟩
          simp [show k + 1 + i - k = i + 1 by omega]
        · simp [show j - k = 0 by omega]
      have g : SMap.get d (if v = d k then SMap.blockOf d (k + 1) vs else (k, v) :: SMap.blockOf d (k + 1) vs) j =
          SMap.get d (SMap.blockOf d (k + 1) vs) j := by
        split_ifs
        · rfl
        · simp [SMap.get, Ne.symm hj]
      rw [g, ih, e]
      by_cases h1 : k < j
      · simp only [List.length_cons, h1, if_true]
        by_cases h2 : j < k + 1 + vs.length
        · rw [if_pos ⟨by omega, h2⟩, if_pos ⟨by omega, by omega⟩]
        · rw [if_neg (fun h => h2 h.2), if_neg (fun h => h2 (by omega))]
      · rw [if_neg (fun h => h1 (by omega)), if_neg (fun h => h1 (by omega))]

/-- Reading after a run is written: the byte written, or the byte before. -/
theorem SMap.get_setRun {α : Type} [DecidableEq α] (d : Nat → α) (m : SMap α) (k : Nat) (vs : List α) (j : Nat) :
    SMap.get d (SMap.setRun d m k vs) j =
      if k ≤ j ∧ j < k + vs.length then (vs[j - k]?).getD (d j) else SMap.get d m j := by
  unfold SMap.setRun
  by_cases h1 : k ≤ j
  · rw [List.append_assoc, SMap.get_append_right]
    · by_cases h2 : j < k + vs.length
      · rw [SMap.get_append_left, SMap.get_blockOf]
        · simp [h1, h2]
        · intro e he
          have := (List.mem_filter.1 he).2
          simp at this
          omega
      · rw [SMap.get_append_right, if_neg (fun h => h2 h.2)]
        · exact SMap.get_filter_keep d m (fun i => decide (k + vs.length ≤ i)) j (by simp; omega)
        · intro e he
          have := SMap.mem_blockOf he
          omega
    · intro e he
      have := (List.mem_filter.1 he).2
      simp at this
      omega
  · rw [if_neg (fun h => h1 h.1), SMap.get_append_left, SMap.get_append_left]
    · exact SMap.get_filter_keep d m (fun i => decide (i < k)) j (by simp; omega)
    · intro e he
      have := SMap.mem_blockOf he
      omega
    · intro e he
      have := (List.mem_filter.1 he).2
      simp at this
      omega

/-- Every byte of a memory after a run of bytes is stored. -/
theorem Mem.get_put (m : Mem) (a : Nat) (bs : List Byte) (b : Nat) :
    (m.put a bs).get b = if a ≤ b ∧ b < a + bs.length then (bs[b - a]?).getD 0 else m.get b := by
  rw [show (m.put a bs).get b = SMap.get m.fill.byte (SMap.setRun m.fill.byte m.cells a bs) b from rfl, SMap.get_setRun]
  split_ifs with h
  · have hl : b - a < bs.length := by omega
    simp [List.getElem?_eq_getElem hl]
  · rfl

/-! ### IO-die SRAM -/

theorem IoSram.wf_region {s : IoSram} (h : s.wf = true) (a : Nat) : (s.region a).wf = true := by
  simp only [IoSram.wf, Bool.and_eq_true] at h
  unfold IoSram.region
  split_ifs <;> tauto

theorem IoSram.wf_setRegion {s : IoSram} (h : s.wf = true) (a : Nat) {m : Mem} (hm : m.wf = true) :
    (s.setRegion a m).wf = true := by
  simp only [IoSram.wf, Bool.and_eq_true] at h
  unfold IoSram.setRegion
  split_ifs <;> simp only [IoSram.wf, Bool.and_eq_true] <;> tauto

theorem IoSram.wf_set {s : IoSram} (a : Nat) (b : Byte) (h : s.wf = true) : (s.set a b).wf = true :=
  IoSram.wf_setRegion h a (Mem.wf_set a b (IoSram.wf_region h a))

/-- Writing IO-die SRAM keeps every region canonical. -/
theorem IoSram.wf_put {s : IoSram} (a : Nat) (bs : List Byte) (h : s.wf = true) : (s.put a bs).wf = true := by
  unfold IoSram.put
  generalize ioRegions = rs
  induction rs generalizing s with
  | nil => exact h
  | cons r rs ih =>
    rw [List.foldl_cons]
    refine ih ?_
    dsimp only
    split_ifs
    · exact IoSram.wf_setRegion h _ (Mem.wf_put _ _ (IoSram.wf_region h _))
    · exact h

/-! ### The memories of the package -/

theorem SMap.all_set {α : Type} [DecidableEq α] (d : Nat → α) (m : SMap α) (k : Nat) (v : α) (p : α → Bool)
    (h : m.all (fun e => p e.2) = true) (hv : p v = true) : (SMap.set d m k v).all (fun e => p e.2) = true := by
  rw [List.all_eq_true] at h ⊢
  intro e he
  unfold SMap.set at he
  split_ifs at he with hd
  · exact h e (List.mem_filter.1 he).1
  · rcases SMap.mem_insert he with rfl | he
    · exact hv
    · exact h e he

theorem SMap.get_all {α : Type} (d : Nat → α) (m : SMap α) (k : Nat) (p : α → Bool)
    (h : m.all (fun e => p e.2) = true) (hd : p (d k) = true) : p (SMap.get d m k) = true := by
  induction m with
  | nil => exact hd
  | cons e m ih =>
    obtain ⟨j, v⟩ := e
    simp only [List.all_cons, Bool.and_eq_true] at h
    simp only [SMap.get]
    split_ifs
    · exact h.1
    · exact ih h.2

theorem Core.memWf_iff (c : Core) : c.memWf = true ↔
    c.io.wf = true ∧ c.stacksOf.all (fun e => e.2.mem.wf) = true ∧ c.xdies.all (fun e => e.2.sram.wf && e.2.buf.all Mem.wf) = true := by
  simp [Core.memWf, Bool.and_eq_true, and_assoc]

/-- A core with the same memories. -/
theorem Core.memWf_congr {c c' : Core} (h1 : c'.io = c.io) (h2 : c'.stacksOf = c.stacksOf) (h3 : c'.xdies = c.xdies) :
    c'.memWf = c.memWf := by simp [Core.memWf, h1, h2, h3]

/-- Writing IO-die SRAM keeps every memory canonical. -/
theorem Core.memWf_ioPut {c : Core} (a : Nat) (bs : List Byte) (h : c.memWf = true) : (c.ioPut a bs).memWf = true := by
  rw [Core.memWf_iff] at h ⊢
  exact ⟨IoSram.wf_put a bs h.1, h.2⟩

theorem Core.stack_wf {c : Core} (h : c.memWf = true) (i : Nat) : (c.stack i).mem.wf = true :=
  SMap.get_all (fun _ => ({} : StackS)) c.stacksOf i (fun s : StackS => s.mem.wf) ((Core.memWf_iff c).1 h).2.1 rfl

theorem Core.memWf_modStack {c : Core} (i : Nat) (f : StackS → StackS) (h : c.memWf = true)
    (hf : (f (c.stack i)).mem.wf = true) : (c.modStack i f).memWf = true := by
  have h' := (Core.memWf_iff c).1 h
  rw [Core.memWf_iff]
  exact ⟨h'.1, SMap.all_set (fun _ => ({} : StackS)) c.stacksOf i (f (c.stack i)) (fun s : StackS => s.mem.wf) h'.2.1 hf, h'.2.2⟩

theorem Core.memWf_hbmSet {c : Core} (d a : Nat) (b : Byte) (h : c.memWf = true) : (c.hbmSet d a b).memWf = true :=
  Core.memWf_modStack _ _ h (Mem.wf_set _ _ (Core.stack_wf h _))

theorem Core.memWf_hbmPutGo (n : Nat) {c : Core} (d a : Nat) (bs : List Byte) (h : c.memWf = true) :
    (Core.hbmPutGo n c d a bs).memWf = true := by
  induction n generalizing c a bs with
  | zero => exact h
  | succ n ih =>
    unfold Core.hbmPutGo
    dsimp only
    split_ifs
    · exact h
    · exact ih _ _ (Core.memWf_modStack _ _ h (Mem.wf_put _ _ (Core.stack_wf h _)))

/-- Writing die HBM keeps every memory canonical. -/
theorem Core.memWf_hbmPut {c : Core} (d a : Nat) (bs : List Byte) (h : c.memWf = true) : (c.hbmPut d a bs).memWf = true :=
  Core.memWf_hbmPutGo _ d a bs h

theorem Core.memWf_symClear {c : Core} (d a n : Nat) (h : c.memWf = true) : (c.symClear d a n).memWf = true := by
  unfold Core.symClear
  generalize List.range (n / 16 + 2) = is
  induction is generalizing c with
  | nil => exact h
  | cons i is ih =>
    rw [List.foldl_cons]
    refine ih ?_
    dsimp only
    split_ifs
    · exact Core.memWf_modStack _ _ h (Core.stack_wf h _)
    · exact h

theorem Core.memWf_hbmWrite {c : Core} (d a : Nat) (bs : List Byte) (h : c.memWf = true) :
    (c.hbmWrite d a bs).memWf = true := Core.memWf_symClear _ _ _ (Core.memWf_hbmPut d a bs h)

theorem Core.xdie_wf {c : Core} (h : c.memWf = true) (d : Nat) :
    ((c.xdie d).sram.wf && (c.xdie d).buf.all Mem.wf) = true :=
  SMap.get_all (fun _ => ({} : XDieS)) c.xdies d (fun x : XDieS => x.sram.wf && x.buf.all Mem.wf) ((Core.memWf_iff c).1 h).2.2 rfl

theorem Core.memWf_modX {c : Core} (d : Nat) (f : XDieS → XDieS) (h : c.memWf = true)
    (hf : ((f (c.xdie d)).sram.wf && (f (c.xdie d)).buf.all Mem.wf) = true) : (c.modX d f).memWf = true := by
  have h' := (Core.memWf_iff c).1 h
  rw [Core.memWf_iff]
  exact ⟨h'.1, h'.2.1, SMap.all_set (fun _ => ({} : XDieS)) c.xdies d (f (c.xdie d)) (fun x : XDieS => x.sram.wf && x.buf.all Mem.wf) h'.2.2 hf⟩

/-- After reset every memory lists nothing. -/
theorem State.reset_memWf : State.reset.core.memWf = true := by decide

end Sys2Proof.Machine
end

