-- ==== Sys2Proof/Laws/Packet.lean ====
section
/-! SUPPORT. Laws/Packet.lean: what a received packet block can do, said once (R37 to R39, R67). -/

namespace Sys2Proof.Machine

/-- A whole packet block counts its comma, and goes on to ingest on a lane that is UP and not below its step. -/
theorem packet_received (l : Nat) (line raw : List Bool) (c : Core) (hon : c.rxOn l = true)
    (h : rxBlock (c.lane l).pol line = some (true, .ok raw)) :
    doPacket l line c =
      if (c.lane l).st = .up ∧ c.belowStep l = false ∧ c.domOn 36 = true
      then (c.modLane l (fun x => x.comma true)).packetIn l (packetBytes l ((c.lane l).rxK + 1) raw)
      else c.modLane l (fun x => x.comma true) := by
  have a : ((c.modLane l (fun x => x.comma true)).lane l).st = (c.lane l).st := by
    rw [Core.lane_modLane, if_pos rfl]; simp [LaneS.comma]
  have b : (c.modLane l (fun x => x.comma true)).belowStep l = c.belowStep l := by
    unfold Core.belowStep; rw [Core.lane_modLane, if_pos rfl]; rfl
  have d : (c.modLane l (fun x => x.comma true)).domOn 36 = c.domOn 36 := rfl
  unfold doPacket
  simp only [h, rxBlk, hon, Core.when, if_true, a, b, d]

/-- A packet block broken off is counted by what discards it. -/
theorem packet_broken (l : Nat) (line : List Bool) (e : BlockErr) (c : Core) (hon : c.rxOn l = true)
    (h : rxBlock (c.lane l).pol line = some (true, .error e)) :
    doPacket l line c = (c.modLane l (fun x => x.comma true)).inc (.lane l) e.cnt := by
  unfold doPacket
  simp only [h, rxBad, rxBlk, hon, Core.when, if_true]

/-- A lane that does not receive, and bits that are no packet block, change nothing. -/
theorem packet_ignored (l : Nat) (line : List Bool) (c : Core)
    (h : c.rxOn l = false ∨ rxBlock (c.lane l).pol line = none ∨ ∃ e, rxBlock (c.lane l).pol line = some (false, e)) :
    doPacket l line c = c := by
  unfold doPacket
  rcases h with h | h | ⟨e, h⟩
  · split <;> simp [rxBad, rxBlk, h, Core.when]
  · simp only [h]
  · simp only [h]

end Sys2Proof.Machine
end

