-- ==== Sys2Proof/Laws/Time.lean ====
section
/-! SUPPORT. Laws/Time.lean: what the changes of the timing unit do: a DPLL state, a reference, the choice of the active one. -/

namespace Sys2Proof.Machine

variable (c : Core)

@[simp] theorem TimeS.pull_fields (t : TimeS) (b : Bool) : (t.pull b).dpll = t.dpll ∧ (t.pull b).refs = t.refs ∧
    (t.pull b).active = t.active ∧ (t.pull b).tc = t.tc ∧ (t.pull b).pulling = b ∧ (t.pull b).oscOk = t.oscOk :=
  ⟨rfl, rfl, rfl, rfl, rfl, rfl⟩

@[simp] theorem Core.modTime_time (f : TimeS → TimeS) : (c.modTime f).time = f c.time := rfl

/-- A change of the DPLL's state keeps the references, the choice and TC. -/
@[simp] theorem Core.setDpll_time (st : DpllSt) : (c.setDpll st).time.dpll = st ∧ (c.setDpll st).time.refs = c.time.refs ∧
    (c.setDpll st).time.active = c.time.active ∧ (c.setDpll st).time.tc = c.time.tc ∧
    (c.setDpll st).time.oscOk = c.time.oscOk ∧ (c.setDpll st).time.acqFrom = c.time.acqFrom := by
  unfold Core.setDpll
  split_ifs with h
  · simp [h]
  · cases st <;> simp

theorem Core.selectRef_refs : c.selectRef.time.refs = c.time.refs := by
  unfold Core.selectRef
  dsimp only
  split
  · split_ifs <;> simp
  · cases c.time.dpll <;> simp
  · cases c.time.dpll <;> simp
  · rfl

theorem Core.ref_setRef (n m : Nat) (r : RefS) (hl : c.time.refs.length = 4) (hn : n < 4) :
    (c.modTime (fun t => { t with refs := t.refs.set n r })).ref m = if m = n then r else c.ref m := by
  unfold Core.ref Core.modTime nth
  dsimp only
  by_cases h : m = n
  · subst h; rw [if_pos rfl]; simp [hl, hn]
  · rw [if_neg h]; simp [Ne.symm h]

/-- A change of reference `n` is a change of `n` alone. -/
theorem Core.modRef_ref (n m : Nat) (f : RefS → RefS) (hl : c.time.refs.length = 4) (hn : n < 4) :
    (c.modRef n f).ref m = if m = n then f (c.ref n) else c.ref m := by
  rw [← Core.ref_setRef c n m (f (c.ref n)) hl hn]
  unfold Core.modRef
  dsimp only
  split_ifs
  · unfold Core.ref; rw [Core.raise_time]
  · rfl

theorem Core.modRef_length (n : Nat) (f : RefS → RefS) : (c.modRef n f).time.refs.length = c.time.refs.length := by
  unfold Core.modRef
  dsimp only
  split_ifs <;> simp

theorem Core.modRef_active (n : Nat) (f : RefS → RefS) : (c.modRef n f).time.active = c.time.active := by
  unfold Core.modRef
  dsimp only
  split_ifs <;> simp

/-- A change that leaves the eligibility raises nothing. -/
theorem Core.modRef_quiet (n : Nat) (f : RefS → RefS) (h : ∀ r, (f r).eligible = r.eligible) :
    c.modRef n f = c.modTime (fun t => { t with refs := t.refs.set n (f (c.ref n)) }) := by
  unfold Core.modRef
  dsimp only
  rw [if_neg]
  rw [h]
  rintro ⟨a, b⟩
  rw [a] at b
  cases b

end Sys2Proof.Machine
end

