-- ==== Sys2Proof/Tests/Slice0.lean ====
section
/-! SUPPORT. Tests/Slice0.lean: the WellFormed smoke, for each statement a witness that its hypotheses can be met, clause by
clause, and values worked out by hand from the spec. -/

namespace Sys2Proof.Machine.Test

/-! ### Small devices -/

/-- PERST_N deasserted, the link up, every domain on and ready, in mode `m`. -/
def up (m : Mode) : Core :=
  let c := State.reset.core
  { c with perst := false
           power := { c.power with mode := m, on := 2 ^ 178 - 1, ready := 2 ^ 178 - 1 }
           host := { c.host with linkUp := true } }

def st (c : Core) : State := { core := c }

/-- The device in IDLE. -/
def idle : State := st (up .idle)

/-- A schedule runs, with no asynchronous window open. -/
def shut : Core :=
  let c := up .correlate
  { c with img := some {}, imgSt := 3, power := { c.power with running := true } }

/-- A schedule runs, with the windows of every class open on the IO die and on X die 0. -/
def run : Core := { shut with chanters := [(0, { win := some (63, 100) }), (4, { win := some (63, 100) })] }

/-- Lane `n` in state `x`. -/
def lane (n : Nat) (x : LaneS) (c : Core) : Core := c.setLane n x

/-- A command waits at the front of ring 1. -/
def ringd (op len arg0 arg1 : Nat) (c : Core) : Core :=
  c.setRing 1 { role := 1, descs := [{ n := 0, op := op, gen := 0, dflags := 0, tag := 0, addr := 0, len := len, arg0 := arg0, arg1 := arg1 }] }

/-- The descriptor of `ringd`. -/
def dsc (op len arg0 arg1 : Nat) : Desc :=
  { n := 0, op := op, gen := 0, dflags := 0, tag := 0, addr := 0, len := len, arg0 := arg0, arg1 := arg1 }

/-- Image `i` runs, and every Chanter stands at instruction 0. -/
def prog (i : Image) (t : ChanterS) : Core := { shut with img := some i, chanters := [(0, t), (4, t)] }

/-- An image whose programs are one instruction. -/
def ins (n : Nat) : Image := { progs := List.replicate 5 { instrs := [n] } }


/-! ### WellFormed: an ill-formed term for each check -/

/-- Tables 4.2, 13.5, 15.6, 15.14 and R43: the bytes a command fetches from host memory have their length. -/
theorem test_wf_host_memory :
    let z : Nat → Option (List Byte) := fun n => some (List.replicate n 0)
    [Instr.descriptorFetch 0 (z 31), .delaySeg 0 (z 47), .slide 0 (z 33), .hostMsg 0 (z 51), .dma 0 (z 63)].all (fun i => !i.wf) = true ∧
    [Instr.descriptorFetch 0 (z 32), .delaySeg 0 none, .slide 0 (z 32), .hostMsg 0 (z 52), .dma 0 (z 64)].all (fun i => i.wf) = true := by simp [Instr.wf, optLen]

/-- R392, R435, Table 12.14: a token is 224 B, a poll reads 8 sensors and a junction read 40, and the masters and targets are 13 and 27. -/
theorem test_wf_operands :
    (Instr.unlock (List.replicate 223 0)).wf = false ∧ (Instr.unlock (List.replicate 224 0)).wf = true ∧
    (Instr.bxbAgePromote 13 0).wf = false ∧ (Instr.bxbAgePromote 0 27).wf = false ∧ (Instr.bxbAgePromote 12 26).wf = true ∧
    (Instr.tjRead (List.replicate 39 0)).wf = false ∧ (Instr.tjRead (List.replicate 40 0)).wf = true ∧
    (Instr.i2cSensorPoll (List.replicate 7 none)).wf = false ∧ (Instr.i2cSensorPoll (List.replicate 8 none)).wf = true := by simp only [Instr.wf, List.length_replicate]; decide

/-! ### Witnesses: the queue, reset and whole-machine rules -/

theorem witness_StepRunsFront :
    ({ idle with pending := [.idcode, .challenge] } : State).pending = .idcode :: [.challenge] := by
  decide

theorem witness_IdleStepIsATick :
    idle.pending = [] ∧ State.reset.pending = [] := by
  decide

theorem witness_EveryCommandAnswersInFrame :
    ∃ t, exec .powerCycle { idle with col := { latch := true } } = .next t ∧ t.col ≠ { latch := true } := ⟨_, rfl, by decide⟩

/-- At the bound: 32 entries and a Fatal record under the latch. -/
theorem witness_CollectorBoundsKept :
    let s : State := { idle with col := { latch := true, fatal := some {}, hist := List.replicate 32 {} } }
    s.col.ok = true ∧ ∃ t, step s = .next t := ⟨by decide, _, rfl⟩

theorem witness_FatalLatchHolds :
    let s : State := { idle with col := { latch := true } }
    s.col.latch = true ∧ (∃ t, step s = .next t) ∧ s.pending.head? ≠ some .powerCycle := ⟨rfl, ⟨_, rfl⟩, by decide⟩

theorem witness_FreezeHoldsAllState :
    let s : State := st { up .idle with dbg := { frozen := true } }
    s.core.dbg.frozen = true ∧ runsInFreeze (.recal 0) = false ∧ runsInFreeze .reqStop = false := by
  decide

theorem witness_HostWritesWaitTheirTurn :
    let s := st shut
    let t := st { up .idle with posted := [(4, .recal 0)] }
    let u := st ((up .idle).setLock 3 { owner := some 1 })
    s.runs ∧ pageAt s.core.part 256 = some (.lane 0) ∧ s.core.power.mode ≠ .shelved ∧ s.core.host.d3 = none ∧
    s.core.winOpen 4 32 = false ∧ s.core.winOpen (PageKind.lane 0).chip 32 = false ∧
    t.runs ∧ t.core.posted.any (fun p => p.1.val == (PageKind.lane 0).chip) = true ∧
    u.runs ∧ u.core.lockedOut (.lane 0) 0 = true ∧
    State.reset.runs ∧ State.reset.core.power.mode = .shelved ∧
    t.core.winOpen 4 32 = true ∧ t.core.host.d3 = none ∧ t.core.lockedOut (.lane 0) 0 = false ∧ t.core.acts (.lane 0) = true ∧
    t.core.debugFirst (.lane 0) = false ∧ 0x0A0 ∈ (PageKind.time 0).loOffs ∧ 0x0A0 % 8 = 0 ∧ 0xFFC % 4 = 0 := by
  unfold State.runs
  decide

/-- Flow control holds an access; the debug port at level 3 goes before the host at level 2. -/
theorem witness_HostWritesWaitTheirTurn_flow :
    let h := { up .idle with host := { (up .idle).host with heldQ := [(4, .recal 0)] } }
    let d := { (up .idle).wr .cxb 0x040 0x32 with dbg := { req := some 0 } }
    (st h).runs ∧ h.host.heldQ.isEmpty = false ∧ h.host.heldQ ≠ [] ∧ (st d).runs ∧ d.debugFirst .glb = true ∧
    (up .idle).host.heldQ = [] := by
  unfold State.runs
  decide

theorem witness_HostWritesWaitTheirTurn_full :
    ∀ n, ({ up .idle with posted := List.replicate n (4, .recal 0) } : Core).postedN 4 = n := by intro n; simp [Core.postedN, List.filter_replicate]

/-- First and last offset of a page, a ring's first and last staged register, and the masters that write. -/
theorem witness_RegisterWrites :
    let s := idle
    s.serves .ingest ∧ (32 : Nat) = PageKind.ingest.no ∧ PageKind.ingest.ownRow 0x020 = false ∧ PageKind.ingest.ownRow 0xFFC = false ∧
    s.serves .ring ∧ (68 : Nat) = PageKind.ring.no ∧ s.serves .bxb ∧ (73 : Nat) = PageKind.bxb.no ∧ s.serves .plant ∧
    (3 : Nat) = PageKind.plant.no ∧ s.servesHdr 32 .ingest ∧ s.core.debugOpenFor 0 = true ∧ s.core.winOpen 4 37 = true ∧
    s.core.lockedOut .ingest 1 = false ∧ s.core.lockedOut .ingest 3 = false ∧ pageAt s.core.part 32 = some .ingest ∧
    s.core.debugServed .ingest = true ∧ (st shut).core.debugServed .ingest = false ∧ (st shut).runs ∧
    ({ up .idle with otp := { debugLock := true } } : Core).debugOpenFor 0 = false := by
  unfold State.serves State.servesHdr State.runs
  decide

/-- Pages with rows of their own, the two TIME pages that follow a write, and a doorbell page. -/
theorem witness_RegisterWrites_rows :
    let c := up .idle
    let o := c.modTime (fun t => { t with oscOk := true })
    let e := c.wr (.time 1) 0x0A0 1
    let l := (c.wr (.time 1) 0x040 1).modTime (fun t => { t with dpll := .locked, active := some 0 })
    idle.serves (.time 0) ∧ idle.serves (.time 1) ∧ (PageKind.time 0).ownRow 0x044 = false ∧ (PageKind.time 1).ownRow 0x044 = false ∧
    PageKind.plant.ownRow 0x044 = false ∧ PageKind.ring.ownRow 0x040 = false ∧ PageKind.ring.ownRow 0x05C = false ∧
    PageKind.bxb.ownRow 0x040 = false ∧ (PageKind.lgrp 0).ownRow 0x040 = true ∧ idle.serves (.lgrp 0) ∧ idle.servesHdr 2048 (.doorbell 0) ∧
    o.oscEn = false ∧ o.time.oscOk = true ∧ (o.wr (.time 0) 0x044 1).oscEn = true ∧ c.time.oscOk = false ∧
    e.refEn 3 = true ∧ c.refEn 3 = false ∧ (∀ n, n < 4 → c.refEn n = false) ∧ c.time.dpll ≠ .locked ∧
    (∀ m, m < 4 → (e.refEn m = true ∧ c.refEn m = false ↔ m = 3)) ∧
    l.time.dpll = .locked ∧ l.time.active.any (fun n => (l.wr (.time 1) 0x044 5).refDelay n != l.refDelay n) = true := by
  unfold State.serves State.servesHdr State.runs
  decide

theorem witness_ReadsAnswer :
    let s := idle
    let n := st ((up .idle).setLock 0 { owner := some 0 })
    s.runs ∧ pageAt s.core.part 0 = some .glb ∧ s.core.route .glb = .serve ∧ s.core.debugOpenFor 0 = true ∧ s.core.debugServed .glb = true ∧
    s.core.lockedOut .glb 3 = false ∧ (st shut).runs ∧ pageAt shut.part 0 = some .glb ∧ shut.debugOpenFor 0 = true ∧ shut.debugServed .glb = false ∧
    s.core.power.mode ≠ .inspect ∧ s.core.pageReady (.insp 15) = true ∧ (up .inspect).power.mode = .inspect ∧
    State.reset.core.pageReady .ingest = false ∧ 0x00C % 4 = 0 ∧ n.runs := by
  unfold State.runs
  decide

/-- Pages 5 and 4 095 are unmapped, as 2 052 is, the page after the doorbells; 8 B at a `_LO` register is no error, at 0x044 it is. -/
theorem witness_RefusedAccesses :
    let s := idle
    (PageKind.time 0).loOffs ≠ [] ∧ s.core.route (.time 0) = .serve ∧ ¬ ((2 : Nat) = 4 ∨ (2 : Nat) = 8) ∧
    s.runs ∧ pageAt s.core.part 5 = none ∧ pageAt s.core.part 4095 = none ∧ pageAt s.core.part 2052 = none ∧ Master.pcie ≠ .setr ∧
    (∃ o, o ∈ (PageKind.time 0).loOffs ∧ o % 8 = 0) ∧ pageAt s.core.part 8 = some (.time 0) := by
  unfold State.runs
  refine ⟨by decide, by decide, by decide, by decide, by decide, by decide, by decide, by decide, ?_, by decide⟩
  exact ⟨((PageKind.time 0).loOffs.filter (fun o => o % 8 == 0)).headD 0, by decide, by decide⟩

theorem witness_PageInterrupts :
    let s := idle
    let c := (up .idle).wr .ingest 0x008 1
    let e := (c.wr .ingest 0x008 5).wr .ingest 0x014 1
    let f := st { up .idle with host := { (up .idle).host with pbits := [2047] } }
    s.servesHdr 32 .ingest ∧ e.irqOn .ingest = true ∧ e.irqY .ingest = 0 ∧ (e.wr .ingest 0x010 (e.rd .ingest 0x010 ||| 2 ^ 0)).irqY .ingest ≠ 0 ∧
    ¬ (c.irqOn .ingest = true ∧ c.irqY .ingest = 0 ∧ (c.wr .ingest 0x010 (c.rd .ingest 0x010 ||| 2 ^ 0)).irqY .ingest ≠ 0) ∧
    f.runs ∧ 2047 ∈ f.core.host.pbits ∧ 0 ∉ f.core.host.pbits := by
  unfold State.servesHdr State.runs
  decide

theorem witness_PageInterrupts_masked :
    2047 ∈ (up .idle).host.mask ∧ (up .idle).host.fmask = false ∧ (up .idle).host.linkUp = true := by simp [up, State.reset]

/-- BAR4: the last vector's control word, the first pending word, and the word past the table. -/
theorem witness_PageInterrupts_table :
    let c : Core := { up .idle with host := { (up .idle).host with mask := [], fmask := true } }
    let d : Core := { up .idle with host := { (up .idle).host with mask := [], linkUp := false } }
    c.host.fmask = true ∧ d.host.fmask = false ∧ 2047 ∉ d.host.mask ∧ d.host.linkUp = false ∧
    ({ d with host := { d.host with linkUp := true } } : Core).host.linkUp = true ∧ 8191 % 4 = 3 ∧ 8188 % 4 ≠ 3 ∧ 8191 < 8192 ∧ 8192 < 8256 ∧
    (1 : Word).toNat.testBit 0 = true ∧ (0 : Word).toNat.testBit 0 = false ∧ idle.runs := by
  unfold State.runs
  decide

theorem witness_UnitResetOfAPage :
    let s := idle
    let t := st run
    s.servesHdr 32 .ingest ∧ PageKind.ingest.no = 32 ∧ s.core.running = false ∧ SMap.wf regReset s.core.regs = true ∧
    t.servesHdr 32 .ingest ∧ t.core.running = true ∧ s.servesHdr 9 (.time 1) ∧ PageKind.ingest ≠ .time 0 := by
  unfold State.servesHdr State.runs
  decide

/-- Groups 0 and 10, the last of a part with four dies; an access before the last and the last of MAX_ACC. -/
theorem witness_LocksAndAge :
    let c := up .idle
    let lk : LockS → Core := fun l => c.setLock 10 l
    c.maxAcc = 64 ∧
    idle.serves .cxb ∧ (10 : Nat) < 7 + c.part.dies ∧ (c.lock 0).owner = none ∧ (st (lk { owner := some 1 })).serves .cxb ∧
    ((lk { owner := some 1 }).lock 10).owner = some 1 ∧ 0 ∉ ((lk { owner := some 1 }).lock 10).wait ∧
    ((lk { owner := some 0 }).lock 10).owner = some 0 ∧ (st (lk { owner := some 0 })).serves .cxb ∧
    ((lk { owner := some 0, wait := [3, 1] }).lock 10).wait ≠ [] ∧ (∀ m ∈ ((lk { owner := some 0, wait := [3, 1] }).lock 10).wait, m < 4) ∧
    (PageKind.xdie 3).lockable = true ∧ (PageKind.xdie 3).group = 10 ∧
    ((lk { owner := some 2, acc := 62 }).lock 10).acc + 1 < (lk { owner := some 2, acc := 62 }).maxAcc ∧
    (lk { owner := some 2, acc := 63 }).maxAcc ≤ ((lk { owner := some 2, acc := 63 }).lock 10).acc + 1 ∧
    (c.wr .cxb 0x040 1).cxbLevel 0 0 ≤ 1 ∧ 1 < (c.wr .cxb 0x040 2).cxbLevel 0 0 ∧ c.acts .cxb = true ∧ c.debugOpenFor 0 = true ∧
    c.winOpen 4 37 = true ∧ (lk { owner := some 1 }).maxAcc = 64 ∧ ((lk { owner := some 1 }).lock 10).owner = some (masterCode .debug) ∧
    ((lk { owner := some 1 }).lock 10).owner ≠ some 0 := by
  unfold State.serves State.runs
  decide

/-- Table 16.4: at reset the last master asks at level 1, the first at level 3. -/
theorem witness_LocksAndAge_bulk :
    let c := up .idle
    let a : Core := { c with host := { c.host with cxbAged := [(0, 10)], bxbAged := [(12, 26)] } }
    idle.runs ∧ c.burstLevel 12 26 ≤ 1 ∧ 1 < c.burstLevel 0 0 ∧ (0, 10) ∈ a.host.cxbAged ∧ (12, 26) ∈ a.host.bxbAged ∧
    (0, 0) ∉ a.host.cxbAged ∧ (0, 0) ∉ a.host.bxbAged := by
  unfold State.runs
  decide

theorem witness_CountersAreCleared :
    ∀ k ∈ [PageKind.lane 255, .fst 7, .zoom 1, .crook, .dmag, .pciex, .ring, .cxb, .bxb, .mode, .plant, .therm, .flt, .time 0, .ingest, .fst 0, .cells 3, .clu 3 23, .xdie 3, .bsl 3 1, .red 3, .hbm 3 1,
      chanterPage 4, chanterPage 0], idle.runs ∧ pageAt idle.core.part k.no = some k ∧ idle.core.route k = .serve ∧ idle.core.acts k = true := by
  unfold State.runs
  decide

/-- Every page of these commands is served in IDLE (witness_CountersAreCleared says it of those with counters); the conditions on
the state, each met in one. -/
theorem witness_RegisterCommandsComplete :
    let c := up .idle
    let tr : Core := { up .bringup with stacksOf := (List.range 8).map (fun n => (n, { st := .trained })) }
    let one : LaneS := { st := .up, settings := true }
    let l : Core := lane 255 one (c.wr (.lane 255) 0x050 1)
    let cal : Core := { up .calibrate with img := some {}, chan := { cal := some {} } }
    idle.servesHdr 32 .ingest ∧ (c.lockAccess .ingest 0).irqOn .ingest = false ∧ (st l).serves (.lane 255) ∧ (l.lane 255).st = .up ∧
    (l.lane 255).settings = true ∧ (l.lane 255).recalPending = false ∧ (l.lane 255).scan = none ∧ bits (l.scanCfg 255) 1 0 ≠ 0 ∧
    (l.lane 255).ph ∉ [LanePh.recalAdapt, .recalAlign, .recalScan] ∧ idle.serves (.lgrp 15) ∧ c.running = false ∧
    (st cal).serves (.fst 0) ∧ cal.chan.cal ≠ none ∧ tr.power.mode = .bringup ∧ (st tr).serves .mode ∧
    (∀ n, n < 8 → tr.stackUp n = true ∧ (tr.stack n).rate = 0) ∧ (st run).serves .mode ∧ run.power.mode.isSchedule = true ∧
    run.power.forced = false ∧ c.power.phase = .steady ∧ c.power.mode = .idle := by
  unfold State.serves State.servesHdr State.runs
  decide

/-- DMA channel 63, INSPECT aperture 15, group 10 and ring 0's doorbell; a start needs an image whose checks hold, some kilobytes. -/
theorem witness_RegisterCommandsComplete_pages :
    let c := up .idle
    let j : Job := { ring := 1, n := 0, tag := 0, irq := false, purpose := .host, srcSp := 5, dstSp := 0, len := 8, src := 0, dst := 0 }
    let d := c.modDma 63 (fun y => { y with job := some j })
    let h : Core := { up .inspect with chanters := [(0, { st := .held })] }
    (st d).serves (.dma 63) ∧ (d.dma 63).job = some j ∧ (d.dma 63).readback = false ∧ j.pend = 0 ∧ j.done = 0 ∧
    (st h).serves (.insp 15) ∧ (h.inspAt 15).run = false ∧ h.power.mode = .inspect ∧ 0 < h.part.dies ∧ (h.chanter 0).st = .held ∧
    (st h).serves (.xchn 3) := by
  unfold State.serves State.runs
  decide

theorem witness_RegisterCommandsComplete_levels :
    let c := up .idle
    idle.serves .cxb ∧ (10 : Nat) < 7 + c.part.dies ∧ (c.lock 10).owner = none ∧ c.ringActive 0 = true ∧
    idle.serves (.hbm 3 1) ∧ c.powered (.hbm 3 1) = true ∧ c.hbmMode = true ∧ (c.stack 7).st ≠ .training ∧ (c.stack 7).st ≠ .selfRefresh ∧
    ((c.modStack 7 (fun x => { x with st := .trained })).stack 7).st = .trained ∧ idle.serves .rst ∧ idle.serves .dbg ∧
    idle.serves (.time 0) ∧ idle.serves (.time 1) ∧ c.img = none ∧ c.refEn 3 = false := by
  unfold State.serves State.runs
  decide

/-! ### Witnesses: lanes -/

/-- Lanes 0 and 255; every branch of the commands, and a LANE_EN write in each state of the group's domain. -/
theorem witness_LaneAndEnableCommands :
    let s (l : Nat) (x : LaneS) : State := st (lane l x (up .idle))
    (∀ l ∈ [0, 255], ∀ x ∈ [({} : LaneS), { settings := true }, { recalPending := true }, { ph := .recalScan }, { st := .up },
      { st := .up, scan := some .command }, { scan := some .recal, ph := .recalScan }, { scan := some .enterUp }], (s l x).runs ∧
        pageAt (s l x).core.part (PageKind.lane l).no = some (.lane l) ∧ (s l x).core.route (.lane l) = .serve ∧
        (s l x).core.acts (.lane l) = true ∧ ((s l x).core.lane l).st = x.st ∧ ((s l x).core.lane l).ph = x.ph) := by
  unfold State.runs
  decide

theorem witness_LaneAndEnableCommands_scan :
    let cfg (v : Nat) (x : LaneS) : State := st (lane 0 x ((up .idle).wr (.lane 0) 0x050 v))
    (cfg 2 { st := .up }).serves (.lane 0) ∧ bits ((cfg 2 { st := .up }).core.scanCfg 0) 1 0 = 2 ∧
    bits ((cfg 0 { st := .up }).core.scanCfg 0) 1 0 = 0 ∧ (cfg 0 { st := .up }).core.tableBusy 0 = false ∧
    (st (lane 1 { scan := some .command, scanMode := 0 } (cfg 0 { st := .up }).core)).core.tableBusy 0 = true := by
  unfold State.serves State.runs
  decide

theorem witness_LaneAndEnableCommands_group :
    let off : Core := { up .idle with power := { (up .idle).power with on := 0 } }
    let gone := (up .idle).wr (.lgrp 0) 0x008 0
    idle.core.route (.lgrp 15) = .serve ∧ (idle.core.lock 3).owner ≠ some 0 ∧ idle.core.powered (.lgrp 15) = true ∧
    idle.core.acts (.lgrp 15) = true ∧ idle.core.running = false ∧
    (st run).runs ∧ (st run).core.route (.lgrp 0) = .serve ∧ (st run).core.powered (.lgrp 0) = true ∧ (st run).core.acts (.lgrp 0) = true ∧
    (st run).core.running = true ∧ 1 % 65536 ≠ (st run).core.rd (.lgrp 0) 0x040 ∧
    (st shut).runs ∧ shut.route (.lgrp 0) = .queue ∧ State.reset.runs ∧ State.reset.core.route (.lgrp 0) = .none ∧
    (st gone).runs ∧ gone.route (.lgrp 0) = .serve ∧ gone.powered (.lgrp 0) = true ∧ gone.acts (.lgrp 0) = false ∧ 65536 % 65536 = 0 ∧
    (st off).runs ∧ (st off).core.route (.lgrp 0) = .serve ∧ off.powered (.lgrp 0) = false ∧ off.domOn 0 = false ∧
    off.power.want.elem (0, true) = false := by
  unfold State.runs
  decide

theorem witness_LaneTransitionsAndSupervision :
    let s (x : LaneS) : State := st (lane 255 x (up .idle))
    (∀ x ∈ [({ st := .up } : LaneS), { st := .recal }, { st := .negotiate }, { st := .stepping }, { st := .retrain, ph := .fastAlign },
      { st := .retrain, ph := .losWait }, { st := .acquire }, { st := .failed }, {}, { ph := .prbs }], (s x).runs ∧
      (s x).core.laneOn 255 = true ∧ (s x).core.lane 255 = x ∧ x.los = false) ∧ ((s { los := true }).core.lane 255).los = true ∧
    (up .idle).autoRetrain 0 = true ∧ ((up .idle).wr (.lane 0) 0x040 0).autoRetrain 0 = false := by
  unfold State.runs
  decide

/-- LANE_CFG of lane 0 at reset, one relayed by lane 1, one relayed by itself, and one without a way to answer. -/
theorem witness_BringUpAndTests :
    let s (v : Nat) (x y : LaneS) : Core := lane 1 y (lane 0 x ((up .idle).wr (.lane 0) 0x040 v))
    let d : Nat := 0xC0104
    (∀ p ∈ [LanePh.pll, .fastAlign, .align, .waitCtrl, .adapt, .prbs, .markPrbs, .mark], (st (s d { ph := p } {})).runs ∧
      (s d { ph := p } {}).laneOn 0 = true ∧ ((s d { ph := p } {}).lane 0).ph = p) ∧
    (s d { ph := .align } {}).relayed 0 = false ∧ (s d { ph := .align } {}).txReturn 0 = true ∧
    (s 0x20 { ph := .align } {}).relayed 0 = false ∧ (s 0x20 { ph := .align } {}).txReturn 0 = false ∧
    (s 0x200 { ph := .align } {}).relayed 0 = true ∧ (s 0x200 { ph := .align } {}).relayOk 0 = false ∧
    (s 0x600 { ph := .align } { st := .up }).relayOk 0 = true ∧
    ((s 0x600 { ph := .align } { st := .up }).lane ((s 0x600 { ph := .align } { st := .up }).ctrlLane 0)).st = .up ∧
    (s 0x600 { ph := .align } {}).relayOk 0 = true ∧
    ((s 0x600 { ph := .align } {}).lane ((s 0x600 { ph := .align } {}).ctrlLane 0)).st ≠ .up ∧
    ((s 0x600 { ph := .waitCtrl } { st := .up }).lane ((s 0x600 { ph := .waitCtrl } { st := .up }).ctrlLane 0)).st = .up ∧
    ((s 0x600 { ph := .waitCtrl } { st := .failed }).lane ((s 0x600 { ph := .waitCtrl } { st := .failed }).ctrlLane 0)).st = .failed ∧
    (s d { ph := .adapt } {}).bothWays 0 = true ∧ (s 0x20 { ph := .adapt } {}).bothWays 0 = false ∧
    (∀ x ∈ [({ ph := .mark, rxMark := some 0, falling := true } : LaneS), { ph := .mark, rxMark := some 0, txMark := true },
        { ph := .markPrbs, rxMark := some 0 }, { ph := .adapt, rxMark := some 0 }, { ph := .prbs, txMark := true }, { rxMark := some 1 }],
      (s d x {}).laneOn 0 = true ∧ ((s d x {}).lane 0).rxMark = x.rxMark ∧ ((s d x {}).lane 0).txMark = x.txMark ∧
      ((s d x {}).lane 0).falling = x.falling) := by
  unfold State.runs
  decide

/-- Step 4 at the top, and step 0; each branch of the decision. -/
theorem witness_BringUpAndTests_decision :
    ∀ x ∈ [({ ownPass := some true, peerPass := some true, step := 4, top := 4 } : LaneS),
      { ownPass := some true, peerPass := some true, step := 0, top := 4 }, { ownPass := some false, peerPass := some true, fast := true },
      { ownPass := some true, peerPass := some false }, { ownPass := some false, peerPass := some false, retried := true },
      { ownPass := some false, peerPass := some false, retried := true, step := 4 }],
      ((lane 0 x (up .idle)).lane 0).ownPass.isSome = true ∧ ((lane 0 x (up .idle)).lane 0).peerPass.isSome = true := by
  decide

/-- The line bits of any control block are received as that block (R33 to R37, R41). -/
theorem witness_control_block (m : CtrlOut) (seq : Nat) (ht : m.type < 256) (hr : ∀ n, m.rel = some n → n < 65536)
    (hc : m.count < 65536) (hb : m.body.length = 52) :
    ∃ raw, rxBlock false (ctrlLine (ctrlBytes m seq)) = some (false, .ok raw) ∧
      parseCtrl (ctrlBlockBytes raw) = some ⟨m.type, b2n m.rel.isSome, m.rel.getD 0xFFFF, m.count, m.body⟩ := by
  have hs : slice m.body 0 52 = m.body := by simp [slice, hb]
  have hg : m.rel.getD 0xFFFF < 65536 := by
    cases h : m.rel with
    | none => simp
    | some n => exact hr n h
  have hi : b2n m.rel.isSome < 256 := by
    cases m.rel with
    | none => decide
    | some _ => exact (by decide : (1 : Nat) < 256)
  let bs := leBytes 1 m.type ++ (leBytes 1 (b2n m.rel.isSome) ++ (leBytes 2 (m.rel.getD 0xFFFF) ++ (leBytes 2 seq ++
    (leBytes 2 m.count ++ m.body))))
  have hl : bs.length = 60 := by simp [bs, leBytes_length, hb]
  have e : ctrlBytes m seq = withCrc bs := by simp [ctrlBytes, bs, hs, List.append_assoc]
  have hw : (withCrc bs).length = 64 := by simp [withCrc, leBytes_length, hl]
  rw [e]
  refine ⟨_, rxBlock_ctrl _ hw, ?_⟩
  rw [ctrlBlockBytes_line _ hw]
  have ht' : (withCrc bs).take 60 = bs := List.take_left' hl
  have hcrc : leAt (withCrc bs) 60 4 = (crc32c bs).toNat := by rw [← hl]; exact leAt_withCrc bs
  have fld : ∀ (a b : List Byte) (n v off : Nat), v < 256 ^ n → a.length = off → withCrc bs = a ++ (leBytes n v ++ b) →
      leAt (withCrc bs) off n = v := by
    intro a b n v off h ha e
    rw [e, ← ha]; exact leAt_append a b n v h
  have f0 : leAt (withCrc bs) 0 1 = m.type := fld [] _ 1 _ 0 ht rfl (by simp only [withCrc, bs, List.append_assoc, List.nil_append]; rfl)
  have f1 : leAt (withCrc bs) 1 1 = b2n m.rel.isSome := fld (leBytes 1 m.type) _ 1 _ 1 hi (by simp [leBytes_length])
    (by simp only [withCrc, bs, List.append_assoc]; rfl)
  have f2 : leAt (withCrc bs) 2 2 = m.rel.getD 0xFFFF := fld (leBytes 1 m.type ++ leBytes 1 (b2n m.rel.isSome)) _ 2 _ 2 hg
    (by simp [leBytes_length]) (by simp only [withCrc, bs, List.append_assoc]; rfl)
  have f6 : leAt (withCrc bs) 6 2 = m.count := fld (leBytes 1 m.type ++ leBytes 1 (b2n m.rel.isSome) ++
    leBytes 2 (m.rel.getD 0xFFFF) ++ leBytes 2 seq) _ 2 _ 6 hc (by simp [leBytes_length])
    (by simp only [withCrc, bs, List.append_assoc]; rfl)
  have f8 : slice (withCrc bs) 8 52 = m.body := by
    have e : withCrc bs = (leBytes 1 m.type ++ leBytes 1 (b2n m.rel.isSome) ++ leBytes 2 (m.rel.getD 0xFFFF) ++ leBytes 2 seq ++
        leBytes 2 m.count) ++ (m.body ++ leBytes 4 (crc32c bs).toNat) := by simp only [withCrc, bs, List.append_assoc]
    rw [slice, e, List.drop_left' (by simp [leBytes_length]), List.take_left' hb]
    simp [hb]
  rw [parseCtrl, ht', hcrc, if_pos rfl, f0, f1, f2, f6, f8]

/-- A 25th bit of a run is a code violation, a line that ends is out of alignment, and 64 zero bytes carry a wrong CRC. -/
theorem witness_control_block_bad :
    rxBlock false (ctrlComma ++ List.replicate 25 false) = some (false, .error .code) ∧
    rxBlock false (ctrlComma ++ [true, false]) = some (false, .error .align) ∧ parseCtrl (List.replicate 64 0) = none := by decide +kernel

/-- A block of each type for the lane itself, and one relayed for lane 5, whose control lane is lane 1. -/
theorem witness_ControlBlocks :
    let s (x : LaneS) : Core := lane 0 x (up .idle)
    let v1 : List Byte := [0, 0, 0, 0, 0, 0, 0, 0, 1]
    let rel : Core := lane 5 { ph := .ackWait, target := 1 } (lane 1 { st := .up } ((up .idle).wr (.lane 5) 0x040 0x600))
    (st (s { st := .up })).runs ∧ (s {}).laneOn 0 = true ∧ ((s { st := .up }).lane 0).st ≠ .off ∧ ((s { st := .up }).lane 0).pol = false ∧
    (s {}).relayed 0 = false ∧ (s {}).bothWays 0 = true ∧ b2n (none : Option Nat).isSome = 0 ∧
    (∀ p ∈ [LanePh.prbs, .caps, .ackWait, .result, .mark, .adapt, .markPrbs], ((s { st := .stepping, ph := p, target := 1 }).lane 0).ph = p) ∧
    leAt (List.replicate 52 0) 8 1 ≠ 1 ∧ leAt v1 8 1 = 1 ∧ leAt [1] 0 1 = 1 ∧ leAt [1] 1 1 = 0 ∧ leAt [1, 1] 1 1 ≠ 0 ∧
    leAt (List.replicate 52 0) 0 1 = ((s { ph := .result }).lane 0).step ∧
    rel.relayed 5 = true ∧ rel.ctrlLane 5 = 1 ∧ (rel.lane 5).ph = .ackWait ∧ (rel.lane 5).target = 1 ∧ (rel.lane 1).st ≠ .off := by
  unfold State.runs
  decide

/-- An OUTPUT lane; each queue in its turn; a frame for the lane whose LAUNCH is now; and the last marks of both kinds. -/
theorem witness_ControlBlocks_sent :
    let s (x : LaneS) : Core := lane 0 { x with st := .up, txIdle := false } (up .idle)
    let o : Core := (s {}).wr (.lane 0) 0x040 0x20
    let f : Frame := { dest := 0, type := 0, flags := 0, source := 0, tag := 0, seq := 0, launchS := 0, launchNs := 0, hdr := [], origin := 0, payload := [] }
    let near : Core := { s {} with xdies := [(0, { egress := [f] })] }
    let mk (t : Nat) : CtrlOut := { type := t, count := 0, body := [1] }
    (st (s {})).runs ∧ (s {}).laneOn 0 = true ∧ (s {}).txMode 0 ≠ 3 ∧ (s {}).txMode 0 ≠ 2 ∧ o.txMode 0 = 2 ∧ (s {}).launchNear 0 = false ∧
    near.launchNear 0 = true ∧ ((s {}).lane 0).txIdle = false ∧ ((s {}).lane 0).txPrbs = false ∧
    ((s { ctlQ := [mk 6] }).lane 0).ctlQ = [mk 6] ∧ ((s { respQ := [(7, {})] }).lane 0).respQ = [(7, {})] ∧ ((s { timeQ := [7] }).lane 0).timeQ = [7] ∧
    ((s { hostQ := [[1]] }).lane 0).hostQ = [[1]] ∧ ((s {}).lane 0).hostQ = [] ∧ ((s { txMark := true }).lane 0).txMark = true ∧
    (mk 4).count = 0 ∧ (mk 4).rel = none ∧ (mk 4).type = 4 ∧ (mk 5).type = 5 ∧ ((s {}).lane 0).ph ≠ .markOwn ∧
    (idle.core.lane 0).st = .off ∧ ((lane 0 { st := .up } (up .idle)).lane 0).txIdle = true := by
  unfold State.runs
  decide

theorem witness_TimeAndHostMessages :
    let b : CtrlBlk := ⟨9, 0, 0xFFFF, 0, List.replicate 52 0⟩
    let x : LaneS := { st := .up }
    let c := lane 0 x ((up .idle).wr (.time 3) 0x040 1)
    let full := lane 0 { x with respQ := List.replicate 4 (0, {}) } c
    let d := (c.wr (.time 3) 0x048 5).setRing 5 { role := 4 }
    let e := (c.wr .ring 0x068 4095).setRing 4095 { role := 4 }
    let t : TsEntry := ⟨0, 0, {}⟩
    let g := d.modTime (fun u => { u with tsQ := [t] })
    (st c).runs ∧ c.laneOn 0 = true ∧ (c.lane 0).st ≠ .off ∧ bit (c.rd (.time 3) 0x040) 0 = true ∧ c.txReturn 0 = true ∧
    (c.lane 0).respQ.length < 4 ∧ ¬ ((full.lane 0).respQ.length < 4) ∧
    (st g).runs ∧ g.laneOn 0 = true ∧ (g.lane 0).st ≠ .off ∧ g.rd (.time 3) 0x048 = 5 ∧ (g.ring 5).role = 4 ∧
    g.time.tsQ.find? (fun e => e.id == leAt b.body 0 2 && e.lane == 0) = some t ∧
    (st e).runs ∧ e.rd .ring 0x068 = 4095 ∧ (e.ring 4095).role = 4 ∧ c.rd .ring 0x068 = 0 := by
  unfold State.runs
  decide

theorem witness_RecalibrationAndScans :
    let s (x : LaneS) : Core := lane 15 x (up .idle)
    let p : LaneS := { st := .up, recalPending := true }
    (st (s p)).runs ∧ (s p).laneOn 15 = true ∧ ((s p).lane 15).recalPending = true ∧ ((s p).lane 15).st = .up ∧ (s p).groupRecal 0 = false ∧
    (∀ i, i < 15 → ((s p).lane i).recalPending = false) ∧ (s p).recalNow = true ∧
    ((s { ph := .recalAdapt }).lane 15).ph = .recalAdapt ∧ ((s { ph := .recalAlign }).lane 15).ph = .recalAlign ∧
    (∀ w ∈ [ScanWhy.command, .enterUp, .recal], ((s { scan := some w }).lane 15).scan = some w) ∧ (st (s { scan := some .recal })).runs ∧
    run.running = true ∧ run.power.running = true ∧ run.power.mode ≠ .calibrate ∧ run.imageMode ≠ .calibrate ∧ idle.core.running = false ∧
    (st run).runs ∧ run.img = some {} := by
  unfold State.runs
  decide

/-- The whole eye: 64 points and 255; 1 000 mUI and 510 mV; an eye of one point; and a closed one. -/
theorem witness_EyeQuality :
    let row := List.replicate 64 0
    let col := List.replicate 255 0
    row.length = 64 ∧ col.length = 255 ∧ (∀ i, i < 64 → pointPass 1000000 6 (nth 1 row i) = true) ∧
    (∀ i, i < 255 → pointPass 1000000 6 (nth 1 col i) = true) ∧ pointPass 1000000 6 (nth 1 (List.replicate 64 2) 32) = false := by
  refine ⟨List.length_replicate, List.length_replicate, ?_, ?_, by decide +kernel⟩ <;> intro i h <;>
    simp only [nth, List.getElem?_replicate, if_pos h] <;> rfl

/-! ### Witnesses: time -/

/-- Reference 3: each edge test at its limit and past it; a dispute at its threshold, past it, and at half of it. -/
theorem witness_ReferenceTestsAndDisputes :
    let c : Core := (up .idle).wr (.time 1) 0x0A0 1
    let a (x : TimeS → TimeS) : Core := (c.wr (.time 1) 0x040 1).modTime x
    let q : RefS := { qual := true }
    let y (n : Nat) (r : RefS) : Core := a (fun t => { t with active := some 0, dpll := .locked, refs := ([q, {}, {}, r] : List RefS).set n r })
    (st c).runs ∧ c.timeOn = true ∧ c.refEn 3 = true ∧ c.refHz 3 = 10000000 ∧ 9999998 + 1 < c.refHz 3 ∧ c.refHz 3 ≤ 9999999 + 1 ∧
    10000001 ≤ c.refHz 3 + 1 ∧ c.refHz 3 + 1 < 10000002 ∧ bits (c.refQual 3) 31 24 * 10000 < (100001 : Int).natAbs ∧
    (-100000 : Int).natAbs ≤ bits (c.refQual 3) 31 24 * 10000 ∧ ((y 0 q).wr (.time 1) 0x040 1).time.active = some 0 ∧
    (y 0 q).time.dpll = .locked ∧ bits (c.refQual 3) 15 0 * 1000 < (100001 : Int).natAbs ∧
    (-100000 : Int).natAbs ≤ bits (c.refQual 3) 15 0 * 1000 ∧
    c.time.active ≠ some 3 ∧ (a (fun t => { t with active := some 0, dpll := .acquiring })).refEn 0 = true ∧
    (c.ref 3).qual = false ∧ ((y 3 q).ref 3).qual = true ∧ ((y 3 { inWtr := true }).ref 3).inWtr = true ∧
    (y 3 q).time.active = some 0 ∧ ((y 3 q).ref 0).qual = true ∧ (y 3 q).refEn 3 = true ∧ (y 3 q).refRank 0 = (y 3 q).refRank 3 ∧
    max 1 (min 10000 (bits ((y 3 q).rd (.time 0) 0x054) 15 0)) * 10 = 500 ∧
    ((y 3 { q with disputed := true, calm := 2 }).ref 3).calm = 2 ∧ ((y 3 { q with disputed := true }).ref 3).calm ≠ 2 := by
  unfold State.runs
  decide

theorem witness_ReferenceChoice :
    let q : RefS := { qual := true }
    let c (rs : List RefS) (a : Option Nat) (sel : Nat) : Core :=
      (((((up .idle).wr (.time 1) 0x040 1).wr (.time 1) 0x060 1).wr (.time 1) 0x080 1).wr (.time 1) 0x0A0 1).wr (.time 0) 0x050 sel |>.modTime
        (fun t => { t with refs := rs, active := a })
    (c [q, q, q, q] (some 2) 0).time.refs.length = 4 ∧ ((c [q, q, q, q] none 7).ref 3).eligible = true ∧
    bit ((c [q, q, q, q] none 7).rd (.time 0) 0x050) 0 = true ∧ bits ((c [q, q, q, q] none 7).rd (.time 0) 0x050) 2 1 = 3 ∧
    (c [q, q, q, q] none 7).chooseRef = some 3 ∧ (c [q, q, q, q] (some 2) 0).chooseRef = some 2 ∧
    (∀ m, m < 4 → ((c [q, q, q, q] (some 2) 0).ref m).eligible = true → (c [q, q, q, q] (some 2) 0).refRank 2 ≤ (c [q, q, q, q] (some 2) 0).refRank m) ∧
    (c [{}, q, q, {}] none 0).chooseRef = some 1 ∧ (∀ n, n < 4 → ((c [{}, {}, {}, {}] none 0).ref n).eligible = false) ∧
    ((c [q, q, q, q] none 0).ref 0).qual = true ∧ ((c [{}, q, q, q] none 0).ref 0).qual = false := by
  decide

theorem witness_DpllSteps :
    let t (f : TimeS → TimeS) : Core := (up .idle).modTime f
    let q : RefS := { qual := true }
    let one (f : TimeS → TimeS) : Core := ((up .idle).wr (.time 1) 0x040 1).modTime (fun t => f { t with refs := [q, {}, {}, {}] })
    let r := ({ run with time := { dpll := .acquiring, active := some 0 } } : Core)
    (st (t id)).runs ∧ (t id).timeOn = true ∧ (t (fun t => { t with dpll := .acquiring, active := some 0 })).running = false ∧
    (st r).runs ∧ r.timeOn = true ∧ r.running = true ∧ r.time.active.isSome = true ∧
    ((t (fun t => { t with dpll := .holdover })).wr (.time 0) 0x04C 0x10000).time.dpll = .holdover ∧
    bits (((t (fun t => { t with dpll := .holdover })).wr (.time 0) 0x04C 0x10000).rd (.time 0) 0x04C) 31 16 ≠ 0 ∧
    ((t (fun t => { t with oscOk := true })).wr (.time 0) 0x044 1).oscEn = true ∧
    (∀ d ∈ [DpllSt.freerun, .lost, .holdover], (one (fun t => { t with dpll := d })).chooseRef = some 0 ∧
      (one (fun t => { t with dpll := d })).time.active = none) ∧
    (∀ d ∈ [DpllSt.acquiring, .locked], (t (fun t => { t with dpll := d, active := some 0 })).chooseRef = none) ∧
    (one (fun t => { t with dpll := .locked, active := some 3 })).chooseRef = some 0 ∧ (t id).time.active = none ∧ (t id).time.dpll ≠ .holdover ∧
    (t id).oscEn = false ∧ (t id).time.oscOk = false := by
  unfold State.runs
  decide

/-- A correction due at once and one not yet due; a remainder above the step, below 0, and none. -/
theorem witness_SlideBoundary :
    let u : TimeS := { tc := 65536 * 999999 }
    let late : SlideReq := ⟨0, 0, 65536, 100⟩
    let b (t : TimeS) : TimeS := { t with tc := t.nextMs * 65536 }
    let p : TimeS := { u with pend := some late }
    let n : TimeS := { u with pend := some ⟨1, 0, 65536, 100⟩ }
    p.nextMs = 1000000 ∧ late.act ≤ (b p).atb ∧ (b n).atb < (⟨1, 0, 65536, 100⟩ : SlideReq).act ∧ u.pend = none ∧
    0 < ({ u with rem := 200, sstep := 65536 } : TimeS).boundary.rem + ({ u with rem := 200, sstep := 65536 } : TimeS).boundary.slew ∧
    ({ u with rem := -200, sstep := 65536 } : TimeS).boundary.rem + ({ u with rem := -200, sstep := 65536 } : TimeS).boundary.slew < 0 ∧
    u.boundary.rem + u.boundary.slew = 0 ∧ idle.runs ∧ idle.core.timeOn = true ∧ (65536 : Int).natAbs ≤ 65536 ∧
    (65536 * 999999) % 65536 = 0 := by
  unfold State.runs
  decide

theorem witness_TimeSettingsAndCommands :
    let s := idle
    let e := (up .idle).wr (.time 1) 0x0A0 1
    let i : Core := { up .idle with img := some {} }
    let o := (up .idle).wr (.time 0) 0x040 2
    let p := (up .idle).modTime (fun t => { t with armed := true, pend := some ⟨0, 0, 1, 1⟩, tsQ := [⟨7, 0, {}⟩] })
    s.serves (.time 0) ∧ s.core.running = false ∧ (st run).serves (.time 0) ∧ run.running = true ∧ s.core.img = none ∧
    (st i).serves (.time 0) ∧ i.running = false ∧ i.img.isSome = true ∧ (st e).serves (.time 1) ∧ e.refEn 3 = true ∧ s.core.droneOn = true ∧
    (st p).runs ∧ p.timeOn = true ∧ p.time.armed = true ∧ p.time.pend ≠ none ∧ bit (s.core.rd (.time 0) 0x040) 1 = false ∧
    run.img = some {} ∧ s.core.time.armed = false ∧ s.core.time.pend = none ∧ ({ up .idle with droneOn := false } : Core).droneOn = false := by
  unfold State.serves State.runs
  decide

/-- Each source of PPS_OUT at its edge, DELAY 0; 2 ns past it, and not 3; the edge after one at 0 is a second later. -/
theorem witness_TimeSettingsAndCommands_pps :
    let o (v : Nat) : Core := (up .idle).wr (.time 0) 0x040 v
    let a := (o 6).modTime (fun t => { t with active := some 0 })
    (st (o 2)).runs ∧ (o 2).timeOn = true ∧ bit ((o 2).rd (.time 0) 0x040) 1 = true ∧ bits ((o 2).rd (.time 0) 0x040) 3 2 = 0 ∧
    bits ((o 6).rd (.time 0) 0x040) 3 2 = 1 ∧ bits ((o 10).rd (.time 0) 0x040) 3 2 = 2 ∧ (o 2).time.tcNs ≤ 0 ∧ (o 2).time.ppsOutAt = none ∧
    (o 2).ppsDelay = 0 ∧ nearMul (1000000000 * 65536) (2 * 65536) ((o 2).time.atbAt (0 * 65536) - (o 2).ppsDelay * 65536) = true ∧
    a.time.active = some 0 ∧ nearMul 1000000000000 2000 (((0 : Int) - a.ppsDelay) * 1000 - (a.ref 0).raw) = true ∧
    nearMul 1000000000 2 (1000000002 : Int) = true ∧ nearMul 1000000000 2 (1000000003 : Int) = false ∧
    ((o 2).modTime (fun t => { t with ppsOutAt := some 0 })).ppsPin = true ∧
    (o 2).ppsNext = 0 ∧ a.ppsNext = 0 ∧ (o 10).ppsNext = 0 ∧
    ((o 10).modTime (fun t => { t with ppsOutAt := some 0 })).ppsNext = 1000000000 := by
  unfold State.runs
  decide

/-- The corrections at the limits of each status: one second ahead is not LATE, a remainder past 10^9 ns is RANGE. -/
theorem witness_TimeSettingsAndCommands_rings :
    let s := idle
    let p := (up .idle).modTime (fun t => { t with pend := some ⟨0, 0, 1, 1⟩, tsQ := [⟨7, 0, {}⟩] })
    let z (a s2 : Nat) (x : List Byte) : List Byte := leBytes 8 a ++ leBytes 4 0 ++ leBytes 4 s2 ++ x ++ List.replicate 8 0
    let one : List Byte := [1, 0, 0, 0, 0, 0, 0, 0]
    let far := (up .idle).modTime (fun t => { t with rem := 65536000000000 })
    s.core.slideStatus (z 1 0 one) = stInvalid ∧ s.core.slideStatus (z 1 65537 one) = stInvalid ∧ p.slideStatus (z 1 65536 one) = stBusy ∧
    s.core.slideStatus (z 0 65536 one) = stLate ∧ far.slideStatus (z 1 65536 one) = stRange ∧ s.core.slideStatus (z 1 65536 one) = stAccepted ∧
    (st (ringd 0x08 32 0 0 (up .idle))).rings 1 0x08 (dsc 0x08 32 0 0) ∧ (st (ringd 0x08 31 0 0 (up .idle))).rings 1 0x08 (dsc 0x08 31 0 0) ∧
    (ringd 0x08 32 0 0 { up .idle with power := { (up .idle).power with on := 0 } }).timeOn = false ∧
    (st (ringd 0x09 0 0 0 (lane 0 { st := .up, features := 1 } p))).rings 1 0x09 (dsc 0x09 0 0 0) ∧
    ((lane 0 { st := .up, features := 1 } p).lane 0).features.testBit 0 = true ∧ p.txReturn 0 = true ∧
    p.time.tsQ = [⟨7, 0, {}⟩] ∧ s.core.time.tsQ = [] ∧ s.core.timeOn = true ∧ p.time.tsQ.any (fun e => e.id == 7) = true ∧ p.time.tsQ.any (fun e => e.id == 0) = false ∧ (s.core.lane 0).st ≠ .up := by
  unfold State.rings State.runs
  decide

/-! ### Witnesses: rings, jobs and the host -/

/-- A doorbell at 2^K ahead is taken, one past it is not; the eighth descriptor ahead of H is fetched. -/
theorem witness_Rings :
    let c := (up .idle).setRing 1 { role := 1, tail := 8, fetch := 7 }
    let bs (g : Byte) : List Byte := [0, g] ++ List.replicate 30 0
    idle.servesHdr 2048 (.doorbell 0) ∧ idle.core.ringActive 0 = true ∧ idle.core.ringActive 1 = false ∧ (idle.core.ring 0).k = 4 ∧
    (16 + 2 ^ 32 - (idle.core.ring 0).head % 2 ^ 32) % 2 ^ 32 ≤ 2 ^ 4 ∧ ¬ (17 + 2 ^ 32 - (idle.core.ring 0).head % 2 ^ 32) % 2 ^ 32 ≤ 2 ^ 4 ∧
    idle.serves .ring ∧ (st c).runs ∧ c.ringActive 1 = true ∧ c.host.linkUp = true ∧ c.host.d3 = none ∧ (c.ring 1).fetch ≠ (c.ring 1).tail ∧
    ((c.ring 1).fetch + 2 ^ 32 - (c.ring 1).head) % 2 ^ 32 < 8 ∧ leAt (bs 0) 1 1 = (c.ring 1).gen ∧ leAt (bs 1) 1 1 ≠ (c.ring 1).gen ∧
    (st (ringd 0 0 0 0 (up .idle))).rings 1 0x00 (dsc 0 0 0 0) := by
  unfold State.serves State.servesHdr State.rings State.runs
  decide

theorem witness_Rings_commands :
    let safe := ringd 0x0B 64 0 0 (up .safe)
    let msg (n : Nat) : Core := ringd 0x0A 52 0 0 (lane 0 { st := .up, features := 2, hostQ := List.replicate n [] } (up .idle))
    (st (ringd 3 47 0 0 (up .idle))).rings 1 0x03 (dsc 3 47 0 0) ∧ (st (ringd 3 48 0 0 (up .idle))).rings 1 0x03 (dsc 3 48 0 0) ∧
    (st (msg 4)).rings 1 0x0A (dsc 0x0A 52 0 0) ∧ (msg 4).hostMsgLane 0 = true ∧ 4 ≤ ((msg 4).lane 0).hostQ.length ∧
    ((msg 3).lane 0).hostQ.length < 4 ∧ (up .idle).hostMsgLane 0 = false ∧
    (ringd 0x0D 0 0 0 (up .idle)).badFront 1 = some (dsc 0x0D 0 0 0) ∧ ((ringd 0x0D 0 0 0 (up .idle)).ring 1).inbound = true ∧
    (st (ringd 0x0D 0 0 0 (up .idle))).runs ∧ (up .idle).host.d3 = none ∧ (up .idle).power.mode ≠ .safe ∧
    (ringd 0x0D 0 0 0 (up .safe)).badFront 1 = some (dsc 0x0D 0 0 0) ∧
    (up .idle).badFront 1 = none ∧ ((ringd 0x0D 0 0 0 (up .idle)).modRing 1 (fun x => { x with role := 4 })).badFront 1 = some (dsc 0x0D 0 0 0) ∧
    (((ringd 0x0D 0 0 0 (up .idle)).modRing 1 (fun x => { x with role := 4 })).ring 1).inbound = false ∧
    (st safe).runs ∧ safe.command 1 0x0B = some (dsc 0x0B 64 0 0) ∧ safe.host.d3 = none ∧ safe.power.mode = .safe := by
  unfold State.rings State.runs
  decide

theorem witness_OutboundItems :
    let i (k : Nat) : Item := { kind := k, gen := 0, bytes := [], die := 4, from_ := 1 }
    let buf : Desc := dsc 0x80 64 0 0
    let c (r : RingS) : Core := (up .idle).setRing 1 r
    let q : Compl := { n := 0, tag := 0, status := 0, len := 0, kind := 0, gen := 0, detail := 0, irq := true, ring := 1, writes := true }
    let j : Job := { ring := 1, n := 0, tag := 0, irq := false, purpose := .host, srcSp := 5, dstSp := 0, len := 4, src := 0, dst := 0 }
    let rb := (c { compl := [q] }).modDma 63 (fun x => { x with job := some j, readback := true })
    let mute : Core := { c { items := [i 2] } with power := { (up .idle).power with mute := true } }
    (st (c { items := [i 2] })).runs ∧ ((c { items := [i 2] }).ring 1).items = [i 2] ∧ (c {}).host.linkUp = true ∧ (c {}).host.d3 = none ∧
    mute.power.mute = true ∧ (i 2).kind ≠ 3 ∧ (i 2).kind ≠ 4 ∧ (c {}).power.mute = false ∧
    (i 2).gen ≠ ((c { items := [i 2], gen := 1 }).ring 1).gen ∧ ((c { items := [i 2], descs := [buf] }).ring 1).descs = [buf] ∧
    buf.dead = false ∧ buf.op = 0x80 ∧ ((c { items := [i 2] }).ring 1).descs = [] ∧
    ((c { items := [i 2], tail := 1 }).ring 1).fetch ≠ ((c { items := [i 2], tail := 1 }).ring 1).tail ∧
    ((c { compl := [q] }).ring 1).compl = [q] ∧ q.writes = true ∧ (c { compl := [q] }).readbackChannel 1 = none ∧
    ¬ ((c { items := [i 2] }).winOpen 4 33 = false) ∧ ({ c { items := [i 0] } with img := some {}, power := { (up .correlate).power with running := true } } : Core).winOpen 4 33 = false ∧
    (i 0).kind = 0 ∧ ((c { items := [i 2], descs := [buf] }).ring 1).busy = false ∧ ((c { error := true }).ring 1).error = true ∧
    rb.readbackChannel 1 = some 63 ∧ (rb.dma 63).job = some j ∧ ((c { unsig := 1, coalUs := 1 }).ring 1).unsig ≠ 0 := by
  unfold State.runs
  decide

/-- A FILL of 4 B of IO-die SRAM; every limit of the other commands, at it and past it. -/
theorem witness_DataJobs :
    let fillB : List Byte := [1, 0x50, 0, 0, 4] ++ List.replicate 59 0
    let d := dsc 0x0B 64 0x40 0
    let c := ringd 0x0B 64 0x40 0 (up .idle)
    let j := parseJob 1 d fillB
    let busy := (ringd 0x0B 64 0 0 (up .idle)).modDma 0 (fun x => { x with job := some j })
    let ch (m : Mode) (len a : Nat) (q : Option Nat) : Core :=
      let c := ringd 0x01 len a 0 (up m)
      { c with host := { c.host with loadRing := q } }
    (st c).rings 1 0x0B d ∧ (st (ringd 0x0B 63 0 0 (up .idle))).rings 1 0x0B (dsc 0x0B 63 0 0) ∧ c.hostChannels = 48 ∧ c.jobOk j fillB = true ∧
    c.jobOk j (List.replicate 64 0) = true ∧ c.jobOk (parseJob 1 d (List.replicate 64 0)) (List.replicate 64 0) = false ∧
    d.arg0.testBit 6 = true ∧ c.idleChannel 0 c.hostChannels = some 0 ∧ (busy.dma 0).job ≠ none ∧ (c.dma 0).job = none ∧
    (48 : Nat) ≤ c.hostChannels ∧ (st (ch .idle 64 0x1FFFFC0 none)).rings 1 0x01 (dsc 0x01 64 0x1FFFFC0 0) ∧
    0x1FFFFC0 + 64 ≤ 0x2000000 ∧ 0x2000000 < 0x2000000 + 64 ∧ (ch .idle 64 0 (some 2)).host.loadRing = some 2 ∧
    (st (ch .bringup 64 0 none)).rings 1 0x01 (dsc 0x01 64 0 0) ∧ (ch .bringup 64 0 none).power.mode ≠ .idle ∧ 63 % 64 ≠ 0 ∧
    2 ^ 22 % 64 = 0 ∧ ¬ 2 ^ 22 < 2 ^ 22 ∧ (ch .idle 64 0 none).host.commitRing = none ∧ (ch .idle 64 0 (some 1)).host.loadRing = some 1 ∧
    (ringd 0x0B 64 0 0 (up .idle) |>.modDma 0 (fun x => { x with job := some j })).idleChannel 0 1 = none := by
  unfold State.rings State.runs
  decide

theorem witness_DataJobs_beam :
    let im : Image := { beam := some {}, plan := { coarse := 1, inputs := 1 } }
    let c (t len : Nat) (m : Core) : Core := ringd 0x05 len t 0 { m with img := some im }
    let g (len : Nat) (m : Core) : Core := ringd 0x04 len 0 0 m
    let ir (len off : Nat) : Core := ringd 0x0C len (4 * 4) off { up .inspect with img := some im } |>.modRing 1 (fun r => { r with role := 7 })
    (st (c 11 0x1001000 (up .idle))).rings 1 0x05 (dsc 0x05 0x1001000 11 0) ∧ (c 11 0x1001000 (up .idle)).bankPlaced 11 = true ∧
    bankSize 11 = 0x1001000 ∧ bankSize 7 = 0x301000 ∧ (c 12 0 (up .idle)).bankPlaced 12 = false ∧ (up .idle).domOn (71 + 35 * bankDie 11) = true ∧
    (c 0 0x301000 run).bankInUse 0 false = true ∧ (c 0 0x301000 run).bankInUse 0 true = false ∧ (c 0 0x301000 (up .idle)).img = some im ∧
    (st (g 8 run)).rings 1 0x04 (dsc 0x04 8 0 0) ∧ (g 8 run).running = true ∧ (g 8 (up .idle)).running = false ∧ (g 8 (up .idle)).starting = false ∧ 12 % 8 ≠ 0 ∧ 524288 % 8 = 0 ∧
    (st (ir 4 0)).rings 1 0x0C (dsc 0x0C 4 16 0) ∧ (ir 4 0).power.mode = .inspect ∧
    ((ir 4 0).hbmObject 0 4 0 0).isSome = true ∧ (st (ringd 0x0C 4 16 0 (up .idle) |>.modRing 1 (fun r => { r with role := 7 }))).rings 1 0x0C (dsc 0x0C 4 16 0) := by
  unfold State.rings State.runs
  decide

/-- A FILL, a job out of host memory, and one out of IO-die SRAM, on channel 63. -/
theorem witness_DataJobs_bursts :
    let j (k a b : Nat) : Job := { ring := 1, n := 0, tag := 0, irq := false, purpose := .host, kind := k, srcSp := a, dstSp := b, len := 8, src := 0, dst := 0 }
    let c (x : Job) : Core := (up .idle).modDma 63 (fun y => { y with job := some x })
    (∀ x ∈ [j 1 0 5, j 0 0 5, j 0 5 0], (st (c x)).runs ∧ ((c x).dma 63).readback = false ∧ x.pend = 0 ∧ (c x).host.d3 = none ∧
      (c x).jobOpen x = true ∧ (c x).burstLost x x.next = none ∧ x.done < x.len ∧ x.next = 8) ∧
    (∀ x ∈ [j 1 0 5, j 0 0 5, j 0 5 0, j 0 2 5], (c x).outranked 63 x = false) ∧ (j 0 2 5).purpose = .host ∧ (j 0 5 0).kind ≠ 1 ∧
    ({ j 0 2 5 with purpose := .inspectRead } : Job).purpose ≠ .host ∧ ((c (j 0 2 5)).burstLost (j 0 2 5) 8).isSome = true ∧
    ({ c (j 0 5 0) with img := some {}, power := { (up .correlate).power with running := true } } : Core).jobOpen (j 0 5 0) = false ∧
    (up .idle).dma 63 = {} ∧ ({ j 0 0 5 with stopAs := none } : Job).stopAs = none ∧
    (st (c (j 0 0 5))).serves (.dma 63) ∧ ((c { j 0 5 0 with done := 4 }).dma 63).job = some { j 0 5 0 with done := 4 } ∧
    ({ j 0 0 5 with pend := 4, blen := 4 } : Job).done + 4 ≠ 8 ∧ ({ j 0 0 5 with pend := 8, blen := 8 } : Job).done + 8 = 8 := by
  unfold State.serves State.runs
  decide

/-- The last 4 B of IO-die SRAM, and 4 B past it; HBM that is trained, and an object of 2 048 B. -/
theorem witness_Bar2InspectAndLink :
    let b (v : Nat) : Core := (up .idle).wr .pciex 0x080 v
    let hb := (b 1).modStack 0 (fun s => { s with st := .trained }) |>.modStack 1 (fun s => { s with st := .trained })
    let ins2 : Core := { up .inspect with chanters := [(0, { st := .held })] }
    let w (f : InspS → InspS) : Core := ins2.setInsp 15 (f {})
    idle.runs ∧ idle.core.bar2On = true ∧ idle.core.bar2At 0 = none ∧ (b 9).bar2At 0x0FFFFFFC = some (4, 0x0FFFFFFC) ∧
    (b 9).targetOk 4 0x0FFFFFFC 4 = true ∧ (b 9).targetOk 4 0x10000000 4 = false ∧ idle.core.host.heldQ = [] ∧ idle.core.bar2Full 4 = false ∧
    idle.core.host.bar2W = [] ∧ idle.core.bar2Writing 4 = [] ∧ shut.winOpen (targetChip 4) 33 = false ∧
    ({ up .idle with host := { (up .idle).host with linkUp := false } } : Core).bar2On = false ∧ (b 9).winOpen (targetChip 4) 33 = true ∧
    hb.bar2At 0 = some (0, 0) ∧ hb.targetOk 0 0 4 = true ∧
    (st ins2).serves (.insp 15) ∧ (ins2.inspAt 15).run = false ∧ ins2.power.mode = .inspect ∧ idle.core.power.mode ≠ .inspect ∧
    (ins2.chanter 0).st = .held ∧ 0 < ins2.part.dies ∧ State.reset.core.part.dies ≤ 4 ∧
    ((w (fun x => { x with run := true })).inspAt 15).run = true ∧
    linkOk 5 16 = true ∧ (up .idle).host.linkUp = true ∧ ({ up .idle with host := {} } : Core).host.linkUp = false ∧ (up .idle).perst = false ∧
    (up .idle).domOn 34 = true ∧ bits (ins2.rd (.insp 15) 0x040) 13 5 = 0 ∧ bits (ins2.rd (.insp 15) 0x040) 4 2 = 0 ∧
    ((up .inspect).chanter 0).st ≠ .held ∧ (idle.core.inspAt 15).run = false ∧
    (List.range 8).any (fun k => ((w (fun x => { x with run := true })).stack k).queue.any (fun r => r.origin == .inspect 15)) = false := by
  unfold State.serves State.runs
  decide

/-- 512 waiting writes to the IO die. -/
theorem witness_Bar2InspectAndLink_full :
    let w (i : Nat) : Bar2Op := { id := i, addr := 0, target := 4, at_ := 0, data := some [], len := 0, ce := [], ue := [] }
    let c (n : Nat) : Core := { up .idle with host := { (up .idle).host with bar2W := (List.range n).map w } }
    (c 511).bar2Full 4 = false ∧ (c 512).bar2Full 4 = true := by decide +kernel

/-- Each bad choice of Table 6.7, and an object of the HBM that the image has. -/
theorem witness_Bar2InspectAndLink_select :
    let im : Image := { beam := some {}, plan := { coarse := 1, inputs := 1 } }
    let h (v : Nat) : Core := { (up .inspect).wr (.insp 15) 0x040 v with img := some im }
    (h 0x1C).rd (.insp 15) 0x040 = 0x1C ∧ bits 0x1C 4 2 = 7 ∧ bits (384 * 32) 13 5 = 384 ∧ bits (383 * 32) 13 5 = 383 ∧ bits 0x10 4 2 = 4 ∧
    ((h 0x10).hbmObject 0 4 0 0).isSome = true ∧ ((h 0).hbmObject 0 6 0 5).isSome = false ∧ bits 0xC 4 2 = 3 ∧ bits (0xC + 2 * 2 ^ 14) 16 14 = 2 ∧
    32768 / 2048 * 2048 = 32768 := by
  decide

/-! ### Witnesses: HBM, ingest and the turn path -/

/-- Stack 7, the last; the third attempt; the owed limits 8 and 24, and the tenth failed calibration. -/
theorem witness_HbmTrainingAndUpkeep :
    let c (x : StackS) : Core := (up .idle).modStack 7 (fun _ => x)
    idle.runs ∧ (3 : Nat) < idle.core.part.dies ∧ idle.core.route (.hbm 3 1) = .serve ∧ idle.core.powered (hbmPage 7) = true ∧
    idle.core.acts (hbmPage 7) = true ∧ idle.core.hbmMode = true ∧ (idle.core.stack 7).st ≠ .training ∧ (idle.core.stack 7).st ≠ .selfRefresh ∧
    ((c { st := .training, tries := 1 }).stack 7).tries < 2 ∧ 2 ≤ ((c { st := .training, tries := 2 }).stack 7).tries ∧
    ((c { st := .training, ratePend := some 1 }).stack 7).ratePend = some 1 ∧ idle.serves (.hbm 3 1) ∧ (st run).core.hbmMode = false ∧
    (c { st := .trained }).stackUp 7 = true ∧ ((c { st := .trained, owed := [(63, 7)] }).stack 7).owedOf 63 < 8 ∧
    8 ≤ ((c { st := .trained, owed := [(63, 8)] }).stack 7).owedOf 63 ∧ ((c { st := .trained, forced := [63] }).stack 7).forced.elem 63 = true ∧
    (idle.core.stack 7).refr.elem 63 = false ∧ ((c { st := .trained, owed := [(63, 8)] }).stack 7).owedOf 63 ≠ 0 ∧ idle.core.winOpen 3 35 = true ∧
    SMap.get (fun _ => 0) ((c { calFail := [(63, 9)] }).stack 7).calFail 63 = 9 ∧ bit (((c {}).wr (hbmPage 7) 0x040 2).rd (hbmPage 7) 0x040) 1 = true ∧
    (c { st := .trained }).unitSoon 7 0 16 = false ∧ ((c { st := .trained, refr := [63] }).stack 7).refr.elem 63 = true ∧
    ((c { st := .trained, owed := [(63, 23)], fast := true }).stack 7).owedOf 63 < 24 ∧ (c {}).stackUp 7 = false ∧
    ((c { st := .selfRefresh }).stack 7).st = .selfRefresh ∧ (up .idle).host.d3 = none ∧ (up .idle).pageReady (hbmPage 7) = true ∧
    ((c { hot := true, fast := true }).stack 7).hot = true ∧

    ((c { scrub := 2 ^ 26 - 2 }).stack 7).scrub + 1 < 2 ^ 26 ∧ 2 ^ 26 ≤ ((c { scrub := 2 ^ 26 - 1 }).stack 7).scrub + 1 ∧ (7 : Nat) < 2 * idle.core.part.dies := by
  unfold State.serves State.runs
  decide

theorem witness_HbmTrainingAndUpkeep_requests :
    let r : AsyncReq := { seq := 0, off := 0, s3 := false, write := false, addr := 0, len := 4, data := [], origin := .bar2 0 }
    let c := (up .idle).modStack 0 (fun s => { s with st := .trained, queue := [r] })
    c.stackUp 0 = true ∧ c.nextAsync 0 0 = some r ∧ (c.stack 0).queue.find? (fun r => pcOf r.addr == 0 && !r.aged) = some r ∧ (up .idle).nextAsync 7 63 = none ∧
    ((up .idle).stack 7).queue.find? (fun r => pcOf r.addr == 63 && !r.aged) = none := by
  decide

/-- R334: the last byte of die 3's HBM and a byte run across its stacks' first pages. -/
theorem witness_HbmReadsBack :
    (0 : Nat) + 1 ≤ targetSize 3 ∧ idle.core.memWf = true := by
  decide

/-- An empty packet of stream (0, 0), as it comes over lane 0. -/
def pkt : List Byte :=
  ([0xC3, 0x01] : List Byte) ++ (leBytes 2 0 ++ (leBytes 2 0 ++ (leBytes 2 0 ++ (leBytes 8 0 ++ (leBytes 2 0 ++
    (List.replicate 14 0 ++ List.replicate 8192 0))))))

theorem pkt_length : pkt.length = 8224 := by
  simp only [pkt, List.length_append, leBytes_length, List.length_replicate, List.length_cons, List.length_nil]

/-- Tests 2 and 3 of Table 3.4 can be passed: the line bits of such a packet. -/
theorem witness_PacketAcceptance_packet : ∃ raw, rxBlock false (packetLine 0 1 (withCrc pkt)) = some (true, .ok raw) ∧
    parsePacket (packetBytes 0 1 raw) = .ok ⟨0, 0, 0, 0, 0, List.replicate 8192 0⟩ := by
  have hw : (withCrc pkt).length = 8228 := by rw [withCrc, List.length_append, pkt_length, leBytes_length]
  refine ⟨_, rxBlock_packet 0 1 _ hw, ?_⟩
  rw [packetBytes_line 0 1 _ hw, parsePacket, show (withCrc pkt).take 8224 = pkt from List.take_left' pkt_length]
  have hc : leAt (withCrc pkt) 8224 4 = (crc32c pkt).toNat := by rw [← pkt_length]; exact leAt_withCrc pkt
  have hp : slice (withCrc pkt) 32 8192 = List.replicate 8192 0 := by
    obtain ⟨h, hl, e⟩ : ∃ h : List Byte, h.length = 32 ∧
        withCrc pkt = h ++ (List.replicate 8192 0 ++ leBytes 4 (crc32c pkt).toNat) :=
      ⟨([0xC3, 0x01] : List Byte) ++ leBytes 2 0 ++ leBytes 2 0 ++ leBytes 2 0 ++ leBytes 8 0 ++ leBytes 2 0 ++ List.replicate 14 0,
        rfl, by simp only [withCrc, pkt, List.append_assoc]⟩
    rw [slice, e, List.drop_left' hl, List.take_left' List.length_replicate, List.length_replicate, Nat.sub_self]
    exact List.append_nil _
  rw [hc, hp, if_neg (by simp)]
  rfl

/-- A 25th bit of a run, a line that ends, no comma, and a control block. -/
theorem witness_PacketAcceptance_broken :
    rxBlock false (packetComma ++ List.replicate 25 false) = some (true, .error .code) ∧
    rxBlock false (packetComma ++ [true, false]) = some (true, .error .align) ∧ rxBlock false (List.replicate 70 true) = none ∧
    (∃ e, rxBlock false (ctrlComma ++ [true]) = some (false, e)) ∧ idle.core.rxOn 0 = false ∧
    (lane 0 { st := .up } (up .idle)).rxOn 0 = true := by
  exact ⟨by decide +kernel, by decide +kernel, by decide +kernel, ⟨_, rfl⟩, by decide, by decide⟩

/-- Test 2 of Table 3.4 can be failed: the same packet with another CRC. -/
theorem witness_PacketAcceptance_crc : ∃ bs raw, rxBlock false (packetLine 0 1 bs) = some (true, .ok raw) ∧
    parsePacket (packetBytes 0 1 raw) = .error .crc := by
  let v : Nat := if (crc32c pkt).toNat = 0 then 1 else 0
  have hw : (pkt ++ leBytes 4 v).length = 8228 := by rw [List.length_append, pkt_length, leBytes_length]
  refine ⟨_, _, rxBlock_packet 0 1 _ hw, ?_⟩
  rw [packetBytes_line 0 1 _ hw, parsePacket, show (pkt ++ leBytes 4 v).take 8224 = pkt from List.take_left' pkt_length]
  have hv : v < 256 ^ 4 := by simp only [v]; split_ifs <;> decide
  have hc : leAt (pkt ++ leBytes 4 v) 8224 4 = v := by
    have h := leAt_append pkt [] 4 v hv
    rw [List.append_nil, pkt_length] at h
    exact h
  rw [hc, if_pos]
  simp only [v]; split_ifs with h <;> omega

/-- No image: a stream of another lane is MISROUTED; in a schedule, margins of −1, 0, H and H + 1. -/
theorem witness_PacketAcceptance :
    let c := lane 0 { st := .up } (up .idle)
    let im : Image := { plan := { map := [⟨0, 0, 0, 0⟩], horizon := 10, d0 := 10 } }
    let r : Core := lane 0 { st := .up, step := 4 } { shut with img := some im }
    (st c).runs ∧ c.laneOn 0 = true ∧ (c.lane 0).st = .up ∧ c.domOn 36 = true ∧ c.belowStep 0 = false ∧ c.position 0 0 0 = some 0 ∧
    c.position 0 1 0 = none ∧ ((lane 0 { st := .negotiate } c).lane 0).st ≠ .up ∧ ((lane 0 { st := .negotiate } c).lane 0).st ≠ .off ∧
    r.position 0 0 0 = some 0 ∧ r.power.running = true ∧ r.img = some im ∧ r.freeSlot 0 = some 0 ∧
    (∀ e ∈ [(255, -1), (256, 0), (266, 10), (267, (11 : Int))], ({ plan := { map := [⟨0, 0, 0, 0⟩], horizon := 10, start := 512, d0 := e.1 } } : Image).plan.due
      1 0 0 0 - r.fcycle im = e.2) := by
  unfold State.runs
  decide

theorem witness_DuePacketsAndIntervals :
    let x : Slot := { lane := 0, pos := 0, blk := 0, mask := 1, dflags := 0, margin := 0, idx := 7 }
    let im : Image := { plan := { map := [⟨0, 0, 0, 0⟩], start := 256 } }
    let r : Core := { shut with img := some im, ingest := { slots := [x] } }
    r.ingest.slots.find? (fun y => y.lane == 0 && y.pos == 0 && y.blk == 0) = some x ∧
    r.ingest.slots.find? (fun y => y.lane == 0 && y.pos == 0 && y.blk == 1) = none ∧ im.plan.b0 = 1 ∧ (0 : Nat) < im.plan.b0 ∧
    r.laneWasDown im 0 = true ∧ (st r).runs ∧ r.power.running = true ∧ r.img = some im ∧
    im.plan.map.find? (fun e => e.lane == 0 && e.pos == 0) = some ⟨0, 0, 0, 0⟩ ∧ im.plan.histL.elem 0 = false ∧
    ({ im.plan with coarse := 1 } : Plan).histL.elem 0 = true ∧ im.plan.b0 ≤ 1 ∧ idle.serves .ingest ∧
    idle.core.domOn 36 = true ∧ ({ up .idle with power := { (up .idle).power with on := 0 } } : Core).domOn 36 = false := by
  unfold State.serves State.runs
  decide

theorem witness_DuePacketsAndIntervals_interval :
    let u (x : Interval) : Core := { up .idle with ingest := { cur := x } }
    (u { lo := some (-1, 3), hi := some (5, 4) }).ingest.cur.lo = some (-1, 3) ∧ (u {}).ingest.cur.lo = none ∧ (u {}).ingest.cur.n = 0 ∧
    (u { outside := some 7 }).ingest.cur.outside = some 7 ∧ (u { outside := some 7 }).ingest.slip = false ∧ (u { n := 1 }).ingest.cur.n ≠ 0 ∧
    ({ up .idle with ingest := { slip := true, cur := { outside := some 7 } } } : Core).ingest.slip = true := by
  decide

theorem witness_CalibrationAndTurnPath :
    let im : Image := { plan := { coarse := 1, inputs := 1, lLog := 10 } }
    let c (k : Option CalS) : Core := { up .calibrate with img := some im, chan := { cal := k } }
    let r : Core := { run with img := some im, links := [true, true, true, true] }
    (st (c none)).serves (.fst 0) ∧ (c none).img = some im ∧ (c none).power.mode = .calibrate ∧ (c none).chan.cal = none ∧
    idle.serves (.fst 0) ∧ idle.core.img = none ∧ (c (some {})).chan.cal ≠ none ∧ (st (c (some {}))).runs ∧ ({} : CalS).ready = false ∧
    (st r).runs ∧ r.running = true ∧ (im.plan.owned r.part.dies 0)[0]? = some 0 ∧ 1023 < im.plan.rows 0 ∧ (0 : Nat) < r.part.dies ∧
    nth false r.links 3 = true ∧ nth false idle.core.links 3 = false ∧ ({ ready := true } : CalS).ready = true ∧
    ({ pass := 0, passes := 2 } : CalS).pass + 1 < 2 ∧ (2 : Nat) ≤ ({ pass := 1, passes := 2 } : CalS).pass + 1 ∧ im.plan.rows 0 ≤ 1024 ∧
    (im.plan.owned r.part.dies 0)[(im.plan.owned r.part.dies 0).length]? = none := by
  unfold State.serves State.runs
  decide

/-! ### Witnesses: Chanters, movers, cells and beams -/

/-- An instruction of opcode `k` with operand bits `v`. -/
def op (k : Nat) (v : Nat := 0) : Nat := k * 2 ^ 58 + v

/-- A Chanter that runs. -/
def go : ChanterS := { st := .running }

/-- An image whose next instruction on every die starts an action of KIND `k`. -/
def acts (k : Nat) : Image :=
  { ins (op (actionIns k)) with moves := [[[BitVec.ofNat 8 k]]], beam := some { actions := [(0, [[BitVec.ofNat 8 k]])] },
                                plan := { coarse := 1, inputs := 1 } }

/-- Every instruction of the statement stands next on die 0 and on the IO die; a loop at its last pass and before it. -/
theorem witness_ChanterIssues :
    (∀ k ∈ [0x00, 0x01, 0x02, 0x03, 0x04], (st (prog (ins (op k)) go)).runs ∧
      (prog (ins (op k)) go).atOp 0 k = some (ins (op k), go, op k) ∧ (prog (ins (op k)) go).atOp 4 k = some (ins (op k), go, op k)) ∧
    insOp (op 3 5) = 3 ∧ insOp (op 4) = 4 ∧ insOp (op 0) ≠ 3 ∧ insOp (op 0) ≠ 4 ∧
    ({ go with loops := [⟨2, 0, 0⟩, ⟨2, 1, 1⟩] } : ChanterS).loops = [⟨2, 0, 0⟩] ++ [⟨2, 1, 1⟩] ∧ (2 : Nat) ≤ 1 + 1 ∧ 0 + 1 < 2 := by
  unfold State.runs
  decide

theorem witness_MarkRegisters :
    (st (prog (ins (op 0x0D 0x1FFFF)) go)).runs ∧ (prog (ins (op 0x0D 0x1FFFF)) go).atOp 4 0x0D = some (ins (op 0x0D 0x1FFFF), go, op 0x0D 0x1FFFF) ∧
    bit (op 0x0D 0x1FFFF) 16 = true ∧ bit (op 0x0D) 16 = false := by
  unfold State.runs
  decide

theorem witness_ChanterEvents :
    let t (n : Nat) : ChanterS := { go with setrQ := List.replicate n (0, 0) }
    let f (r : Nat) : ChanterS := { go with stepReq := r }
    let insp : Core := up .inspect
    let s (m : List (Nat × Nat)) : Core := { run with chanters := [(4, { syncs := m })] }
    (∀ k ∈ [0x0B, 0x0F, 0x3F, 0x0C], (prog (ins (op k)) go).atOp 0 k = some (ins (op k), go, op k)) ∧ (st (prog (ins (op 0x0B)) go)).runs ∧
    (prog (ins (op 0x0B)) (t 16)).atOp 0 0x0B = some (ins (op 0x0B), t 16, op 0x0B) ∧ 16 ≤ (t 16).setrQ.length ∧ (t 15).setrQ.length < 16 ∧
    (prog (ins (op 0x0B)) (t 1)).chanter 0 = t 1 ∧ (prog (ins (op 0x0B)) (t 0)).chanter 0 = t 0 ∧
    (prog (ins (op 0x0F)) (f 1)).atOp 0 0x0F = some (ins (op 0x0F), f 1, op 0x0F) ∧
    (prog (ins (op 0x0E)) go).atOp 4 0x0E = some (ins (op 0x0E), go, op 0x0E) ∧
    (s [(0x100, 1)]).chanter 4 = { syncs := [(0x100, 1)] } ∧ (s [(7, 1)]).chanter 4 = { syncs := [(7, 1)] } ∧
    (List.range 4).any (fun d => ((s [(7, 1)]).chanter d).st == .held) = false ∧ (st insp).serves (.xchn 3) ∧ insp.power.mode = .inspect ∧
    idle.serves (.xchn 3) ∧ idle.core.power.mode ≠ .inspect := by
  unfold State.serves State.runs
  decide

theorem witness_MoversAndLists :
    let mv : List Byte := [0, 0x32, 7, 0] ++ leBytes 4 64 ++ List.replicate 56 0
    let im : Image := { ins (op 5) with moves := [[mv]] }
    let e (n : Nat) : HbmsEnt := ⟨n, false, 0, 1, 64, 0⟩
    let h : HbmsList := { entries := [e 1, e 2] }
    let il : Image := { ins (op 7) with hbms := [[h]] }
    let z (n : Nat) : ListS := ⟨0, n, 5, [], 0, 0⟩
    let m : MoveS := ⟨0x32, 0, 0, 64, 0, 0, 9, 0⟩
    let c (x : XDieS) (t : ChanterS) : Core := { prog il t with xdies := [(0, x)] }
    (prog im go).atOp 0 5 = some (im, go, op 5) ∧ im.move 0 (bits (op 5) 23 0) = some mv ∧ (prog il go).atOp 0 7 = some (il, go, op 7) ∧
    il.hbmsList 0 (bits (op 7) 23 0) = some h ∧ (st (c { movers := [(7, m)] } go)).runs ∧ (c { movers := [(7, m)] } go).img = some il ∧
    ((c { movers := [(7, m)] } go).xdie 0).mover 7 = m ∧ m ≠ noMove ∧ ((c {} go).xdie 0).mover 7 = noMove ∧ ((c {} go).chanter 0).st ≠ .held ∧
    ((c {} { go with st := .held }).chanter 0).st = .held ∧ nextList (il.listClass 0) ((c { lists := [z 0] } go).xdie 0).lists = some (z 0, []) ∧
    il.hbmsList 0 (z 0).list = some h ∧ h.entries[(z 0).entry]? = some (e 1) ∧ h.entries[(z 0).entry + 1]? = some (e 2) ∧
    h.entries[(z 1).entry + 1]? = none ∧
    (∀ k ∈ [1, 14], ([1, 2, 3, 4, 8, 9, 10, 12, 13, 14] : List Nat).find? (fun j => ((prog (acts k) go).atAction 0 j).isSome) = some k) := by
  unfold State.runs
  decide

/-- Nothing next, no descriptor, no list, an empty list, an entry past the last, two lists of one slot; the last miss has no action. -/
theorem witness_MoversAndLists_absent :
    let none_ : Core := prog (ins (op 0x11)) go
    let e (n : Nat) : HbmsEnt := ⟨n, false, 0, 1, 64, 0⟩
    let il : Image := { ins (op 7) with hbms := [[{ entries := [] }, { entries := [e 1] }]] }
    let z (l n : Nat) : ListS := ⟨l, n, 5, [], 0, 0⟩
    none_.atOp 0 5 = none ∧ none_.atOp 0 7 = none ∧ (ins (op 5)).move 0 (bits (op 5) 23 0) = none ∧ (prog (ins (op 5)) go).atOp 0 5 = some (ins (op 5), go, op 5) ∧
    (prog il go).atOp 0 7 = some (il, go, op 7) ∧ il.hbmsList 0 (bits (op 7) 23 0) = some { entries := [] } ∧ il.hbmsList 0 2 = none ∧
    ({ entries := [e 1] } : HbmsList).entries[(z 1 1).entry]? = none ∧ il.hbmsList 0 1 = some { entries := [e 1] } ∧ (none_.xdie 0).lists = [] ∧
    nextList (fun y => y.entry) [z 0 1, z 1 0] = some (z 1 0, [z 0 1]) ∧ nextList (fun y => y.entry) [] = none ∧ (up .idle).img = none ∧
    ([1, 2, 3, 4, 8, 9, 10, 12, 13, 14] : List Nat).find? (fun k => (none_.atAction 0 k).isSome) = none := by
  decide

/-- A running Chanter whose next instruction is none of those named, and none at all. -/
theorem witness_nothing_next :
    (∀ k ∈ [0x00, 0x01, 0x02, 0x03, 0x04, 0x05, 0x06, 0x07, 0x0B, 0x0C, 0x0D, 0x0E, 0x0F, 0x10, 0x3F],
      (prog (ins (op 0x11)) go).atOp 0 k = none ∧ (prog (ins (op 0x11)) go).atOp 4 k = none ∧ (up .idle).atOp 0 k = none) ∧
    (∀ k ∈ [1, 2, 3, 4, 8, 9, 10, 12, 13, 14], (prog (ins (op 0x11)) go).atAction 0 k = none) ∧ (st (prog (ins (op 0x11)) go)).runs := by
  unfold State.runs
  decide

/-- R129: at ±(2^47 − 1) and past it; R134: at 0xFFFFFFFE and past it. -/
theorem witness_CellsAndUpdate :
    let c (w : SMap (Nat × Nat)) : Core := { prog (acts 1) go with xdies := [(0, { chanWin := w })] }
    isMark markOvr = true ∧ isMark (2 ^ 47 - 1, 0) = false ∧ (2 : Int) ^ 47 - 1 < (2 ^ 47 - 1) + 1 ∧ (2 : Int) ^ 47 - 2 + 1 ≤ 2 ^ 47 - 1 ∧
    (0xFFFFFFFD : Nat) + 1 ≤ 0xFFFFFFFE ∧ (0xFFFFFFFE : Nat) ≤ 0xFFFFFFFE + 1 ∧ bit (2 ^ 16 + 2 ^ 25 + 2 ^ 29) 16 = true ∧
    bit (2 ^ 16 + 2 ^ 25 + 2 ^ 29) 25 = true ∧ bit (2 ^ 16 + 2 ^ 25 + 2 ^ 29) 29 = true ∧ bit 0 16 = false ∧
    (prog (ins (op 6)) go).atOp 3 6 = none ∧ (prog (ins (op 6)) go).atOp 0 6 = some (ins (op 6), go, op 6) ∧
    (c []).atAction 0 1 = some (acts 1, go, op 10, [1]) ∧ (((c []).updAt (acts 1) 0 go [1]).isSome = true) ∧
    SMap.get (fun _ => (0, 0)) ((c []).xdie 0).chanWin 0 = (0, 0) ∧ SMap.get (fun _ => (0, 0)) ((c [(0, (5, 1))]).xdie 0).chanWin 0 = (5, 1) := by
  decide

/-- An image of a mode that correlates and one that does not, and a channel that the die does not own. -/
theorem witness_CellsAndUpdate_correlates :
    let im (m : Nat) : Image := { acts 1 with hdr := { (acts 1).hdr with mode := m } }
    (im 1).correlates = true ∧ (im 3).correlates = false ∧ (prog (im 1) go).atAction 0 1 = some (im 1, go, op 10, [1]) ∧
    (((prog (im 1) go).updAt (im 1) 0 go [1]).isSome = true) ∧ (ins (op 10)).plan.coarse = 0 ∧
    ((prog (ins (op 10)) go).updAt { (im 1) with plan := { coarse := 0, inputs := 1 } } 0 go [1]).isSome = false := by
  decide

/-- R111: the word 0x0080 is invalid; 0x8080 is valid, −128 − 128j. -/
theorem witness_CellProducts :
    let bs : List Byte := [0x80, 0x00, 0x80, 0x80]
    bs[2 * 0]? = some 0x80 ∧ bs[2 * 0 + 1]? = some 0x00 ∧ bs[2 * 1]? = some 0x80 ∧ bs[2 * 1 + 1]? = some 0x80 ∧
    samples bs = [⟨0, 0, false⟩, ⟨-128, -128, true⟩] := by
  decide

theorem witness_BeamCommands :
    let im : Image := { ins (op 8) with beam := some { outs := [{ dkind := 1 }] }, plan := { start := 0, coarse := 1, inputs := 1 } }
    let c (x : TargetS) : Core := { prog im go with targets := [(0, x)] }
    let lo : TargetS := { b := .loaded }
    let early : Core := (c lo).wr64 .crook 0x048 0
    let im7 := op 7
    (st (ringd 6 0 11 0 (c lo))).rings 1 0x06 (dsc 6 0 11 0) ∧ (c lo).bankPlaced 11 = true ∧ (c lo).bankPlaced 12 = false ∧ (c lo).running = true ∧
    (st (ringd 7 0 1 0 (c lo))).rings 1 0x07 (dsc 7 0 1 0) ∧ (c lo).img = some im ∧ im.plan.swapBlock 0 = some 0 ∧ im.plan.swapBlock 64 = some 1 ∧
    ((ringd 6 0 11 0 { up .idle with img := some im }).running = false) ∧ (c lo).targetUsed 0 = true ∧
    (c lo).swapStatus 0 1 0 = (stInvalid, 0) ∧ (c lo).swapStatus 1 0 0 = (stInvalid, 0) ∧ (c lo).swapStatus 1 65537 0 = (stInvalid, 0) ∧
    (c { lo with swap := some ⟨1, 0, 1, 1, 0, 0, false⟩ }).swapStatus 1 65536 0 = (stBusy, 0) ∧ (c { lo with fading := true }).swapStatus 1 1 0 = (stFading, 0) ∧
    (c {}).swapStatus 1 1 0 = (stNotReady, 0) ∧ (c lo).swapStatus 1 1 0 = (stLate, 0) ∧ (c lo).swapStatus 1 65536 1024 = (stAccepted, 16) := by
  unfold State.rings State.runs
  decide

theorem witness_BeamCommands_regenerate :
    (prog (acts 8) go).atAction 0 8 = some (acts 8, go, op 8, [8]) ∧ (prog (acts 9) go).atAction 0 9 = some (acts 9, go, op 8, [9]) ∧
    (st (prog (acts 8) go)).runs := by
  unfold State.runs
  decide

theorem witness_FramesLeave :
    let f : Frame := { dest := 0, type := 0, flags := 0, source := 0, tag := 0, seq := 0, launchS := 0, launchNs := 0, hdr := [], origin := 0, payload := [] }
    let c (f : Frame) (tc : Nat) : Core := { up .idle with xdies := [(0, { egress := [f] })], time := { tc := tc } }
    (∀ k ∈ [2, 3, 4, 10, 14], ((prog (acts k) go).atAction 0 k).isSome = true) ∧ (st (c f 0)).runs ∧ ((c f 0).xdie 0).egress = [f] ∧ f.held = false ∧
    ¬ ((f.launch : Int) * 65536 < (c f 0).time.atb) ∧ (f.launch : Int) * 65536 < (c f 1).time.atb ∧
    bit (((c f 1).wr (.xdie 0) 0x208 1).rd (.xdie 0) 0x208) 0 = true ∧ bit (((c f 1).wr (.xdie 0) 0x208 0).rd (.xdie 0) 0x208) 0 = false ∧
    (f.launch : Int) * 65536 ≤ (c { f with held := true } 0).time.atb ∧ (c { f with wait := true } 0).host.linkUp = true ∧
    ({ f with dest := 0x8001 } : Frame).dest.testBit 15 = true ∧ f.dest.testBit 15 = false ∧ ((c f 0).lane 0).st ≠ .up ∧
    ((lane 0 { st := .up } (c f 0)).lane 0).st = .up ∧
    ((c f 0).lane 0).st ≠ .recal ∧ ((lane 0 { st := .recal } (c f 0)).lane 0).st = .recal := by
  unfold State.runs
  decide

theorem witness_FramesLeave_held :
    let f : Frame := { dest := 0x8001, type := 0, flags := 0, source := 0, tag := 0, seq := 0, launchS := 0, launchNs := 0, hdr := [], origin := 0, payload := [] }
    let c (f : List Frame) (tc : Nat) (l : Bool) : Core :=
      { up .idle with xdies := [(0, { egress := f })], time := { tc := tc }, host := { (up .idle).host with linkUp := l } }
    ((c [] 0 true).xdie 0).egress = [] ∧ (st (c [] 0 true)).runs ∧ { f with held := true }.held = true ∧ f.held = false ∧ { f with wait := true }.wait = true ∧ f.wait = false ∧
    (f.launch : Int) * 65536 ≤ (c [{ f with held := true }] 0 true).time.atb ∧
    (c [f] 0 true).time.atb < (({ f with launchS := 1 } : Frame).launch : Int) * 65536 ∧ (c [{ f with wait := true }] 0 false).host.linkUp = false ∧
    f.dest.testBit 15 = true ∧ (c [f] 0 true).host.linkUp = true := by
  unfold State.runs
  decide

theorem witness_ReductionActions :
    let g (k : Nat) : Image := { acts 12 with beam := some { actions := [(0, [[12]])], reds := [(0, { kind := k })] } }
    (∀ k ∈ [12, 13], ((prog (acts k) go).atAction 0 k).isSome = true) ∧ (st (prog (acts 12) go)).runs ∧ (up .quiesce).power.mode = .quiesce ∧
    ((g 1).redCfg 0).kind ≠ 0 ∧ ((g 0).redCfg 0).kind = 0 ∧
    ({ up .quiesce with xdies := [(0, { red := { closing := true } })] } : Core).power.mode = .quiesce ∧
    ((({ up .quiesce with xdies := [(0, { red := { closing := true } })] } : Core).xdie 0).red.closing = true) ∧ ((up .quiesce).xdie 0).red.closing = false ∧ shut.power.mode ≠ .quiesce ∧ ({ kind := 2 } : RedCfg).kind ≠ 1 := by
  unfold State.runs
  decide

theorem witness_MomentRoundingAddresses :
    (3 : Nat) < 4 ∧ (8191 : Nat) < 8192 ∧ (1 : Nat) < 2 ∧ ({ kind := 2 } : RedCfg).kind ≠ 1 ∧ ({ k := 2 ^ 24 - 1 } : RSum).k < 2 ^ 24 := by
  decide

/-! ### Witnesses: images, modes and power -/

/-- An extent of 1 fails SIZE. The acceptance of an image needs one of some kilobytes and is no small term. -/
theorem witness_ImageCommitAndVerify :
    let c : Core := { ringd 2 0 0 0 (up .idle) with imgSt := 2, host := { (ringd 2 0 0 0 (up .idle)).host with commitRing := some 1 } }
    (st (ringd 2 0 0 0 (up .idle))).rings 1 0x02 (dsc 2 0 0 0) ∧ (up .idle).host.loadRing = none ∧ (up .idle).power.mode = .idle ∧
    ({ up .idle with host := { (up .idle).host with loadRing := some 1 } } : Core).host.loadRing ≠ none ∧ (st c).runs ∧ c.host.commitRing = some 1 ∧
    c.imgSt = 2 ∧ (checkSize [] 1).isSome = true ∧ ((c.verify (c.io.read 0x0E000000 c.host.extent) c.host.extent).fail.isSome = true) ∧
    (up .idle).host.commitRing = none ∧ (up .idle).imgSt ≠ 2 ∧ c.host.commitRing ≠ none := by
  unfold State.rings State.runs
  decide

theorem witness_ModeRequests :
    let p (m : Mode) (f : PowerS → PowerS) : Core := { up m with power := f (up m).power }
    let tr (m : Mode) : Core := { up m with stacksOf := (List.range 8).map (fun n => (n, { st := .trained })) }
    let im : Image := { plan := { map := [⟨0, 0, 0, 0⟩] } }
    let i (d : DpllSt) : Core := { tr .idle with imgSt := 3, img := some im, time := { dpll := d } }
    (∀ m ∈ [Mode.safe, .bringup, .idle, .correlate, .inspect, .quiesce], (st (up m)).runs ∧ (st { up m with img := none }).core.power.mode = m ∧
      (up m).power.forced = false ∧ (up m).power.phase = .steady) ∧
    idle.serves .mode ∧ (st (up .safe)).serves .mode ∧ (st (up .bringup)).serves .mode ∧ (st run).serves .mode ∧
    (p .idle (fun q => { q with forced := true })).power.forced = true ∧ (p .idle (fun q => { q with phase := .preRoll })).starting = true ∧
    (p .idle (fun q => { q with phase := .powerDown })).power.phase ≠ .steady ∧ (p .idle (fun q => { q with phase := .powerDown })).starting = false ∧
    run.power.mode.isSchedule = true ∧ (∀ n, n < 8 → (tr .bringup).stackUp n = true) ∧ (up .bringup).stackUp 7 = false ∧
    (up .idle).imgSt ≠ 3 ∧ (i .locked).allTrained = true ∧ ({ up .idle with imgSt := 3, img := some im } : Core).allTrained = false ∧
    ({ up .bringup with stacksOf := [(0, { st := .trained, rate := 1 })] } : Core).stackUp 0 = true ∧
    (({ up .bringup with stacksOf := [(0, { st := .trained, rate := 1 })] } : Core).stack 0).rate ≠ 0 ∧ (∀ n, n < 8 → ((tr .bringup).stack n).rate = 0) ∧ (i .freerun).time.dpll ≠ .locked ∧ (i .freerun).time.dpll ≠ .holdover ∧ ((i .locked).modPlant (fun q => { q with latch := true })).plant.latch = true ∧
    ((i .holdover).wr .plant 0x040 1).plantEn = true ∧ (i .locked).plantEn = false ∧ (i .locked).plant.latch = false ∧ ((i .locked).startChecks im).2 = false := by
  unfold State.serves State.runs
  decide

theorem witness_StartStopAndDomains :
    let p (f : PowerS → PowerS) (im : Image) : Core := { up .idle with power := f (up .idle).power, img := some im }
    let ph (x : Phase) : Core := p (fun q => { q with phase := x }) {}
    (st (ph .powering)).runs ∧ (ph .powering).starting = true ∧ (∀ n ∈ ({} : Image).domains 4, (ph .powering).domOn n = true ∧ (ph .powering).power.ready.testBit n = true) ∧
    72 ∈ ({} : Image).domains 4 ∧ (p (fun q => { q with on := 0, phase := .powering }) {}).domOn 72 = false := by
  unfold State.runs
  decide

theorem witness_StartStopAndDomains_switches :
    let p (f : PowerS → PowerS) (im : Image) : Core := { up .idle with power := f (up .idle).power, img := some im }
    let ph (x : Phase) : Core := p (fun q => { q with phase := x }) {}
    let dear : Core := p (fun q => { q with phase := .preRoll }) { powr := { avgs := [6201] } }
    let w (b : Bool) : Core := p (fun q => { q with want := [(177, b)], credit := 10000, down := 10000, on := 0 }) {}
    let off : Core := p (fun q => { q with ready := 2 ^ 177 - 1 }) {}
    dear.starting = true ∧ dear.ceiling * 1000 < dear.pStart ∧ (ph .preRoll).pStart ≤ (ph .preRoll).ceiling * 1000 ∧ (ph .preRoll).power.phase ≠ .waitT0 ∧
    (ph .waitT0).starting = true ∧ (ph .waitT0).power.phase = .waitT0 ∧ (ph .powerDown).power.phase = .powerDown ∧ (ph .powerDown).power.want = [] ∧
    (w true).power.nextOn = some 177 ∧ idleOf 177 ≤ (w true).power.credit ∧ (w true).pDraw + idleOf 177 ≤ (w true).ceiling * 1000 ∧
    (w false).power.nextOff = some 177 ∧ idleOf 177 ≤ (w false).power.down ∧ (w false).domPending 177 = false ∧
    (st (w true)).runs ∧ ¬ idleOf 177 ≤ ({ (w true).power with credit := 0 } : PowerS).credit ∧ (w false).power.nextOn ≠ some 177 ∧ (w true).power.nextOff ≠ some 177 ∧
    (∃ e ∈ (p (fun q => { q with phase := .powerDown, want := [(177, false)] }) {}).power.want, e.2 = false) ∧
    (p (fun q => { q with phase := .powerDown, want := [(177, true)] }) {}).power.want.all (fun e => e.2) = true ∧
    ({ w false with pend := [⟨0, 1, 0, 0, 0⟩] } : Core).pend ≠ [] ∧ (up .idle).img = none ∧ off.domOn 177 = true ∧ off.power.ready.testBit 177 = false ∧ (prog (ins (op 0x10)) go).atOp 4 0x10 = some (ins (op 0x10), go, op 0x10) := by
  unfold State.runs
  decide

/-- The least S, and none withheld and all withheld of the greatest. -/
theorem witness_SkipMask :
    (0 : Nat) < 1 ∧ (1 : Nat) ≤ 1 ∧ (0 : Nat) ≤ 64 ∧ (0 : Nat) < 64 := by
  decide

theorem witness_BreathCommands :
    let fr : Core := { up .idle with dbg := { frozen := true } }
    let d : Core := { up .idle with droneOn := false }
    let one : Core := { up .idle with power := { (up .idle).power with on := 2 ^ 36 } }
    let low : Core := one.wr .pwr 0x054 0
    d.droneOn = false ∧ idle.core.droneOn = true ∧ fr.droneOn = true ∧ fr.dbg.frozen = true ∧ idle.core.dbg.frozen = false ∧
    (one.target0 0 ≤ one.ceiling) ∧ (low.ceiling : Int) < low.target0 0 ∧ idle.runs := by
  unfold State.runs
  decide

theorem witness_BreathCommands_telemetry :
    bit (((up .idle).wr .pwr 0x040 1).rd .pwr 0x040) 0 = true ∧ idle.core.domOn 36 = true ∧ bit (idle.core.rd .pwr 0x040) 0 = false := by
  decide

theorem witness_PlantCommands :
    let e : Core := (up .idle).wr .plant 0x040 1
    let q : Core := ((up .quiesce).wr .plant 0x040 1).modPlant (fun p => { p with latch := true })
    let f : Core := (up .idle).wr .plant 0x060 1
    (idle.core.droneOn && idle.core.plantEn) = false ∧ (e.droneOn && e.plantEn) = true ∧ (q.droneOn && q.plantEn) = true ∧
    q.power.mode = .quiesce ∧ q.plant.latch = true ∧ e.power.mode ≠ .quiesce ∧ (e.modPlant (fun p => { p with silent := true })).plant.silent = true ∧
    e.plant.silent = false ∧ bits (f.rd .plant 0x060) 15 0 ≠ 0 ∧ idle.serves .plant ∧ idle.core.plant.warn = false ∧ idle.core.plant.flowSecs = 0 ∧
    idle.core.part.sensors.filterMap (fun k => (([0x2710] : List (BitVec 16))[k]?).map (fun r => (r.toInt, k))) = [(10000, 0)] ∧
    i2cTemp 0x5500 = 8500 ∧ 0 ≤ i2cTemp 0 := by
  unfold State.serves State.runs
  decide

/-- Two bytes before the sync byte; a GRANT, one of a wrong LEN, one whose CRC is wrong, a part of one; silence, and the case sensor. -/
theorem witness_PlantCommands_messages :
    let m (t : Byte) (n : Nat) : List Byte := let h : List Byte := t :: BitVec.ofNat 8 n :: List.replicate n 0
      h.drop 2 ++ [BitVec.ofNat 8 ((crc16 h).toNat / 256), BitVec.ofNat 8 (crc16 h).toNat]
    let g : List Byte := [1, 2] ++ [0xA5, 0x81, 4] ++ m 0x81 4
    let e : Core := (up .idle).wr .plant 0x040 1
    (∀ b ∈ ([1, 2] : List Byte), b ≠ 0xA5) ∧ plantMsg ([] ++ g) = (some (0x81, [0, 0, 0, 0]), []) ∧ plantMsg ([1, 2] ++ g.drop 2) = plantMsg g ∧
    plantMsg ([0xA5, 0x82, 6] ++ m 0x82 6 ++ [7]) = (some (0x82, List.replicate 6 0), [7]) ∧ (plantMsg ([0xA5, 0x83, 2] ++ m 0x83 2)).1 = some (0x83, [0, 0]) ∧
    (plantMsg ([0xA5, 0x81, 0] ++ m 0x81 0)).1 = some (1, []) ∧ (plantMsg [0xA5, 0x81, 0, 0, 0]).1 = some (0, []) ∧ (plantMsg ([0xA5, 0x81, 4, 0])).1 = none ∧
    (e.modPlant (fun p => { p with silent := true })).plant.silent = true ∧ e.plant.silent = false ∧ (up .idle).droneOn = true ∧
    ({ up .idle with droneOn := false } : Core).droneOn = false ∧ (e.modPlant (fun p => { p with failRun := 2 })).plant.failRun = 2 := by decide +kernel

/-! ### Witnesses: faults, resets and debug -/

/-- The last page, the last class, and 110.00 °C. -/
theorem witness_FaultCommands :
    let p : Pend := ⟨4095, 0x01, clsN, 0, 0⟩
    let s : State := st { up .idle with pend := [p] }
    s.runs ∧ s.nextSlot = some p ∧ idle.nextSlot = none ∧ (3 : Nat) < 4 ∧ ({ outS := true } : Collector).flag 2 = true ∧ idle.serves .flt ∧
    idle.core.droneOn = true ∧ idle.core.part.sensors.elem 39 = true ∧ 11000 ≤ (0x2AF8 : BitVec 16).toInt ∧ (0x2AF7 : BitVec 16).toInt < 11000 ∧
    idle.core.plant.tripped = false ∧
    (up .safe).power.mode = .safe ∧ State.reset.core.power.mode = .shelved ∧ State.reset.core.perst = true ∧
    ({ State.reset.core with perst := false } : Core).power.railsOff = false ∧ idle.core.power.mode ≠ .shelved ∧ idle.core.power.mode ≠ .safe ∧
    ({ outN := true } : Collector).flag 0 = true ∧ ({} : Collector).flag 2 = false ∧ s.nextSlot.isSome = true ∧ p.page ≠ 3 := by
  unfold State.serves State.runs
  decide

theorem witness_ResetCommands :
    let c (f : HostS → HostS) (m : Mode) : Core := { up m with host := f (up m).host }
    let forced : Core := { up .idle with power := { (up .idle).power with forced := true } }
    idle.runs ∧ (idle.core.functionUp && idle.core.host.linkUp) = true ∧ idle.core.xdies = [] ∧
    ((c (fun h => { h with linkUp := false }) .idle).functionUp && (c (fun h => { h with linkUp := false }) .idle).host.linkUp) = false ∧
    ((up .idle).wr .rst 0x044 0x20).devBusy = true ∧ idle.core.devBusy = false ∧ idle.core.power.forced = false ∧ idle.core.host.d3 = none ∧
    (up .safe).power.mode = .safe ∧ ((up .safe).functionUp && (up .safe).host.linkUp) = true ∧ (st forced).runs ∧ forced.power.forced = true ∧
    forced.power.mode = .idle ∧ forced.power.phase = .steady ∧ (c (fun h => { h with d3 := some .idle }) .idle).host.d3 ≠ none ∧
    idle.core.host.commitRing = none ∧ (c (fun h => { h with d3 := some .idle, commitRing := some 1 }) .idle).host.commitRing = some 1 ∧
    idle.core.power.mode ≠ .safe ∧ idle.core.power.mode ≠ .shelved ∧ idle.serves .rst ∧ (st (up .safe)).serves .rst ∧ (0xDE57 : BitVec 16) ≠ 0xDE58 := by
  unfold State.serves State.runs
  decide

theorem witness_SuppliesAndPerst :
    let r : Core := State.reset.core
    let o : Core := { r with power := { r.power with railsOff := true } }
    r.droneOn = true ∧ r.perst = true ∧ r.power.railsOff = false ∧ r.power.mode = .shelved ∧ r.persist = false ∧ (r.wr (.time 0) 0x040 1).persist = true ∧
    idle.core.perst = false ∧ idle.core.droneOn = true ∧ ({ r with droneOn := false } : Core).droneOn = false ∧ o.power.railsOff = true ∧
    idle.core.power.mode ≠ .shelved ∧
    ({ r with power := { r.power with mode := .idle } } : Core).power.mode ≠ .shelved := by
  decide

theorem witness_PilotCommands :
    let c (n : Nat) : Core := { (up .bringup).wr .mode 0x058 0x1000000 with lanes := (List.range n).map (fun k => (k, { st := .up, step := 2 })) }
    let q (l : List Nat) : Core := { c 16 with pilot := { on := true, ints := l.map (fun k => { q := k }) } }
    (st (c 16)).runs ∧ (c 16).pilotMay = true ∧ (c 15).pilotMay = false ∧ (c 16).pilot.on = false ∧ (q []).pilot.on = true ∧
    pilotDoms.all (fun n => (c 16).domOn n && (c 16).power.ready.testBit n) = true ∧
    pilotDoms.all (fun n => ({ c 16 with power := { (c 16).power with ready := 0 } } : Core).power.ready.testBit n) = false ∧
    ((q [7, 8]).pilot.ints.find? (fun x => (q [7, 8]).pilot.ints.any (fun y => y.q == x.q + 1))).isSome = true ∧
    ((q [7]).pilot.ints.find? (fun x => (q [7]).pilot.ints.any (fun y => y.q == x.q + 1))).isSome = false := by
  unfold State.runs
  decide

theorem witness_DebugCommands :
    let c (f : DebugS → DebugS) : Core := { up .idle with dbg := f {} }
    let lock : Core := { up .idle with otp := { debugLock := true } }
    let rq : DWord := 0x8000004000000000
    idle.runs ∧ idle.core.debugLocked = false ∧ lock.debugLocked = true ∧ idle.core.dbg.req = none ∧ (c (fun d => { d with req := some rq })).dbg.req = some rq ∧
    pageAt idle.core.part (bits rq.toNat 55 44) = some .glb ∧ idle.core.domOn 37 = true ∧ idle.core.winOpen 4 37 = true ∧
    idle.core.lockedOut .glb 1 = false ∧ ¬ (idle.core.winOpen PageKind.glb.chip 37 = false ∨ idle.core.lockedOut .glb 1 = true ∨ idle.core.hostFirst .glb = true) ∧ shut.winOpen 4 37 = false ∧
    pageAt shut.part 4095 = none ∧ bits (0xFFFFFFFFFFFFFFFF : DWord).toNat 55 44 = 4095 ∧ ({ up .idle with power := { (up .idle).power with on := 0 } } : Core).domOn 36 = false ∧
    rq.toNat.testBit 63 = true ∧ (0x4000000000 : DWord).toNat.testBit 63 = false ∧ idle.serves .dbg := by
  unfold State.serves State.runs
  decide

/-- The acceptance of a token needs a signature over a free value (the challenge), and is no term that can be written. -/
theorem witness_DebugCommands_tap :
    let c (f : DebugS → DebugS) : Core := { up .idle with dbg := f {} }
    let lock : Core := { up .idle with otp := { debugLock := true } }
    (c (fun d => { d with frozen := true })).dbg.frozen = true ∧ idle.core.tapUp = true ∧ ({ up .idle with droneOn := false } : Core).tapUp = false ∧
    ({ up .idle with otp := { bscanLock := true } } : Core).bscanShut = false ∧ ({ up .idle with otp := { bscanLock := true, debugLock := true } } : Core).bscanShut = true ∧
    lock.debugOpenFor 0 = false ∧ idle.core.debugOpenFor 1 = true ∧ lock.debugOpenFor 1 = false ∧ (c (fun d => { d with barred := true })).dbg.barred = true ∧
    (c (fun d => { d with token := some [] })).dbg.token = some [] ∧ (c (fun d => { d with token := some [] })).tokenOk [] = false := by
  decide

/-- The greatest group, channel and mask, and the last sample index. -/
theorem witness_LineCarriesPackets :
    (255 : Nat) < 256 ∧ (127 : Nat) < 128 ∧ (65535 : Nat) < 2 ^ 16 ∧ (2 ^ 64 - 256 : Nat) < 2 ^ 64 ∧ (2 ^ 64 - 256) % 256 = 0 ∧
    (List.replicate 14 (0 : Byte)).length = 14 := by
  decide

/-! ### Values the spec works out -/

/-- Worked examples of R8 and chapter 16: X2_CLU5 is page 0x295; X2_CELLS.CNT_LOST lies at BAR0 offset 0x0028_2074. -/
theorem test_register_page :
    (PageKind.clu 2 5).no = 0x295 ∧ (PageKind.cells 2).key 0x074 = 0x282074 := by
  decide

/-- R57's worked example: phases 12 to 52 and v = −23 to 23 pass; LANE_QUAL reads 0x005E_0280. -/
theorem test_eye_quality :
    eyeQual 1000000 6 (List.replicate 12 2 ++ List.replicate 41 1 ++ List.replicate 11 2)
      (List.replicate 104 2 ++ List.replicate 47 1 ++ List.replicate 104 2) = 0x005E0280 := by
  decide

/-- R85's worked example: k = 3, fr = 0x50_0000_0000, θ = 0x4400_0000, and 1 000 rotates to −98 + 995j. -/
theorem test_delay_and_rotation :
    let e := (Seg.mk 0 0 0x35000000000 0 0 0).eval 0
    e.k = 3 ∧ e.fr = 0x5000000000 ∧ thetaReg 0x38080000000 e 6 3 = 0x44000000 ∧ rotate (1000, 0) 0x44000000 = ((-98, 995), 0) := by
  decide

/-- R87's worked example: −98 + 995j at gain 3 146 and RQ_SHIFT 6 is −1 + 12j, not saturated. -/
theorem test_requantise :
    requant (-98, 995) 3146 6 = ((-1, 12), false) := by
  decide

/-- R94's worked example: P_z = 64 at f_cc / 32 has eight unsettled spectra. -/
theorem test_zoom_band :
    ({ preset := 2, pzLog := 6 } : Zoom).D = 32 ∧ ({ preset := 2, pzLog := 6 } : Zoom).unsettled = 8 := by
  decide

/-- R128's worked example: blocks 1 and 31 of 64 are task 94, and 380 992 entries lie before it. -/
theorem test_task_number :
    tauOf 64 1 31 = 94 ∧ entriesBefore 64 94 = 380992 := by
  decide

/-- Chapter 14's worked example: staging address 0xC_7271_00C8 lies in pseudo-channel 0 of stack M4, row 6 372, bank 28. -/
theorem test_hbm_address :
    let a := 0xC727100C8
    pcOf a = 0 ∧ stackOf 2 a = 4 ∧ rowOf a = 6372 ∧ bankOf a = 28 := by
  decide

/-- Chapter 8's worked example: FQ, the rotation of −5 000 000, and the weight 1 068 − 3 954j. -/
theorem test_beam_weight :
    beamFq 1562500 3 0x38080000000 6 = 1401171875 * 65536 ∧ beamRot (1401171875 * 65536) (-5000000) = (17085, -63270) ∧
    beamWeight 0x1000 16 32767 (17085, -63270) = (1068, -3954) := by
  decide

/-- Chapter 8's worked examples: the requantised sample 74 − 26j, and blocks 1 and 3 of a fade of four. -/
theorem test_beam_sample :
    beamRequant (3245760, -1118208) 0x6000 30 127 = ((74, -26), false) ∧ fadeMix (1000001, 0) (1000004, 0) 1 4 = (1000002, 0) ∧
    fadeMix (1000001, 0) (1000004, 0) 3 4 = (1000004, 0) := by
  decide

/-- R195's worked example: 10^9 is exact; 10^9 + 7 becomes 10^9 + 64 or 10^9; the third sum is 64 or 0. -/
theorem test_stochastic_rounding :
    let s (x : Int) (k : Nat) := srBits 0 (Exact.ofInt x) 0 k
    s 1000000000 0 = (0x4E6E6B28, false) ∧ ((s 1000000007 1).1 = 0x4E6E6B29 ∨ (s 1000000007 1).1 = 0x4E6E6B28) ∧ s 64 2 = (0x42800000, false) := by
  decide

/-- R206's worked examples of an index. -/
theorem test_term_index :
    (Term.mk 0 37 142 5 true 0 false).index 0 = 0x0005023825 ∧ (Term.mk 0 12 150 5 true 0 false).index 0 = 0x000502580C := by
  decide

/-- R207's worked example: c = 100, S1 = 4, S2 = 18 over four terms: MEAN 101, VAR 14/3. -/
theorem test_moments :
    ({ n := 4, s1 := { s := 0x40800000 }, s2 := { s := 0x41900000 } } : RedGrp).final 0x4059000000000000 =
      (0x4059400000000000, 0x4012AAAAAAAAAAAB, false) := by
  decide

/-- R322's worked example: 250 ns at 1 ns per ms: each boundary takes 1 ns from the remainder: 249 ns, then 248 ns. -/
theorem test_slide :
    let t : TimeS := { rem := 0xFA0000, sstep := 65536 }
    t.boundary.rem = 249 * 65536 ∧ t.boundary.boundary.rem = 248 * 65536 := by
  decide

/-- R387's worked example: bursts run downward; the first reads 0x1000_F000 and writes 0x1001_3000. -/
theorem test_overlapping_copy :
    let j : Job := { ring := 0, n := 0, tag := 0, irq := false, purpose := .host, srcSp := 2, dstSp := 2, len := 65536, src := 0x10000000, dst := 0x10004000 }
    j.down = true ∧ j.next = 4096 ∧ j.srcAt (j.offset j.next) = 0x1000F000 ∧ j.dstAt (j.offset j.next) = 0x10013000 := by
  decide

/-- Table 17.5: the CONTRACT message of X2_XCHN, with a Degraded outstanding, is accepted as Severe, ORIG_CLASS 1 and ESCALATED. -/
theorem test_escalation :
    let r := ({ outD := true } : Collector).record (up .idle) ⟨0x281, 0x50, 1, 0x1D1A94A2000, 0⟩
    r.msg = 0x281509D1A94A2000 ∧ r.orig = 1 ∧ r.esc = true := by
  decide

/-- R32, R33: a packet block opens with 32 ones and 32 zeros, a control block with the opposite. -/
theorem test_packet_line :
    (packetLine 0 0 []).take 33 = List.replicate 32 true ++ [false] ∧ (ctrlLine []).take 33 = List.replicate 32 false ++ [true] := by
  decide

end Sys2Proof.Machine.Test
end

section
/-! PROOFS. The commands that a host gives through registers complete (O60): what a served command leaves, then the branch of each
command in which it has its own effect. -/

namespace Sys2Proof.Machine

/-! ### The outcome of a served command, with the core it leaves named -/

section Served

variable {s : State} {k : PageKind} {d : Core}

/-- A register command that is served leaves the core of its effect. -/
theorem regCmd_next_eq {i : Instr} {f : Core → Core} (h : s.serves k) (e : f (s.core.lockAccess k 0) = d) :
    regCmd i k f s = .next (s.after { s with core := d }) := e ▸ regCmd_does i k f s h

theorem act_next_eq {f : Core → Core} (h : s.runs) (e : f s.core = d) : act f s = .next (s.after { s with core := d }) :=
  e ▸ act_does f s h

theorem State.serves.page (h : s.serves k) : pageAt s.core.part k.no = some k := h.2.1
theorem State.serves.route (h : s.serves k) : s.core.route k = .serve := h.2.2.1
theorem State.serves.acts (h : s.serves k) : s.core.acts k = true := h.2.2.2

theorem State.serves.acts_locked (h : s.serves k) : (s.core.lockAccess k 0).acts k = true :=
  (Core.acts_lockAccess ..).trans h.acts

/-- A page whose commands act is powered (R405). -/
theorem Core.powered_of_acts {c : Core} (h : c.acts k = true) : c.powered k = true := by
  unfold Core.acts at h
  exact (Bool.and_eq_true _ _ ▸ h).1

end Served

/-! ### What the count of a lock's access leaves -/

section Locked

variable (c : Core) (k j : PageKind) (m : Nat)

theorem PageKind.key_ne {k j : PageKind} {o p : Nat} (h : j.no ≠ k.no) (ho : o < 4096) (hp : p < 4096) :
    j.key o ≠ k.key p := by
  unfold PageKind.key
  omega

/-- The count of a lock's accesses touches registers of pages CXB and FLT alone (R393, R394, R414). -/
theorem Core.rd_lockAccess_off {o : Nat} (ho : o < 4096) (hc : j.no ≠ PageKind.cxb.no) (hf : j.no ≠ PageKind.flt.no) :
    (c.lockAccess k m).rd j o = c.rd j o :=
  Core.rd_lockAccess c k j m o (PageKind.key_ne hc ho (by decide)) (PageKind.key_ne hc ho (by decide))
    (PageKind.key_ne hc ho (by decide)) (PageKind.key_ne hf ho (by decide))

@[simp] theorem Core.running_lockAccess : (c.lockAccess k m).running = c.running := by simp [Core.running]
@[simp] theorem Core.hbmMode_lockAccess : (c.lockAccess k m).hbmMode = c.hbmMode := by simp [Core.hbmMode]
@[simp] theorem Core.irqOn_lockAccess : (c.lockAccess k m).irqOn j = c.irqOn j := by
  simp only [Core.irqOn, Core.rd_lockAccess_ctl]
@[simp] theorem Core.ringActive_lockAccess (r : Nat) : (c.lockAccess k m).ringActive r = c.ringActive r := by
  simp [Core.ringActive]
@[simp] theorem Core.stackUp_lockAccess (n : Nat) : (c.lockAccess k m).stackUp n = c.stackUp n := by simp [Core.stackUp]
@[simp] theorem Core.allTrained_lockAccess : (c.lockAccess k m).allTrained = c.allTrained := by simp [Core.allTrained]
@[simp] theorem Core.ingCount_lockAccess (l n : Nat) : (c.lockAccess k m).ingCount l n = c.ingCount l n := by
  simp [Core.ingCount]
@[simp] theorem Core.inspAt_lockAccess (n : Nat) : (c.lockAccess k m).inspAt n = c.inspAt n := by simp [Core.inspAt]
@[simp] theorem Core.scanCfg_lockAccess (l : Nat) : (c.lockAccess k m).scanCfg l = c.scanCfg l :=
  Core.rd_lockAccess_off _ _ _ _ (by decide) (by simp only [PageKind.no]; omega) (by simp only [PageKind.no]; omega)
@[simp] theorem Core.plantEn_lockAccess : (c.lockAccess k m).plantEn = c.plantEn := by
  unfold Core.plantEn; rw [Core.rd_lockAccess_off _ _ _ _ (by decide) (by decide) (by decide)]
@[simp] theorem Core.refEn_lockAccess (n : Fin 4) : (c.lockAccess k m).refEn n = c.refEn n := by
  unfold Core.refEn Core.refCfg; rw [Core.rd_lockAccess_off _ _ _ _ (by omega) (by decide) (by decide)]
/-- No lock covers CXB (R393). -/
@[simp] theorem Core.lockAccess_cxb : c.lockAccess .cxb m = c := by simp [Core.lockAccess, PageKind.lockable]

end Locked

/-! ### Register writes and the page header -/

section Registers

variable {s : State} {k j : PageKind} (c : Core)

/-- While no schedule runs, a write stores every writable field, the RWL ones too (R9). -/
theorem Core.writeFields_of_not_running {off v : Nat} (h : c.running = false) :
    c.writeFields k off v = c.wr k off
      ((v &&& ((k.row off).rw ||| (k.row off).rws ||| (k.row off).rwl)) |||
        (c.rd k off &&& (m32 ^^^ ((k.row off).rw ||| (k.row off).rws ||| (k.row off).rwl)))) := by
  simp [Core.writeFields, h]

/-- A recorded kind touches PAGE_FLT of its page and the count of coalesced messages (R9, R414). -/
theorem Core.rd_pageFlt {kind p : Nat} (h : j.key p ≠ k.key 0x01C) (hf : j.key p ≠ PageKind.flt.key 0x090) :
    (c.pageFlt k kind).rd j p = c.rd j p := by
  unfold Core.pageFlt
  rw [Core.rd_report _ _ _ _ _ _ _ hf, Core.rd_wr, if_neg h]

/-- A write of a register's fields stores a value, and may record a kind on top (R9). -/
theorem Core.writeFields_cases (k : PageKind) (off v : Nat) :
    ∃ w, c.writeFields k off v = c.wr k off w ∨ c.writeFields k off v = (c.wr k off w).pageFlt k 0x01 := by
  cases h : c.running with
  | false => exact ⟨_, .inl (c.writeFields_of_not_running h)⟩
  | true =>
    simp only [Core.writeFields, h, true_and, if_true]
    split_ifs
    · exact ⟨_, .inr rfl⟩
    · exact ⟨_, .inl rfl⟩

/-- A write of another register leaves IRQ_EN of PAGE_CTL. -/
theorem Core.irqOn_writeFields {off v : Nat} (h : off ≠ 0x008) : (c.writeFields k off v).irqOn k = c.irqOn k := by
  have hw : ∀ w, (c.wr k off w).rd k 0x008 = c.rd k 0x008 := fun w => by
    rw [Core.rd_wr, if_neg (fun e => h (PageKind.key_inj.1 e).symm)]
  have hk : k.key 0x008 ≠ PageKind.flt.key 0x090 := by
    unfold PageKind.key
    omega
  obtain ⟨w, e | e⟩ := c.writeFields_cases k off v <;> rw [e, Core.irqOn, Core.irqOn]
  · rw [hw]
  · rw [Core.rd_pageFlt _ (fun e => absurd (PageKind.key_inj.1 e) (by decide)) hk, hw]

theorem Core.timeFollow_of_ne (old : Core) (h0 : k ≠ .time 0) (h1 : k ≠ .time 1) : old.timeFollow c k = c := by
  unfold Core.timeFollow
  split
  · exact absurd rfl h0
  · exact absurd rfl h1
  · rfl

/-- Outside the header and the registers with rows of their own, a write stores the register's fields. -/
theorem Core.writeReg_eq_writeFields {off v : Nat} (hoff : 0x020 ≤ off) (hown : k.ownRow off = false) (hb : k ≠ .bxb)
    (hr : k ≠ .ring) (hp : k ≠ .plant) (h0 : k ≠ .time 0) (h1 : k ≠ .time 1) :
    c.writeReg k off v = c.writeFields k off v := by
  unfold Core.writeReg
  rw [if_neg (by simp [hown]), if_neg (by omega)]
  split
  · exact absurd rfl hb
  · exact absurd rfl hr
  · exact absurd rfl hp
  · exact Core.timeFollow_of_ne _ _ h0 h1

/-- A host write to a served page comes after the count of its lock. -/
theorem doRegisterWrite_served {page off : Fin 4096} {v : Word} (h : s.serves k) (hk : page.val = k.no)
    (hoff : 0x020 ≤ off.val) :
    doRegisterWrite .pcie page off v s.core = (s.core.lockAccess k 0).writeReg k off v.toNat := by
  simp only [doRegisterWrite, hk, h.page, h.route, Core.serveWrite, Core.writeActs, if_neg (Nat.not_lt.2 hoff), h.acts_locked,
    if_true]

theorem registerWrite_next {page off : Fin 4096} {v : Word} (h : s.serves k) (hk : page.val = k.no) (hoff : 0x020 ≤ off.val)
    (hown : k.ownRow off.val = false) (hb : k ≠ .bxb) (hr : k ≠ .ring) (hp : k ≠ .plant) (h0 : k ≠ .time 0)
    (h1 : k ≠ .time 1) (hrun : s.core.running = false) :
    exec (.registerWrite .pcie page off v) s = .next (s.after { s with
      core := (s.core.lockAccess k 0).wr k off ((v.toNat &&& ((k.row off).rw ||| (k.row off).rws ||| (k.row off).rwl)) |||
        ((s.core.lockAccess k 0).rd k off &&& (m32 ^^^ ((k.row off).rw ||| (k.row off).rws ||| (k.row off).rwl)))) }) :=
  act_next_eq h.1 (by
    rw [doRegisterWrite_served h hk hoff, Core.writeReg_eq_writeFields _ hoff hown hb hr hp h0 h1,
      Core.writeFields_of_not_running _ (by simpa using hrun)])

/-- Without IRQ_EN, a write of PAGE_IRQ clears bits and sends nothing (R403). -/
theorem doPageIrq_of_irqOff {v : Nat} (h : c.irqOn k = false) :
    doPageIrq k v c = c.wr k 0x010 (c.rd k 0x010 &&& (m32 ^^^ v)) := by
  have hw : ∀ w, (c.wr k 0x010 w).irqOn k = false := fun w => by
    rw [← h, Core.irqOn, Core.irqOn, Core.rd_wr, if_neg (fun e => absurd (PageKind.key_inj.1 e) (by decide))]
  simp [doPageIrq, hw]

/-- Without IRQ_EN, a write of PAGE_IRQ_EN stores its fields and sends nothing (R403). -/
theorem Core.irqEnable_of_irqOff {off v : Nat} (hoff : off ≠ 0x008) (h : c.irqOn k = false) :
    c.irqEnable k off v = c.writeFields k off v := by
  simp [Core.irqEnable, Core.irqOn_writeFields c hoff, h]

end Registers

/-! ### UNIT_RESET -/

section UnitReset

variable {s : State} {k : PageKind}

/-- Where every entry of a key is dropped, the map reads its default there. -/
theorem SMap.get_filterMap_dropped {α : Type} (d : Nat → α) (m : SMap α) (f : Nat × α → Option (Nat × α)) (k : Nat)
    (hkey : ∀ e e', f e = some e' → e'.1 = e.1) (hk : ∀ v, f (k, v) = none) : SMap.get d (m.filterMap f) k = d k := by
  induction m with
  | nil => rfl
  | cons e m ih =>
    cases he : f e with
    | none => rw [List.filterMap_cons_none he, ih]
    | some e' =>
      have hne : e'.1 ≠ k := fun h => by
        have : e = (k, e.2) := Prod.ext ((hkey e e' he).symm.trans h) rfl
        rw [this, hk] at he
        cases he
      rw [List.filterMap_cons_some he, SMap.get, if_neg hne, ih]

/-- A register of a page that is reset, and of which nothing is kept, reads its reset value (R404). -/
theorem Core.rd_resetPage (c : Core) {keep : Nat → Nat} {off : Nat} (ho : off < 4096) (hk : keep off = 0) :
    (c.resetPage k keep).rd k off = (regReset (k.key off)).toNat := by
  have hdiv : k.key off / 4096 = k.no := by unfold PageKind.key; omega
  have hmod : k.key off % 4096 = off := by unfold PageKind.key; omega
  refine congrArg BitVec.toNat (SMap.get_filterMap_dropped regReset c.regs _ (k.key off) ?_ (fun v => ?_))
  · intro e e' he
    dsimp only at he
    split_ifs at he <;> cases he <;> rfl
  · have hm : ∀ w : Word, word (w.toNat &&& m32) = w := fun w => by
      have : m32 = 2 ^ 32 - 1 := rfl
      rw [this, Nat.and_two_pow_sub_one_eq_mod, word, Nat.mod_eq_of_lt w.isLt, BitVec.ofNat_toNat, BitVec.setWidth_eq]
    simp [hdiv, hmod, hk, hm]

/-- What a reset returns beside the registers of the page lies outside the register file. -/
theorem State.resetSide_regs (s : State) (k : PageKind) : (s.resetSide k).core.regs = s.core.regs := by
  unfold State.resetSide
  split <;> rfl

theorem doUnitReset_rd (h : s.core.running = false) (h0 : k ≠ .time 0) (h1 : k ≠ .time 1) {off : Nat} (ho : off < 4096)
    (hf : off ≠ 0x01C) (hs : (k.row off).rws = 0) : (doUnitReset k s).core.rd k off = (regReset (k.key off)).toNat := by
  have hkeep : k.keepOnReset off = 0 := by simp [PageKind.keepOnReset, hf, PageKind.rwsMask, hs]
  rw [doUnitReset, if_neg (by simp [h]), State.onCore_core, Core.timeFollow_of_ne _ _ h0 h1,
    Core.rd_congr (State.resetSide_regs ..), State.onCore_core, Core.rd_resetPage _ ho hkeep]

/-- While no schedule runs, UNIT_RESET returns every register to reset but PAGE_FLT and those with RWS fields (R404). -/
theorem unitReset_resets {page : Fin 4096} (h : s.servesHdr page.val k) (hrun : s.core.running = false) (h0 : k ≠ .time 0)
    (h1 : k ≠ .time 1) : ∃ t, exec (.unitReset page) s = .next t ∧ ∀ off : Nat, off < 4096 → off ≠ 0x01C →
      (k.row off).rws = 0 → t.core.rd k off = (regReset (k.key off)).toNat := by
  refine ⟨doUnitReset k (s.onCore (fun c => c.lockAccess k 0)), ?_, fun off ho hf hs =>
    doUnitReset_rd (by simpa using hrun) h0 h1 ho hf hs⟩
  rw [← State.after_idle s (doUnitReset k _) h.1.2 (.inl hrun)]
  exact hdrCmd_next _ _ _ _ s h

end UnitReset

/-! ### Lanes and ingest -/

section Lanes

variable {c : Core} {l : Nat}

/-- RETRAIN with settings last in use is a fast retrain (R52). -/
theorem doRetrain_of_settings (h : (c.lane l).settings = true) : doRetrain l c = c.fastRetrain l := by
  simp [doRetrain, h]

/-- RECAL of an UP lane with no recalibration in hand leaves one pending (R54, R55). -/
theorem doRecal_of_up (hp : (c.lane l).recalPending = false)
    (hph : (c.lane l).ph ∉ [LanePh.recalAdapt, .recalAlign, .recalScan]) (hst : (c.lane l).st = .up) :
    doRecal l c = c.modLane l (fun x => { x with recalPending := true }) := by
  simp only [List.mem_cons, List.not_mem_nil, or_false, not_or] at hph
  simp [doRecal, hp, hph, hst]

/-- SCAN_START of an UP lane outside FULL mode: POINT in mode 2, else CROSS (R56, R58; the reserved 3 acts as CROSS). -/
theorem doScanStart_of_up (hs : (c.lane l).scan = none) (hst : (c.lane l).st = .up) (hm : bits (c.scanCfg l) 1 0 ≠ 0) :
    doScanStart l c = c.modLane l (fun x =>
      { x with scan := some .command, scanMode := if bits (c.scanCfg l) 1 0 = 2 then 2 else 1,
               scanDwell := max 6 (min 10 (bits (c.scanCfg l) 7 4)), scanThresh := bits (c.scanCfg l) 27 24 }) := by
  have hlt : bits (c.scanCfg l) 1 0 < 4 := Nat.mod_lt _ (by decide)
  have hmode : (if bits (c.scanCfg l) 1 0 = 3 then 1 else bits (c.scanCfg l) 1 0) =
      if bits (c.scanCfg l) 1 0 = 2 then 2 else 1 := by split_ifs <;> omega
  have hne : (if bits (c.scanCfg l) 1 0 = 2 then 2 else 1) ≠ 0 := by split_ifs <;> decide
  simp only [doScanStart, hmode, hs, hst, hne, Option.isSome_none, Bool.false_eq_true, false_and, ne_eq, not_true_eq_false,
    or_self, if_false, LaneS.scanFrom, Core.dwellExp, Core.threshExp]

/-- SCAN_ABORT of a scan that is not a recalibration's stops it alone (R59). -/
theorem doScanAbort_of_ne {l : Lane} (h : (c.lane l).scan ≠ some .recal) : doScanAbort l c = c.scanStop l := by
  simp [doScanAbort, h]

/-- A LANE_EN write to a powered group whose commands act, while no schedule runs (R48, R60). -/
theorem serveLaneEn_of_acts {g v : Nat} (ha : c.acts (.lgrp g) = true) (hr : c.running = false) :
    serveLaneEn g v c = c.applyLaneEn g v := by
  simp [serveLaneEn, doLaneEn, Core.powered_of_acts ha, ha, hr]

theorem doLaneEnWrite_served {s : State} {g : Fin 16} {v : Word} (h : s.serves (.lgrp g.val)) (hr : s.core.running = false) :
    doLaneEnWrite g v s.core = (s.core.lockAccess (.lgrp g.val) 0).applyLaneEn g.val v.toNat := by
  simp only [doLaneEnWrite, h.route]
  exact serveLaneEn_of_acts h.acts_locked (by simpa using hr)

/-- The copies of the first `n` counts of a lane: the ingest unit stays, and each register reads its count. -/
theorem Core.snapCounts (c : Core) (lane n : Nat) :
    ((List.range n).foldl (fun c k => c.wr .ingest (0x080 + 4 * k) (c.ingCount lane k)) c).ingest = c.ingest ∧
    ∀ k, k < n → ((List.range n).foldl (fun c k => c.wr .ingest (0x080 + 4 * k) (c.ingCount lane k)) c).rd .ingest
      (0x080 + 4 * k) = c.ingCount lane k % 2 ^ 32 := by
  induction n with
  | zero => simp
  | succ n ih =>
    obtain ⟨hi, hr⟩ := ih
    rw [List.range_succ, List.foldl_append, List.foldl_cons, List.foldl_nil]
    refine ⟨(Core.wr_ingest ..).trans hi, fun k hk => ?_⟩
    rw [Core.rd_wr, Core.ingCount, hi]
    by_cases e : k = n
    · subst e
      rw [if_pos rfl]
      rfl
    · rw [if_neg (fun h => e (by have := PageKind.key_inj.1 h; omega)), hr k (by omega)]

/-- SNAP copies the eleven counts of the lane that SNAP_LANE names. -/
theorem snap_next {s : State} (h : s.serves .ingest) :
    ∃ c, exec .snap s = .next (s.after { s with core := c }) ∧ c.ingest = s.core.ingest ∧
      ∀ k, k < 11 → c.rd .ingest (0x080 + 4 * k) = s.core.ingCount (s.core.rd .ingest 0x070 % 256) k % 2 ^ 32 := by
  obtain ⟨hi, hr⟩ := Core.snapCounts (s.core.lockAccess .ingest 0) ((s.core.lockAccess .ingest 0).rd .ingest 0x070 % 256) 11
  refine ⟨doSnap (s.core.lockAccess .ingest 0), regCmd_does .snap _ doSnap s h, hi.trans (Core.lockAccess_ingest ..),
    fun k hk => ?_⟩
  rw [doSnap, hr k hk, Core.ingCount_lockAccess, Core.rd_lockAccess_off _ _ _ _ (by decide) (by decide) (by decide)]

end Lanes

/-! ### The channeliser, Chanters and INSPECT -/

section Channeliser

variable {c : Core}

/-- CAL_START in CALIBRATE with no calibration in hand (R101). -/
theorem doCalStart_of_calibrate {i : Image} (hi : c.img = some i) (hm : c.power.mode = .calibrate) (hc : c.chan.cal = none) :
    doCalStart c = { c.calClear with chan := { c.calClear.chan with
      cal := some { passes := cdiv (i.plan.nIn * i.plan.nCh) (2 ^ 18), start := max (c.evalBlock + 1) i.plan.b0 } } } := by
  simp [doCalStart, hi, hm, hc, Core.calClear]

/-- CAL_ABORT ends the calibration in hand and raises its event (R101, R102). -/
theorem doCalAbort_of_cal (hc : c.chan.cal ≠ none) :
    doCalAbort c = ({ c with chan := { c.chan with cal := none } } : Core).raise (.fst 0) 6 := by
  simp [doCalAbort, Core.calEnd, Option.isSome_iff_ne_none, hc]

/-- A stepping command in INSPECT reaches every X Chanter (R249). -/
theorem stepCmd_of_inspect {d : Nat} {f : ChanterS → ChanterS} (h : c.power.mode = .inspect) :
    stepCmd d f c = (List.range c.part.dies).foldl (fun c x => c.modChanter x f) c := by
  simp [stepCmd, h]

/-- FETCH of an object of a cell whose Chanter is held (R140, R145). -/
theorem doFetch_of_held {i : Nat} (hrun : (c.inspAt i).run = false) (hm : c.power.mode = .inspect)
    (hd : c.rd (.insp i) 0x040 % 4 < c.part.dies) (hcell : bits (c.rd (.insp i) 0x040) 13 5 < 384)
    (hkind : bits (c.rd (.insp i) 0x040) 4 2 ≤ 1)
    (hoff : (c.rd (.insp i) 0x044 + 2 ^ 32 * c.rd (.insp i) 0x048) / 2048 * 2048 < 32768)
    (hheld : (c.chanter (c.rd (.insp i) 0x040 % 4)).st = .held) :
    doFetch i c = c.inspEnd i (fun x => { x with
      run := true
      data := (SMap.get (fun _ => {}) (c.xdie (c.rd (.insp i) 0x040 % 4)).cells (bits (c.rd (.insp i) 0x040) 13 5)).object
        (bits (c.rd (.insp i) 0x040) 4 2) (bits (c.rd (.insp i) 0x040) 16 14)
        ((c.rd (.insp i) 0x044 + 2 ^ 32 * c.rd (.insp i) 0x048) / 2048 * 2048) 2048 }) := by
  unfold doFetch
  dsimp only
  rw [if_neg (by simp [hrun]), if_neg (by simp [hm]), if_neg (by omega), if_pos (by omega), if_neg, if_neg (by simp [hheld])]
  split_ifs <;> omega

end Channeliser

/-! ### Rings, channels and locks -/

section Rings

variable {c : Core}

/-- DOORBELL of an active ring to a tail within its size of the head and of the tail before it (R365). -/
theorem doDoorbell_of_active {r t : Nat} (ha : c.ringActive r = true)
    (hh : (t + 2 ^ 32 - (c.ring r).head % 2 ^ 32) % 2 ^ 32 ≤ 2 ^ (c.ring r).k)
    (ht : (t + 2 ^ 32 - (c.ring r).tail % 2 ^ 32) % 2 ^ 32 ≤ 2 ^ (c.ring r).k) :
    doDoorbell r t c = c.setRing r { c.ring r with tail := t } := by
  simp only [doDoorbell, ha, Bool.true_eq_false, if_false, hh, ht, and_self, if_true]

/-- What a commit takes over from a ring: its generation and the staged bases (R372). -/
def RingS.staged (x : RingS) : Nat × Nat × Nat := (x.gen, x.stDbase, x.stCbase)

theorem Core.staged_modRing (c : Core) {m : Nat} {f : RingS → RingS} (hf : ∀ x, (f x).staged = x.staged) (n : Nat) :
    ((c.modRing m f).ring n).staged = (c.ring n).staged := by
  rw [Core.ring_modRing]
  split_ifs with h
  · rw [hf, h]
  · rfl

theorem Core.staged_divert (c : Core) (r gen tag status len detail n : Nat) :
    ((c.divert r gen tag status len detail).ring n).staged = (c.ring n).staged := by
  have hinc : ∀ (d : Core) o, (d.inc .ring o).ring n = d.ring n := fun _ _ => rfl
  unfold Core.divert Core.diverted
  dsimp only
  rw [Core.staged_modRing, Core.ring_report, hinc, Core.ring_raise, Core.staged_modRing]
  · exact fun _ => rfl
  · exact fun _ => rfl

/-- The descriptors that a commit orphans leave every ring's generation and staged bases (R372). -/
theorem Core.staged_orphanFetched (c : Core) (r gen n : Nat) :
    ((c.orphanFetched r gen).ring n).staged = (c.ring n).staged := by
  have hfold : ∀ (l : List Desc) (d : Core),
      ((l.foldl (fun c x => c.divert r x.gen x.tag stOrphaned 0 0) d).ring n).staged = (d.ring n).staged := fun l => by
    induction l with
    | nil => exact fun _ => rfl
    | cons x l ih => exact fun d => (ih _).trans (Core.staged_divert ..)
  unfold Core.orphanFetched
  dsimp only
  have hset : ∀ x : RingS, x.staged = (c.ring r).staged →
      ((c.setRing r x).ring n).staged = (c.ring n).staged := fun x hx => by
    rw [Core.ring_setRing]
    split_ifs with h
    · rw [hx, h]
    · rfl
  by_cases h0 : r = 0
  · rw [if_pos h0]
    exact hset _ rfl
  · rw [if_neg h0]
    exact (hfold _ _).trans (hset _ rfl)

/-- RING_CFG_WRITE starts a new generation of the selected ring with the staged bases (R372). -/
theorem doRingCfg_ring (c : Core) (v : Nat) :
    let x := (doRingCfg v c).ring (c.rd .ring 0x040)
    let y := c.ring (c.rd .ring 0x040)
    x.error = false ∧ x.gen = (y.gen + 1) % 256 ∧ x.head = 0 ∧ x.tail = 0 ∧ x.fetch = 0 ∧
      x.dbase = y.stDbase / 4096 * 4096 ∧ x.cbase = y.stCbase / 4096 * 4096 := by
  have h := c.staged_orphanFetched (c.rd .ring 0x040) (c.ring (c.rd .ring 0x040)).gen (c.rd .ring 0x040)
  simp only [RingS.staged, Prod.mk.injEq] at h
  obtain ⟨hgen, hd, hc⟩ := h
  simp [doRingCfg, hgen, hd, hc]

theorem ringCfgWrite_next {s : State} (h : s.serves .ring) (v : Word) :
    ∃ c, exec (.ringCfgWrite v) s = .next (s.after { s with core := c }) ∧ let r := s.core.rd .ring 0x040
      (c.ring r).error = false ∧ (c.ring r).gen = ((s.core.ring r).gen + 1) % 256 ∧ (c.ring r).head = 0 ∧
      (c.ring r).tail = 0 ∧ (c.ring r).fetch = 0 ∧ (c.ring r).dbase = (s.core.ring r).stDbase / 4096 * 4096 ∧
      (c.ring r).cbase = (s.core.ring r).stCbase / 4096 * 4096 := by
  refine ⟨_, regCmd_does (.ringCfgWrite v) _ (doRingCfg v.toNat) s h, ?_⟩
  have hr := doRingCfg_ring (s.core.lockAccess .ring 0) v.toNat
  rw [Core.rd_lockAccess_off _ _ _ _ (by decide) (by decide) (by decide)] at hr
  simpa using hr

/-- ABORT of a job with no burst outstanding and nothing of host memory to read back completes it at once (R384, R385). -/
theorem doAbort_of_idle {ch : Fin 64} {j : Job} (hj : (c.dma ch).job = some j) (hr : (c.dma ch).readback = false)
    (hp : j.pend = 0) (hd : j.dstSp ≠ 0 ∨ j.done = 0) : doAbort ch c = c.completeJob ch stAborted := by
  have hw : ¬ (j.dstSp = 0 ∧ 0 < j.done) := by omega
  simp [doAbort, Core.abortJob, Core.endJob, hj, hr, hp, hw]

theorem doAcquire_of_free {m g : Nat} (hg : g < 7 + c.part.dies) (ho : (c.lock g).owner = none) :
    doAcquire m g c = c.lockGrant g m := by
  simp [doAcquire, Core.groupOk, hg, ho]

theorem doRelease_of_owner {m g : Nat} (ho : (c.lock g).owner = some m) : doRelease m g c = c.lockEnd g := by
  simp [doRelease, ho]

end Rings

/-! ### HBM -/

section Hbm

variable {c : Core}

theorem hbmPage_stackNo (d : XDie) (j : Fin 2) : hbmPage (stackNo d j) = .hbm d.val j.val := by
  have hj := j.isLt
  rw [hbmPage, stackNo, PageKind.hbm.injEq]
  omega

/-- A part whose page map holds a stack's page has the stack's die (R27, Table 16.8). -/
theorem hbmPage_present (p : Part) (d : XDie) (j : Fin 2)
    (h : pageAt p (PageKind.hbm d.val j.val).no = some (.hbm d.val j.val)) : d.val < p.dies := by
  revert d j
  cases p <;> decide

/-- TRAIN in BRINGUP or IDLE of a stack that is neither in training nor in self-refresh (R342). -/
theorem doTrainHbm_of_ready {i : Nat} (hm : c.hbmMode = true) (ht : (c.stack i).st ≠ .training)
    (hs : (c.stack i).st ≠ .selfRefresh) : doTrainHbm i c = c.trainStart i false := by
  rw [doTrainHbm, if_neg (by simp [hm])]
  split
  · exact absurd ‹_› ht
  · exact absurd ‹_› hs
  · rfl

theorem trainHbm_next {s : State} {d : XDie} {j : Fin 2} (h : s.serves (.hbm d.val j.val)) (hm : s.core.hbmMode = true)
    (ht : (s.core.stack (stackNo d j)).st ≠ .training) (hs : (s.core.stack (stackNo d j)).st ≠ .selfRefresh) :
    exec (.trainHbm d j) s =
      .next (s.after { s with core := (s.core.lockAccess (.hbm d.val j.val) 0).trainStart (stackNo d j) false }) := by
  refine act_next_eq h.1 ?_
  have ha := h.acts_locked
  simp only [doTrainHbmCmd, if_neg (Nat.not_le.2 (hbmPage_present _ d j h.page)), h.route, serveTrain, hbmPage_stackNo,
    Core.powered_of_acts ha, ha, Bool.true_eq_false, if_false, if_true]
  exact doTrainHbm_of_ready (by simpa using hm) (by simpa using ht) (by simpa using hs)

/-- SET_RATE of a TRAINED stack trains it again at the new rate (R343). -/
theorem doSetRate_of_trained {i rate : Nat} (hm : c.hbmMode = true) (hr : rate ≠ 3) (ht : (c.stack i).st = .trained) :
    doSetRate i rate c = (c.modStack i (fun x => { x with rate := rate })).trainStart i true := by
  simp [doSetRate, hm, hr, ht]

end Hbm

/-! ### Mode requests -/

section Modes

variable {c : Core}

/-- A request in STEADY, outside SAFE and a forced stop, is judged by the mode alone (R279, R422, R425). -/
theorem Core.request_of_steady {f : Core → Core} (hs : c.power.mode ≠ .safe) (hf : c.power.forced = false)
    (hp : c.power.phase = .steady) : c.request f = f c := by
  simp [Core.request, hs, hf, hp]

theorem doReqBringup_of_idle (hf : c.power.forced = false) (hp : c.power.phase = .steady) (hm : c.power.mode = .idle) :
    doReqBringup c = (c.enterMode .bringup).askDomains (xDoms c.part.dies [31, 32]) false := by
  rw [doReqBringup, Core.request_of_steady (by simp [hm]) hf hp, if_pos hm, hbmDoms]

/-- Every stack TRAINED at rate 0, said of each stack (R344). -/
theorem Core.allTrained_of_forall (h : ∀ n, n < 2 * c.part.dies → c.stackUp n = true ∧ (c.stack n).rate = 0) :
    c.allTrained = true := by
  simpa [Core.allTrained] using h

theorem doReqIdle_of_trained (hf : c.power.forced = false) (hp : c.power.phase = .steady) (hm : c.power.mode = .bringup)
    (ht : c.allTrained = true) : doReqIdle c = c.enterMode .idle := by
  rw [doReqIdle, Core.request_of_steady (by simp [hm]) hf hp, if_neg (by simp [hm]), if_pos ht]

theorem doReqShelve_of_quiet (hf : c.power.forced = false) (hp : c.power.phase = .steady)
    (hm : c.power.mode = .bringup ∨ c.power.mode = .idle) :
    doReqShelve c =
      if c.host.linkUp then (c.coldReset.modPower (fun p => { p with shelvedBy := true })).emit .linkLost
      else c.coldReset.modPower (fun p => { p with shelvedBy := true }) := by
  rw [doReqShelve, Core.request_of_steady (by rcases hm with h | h <;> simp [h]) hf hp, if_pos hm]

theorem doReqStop_of_schedule (hf : c.power.forced = false) (hm : c.power.mode.isSchedule = true) :
    doReqStop c = c.toQuiesce := by
  have hs : c.power.mode ≠ .safe := fun h => by rw [h] at hm; exact absurd hm (by decide)
  simp [doReqStop, hs, hf, hm]

/-- A start whose conditions and checks hold, and whose start time is not past, powers the image's domains (R279, R280). -/
theorem Core.startIdle_of_ready {b : Bool} {i : Image} (hst : c.imgSt = 3) (hi : c.img = some i) (ht : c.allTrained = true)
    (hd : c.time.dpll = .locked ∨ c.time.dpll = .holdover) (hl : c.plant.latch = false) (he : c.plantEn = false)
    (hok : (c.startChecks i).2 = true)
    (hs : ∃ e, (c.startChecks i).1.startEarliest = some e ∧ e ≤ ((c.startChecks i).1.startSample i : Int)) :
    (c.startIdle b).power.phase = .powering ∧ (c.startIdle b).power.startSample = (c.startChecks i).1.startSample i := by
  have hdpll : ¬ (c.time.dpll ≠ .locked ∧ c.time.dpll ≠ .holdover) := fun h => hd.elim h.1 h.2
  rcases hc : c.startChecks i with ⟨d, ok⟩
  simp only [hc] at hok hs
  obtain ⟨e, hearly, hle⟩ := hs
  subst hok
  simp only [Core.startIdle, hst, hi, ht, hdpll, hl, he, hc, hearly, hle, if_true, if_false, Bool.true_eq_false,
    Bool.false_eq_true, false_and, or_self, Option.any_some, decide_true, Core.askDomains, Core.modPower, and_self]

theorem reqStart_next {s : State} (h : s.serves .mode) (hf : s.core.power.forced = false) (hp : s.core.power.phase = .steady)
    (hm : s.core.power.mode = .idle) (b : Bool) {i : Image} (hst : s.core.imgSt = 3) (hi : s.core.img = some i)
    (ht : s.core.allTrained = true) (hd : s.core.time.dpll = .locked ∨ s.core.time.dpll = .holdover)
    (hl : s.core.plant.latch = false) (he : s.core.plantEn = false)
    (hok : ((s.core.lockAccess .mode 0).startChecks i).2 = true)
    (hs : ∃ e, ((s.core.lockAccess .mode 0).startChecks i).1.startEarliest = some e ∧
      e ≤ (((s.core.lockAccess .mode 0).startChecks i).1.startSample i : Int)) :
    ∃ c, exec (.reqStart b) s = .next (s.after { s with core := c }) ∧ c.power.phase = .powering ∧
      c.power.startSample = ((s.core.lockAccess .mode 0).startChecks i).1.startSample i := by
  refine ⟨(s.core.lockAccess .mode 0).startIdle b, regCmd_next_eq h ?_, Core.startIdle_of_ready (by simpa using hst)
    (by simpa using hi) (by simpa using ht) (by simpa using hd) (by simpa using hl) (by simpa using he) hok hs⟩
  rw [doReqStart, Core.request_of_steady (by simp [hm]) (by simpa using hf) (by simpa using hp), if_pos (by simpa using hm)]

end Modes

/-! ### Timing and resets -/

section Timing

variable {c : Core}

theorem Core.unlessRunning_of_not {k : PageKind} {f : Core → Core} (h : c.running = false) : c.unlessRunning k f = f c := by
  simp [Core.unlessRunning, h]

theorem doFcc_of_unloaded {den : Bool} {v : Nat} (hr : c.running = false) (hi : c.img = none) (hv : v ≠ 0) :
    doFcc den v c = c.wr (.time 0) (if den then 0x0BC else 0x0B8) v := by
  simp [doFcc, hr, hi, hv]

/-- A REF_CFG write that clears no ENABLE stores its fields (R306). -/
theorem doRefCfg_of_kept {n v : Nat} (h : c.refEn n = false ∨ v.testBit 0 = true) :
    doRefCfg n v c = c.wr (.time 1) (0x040 + 32 * n) (v &&& 0x1F) := by
  have hen : (c.wr (.time 1) (0x040 + 32 * n) (v &&& 0x1F)).refEn n = v.testBit 0 := by
    rw [Core.refEn, Core.refCfg, Core.rd_wr_same, bit, Nat.testBit_mod_two_pow, Nat.testBit_and]
    simp
  rcases h with h | h <;> simp [doRefCfg, hen, h]

/-- DEVRST with its key stops what runs, records its cause and loses the state at once or after the forced stop (R424, R438). -/
theorem doDevrst_of_key {key : Nat} (hk : key = 0xDE57) (hm : c.power.mode ≠ .shelved) (hs : c.power.mode ≠ .safe) :
    doDevrst key c =
      let d := (c.loadAbandon.ringsReset.forceStop.cause 5).inc .rst 0x050
      let d := d.wr .rst 0x044 (d.rd .rst 0x044 ||| 0x20)
      if d.power.forced then d else d.devLose := by
  rw [doDevrst, if_neg (by simp [hk, hm, hs]), Core.deviceReset]

end Timing

/-! ### The obligation -/

/-- Settles O60: each clause is the outcome of a served command (`regCmd_does`, `regCmd_next_eq`), with the branch in which the
command has its own effect; the hypotheses on the core before it pass the count of the lock's access. -/
theorem registerCommandsComplete : Obligations.RegisterCommandsComplete := by
  intro s on nx
  refine ⟨
    -- the page: a register, its header, UNIT_RESET
    fun page off v k h hk hoff hown hb hr hp h0 h1 hrun => registerWrite_next h hk hoff hown hb hr hp h0 h1 hrun,
    fun page v k h hq => ?pageIrq, fun page v k h hq => ?irqEnable,
    fun page k h _ hrun _ h0 h1 => unitReset_resets h hrun h0 h1,
    -- lanes, their groups, ingest
    fun l h => ?lane, fun g v h hr => act_next_eq h.1 (doLaneEnWrite_served h hr),
    fun h => ⟨regCmd_does _ _ _ s h, snap_next h⟩,
    -- channeliser and corner turn
    fun h => ?fst, fun n h => regCmd_does _ _ _ s h, fun z h => regCmd_does _ _ _ s h, fun h => regCmd_does _ _ _ s h,
    -- Chanters, cells, dump, beams, reductions, INSPECT
    fun d h hm => ?step, fun x h => regCmd_does _ _ _ s h, fun d h => regCmd_does _ _ _ s h,
    fun d n h => regCmd_does _ _ _ s h, fun d h => ⟨regCmd_does _ _ _ s h, regCmd_does _ _ _ s h⟩,
    fun d j h => regCmd_does _ _ _ s h, fun d h => regCmd_does _ _ _ s h, fun i h => ?insp,
    -- rings, channels, the PCIe link, crossbars
    fun r t k h ha hh ht => ?doorbell, fun h => ⟨regCmd_does _ _ _ s h, ringCfgWrite_next h⟩,
    fun ch j h hj hr hp hd => ?abort, fun h => regCmd_does _ _ _ s h, fun h => regCmd_does _ _ _ s h,
    fun h => ⟨regCmd_does _ _ _ s h, fun g hg => ?lock⟩, fun h => regCmd_does _ _ _ s h,
    -- HBM, modes, plant, sensors
    fun d j => ?hbm, fun h => ?mode, fun h => ⟨regCmd_does _ _ _ s h, regCmd_does _ _ _ s h⟩,
    fun h => regCmd_does _ _ _ s h,
    -- timing, faults, resets, freeze
    fun h => ?time, fun h n v hv => ?refCfg, fun h => regCmd_does _ _ _ s h, fun h hm hs => ?devrst,
    fun h => regCmd_next_eq h (if_pos (by decide))⟩
  case pageIrq =>
    rw [← doPageIrq_of_irqOff _ hq]
    exact hdrCmd_next _ _ _ _ s h
  case irqEnable =>
    rw [← Core.irqEnable_of_irqOff _ (by decide) hq]
    exact hdrCmd_next _ _ _ _ s h
  case lane =>
    exact ⟨regCmd_does _ _ _ s h, fun hs => regCmd_next_eq h (doRetrain_of_settings (by simpa using hs)),
      fun hp hph hst => regCmd_next_eq h (doRecal_of_up (by simpa using hp) (by simpa using hph) (by simpa using hst)),
      regCmd_does _ _ _ s h,
      fun hs hst hm => regCmd_next_eq h (by
        rw [doScanStart_of_up (by simpa using hs) (by simpa using hst) (by simpa using hm), Core.scanCfg_lockAccess]),
      fun hs => regCmd_next_eq h (doScanAbort_of_ne (by simpa using hs)), regCmd_does _ _ _ s h⟩
  case fst =>
    exact ⟨fun i hi hm hc => regCmd_next_eq h
        (doCalStart_of_calibrate (by simpa using hi) (by simpa using hm) (by simpa using hc)),
      fun hc => regCmd_next_eq h (doCalAbort_of_cal (by simpa using hc)), regCmd_does _ _ _ s h⟩
  case step =>
    have hi : (on (.xchn d)).power.mode = .inspect := by simpa [on] using hm
    exact ⟨regCmd_next_eq h (stepCmd_of_inspect hi), regCmd_next_eq h (stepCmd_of_inspect hi),
      regCmd_next_eq h (stepCmd_of_inspect hi), regCmd_next_eq h (stepCmd_of_inspect hi)⟩
  case insp =>
    refine ⟨fun reg v => regCmd_does _ _ _ s h, ?_⟩
    have hrd : ∀ o, o < 4096 → (on (.insp i)).rd (.insp i) o = s.core.rd (.insp i) o := fun o ho =>
      Core.rd_lockAccess_off _ _ _ _ ho (by simp only [PageKind.no]; omega) (by simp only [PageKind.no]; omega)
    rw [← hrd 0x040 (by decide), ← hrd 0x044 (by decide), ← hrd 0x048 (by decide)]
    exact fun hrun hm hd hcell hkind hoff hheld => regCmd_next_eq h
      (doFetch_of_held (by simpa using hrun) (by simpa using hm) (by simpa using hd) hcell hkind hoff (by simpa using hheld))
  case doorbell =>
    refine (hdrCmd_next _ _ _ _ s h).trans ?_
    rw [State.onCore, State.onCore, doDoorbell_of_active (by simpa using ha) (by simpa using hh) (by simpa using ht),
      Core.ring_lockAccess]
  case abort =>
    exact regCmd_next_eq h (doAbort_of_idle (by simpa using hj) (by simpa using hr) hp hd)
  case lock =>
    exact ⟨fun ho => regCmd_next_eq h (doAcquire_of_free (by simpa using hg) (by simpa using ho)),
      fun ho => regCmd_next_eq h (doRelease_of_owner (by rw [Core.lockAccess_cxb]; exact ho))⟩
  case hbm =>
    exact fun h => ⟨fun _ hm ht hs => trainHbm_next h hm ht hs,
      fun rate hm hr ht => regCmd_next_eq h
        (doSetRate_of_trained (by simpa using hm) (fun e => hr (Fin.ext e)) (by rw [Core.stack_lockAccess]; exact ht)),
      regCmd_does _ _ _ s h, regCmd_does _ _ _ s h⟩
  case mode =>
    refine ⟨regCmd_does _ _ _ s h, fun hf hp => ⟨fun hm => ?_, fun hm ht => ?_, fun hm => ?_,
      fun hm b i hst hi ht hd hl he hok hs => reqStart_next h hf hp hm b hst hi ht hd hl he hok hs⟩, fun hf hm => ?_⟩
    · exact regCmd_next_eq h (doReqBringup_of_idle (by simpa using hf) (by simpa using hp) (by simpa using hm))
    · exact regCmd_next_eq h (doReqIdle_of_trained (by simpa using hf) (by simpa using hp) (by simpa using hm)
        (by simpa using Core.allTrained_of_forall ht))
    · exact regCmd_next_eq h (doReqShelve_of_quiet (by simpa using hf) (by simpa using hp) (by simpa using hm))
    · exact regCmd_next_eq h (doReqStop_of_schedule (by simpa using hf) (by simpa using hm))
  case time =>
    refine ⟨regCmd_does _ _ _ s h, fun hr => ?_⟩
    have hrun : (on (.time 0)).running = false := by simpa [on] using hr
    exact ⟨regCmd_next_eq h (Core.unlessRunning_of_not hrun), regCmd_next_eq h (Core.unlessRunning_of_not hrun),
      fun v den hi hv => regCmd_next_eq h (doFcc_of_unloaded hrun (by simpa using hi) (fun e => hv (BitVec.eq_of_toNat_eq e)))⟩
  case refCfg =>
    exact regCmd_next_eq h (doRefCfg_of_kept (by simpa [BitVec.getLsbD] using hv))
  case devrst =>
    have e := doDevrst_of_key (c := on .rst) (key := (0xDE57 : BitVec 16).toNat) (by decide) (by simpa [on] using hm)
      (by simpa [on] using hs)
    exact regCmd_next_eq h e

end Sys2Proof.Machine
end

section
/-! PROOFS. What is sent over a lane is what is received (O59): the polarity of the pair, then the fields behind one another. -/

namespace Sys2Proof.Machine

/-! ### Polarity -/

/-- Inversion of the pair and the receive polarity that matches it cancel (R40). -/
theorem rxBlock_inverted (pol : Bool) (line : List Bool) : rxBlock pol (line.map (· != pol)) = rxBlock false line := by
  have h : (line.map (· != pol)).map (· != pol) = line := by
    rw [List.map_map]
    exact (List.map_congr_left fun b _ => by cases b <;> cases pol <;> rfl).trans (List.map_id line)
  rw [rxBlock, h, rxBlock, map_ne_false]

/-! ### Fields behind one another -/

/-- A field lies as far into the rest as it lies beyond the bytes before it. -/
theorem leAt_skip {a : List Byte} (l : List Byte) {off n : Nat} (h : a.length ≤ off) :
    leAt (a ++ l) off n = leAt l (off - a.length) n := by
  rw [leAt, List.drop_append, List.drop_of_length_le h, List.nil_append, leAt]

/-- A field at the front reads the value that was put there. -/
theorem leAt_front (l : List Byte) {n v : Nat} (h : v < 256 ^ n) : leAt (leBytes n v ++ l) 0 n = v :=
  leAt_append [] l n v h

theorem slice_skip {a : List Byte} (l : List Byte) {off n : Nat} (h : a.length ≤ off) :
    slice (a ++ l) off n = slice l (off - a.length) n := by
  rw [slice, List.drop_append, List.drop_of_length_le h, List.nil_append, slice]

theorem slice_front (a l : List Byte) : slice (a ++ l) 0 a.length = a := by simp [slice]

/-! ### Packets -/

/-- The bytes of a packet before its CRC (Table 3.1). -/
def packetBody (g ch mask sample flags : Nat) (res payload : List Byte) : List Byte :=
  ([0xC3, 0x01] : List Byte) ++ (leBytes 2 g ++ (leBytes 2 ch ++ (leBytes 2 mask ++ (leBytes 8 sample ++
    (leBytes 2 flags ++ (res ++ payload))))))

theorem packetBody_length {g ch mask sample flags : Nat} {res payload : List Byte} (hr : res.length = 14)
    (hp : payload.length = 8192) : (packetBody g ch mask sample flags res payload).length = 8224 := by
  simp only [packetBody, List.length_append, leBytes_length, hr, hp, List.length_cons, List.length_nil]

theorem withCrc_length (bs : List Byte) : (withCrc bs).length = bs.length + 4 := by
  rw [withCrc, List.length_append, leBytes_length]

theorem take_withCrc (bs : List Byte) : (withCrc bs).take bs.length = bs := List.take_left

/-- A packet whose fields hold what the format admits passes the tests of CRC and format, and its fields and payload come out
as they were put in (R61, Table 3.1). -/
theorem parsePacket_withCrc {g ch mask sample flags : Nat} {res payload : List Byte} (hg : g < 256) (hch : ch < 128)
    (hmask : mask < 2 ^ 16) (hs : sample < 2 ^ 64) (hs0 : sample % 256 = 0) (hf : flags < 2 ^ 16) (hr : res.length = 14)
    (hp : payload.length = 8192) :
    parsePacket (withCrc (packetBody g ch mask sample flags res payload)) = .ok ⟨g, ch, mask, sample, flags, payload⟩ := by
  have hlen := packetBody_length (g := g) (ch := ch) (mask := mask) (sample := sample) (flags := flags) hr hp
  have hcrc := leAt_withCrc (packetBody g ch mask sample flags res payload)
  have htake := take_withCrc (packetBody g ch mask sample flags res payload)
  rw [hlen] at hcrc htake
  have eq : withCrc (packetBody g ch mask sample flags res payload) = leBytes 1 0xC3 ++ (leBytes 1 0x01 ++ (leBytes 2 g ++
      (leBytes 2 ch ++ (leBytes 2 mask ++ (leBytes 8 sample ++ (leBytes 2 flags ++ (res ++ (payload ++
        leBytes 4 (crc32c (packetBody g ch mask sample flags res payload)).toNat)))))))) := by
    simp only [withCrc, packetBody, List.append_assoc]
    rfl
  have hpay := slice_front payload (leBytes 4 (crc32c (packetBody g ch mask sample flags res payload)).toNat)
  rw [hp] at hpay
  rw [parsePacket, htake, hcrc]
  simp only [eq, leAt_skip, slice_skip, leBytes_length, hr, Nat.reduceLeDiff, Nat.reduceSub, hpay,
    leAt_front _ (show 0xC3 < 256 ^ 1 by decide), leAt_front _ (show 0x01 < 256 ^ 1 by decide),
    leAt_front _ (show g < 256 ^ 2 by omega), leAt_front _ (show ch < 256 ^ 2 by omega),
    leAt_front _ (show mask < 256 ^ 2 from hmask), leAt_front _ (show sample < 256 ^ 8 from hs),
    leAt_front _ (show flags < 256 ^ 2 from hf)]
  rw [if_neg (fun h => h rfl), if_neg (by omega)]

/-- Settles O59: the receiver undoes the polarity, the comma, the stuffing and the scrambling one after another, and the fields
of what is left stand where they were put. -/
theorem lineCarriesPackets : Obligations.LineCarriesPackets := by
  refine ⟨fun pol lane k g ch mask sample flags res payload hg hch hmask hs hs0 hf hr hp => ?_, fun pol bs h => ?_⟩
  · intro bs line
    have hlen : (withCrc bs).length = 8228 := (withCrc_length bs).trans (congrArg (· + 4) (packetBody_length hr hp))
    refine ⟨List.take_left' rfl, _, (rxBlock_inverted ..).trans (rxBlock_packet lane k _ hlen), ?_⟩
    rw [packetBytes_line _ _ _ hlen]
    exact parsePacket_withCrc hg hch hmask hs hs0 hf hr hp
  · exact ⟨List.take_left' rfl, _, (rxBlock_inverted ..).trans (rxBlock_ctrl bs h), ctrlBlockBytes_line bs h⟩

end Sys2Proof.Machine
end

section
/-! PROOFS. The commands that clear counters (O16): each is the effect of a served register command. -/

namespace Sys2Proof.Machine

/-- Settles O16: a register command that is served has its effect (`regCmd_does`), and the effect of each of these commands is
the clearing that the clause names. -/
theorem countersAreCleared : Obligations.CountersAreCleared := by
  refine ⟨⟨
    -- lanes, channeliser, corner turn
    fun s l => regCmd_does (.laneClrCnt l) _ (doLaneClrCnt l) s, fun s n => regCmd_does (.fstClrCnt n) _ (doFstClrCnt n) s,
    fun s z => regCmd_does (.zoomClrCnt z) _ (doZoomClrCnt z) s, fun s => regCmd_does .crookClrCnt _ doCrookClrCnt s,
    -- the host interface and the crossbars
    fun s => regCmd_does .dmagClrCnt _ doDmagClrCnt s, fun s => regCmd_does .pciexClrCnt _ doPciexClrCnt s,
    fun s => regCmd_does .ringClrCnt _ doRingClrCnt s, fun s => regCmd_does .cxbClrCnt _ doCxbClrCnt s,
    fun s => regCmd_does .bxbClrCnt _ doBxbClrCnt s,
    -- modes, plant, sensors, faults, timing
    fun s => regCmd_does .modeClrCnt _ doModeClrCnt s, fun s => regCmd_does .plantClrCnt _ doPlantClrCnt s,
    fun s => regCmd_does .thermClrCnt _ doThermClrCnt s, fun s => regCmd_does .fltClrCnt _ doFltClrCnt s,
    fun s => regCmd_does .timeClrCnt _ doTimeClr s,
    -- the record memory of ingest, and the saturation counts
    fun s => regCmd_does .clrAll _ doClrAll s, fun s => regCmd_does .rqsatClr _ doRqsatClr s⟩, ?_⟩
  -- the X dies and the Chanters
  exact ⟨fun s d => regCmd_does (.cellsClrCnt d) _ (doCellsClrCnt d) s,
    fun s d n => regCmd_does (.cluClrCnt d n) _ (doCluClrCnt d n) s,
    fun s d h => ⟨regCmd_does (.dumpClrCnt d) _ (doDumpClrCnt d) s h, regCmd_does (.xdieClrCnt d) _ (doXdieClrCnt d) s h⟩,
    fun s d j => regCmd_does (.bslClrCnt d j) _ (doBslClrCnt d j) s, fun s d => regCmd_does (.redClrCnt d) _ (doRedClrCnt d) s,
    fun s d j => regCmd_does (.hbmClrCnt d j) _ (doHbmClrCnt (2 * d.val + j.val)) s,
    fun s x => regCmd_does (.chnClrCnt x) _ (doChnClrCnt x) s⟩

end Sys2Proof.Machine
end

section
/-! PROOFS. Eye width and eye height (O23): a run of passing points from the front of a list, then the runs to both sides of a
point, then the two sizes of the eye. -/

namespace Sys2Proof.Machine

variable {dwell thresh : Nat} {l : List Nat}

theorem nth_drop {α : Type} (d : α) (l : List α) (i j : Nat) : nth d (l.drop i) j = nth d l (i + j) := by
  rw [nth, List.getElem?_drop, nth]

/-- The points before index `i`, nearest first. -/
theorem nth_reverse_take {α : Type} (d : α) {l : List α} {i j : Nat} (hj : j < i) (hi : i ≤ l.length) :
    nth d (l.take i).reverse j = nth d l (i - 1 - j) := by
  have hlen : (l.take i).length = i := List.length_take_of_le hi
  rw [nth, List.getElem?_reverse (by omega), hlen, List.getElem?_take_of_lt (by omega), nth]

/-- The passing points from the front are those before the first that fails, or all. -/
theorem passRun_eq : ∀ {l : List Nat} {n : Nat}, n ≤ l.length →
    (∀ i, i < n → pointPass dwell thresh (nth 1 l i) = true) →
    (n = l.length ∨ pointPass dwell thresh (nth 1 l n) = false) → passRun dwell thresh l = n
  | [], n, hn, _, _ => (Nat.le_zero.1 hn).symm
  | m :: l, 0, _, _, he => by
    have hm : pointPass dwell thresh m = false := he.resolve_left (Nat.zero_ne_add_one _)
    rw [passRun, hm, if_neg Bool.false_ne_true]
  | m :: l, n + 1, hn, hp, he => by
    have hm : pointPass dwell thresh m = true := hp 0 (Nat.succ_pos n)
    have ih : passRun dwell thresh l = n := passRun_eq (Nat.le_of_succ_le_succ hn)
      (fun i hi => hp (i + 1) (Nat.succ_lt_succ hi)) (he.imp Nat.succ.inj id)
    rw [passRun, hm, if_pos rfl, ih, Nat.add_comm]

/-- The contiguous passing points around index `i` are those from `a` to `b`, where each end is the list's or the next point
fails. -/
theorem passAround_eq {a b i : Nat} (ha : a ≤ i) (hib : i < b) (hb : b ≤ l.length)
    (hp : ∀ j, a ≤ j → j < b → pointPass dwell thresh (nth 1 l j) = true)
    (hlo : a = 0 ∨ pointPass dwell thresh (nth 1 l (a - 1)) = false)
    (hhi : b = l.length ∨ pointPass dwell thresh (nth 1 l b) = false) : passAround dwell thresh l i = b - a := by
  have hup : passRun dwell thresh (l.drop i) = b - i := by
    refine passRun_eq (by rw [List.length_drop]; omega) (fun j hj => ?_) (hhi.imp (fun h => ?_) (fun h => ?_))
    · rw [nth_drop]
      exact hp _ (by omega) (by omega)
    · rw [List.length_drop, h]
    · rw [nth_drop, Nat.add_sub_cancel' hib.le, h]
  have hlen : (l.take i).reverse.length = i := by
    rw [List.length_reverse, List.length_take_of_le (by omega)]
  have hdown : passRun dwell thresh (l.take i).reverse = i - a := by
    refine passRun_eq (by omega) (fun j hj => ?_) ?_
    · rw [nth_reverse_take 1 (by omega) (by omega)]
      exact hp _ (by omega) (by omega)
    · by_cases h0 : a = 0
      · exact .inl (by omega)
      · refine .inr ?_
        rw [nth_reverse_take 1 (by omega) (by omega), show i - 1 - (i - a) = a - 1 by omega]
        exact hlo.resolve_left h0
  rw [passAround, if_pos (hp i ha hib), hup, hdown]
  omega

/-- Settles O23: each size of the eye is the run of passing points around its middle (`passAround_eq`). -/
theorem eyeQuality : Obligations.EyeQuality := by
  intro dwell thresh row col hrow hcol
  refine ⟨fun a b p q ha hb hb64 hp hq hq255 hpass hlo hhi hpass' hlo' hhi' => ?_, fun h => ?_⟩
  · have hw : passAround dwell thresh row 32 = b - a := passAround_eq ha hb (hrow ▸ hb64) hpass hlo (hrow ▸ hhi)
    have hh : passAround dwell thresh col 127 = q - p := passAround_eq hp hq (hcol ▸ hq255) hpass' hlo' (hcol ▸ hhi')
    rw [eyeQual, hw, hh]
    exact if_neg (by omega)
  · have hw : passAround dwell thresh row 32 = 0 := by rw [passAround, h, if_neg Bool.false_ne_true]
    rw [eyeQual, hw]
    exact if_pos (.inl rfl)

end Sys2Proof.Machine
end

section
/-! PROOFS. What becomes of a packet (O35): what each count and margin leaves, the outcome of each test of Table 3.4, and the
block that brings the packet. -/

namespace Sys2Proof.Machine

/-! ### What the counts of ingest leave -/

section Ingest

variable (c : Core)

@[simp] theorem Core.lagIn_power (x : Nat) : (c.lagIn x).power = c.power := rfl
@[simp] theorem Core.lagIn_img (x : Nat) : (c.lagIn x).img = c.img := rfl
@[simp] theorem Core.lagIn_cnt (x : Nat) : (c.lagIn x).ingest.cnt = c.ingest.cnt := rfl
@[simp] theorem Core.lagIn_io (x : Nat) : (c.lagIn x).io = c.io := rfl
@[simp] theorem Core.marginIn_slots (i : Image) (l x : Nat) (m : Int) : (c.marginIn i l m x).ingest.slots = c.ingest.slots := rfl
@[simp] theorem Core.marginIn_freeSlot (i : Image) (l x k : Nat) (m : Int) : (c.marginIn i l m x).freeSlot k = c.freeSlot k := rfl
@[simp] theorem Core.marginIn_cnt (i : Image) (l x : Nat) (m : Int) : (c.marginIn i l m x).ingest.cnt = c.ingest.cnt := rfl
@[simp] theorem Core.marginIn_io (i : Image) (l x : Nat) (m : Int) : (c.marginIn i l m x).io = c.io := rfl
@[simp] theorem Core.ioPut_io (a : Nat) (bs : List Byte) : (c.ioPut a bs).io = c.io.put a bs := rfl
@[simp] theorem Core.ingInc_slots (l : Nat) (k : InCnt) : (c.ingInc l k).ingest.slots = c.ingest.slots := rfl
@[simp] theorem Core.ingInc_io (l : Nat) (k : InCnt) : (c.ingInc l k).io = c.io := rfl

/-- An outcome counted on a lane adds one to its count, up to saturation (R74). -/
theorem Core.ingCount_ingInc_same (l : Nat) (k : InCnt) :
    (c.ingInc l k).ingCount l k.no = min (c.ingCount l k.no + 1) m32 := by
  rw [Core.ingCount, Core.ingInc]
  exact SMap.get_set_same ..

end Ingest

/-! ### The tests of Table 3.4 -/

section Tests

variable {c : Core} {l : Nat} {bs : List Byte} {p : Packet}

theorem Core.packetIn_of_error {k : InCnt} (h : parsePacket bs = .error k) : c.packetIn l bs = c.ingInc l k := by
  simp only [Core.packetIn, h]

variable (h : parsePacket bs = .ok p)
include h

theorem Core.packetIn_of_unmapped (hpos : c.position l p.group p.ch = none) : c.packetIn l bs = c.ingInc l .misrouted := by
  simp only [Core.packetIn, h, hpos]

variable {pos : Nat} (hpos : c.position l p.group p.ch = some pos)
include hpos

/-- Without a schedule a packet counts in its lag, and goes to the Pilot in BRINGUP (R68, R302, R318). -/
theorem Core.packetIn_of_idle (hr : c.power.running = false ∨ c.img = none) :
    c.packetIn l bs =
      if c.pilot.on = true ∧ c.power.mode = .bringup then (c.lagIn p.sample).pilotIn l p else c.lagIn p.sample := by
  have hi : (if (c.lagIn p.sample).power.running = true then (c.lagIn p.sample).img else none) = none := by
    rcases hr with hr | hr <;> simp [hr]
  simp only [Core.packetIn, h, hpos, hi]
  rfl

theorem Core.packetIn_of_running {i : Image} (hr : c.power.running = true) (hi : c.img = some i) :
    c.packetIn l bs = (c.lagIn p.sample).place i l pos p := by
  simp only [Core.packetIn, h, hpos, Core.lagIn_power, Core.lagIn_img, hr, hi, if_true]

end Tests

/-! ### Tests 5 to 8: the margin, what the lane holds, and the slot -/

section Place

variable {c : Core} {i : Image} {l pos : Nat} {p : Packet} {m : Int}
variable (hm : i.plan.due i.hdr.mF l pos (p.sample / 256 : Nat) - c.fcycle i = m)
include hm

theorem Core.place_of_late (h : m < 0) : c.place i l pos p = (c.marginIn i l m p.sample).ingInc l .late := by
  simp only [Core.place, hm, if_pos h]

theorem Core.place_of_early (h0 : 0 ≤ m) (h : i.plan.horizon < m) :
    c.place i l pos p = (c.marginIn i l m p.sample).ingInc l .early := by
  simp only [Core.place, hm, if_neg (not_lt.2 h0), if_pos h]

variable (h0 : 0 ≤ m) (hH : m ≤ i.plan.horizon)
include h0 hH

theorem Core.place_of_held
    (hd : c.ingest.slots.any (fun x => x.lane == l && x.pos == pos && x.blk == p.sample / 256) = true) :
    c.place i l pos p = (c.marginIn i l m p.sample).ingInc l .dup := by
  simp only [Core.place, hm, if_neg (not_lt.2 h0), if_neg (not_lt.2 hH), Core.marginIn_slots, if_pos hd]

variable (hd : c.ingest.slots.any (fun x => x.lane == l && x.pos == pos && x.blk == p.sample / 256) = false)
include hd

theorem Core.place_of_full (hf : c.freeSlot l = none) : c.place i l pos p = c.marginIn i l m p.sample := by
  simp only [Core.place, hm, if_neg (not_lt.2 h0), if_neg (not_lt.2 hH), Core.marginIn_slots, hd, Bool.false_eq_true, if_false,
    Core.marginIn_freeSlot, hf]

/-- A packet that passes every test takes the free slot (R67). -/
theorem Core.place_of_free {x : Nat} (hf : c.freeSlot l = some x) :
    (c.place i l pos p).ingest.slots = c.ingest.slots ++ [⟨l, pos, p.sample / 256, p.mask, p.dflags, m, x⟩] ∧
    (c.place i l pos p).io = c.io.put (slotAddr l x) p.payload ∧
    (c.place i l pos p).ingCount l InCnt.accepted.no = min (c.ingCount l InCnt.accepted.no + 1) m32 := by
  simp only [Core.place, hm, if_neg (not_lt.2 h0), if_neg (not_lt.2 hH), Core.marginIn_slots, hd, Bool.false_eq_true, if_false,
    Core.marginIn_freeSlot, hf]
  refine ⟨?_, ?_, ?_⟩
  · rw [Core.ingInc_slots, Core.ioPut_ingest]
  · rw [Core.ingInc_io, Core.ioPut_io, Core.marginIn_io]
  · rw [Core.ingCount_ingInc_same, Core.ingCount, Core.ioPut_ingest, Core.marginIn_cnt, Core.ingCount]

end Place

/-! ### The obligation -/

/-- Settles O35: a block is broken off, ignored or whole (`packet_broken`, `packet_ignored`, `packet_received`); a whole one of a
lane that takes packets falls to the first test it fails, in the order of Table 3.4. -/
theorem packetAcceptance : Obligations.PacketAcceptance := by
  intro s l line hruns r k f
  have does {g : Core → Core} (e : doPacket l line s.core = g s.core) : exec (.packetBlockReceived l line) s = s.does g :=
    act_does_of hruns e
  refine ⟨fun h => does (packet_ignored l line s.core h), fun hon => ⟨fun h => does (packet_broken l line .code s.core hon h),
    fun h => does (packet_broken l line .align s.core hon h), fun raw hraw => ?_⟩⟩
  intro bs
  refine ⟨fun h => ?_, fun hup hstep hdom => ?_⟩
  · refine does ((packet_received l line raw s.core hon hraw).trans (if_neg ?_))
    rintro ⟨h1, h2, h3⟩
    rcases h with h | h | h
    · exact h h1
    · exact absurd (h2.symm.trans h) Bool.false_ne_true
    · exact absurd (h.symm.trans h3) Bool.false_ne_true
  · have whole {d : Core} (e : (f s.core).packetIn l bs = d) : doPacket l line s.core = d :=
      (packet_received l line raw s.core hon hraw).trans ((if_pos ⟨hup, hstep, hdom⟩).trans e)
    refine ⟨fun e he => does (whole (Core.packetIn_of_error he)), fun p hp => ⟨fun hpos => ?misrouted,
      fun pos hpos hr => ?idle,
      fun pos i hpos hr hi => ?running⟩⟩
    case misrouted => exact does (whole (Core.packetIn_of_unmapped hp hpos))
    case idle => exact does (whole (Core.packetIn_of_idle hp hpos hr))
    case running =>
      intro b m h held
      have placed {d : Core} (e : ((f s.core).lagIn p.sample).place i l pos p = d) : doPacket l line s.core = d :=
        whole ((Core.packetIn_of_running (c := f s.core) hp hpos hr hi).trans e)
      have hm : i.plan.due i.hdr.mF l pos (p.sample / 256 : Nat) - ((f s.core).lagIn p.sample).fcycle i = m := rfl
      refine ⟨fun hlate => does (placed (Core.place_of_late hm hlate)),
        fun hearly => does (placed (Core.place_of_early hm (by omega) hearly)),
        fun h0 hH hd => does (placed (Core.place_of_held hm h0 hH hd)),
        fun h0 hH hd hf => does (placed (Core.place_of_full hm h0 hH hd hf)), fun x h0 hH hd hf => ?_⟩
      have e : doPacket l line s.core = ((f s.core).lagIn p.sample).place i l pos p := placed rfl
      refine State.does_leaves (act_does _ s hruns) ?_
      rw [e]
      obtain ⟨hslots, hio, hcnt⟩ := Core.place_of_free hm h0 hH hd hf
      refine ⟨hslots, ?_, ?_⟩
      · rw [hio, Core.ioPut_io, Core.lagIn_io, Core.modLane_io]
      · rw [hcnt, Core.ingCount, Core.lagIn_cnt, Core.modLane_ingest, Core.ingCount]
        rfl

end Sys2Proof.Machine
end

section
/-! PROOFS. The commands of a LANE page and LANE_EN (O17): what the count of a lock's access leaves, each branch of a command, and
the table that a broken-off FULL scan leaves. -/

namespace Sys2Proof.Machine

/-! ### What the count of a lock's access leaves of a lane and its group -/

section Locked

variable (c : Core) (k : PageKind) (m : Nat)

@[simp] theorem Core.tableBusy_lockAccess (l : Nat) : (c.lockAccess k m).tableBusy l = c.tableBusy l := by simp [Core.tableBusy]
@[simp] theorem Core.powered_lockAccess (j : PageKind) : (c.lockAccess k m).powered j = c.powered j := Core.pageReady_lockAccess ..
@[simp] theorem Core.domOn_lockAccess (n : Nat) : (c.lockAccess k m).domOn n = c.domOn n := by simp [Core.domOn]

/-- The count of a lock's accesses leaves the registers of a lane group's page (R393, R414). -/
theorem Core.rd_lockAccess_lgrp {g o : Nat} (hg : g < 16) (ho : o < 4096) :
    (c.lockAccess k m).rd (.lgrp g) o = c.rd (.lgrp g) o :=
  Core.rd_lockAccess_off _ _ _ _ ho (by simp only [PageKind.no]; omega) (by simp only [PageKind.no]; omega)

end Locked

/-! ### The commands of a LANE page -/

section Commands

variable {c : Core} {l : Nat}

theorem doRetrain_of_unset (h : (c.lane l).settings = false) : doRetrain l c = c.bringUp l := by
  simp [doRetrain, h]

/-- A RECAL command while one is pending or runs is merged and counted (R55). -/
theorem doRecal_of_merged
    (h : (c.lane l).recalPending = true ∨ (c.lane l).ph ∈ [LanePh.recalAdapt, .recalAlign, .recalScan]) :
    doRecal l c = c.inc (.lane l) 0x070 := by
  simp only [List.mem_cons, List.not_mem_nil, or_false] at h
  exact if_pos h

theorem doRecal_of_not_up
    (h : ¬ ((c.lane l).recalPending = true ∨ (c.lane l).ph ∈ [LanePh.recalAdapt, .recalAlign, .recalScan]))
    (hst : (c.lane l).st ≠ .up) : doRecal l c = c.raise (.lane l) 7 := by
  simp only [List.mem_cons, List.not_mem_nil, or_false] at h
  exact (if_neg h).trans (if_pos hst)

theorem doScanAbort_of_recal {l : Lane} (h : (c.lane l).scan = some .recal) :
    doScanAbort l c = (c.scanStop l).recalDone l := if_pos h

/-- SCAN_START is rejected while a scan runs, on a lane that is not UP, and in FULL mode while the group's table is held
(R58, R59). -/
theorem doScanStart_of_rejected (h : (c.lane l).scan ≠ none ∨ (c.lane l).st ≠ .up ∨
    (bits (c.scanCfg l) 1 0 = 0 ∧ c.tableBusy l = true)) : doScanStart l c = c.raise (.lane l) 7 := by
  refine if_pos ?_
  rcases h with h | h | ⟨hm, hb⟩
  · exact .inl (Option.isSome_iff_ne_none.2 h)
  · exact .inr (.inr h)
  · exact .inr (.inl ⟨by simp [hm], hb⟩)

/-- SCAN_START in FULL mode takes the group's table, which reads 0 until the scan fills it (R58). -/
theorem doScanStart_of_full (hs : (c.lane l).scan = none) (hst : (c.lane l).st = .up) (hm : bits (c.scanCfg l) 1 0 = 0)
    (hb : c.tableBusy l = false) :
    doScanStart l c =
      let d := c.modLane l (fun x => x.scanFrom .command 0 (c.dwellExp l) (c.threshExp l))
      (d.setLgrp (l / 16) { d.lgrp (l / 16) with scanOwner := l % 16 }).ioPut (scanTable (l / 16)) (List.replicate 65280 0) := by
  have hmode : (if (0 : Nat) = 3 then 1 else 0) = 0 := rfl
  simp only [doScanStart, hm, hmode, hs, hst, hb, if_true]
  exact if_neg (by decide)

end Commands

/-! ### A scan that ends early -/

section ScanStop

variable {c : Core} {n : Nat}

theorem Core.scanStop_of_none (h : (c.lane n).scan = none) : c.scanStop n = c := by
  simp only [Core.scanStop, h]

theorem Core.scanStop_of_some (h : (c.lane n).scan ≠ none) :
    c.scanStop n = ((if (c.lane n).scanMode = 0 then c.scanPart (n / 16) else c).modLane n
      (fun l => { l with scan := none })).raise (.lane n) 6 := by
  obtain ⟨w, hw⟩ := Option.ne_none_iff_exists'.1 h
  simp only [Core.scanStop, hw]

/-- The words that a broken-off FULL scan leaves in the table: the counts of the points it reached, free values (R59,
notes/assumptions/77.md). -/
def Core.scanWords (c : Core) : List Word :=
  (List.range ((Config.freeWord c.free).toNat % 16321)).map (fun i => Config.freeWord (c.free + 1 + i))

theorem Core.scanWords_length (c : Core) : c.scanWords.length = (Config.freeWord c.free).toNat % 16321 := by
  rw [Core.scanWords, List.length_map, List.length_range]

theorem Core.scanPart_eq (c : Core) (g : Nat) :
    c.scanPart g = ({ c with free := c.free + 1 + c.scanWords.length } : Core).ioPut (scanTable g)
      (c.scanWords.flatMap (fun w => leBytes 4 w.toNat)) := by
  rw [Core.scanWords_length, Core.scanWords, List.flatMap_map]
  rfl

end ScanStop

/-! ### LANE_EN -/

section LaneEn

variable {c : Core} {g : Nat} {v : Nat}

/-- A LANE_EN write to a powered group while a schedule runs changes nothing, and is recorded where it would (R9). -/
theorem serveLaneEn_of_running (hp : c.powered (.lgrp g) = true) (ha : c.acts (.lgrp g) = true) (hr : c.running = true) :
    serveLaneEn g v c = if v % 65536 = c.rd (.lgrp g) 0x040 then c else c.pageFlt (.lgrp g) 0x01 := by
  simp [serveLaneEn, doLaneEn, hp, ha, hr]

theorem serveLaneEn_of_disabled (hp : c.powered (.lgrp g) = true) (ha : c.acts (.lgrp g) = false) :
    serveLaneEn g v c = c := by
  simp [serveLaneEn, hp, ha]

/-- A LANE_EN write to a group whose domain is off asks for the switch-on (R456). -/
theorem serveLaneEn_of_off (hp : c.powered (.lgrp g) = false) : serveLaneEn g v c = c.requestLgrp g v := if_pos hp

theorem Core.requestLgrp_of_ne (h : v % 65536 ≠ 0) :
    c.requestLgrp g v =
      let d := c.setLgrp g { c.lgrp g with enPend := some (v % 65536) }
      if c.domOn g = true ∨ c.power.want.elem (g, true) = true then d
      else d.modPower (fun p => { p with want := p.want ++ [(g, true)] }) := if_neg h

end LaneEn

/-- A LANE_EN write that is served comes after the count of its lock. -/
theorem laneEnWrite_served {s : State} {g : Fin 16} {v : Word} {f : Core → Core} (h : s.runs)
    (hr : s.core.route (.lgrp g.val) = .serve)
    (e : serveLaneEn g.val v.toNat (s.core.lockAccess (.lgrp g.val) 0) = f (s.core.lockAccess (.lgrp g.val) 0)) :
    exec (.laneEnWrite g v) s = s.doesReg (.lgrp g.val) f :=
  act_does_of (f := doLaneEnWrite g v) h (by simp only [doLaneEnWrite, hr, e])

/-! ### The obligation -/

/-- Settles O17: every command of a LANE page is served (`regCmd_doesReg_of`) or, for LANE_EN, routed, and then falls to the
branch that its hypotheses name; they pass the count of the lock's access. -/
theorem laneAndEnableCommands : Obligations.LaneAndEnableCommands := by
  refine ⟨⟨fun s l h => ?lane, fun c n => ⟨Core.scanStop_of_none, fun hs hm => ?stop, fun hs hm => ?stopFull⟩⟩,
    fun s g v hruns => ⟨fun hr => ?queue, fun hr => ?none, fun hr => ?serve, fun c => rfl⟩⟩
  case lane =>
    refine ⟨regCmd_does _ _ _ s h, fun hs => regCmd_doesReg_of h (doRetrain_of_settings (by simpa using hs)),
      fun hs => regCmd_doesReg_of h (doRetrain_of_unset (by simpa using hs)),
      fun hm => regCmd_doesReg_of h (doRecal_of_merged (by simpa using hm)),
      fun hm => ⟨fun hst => regCmd_doesReg_of h (doRecal_of_not_up (by simpa using hm) (by simpa using hst)), fun hst => ?_⟩,
      regCmd_does _ _ _ s h, fun hs => regCmd_doesReg_of h (doScanAbort_of_ne (by simpa using hs)),
      fun hs => regCmd_doesReg_of h (doScanAbort_of_recal (by simpa using hs)),
      fun hrej => regCmd_doesReg_of h (doScanStart_of_rejected ?_), fun hs hst hm => regCmd_doesReg_of h ?_,
      fun hs hst hm => ⟨fun hb => regCmd_doesReg_of h (doScanStart_of_rejected ?_), fun hb => regCmd_doesReg_of h ?_⟩⟩
    · obtain ⟨hp, hph⟩ := not_or.1 hm
      exact regCmd_doesReg_of h (doRecal_of_up (by simpa using hp) (by simpa using hph) (by simpa using hst))
    · exact hrej.imp (by simp) (fun hst => .inl (by simpa using hst))
    · rw [doScanStart_of_up (by simpa using hs) (by simpa using hst) (by simpa using hm), Core.scanCfg_lockAccess]
    · exact .inr (.inr (by simpa using ⟨hm, hb⟩))
    · rw [doScanStart_of_full (by simpa using hs) (by simpa using hst) (by simpa using hm) (by simpa using hb), Core.dwellExp,
        Core.threshExp, Core.scanCfg_lockAccess]
      rfl
  case stop => rw [Core.scanStop_of_some hs, if_neg hm]
  case stopFull =>
    refine ⟨c.scanWords, ?_, ?_⟩
    · rw [Core.scanWords_length]
      exact Nat.le_of_lt_succ (Nat.mod_lt _ (by decide))
    · rw [Core.scanStop_of_some hs, if_pos hm, Core.scanPart_eq]
  case queue => exact act_does_of hruns (by simp only [doLaneEnWrite, hr])
  case none => exact act_does_of hruns (by simp only [doLaneEnWrite, hr])
  case serve =>
    refine ⟨fun _ ha hrun => laneEnWrite_served hruns hr (serveLaneEn_of_acts (by simpa using ha) (by simpa using hrun)),
      fun hp ha hrun => laneEnWrite_served hruns hr ?_,
      fun hp ha => laneEnWrite_served hruns hr (serveLaneEn_of_disabled (by simpa using hp) (by simpa using ha)),
      fun hp hv => laneEnWrite_served hruns hr ((serveLaneEn_of_off (by simpa using hp)).trans (if_pos hv)),
      fun hp hv => laneEnWrite_served hruns hr ?_⟩
    · rw [serveLaneEn_of_running (by simpa using hp) (by simpa using ha) (by simpa using hrun),
        Core.rd_lockAccess_lgrp _ _ _ g.isLt (by decide)]
      rfl
    · rw [serveLaneEn_of_off (by simpa using hp), Core.requestLgrp_of_ne hv, Core.domOn_lockAccess, Core.lockAccess_power]

end Sys2Proof.Machine
end

section
/-! PROOFS. Lane transitions and supervision (O18): what each transition leaves in its lane and in the others, and what a loss does
in each state. -/

namespace Sys2Proof.Machine

/-! ### What a transition leaves in its lane, in the others, and pending -/

section Transitions

variable (c : Core) {n m : Nat}

theorem Core.bringUp_other (h : m ≠ n) : (c.bringUp n).lane m = c.lane m := by
  rw [Core.bringUp, Core.lane_modLane_other _ _ h, Core.laneQuit_other _ h]

theorem Core.fastRetrain_other (h : m ≠ n) : (c.fastRetrain n).lane m = c.lane m := by
  rw [Core.fastRetrain, Core.lane_modLane_other _ _ h, Core.laneQuit_other _ h]

theorem Core.laneFail_other (code : Nat) (h : m ≠ n) : (c.laneFail n code).lane m = c.lane m := by
  rw [Core.laneFail, Core.lane_report, Core.lane_raise, Core.lane_modLane_other _ _ h, Core.laneQuit_other _ h]

/-- A lane that goes to OFF reports it on the line, unless its transmitter is idle already (R60). -/
theorem Core.laneDown_eq (n : Nat) :
    c.laneDown n =
      let d := (c.laneQuit n).modLane n (fun l =>
        { l with st := .off, aligned := false, txIdle := true, ctlQ := l.ctlQ.filter (fun m => m.rel.isSome) })
      if (c.lane n).txIdle then d else d.emit (.laneIdle n) := rfl

theorem Core.laneDown_lane (n m : Nat) : (c.laneDown n).lane m = ((c.laneQuit n).modLane n (fun l =>
    { l with st := .off, aligned := false, txIdle := true, ctlQ := l.ctlQ.filter (fun m => m.rel.isSome) })).lane m := by
  rw [Core.laneDown_eq]
  dsimp only
  split_ifs
  · rfl
  · rw [Core.lane_emit]

theorem Core.laneDown_other (h : m ≠ n) : (c.laneDown n).lane m = c.lane m := by
  rw [Core.laneDown_lane, Core.lane_modLane_other _ _ h, Core.laneQuit_other _ h]

theorem Core.laneDown_pend (n : Nat) : (c.laneDown n).pend = c.pend := by
  rw [Core.laneDown_eq]
  dsimp only
  split_ifs <;> simp

theorem Core.laneDown_out (h : (c.lane n).txIdle = false) : (c.laneDown n).out = (c.laneQuit n).out ++ [.laneIdle n] := by
  rw [Core.laneDown_eq, h]
  rfl

/-- With AUTO_RETRAIN a lane leaves UP for a fast retrain, else for FAILED (R51, R52). -/
theorem Core.leaveUp_of_auto (los : Bool) (h : c.autoRetrain n = true) : c.leaveUp n los = c.fastRetrain n := if_pos h

theorem Core.leaveUp_of_manual (los : Bool) (h : c.autoRetrain n = false) :
    c.leaveUp n los = ((c.laneQuit n).modLane n (fun l =>
      { l with st := .failed, failCode := if los then 1 else 2, aligned := false })).raise (.lane n) 9 :=
  if_neg (by simp [h])

theorem Core.leaveUp_other (los : Bool) (h : m ≠ n) : (c.leaveUp n los).lane m = c.lane m := by
  cases ha : c.autoRetrain n with
  | true => rw [Core.leaveUp_of_auto _ _ ha, Core.fastRetrain_other _ h]
  | false => rw [Core.leaveUp_of_manual _ _ ha, Core.lane_raise, Core.lane_modLane_other _ _ h, Core.laneQuit_other _ h]

/-- Whether a lane enters UP at its top step or below it, the lane itself is the same (R49, R50). -/
theorem Core.enterUp_lane (n m : Nat) (below : Bool) : (c.enterUp n below).lane m = (c.modLane n (fun l =>
    { l with st := .up, ph := .none, settings := true, fast := false, falling := false, retried := false, rxK := 0,
             upSince := c.time.tcNs }.cross (c.threshExp n) .enterUp)).lane m := by
  unfold Core.enterUp
  dsimp only
  split_ifs <;> simp

theorem Core.enterUp_other (below : Bool) (h : m ≠ n) : (c.enterUp n below).lane m = c.lane m := by
  rw [Core.enterUp_lane, Core.lane_modLane_other _ _ h]

/-- What a report leaves pending depends on what was pending alone. -/
theorem Core.report_pend_congr {c d : Core} (h : c.pend = d.pend) (k : PageKind) (kind cls addr : Nat) :
    (c.report k kind cls addr).pend = (d.report k kind cls addr).pend := by
  rw [Core.report_pend, Core.report_pend, h]

end Transitions

/-! ### Supervision -/

section Supervision

variable {c : Core} {l : Nat}

theorem Core.rxOn_of (hon : c.laneOn l = true) (hst : (c.lane l).st ≠ .off) (hph : (c.lane l).ph ≠ .prbs) :
    c.rxOn l = true := by
  simp [Core.rxOn, hon, hst, hph]

/-- A lane that is OFF or in a PRBS test finds no comma (R48). -/
theorem Core.rxOn_of_deaf (h : (c.lane l).st = .off ∨ (c.lane l).ph = .prbs) : c.rxOn l = false := by
  rcases h with h | h <;> simp [Core.rxOn, h]

theorem doLos_of_clear (hon : c.laneOn l = true) (h : (c.lane l).los = false) :
    doLos l c = (c.modLane l (fun x => { x with los := true })).lossOf l true := by
  simp [doLos, hon, h]

/-- Loss of signal is an event only where the signal was there. -/
theorem doLos_of_lost (h : (c.lane l).los = true) : doLos l c = c := by
  simp [doLos, h]

theorem doLol_of_on (hon : c.laneOn l = true) :
    doLol l c = (c.modLane l (fun x => { x with lol := true, aligned := false })).lossOf l false := by
  simp [doLol, hon]

variable (los : Bool)

/-- The event bit and the message kind of a loss (Tables 2.11 and 17.3). -/
theorem Core.lossOf_of_up (h : (c.lane l).st = .up ∨ (c.lane l).st = .recal) :
    c.lossOf l los =
      let d := c.raise (.lane l) (if los then 0 else 1)
      (d.report (.lane l) (if los then 0x10 else 0x11) d.clsDN 0).leaveUp l los := by
  rcases h with h | h <;> simp [Core.lossOf, h]

theorem Core.lossOf_of_bringUp (h : (c.lane l).st = .negotiate ∨ (c.lane l).st = .stepping) :
    c.lossOf l los = (c.raise (.lane l) (if los then 0 else 1)).reAcquire l := by
  rcases h with h | h <;> simp [Core.lossOf, h]

theorem Core.lossOf_of_retrain (h : (c.lane l).st = .retrain) (hp : (c.lane l).ph ≠ .losWait) :
    c.lossOf l los = (c.raise (.lane l) (if los then 0 else 1)).bringUp l := by
  simp [Core.lossOf, h, hp]

/-- Where a lane waits for its signal, or acquires it, or has failed, a loss is its event alone. -/
theorem Core.lossOf_of_waiting (h : (c.lane l).st = .acquire ∨ (c.lane l).st = .failed ∨
    ((c.lane l).st = .retrain ∧ (c.lane l).ph = .losWait)) :
    c.lossOf l los = c.raise (.lane l) (if los then 0 else 1) := by
  rcases h with h | h | ⟨h, hp⟩
  · simp [Core.lossOf, h]
  · simp [Core.lossOf, h]
  · simp [Core.lossOf, h, hp]

theorem Core.lossOf_of_off (h : (c.lane l).st = .off) : c.lossOf l los = c := by
  simp [Core.lossOf, h]

end Supervision

/-! ### The obligation -/

/-- A transition of one lane touches no other. -/
theorem transitions_other (c : Core) {n m : Nat} (h : m ≠ n) :
    (c.bringUp n).lane m = c.lane m ∧ (c.fastRetrain n).lane m = c.lane m ∧
      (∀ code, (c.laneFail n code).lane m = c.lane m) ∧ (c.laneDown n).lane m = c.lane m ∧
      (∀ los, (c.leaveUp n los).lane m = c.lane m) ∧ (∀ b, (c.enterUp n b).lane m = c.lane m) :=
  ⟨c.bringUp_other h, c.fastRetrain_other h, fun code => c.laneFail_other code h, c.laneDown_other h,
    fun los => c.leaveUp_other los h, fun b => c.enterUp_other b h⟩

/-- Settles O18: a transition's own lane is read through `Core.laneQuit_self`, and a supervision event falls to the state that the
lane is in (`Core.lossOf_of_up` and the lemmas after it). -/
theorem laneTransitionsAndSupervision : Obligations.LaneTransitionsAndSupervision := by
  refine ⟨fun c n => ⟨fun m => transitions_other c, ?bringUp, ?retrain, fun code => ?fail, ?down,
    fun los h => congrArg (fun d => d.lane n) (c.leaveUp_of_auto los h), fun los h => ?leave, fun below => ?enter, ?below,
    ?above, ?pendUp, ?pendRetrain, c.laneDown_pend n⟩, fun s l hruns hon => ?supervision⟩
  case bringUp =>
    rw [Core.bringUp, Core.lane_modLane_same, Core.laneQuit_self]
    exact ⟨rfl, rfl, rfl, rfl, rfl, rfl, rfl, rfl, rfl, rfl, rfl, rfl, rfl⟩
  case retrain =>
    rw [Core.fastRetrain, Core.lane_modLane_same, Core.laneQuit_self]
    exact ⟨rfl, rfl, rfl, rfl, rfl, rfl, rfl, rfl⟩
  case fail =>
    have hl : (c.laneFail n code).lane n =
        { c.lane n with scan := none, recalPending := false, ph := .none, st := .failed, failCode := code } := by
      rw [Core.laneFail, Core.lane_report, Core.lane_raise, Core.lane_modLane_same, Core.laneQuit_self]
    rw [hl]
    exact ⟨rfl, rfl, rfl, rfl, Core.report_pend_congr (by simp) ..⟩
  case down =>
    rw [Core.laneDown_lane, Core.lane_modLane_same, Core.laneQuit_self]
    exact ⟨rfl, rfl, rfl, rfl, c.laneDown_out⟩
  case leave =>
    rw [Core.leaveUp_of_manual _ _ h, Core.lane_raise, Core.lane_modLane_same]
    exact ⟨rfl, rfl⟩
  case enter =>
    rw [Core.enterUp_lane, Core.lane_modLane_same]
    exact ⟨rfl, rfl, rfl, rfl, rfl, rfl⟩
  case below => exact Core.report_pend_congr (by simp) ..
  case above => simp [Core.enterUp]
  case pendUp => simp [Core.bringUp]
  case pendRetrain => simp [Core.fastRetrain]
  case supervision =>
    have lol {g : Core → Core}
        (e : (s.core.modLane l (fun x => { x with lol := true, aligned := false })).lossOf l false = g s.core) :
        exec (.lossOfLock l) s = s.does g := act_does_of hruns ((doLol_of_on hon).trans e)
    have sig {g : Core → Core} (hlos : (s.core.lane l).los = false)
        (e : (s.core.modLane l (fun x => { x with los := true })).lossOf l true = g s.core) :
        exec (.lossOfSignal l) s = s.does g := act_does_of hruns ((doLos_of_clear hon hlos).trans e)
    refine ⟨fun hst hlos => sig hlos (Core.lossOf_of_up _ (by simpa using hst)),
      fun hst => lol (Core.lossOf_of_up _ (by simpa using hst)),
      fun hst => ⟨lol (Core.lossOf_of_bringUp _ (by simpa using hst)),
        fun hlos => sig hlos (Core.lossOf_of_bringUp _ (by simpa using hst))⟩,
      fun hst hph => ⟨lol (Core.lossOf_of_retrain _ (by simpa using hst) (by simpa using hph)),
        fun hlos => sig hlos (Core.lossOf_of_retrain _ (by simpa using hst) (by simpa using hph))⟩,
      fun hst => ⟨lol (Core.lossOf_of_waiting _ ?_), fun hlos => sig hlos (Core.lossOf_of_waiting _ ?_)⟩,
      fun hst hph => lol (Core.lossOf_of_waiting _ (.inr (.inr (by simpa using ⟨hst, hph⟩)))),
      fun hst => ⟨lol (Core.lossOf_of_off _ (by simpa using hst)),
        fun hlos => sig hlos (Core.lossOf_of_off _ (by simpa using hst))⟩,
      fun hlos => act_does_of hruns (doLos_of_lost hlos), act_does_of hruns (by simp [doLosClear, hon]),
      fun hst => act_does_of hruns (by simp [doTimeout, hon, hst]), fun hst => act_does_of hruns (if_neg (by simp [hst])),
      fun ctrl h => ?_, fun hst hph => ?_⟩
    · exact hst.imp (by simp) (fun h => .inl (by simpa using h))
    · exact hst.imp (by simp) (fun h => .inl (by simpa using h))
    · have hrx := Core.rxOn_of_deaf h
      exact ⟨act_does_of hruns (rxBlk_off _ hrx), act_does_of hruns (rxBlk_off _ hrx)⟩
    · have hrx := Core.rxOn_of hon hst hph
      exact ⟨⟨act_does_of hruns (rxBlk_on _ hrx), act_does_of hruns (rxBlk_on _ hrx)⟩, act_does_of hruns (rxBlk_on _ hrx),
        act_does_of hruns (rxBlk_on _ hrx)⟩

end Sys2Proof.Machine
end

section
/-! PROOFS. Bring-up, tests and their decision (O19): each step of a bring-up, the marked boundary by the phase it comes in, and the
decision by what the two results are. -/

namespace Sys2Proof.Machine

variable {c : Core} {l : Nat}

/-- Two changes that agree on the lane as it is are one. -/
theorem Core.modLane_congr {f g : LaneS → LaneS} (h : f (c.lane l) = g (c.lane l)) : c.modLane l f = c.modLane l g :=
  congrArg (c.setLane l) h

/-! ### Bring-up -/

theorem doPllLocked_of_pll (hon : c.laneOn l = true) (hph : (c.lane l).ph = .pll) :
    doPllLocked l c = (c.setLgrp (l / 16) { c.lgrp (l / 16) with pll := true }).modLane l (fun x => { x with ph := .align }) := by
  simp [doPllLocked, hon, hph]

theorem doLaneAligned_of_fastAlign (inv : Bool) (hon : c.laneOn l = true) (hph : (c.lane l).ph = .fastAlign) :
    doLaneAligned l inv c = (c.modLane l (fun x => { x with aligned := true, lol := false })).adapt l := by
  simp [doLaneAligned, hon, hph]

/-- The receive polarity that alignment settles: found, or as LANE_CFG gives it (R40). -/
def Core.alignPol (c : Core) (l : Nat) (inv : Bool) : Bool :=
  if bit (c.rd (.lane l) 0x040) 19 then inv else bit (c.rd (.lane l) 0x040) 20

/-- A lane that has aligned, its polarity settled. -/
def Core.alignedLane (c : Core) (l : Nat) (inv : Bool) : Core :=
  c.modLane l (fun x => { x with pol := c.alignPol l inv, aligned := true, lol := false })

/-- A change that leaves the state of a lane leaves the state of every lane. -/
theorem Core.st_modLane (c : Core) (n m : Nat) {f : LaneS → LaneS} (h : ∀ x, (f x).st = x.st) :
    ((c.modLane n f).lane m).st = (c.lane m).st := by
  rw [Core.lane_modLane]
  split_ifs with e
  · rw [h, e]
  · rfl

section Align

variable (inv : Bool) (hon : c.laneOn l = true) (hph : (c.lane l).ph = .align)
include hon hph

/-- After alignment a relayed lane waits for its control lane, and any other begins CAPS where it can answer (R46, R48). -/
theorem doLaneAligned_of_align :
    doLaneAligned l inv c =
      if c.relayed l = true then
        (if c.relayOk l = false then (c.alignedLane l inv).laneFail l 5
         else if (c.lane (c.ctrlLane l)).st = .up then (c.alignedLane l inv).startCaps l
         else (c.alignedLane l inv).modLane l (fun x => { x with st := .negotiate, ph := .waitCtrl }))
      else if c.txReturn l = true then (c.alignedLane l inv).startCaps l
      else (c.alignedLane l inv).laneFail l 5 := by
  have hst : ((c.alignedLane l inv).lane (c.ctrlLane l)).st = (c.lane (c.ctrlLane l)).st := Core.st_modLane _ _ _ (fun _ => rfl)
  rw [← hst]
  simp only [doLaneAligned, hon, hph, Bool.true_eq_false, if_false, if_true, reduceCtorEq]
  rfl

end Align

theorem Core.startCaps_of_direct (h : c.relayed l = false) :
    c.startCaps l = c.modLane l (fun x => { x with st := .negotiate, ph := .caps }) := by
  simp [Core.startCaps, h]

/-- A lane with a control lane that can carry its messages is a relayed one (R46). -/
theorem Core.relayed_of_relayOk (h : c.relayOk l = true) : c.relayed l = true := by
  simp only [Core.relayOk, Bool.and_eq_true] at h
  obtain ⟨⟨hr, -⟩, -⟩ := h
  exact hr

theorem doAlignTimeout_of_align (los : Bool) (hon : c.laneOn l = true) (hph : (c.lane l).ph = .align) :
    doAlignTimeout l los c = c.laneFail l (if los then 1 else 2) := by
  simp [doAlignTimeout, hon, hph]

theorem doRelayed_of_up (hon : c.laneOn l = true) (hph : (c.lane l).ph = .waitCtrl)
    (h : (c.lane (c.ctrlLane l)).st = .up) : doRelayed l c = c.startCaps l := by
  simp [doRelayed, hon, hph, h]

theorem doRelayed_of_failed (hon : c.laneOn l = true) (hph : (c.lane l).ph = .waitCtrl)
    (h : (c.lane (c.ctrlLane l)).st = .failed) : doRelayed l c = c.laneFail l 5 := by
  simp [doRelayed, hon, hph, h]

theorem doFastTimeout_of_fastAlign (hon : c.laneOn l = true) (hph : (c.lane l).ph = .fastAlign) :
    doFastTimeout l c = c.bringUp l := by
  simp [doFastTimeout, hon, hph]

/-! ### Tests -/

/-- After adaptation a lane that tests both ways sends its marks, with the bit count of its test (R42, R48). -/
theorem doAdaptDone_of_bothWays (hon : c.laneOn l = true) (hph : (c.lane l).ph = .adapt) (hb : c.bothWays l = true) :
    doAdaptDone l c = (c.modLane l (fun x => { x with ph := .markPrbs, peerPass := none })).sendMarks l 0x05
      (leBytes 5 (c.lane l).prbsCount) := by
  simp only [doAdaptDone, hon, hph, hb, Core.bothWays_modLane, beq_self_eq_true, Bool.and_self, Core.when_true, if_true,
    Core.lane_modLane_same]
  rfl

theorem doAdaptDone_of_oneWay (hon : c.laneOn l = true) (hph : (c.lane l).ph = .adapt) (hb : c.bothWays l = false) :
    doAdaptDone l c = c.modLane l (fun x => { x with ph := .markPrbs, peerPass := some true }) := by
  simp [doAdaptDone, hon, hph, hb]

/-- Adaptation that has ended does not end again. -/
theorem doAdaptDone_of_ended (hph : (c.lane l).ph ≠ .adapt) : doAdaptDone l c = c := if_neg (by simp [hph])

theorem doPrbsDone_of_prbs (nbits errs : Nat) (hon : c.laneOn l = true) (hph : (c.lane l).ph = .prbs)
    (hm : (c.lane l).txMark = false) :
    doPrbsDone l nbits errs c =
      let n := min nbits (c.lane l).rxBits
      let d := (c.wr (.lane l) 0x074 (min errs m32)).wr64 (.lane l) 0x078 n
      let d := d.modLane l (fun x => { x with ph := .result, ownPass := some (errs == 0), txPrbs := false })
      (d.sendCtl l 0x06 (leBytes 1 (c.lane l).step ++ [0, 0, 0, 0] ++ leBytes 8 n ++ leBytes 8 errs)).prbsDecide l := by
  simp only [doPrbsDone, hon, hph, hm, beq_self_eq_true, Bool.and_self, Bool.not_false, Core.when_true, Core.lane_modLane_same,
    Core.lane_wr64, Core.lane_wr]

/-- Outside a PRBS test, and while own marked blocks still wait, there is no test to end. -/
theorem doPrbsDone_of_not (nbits errs : Nat) (h : (c.lane l).ph ≠ .prbs ∨ (c.lane l).txMark = true) :
    doPrbsDone l nbits errs c = c := by
  rcases h with h | h
  · exact if_neg (by simp [h])
  · exact if_neg (by simp [h])

/-! ### The marked boundary -/

section Boundary

variable (hon : c.laneOn l = true) (hm : (c.lane l).rxMark = some 0)
include hon hm

/-- At a test's boundary the receiver suspends comma detection, and adaptation ends if it has not (R42, R48,
notes/assumptions/80.md). -/
theorem doBoundary_of_test (hph : (c.lane l).ph = .markPrbs ∨ (c.lane l).ph = .adapt) :
    doBoundary l c = (doAdaptDone l c).modLane l (fun x => { x with rxMark := none, ph := .prbs }) := by
  rcases hph with h | h <;> simp [doBoundary, hon, hm, h]

/-- At the boundary of a rate change the receiver takes the target step; own marks that wait go first (R42, R48). -/
theorem doBoundary_of_rate_waiting (hph : (c.lane l).ph = .mark) (ht : (c.lane l).txMark = true) :
    doBoundary l c = c.modLane l (fun x => { x with rxMark := none, step := x.target, ph := .markOwn }) := by
  simp only [doBoundary, hon, hm, hph, ht, beq_self_eq_true, Bool.and_self, Core.when_true, if_true]
  exact Core.modLane_congr (by rw [ht, if_pos rfl])

theorem doBoundary_of_rate_done (hph : (c.lane l).ph = .mark) (ht : (c.lane l).txMark = false) :
    doBoundary l c =
      let d := c.modLane l (fun x => { x with rxMark := none, step := x.target })
      if (c.lane l).falling = true then d.enterUp l true else d.adapt l := by
  have e : c.modLane l (fun x => { x with rxMark := none, step := x.target, ph := if x.txMark then .markOwn else x.ph }) =
      c.modLane l (fun x => { x with rxMark := none, step := x.target }) := Core.modLane_congr (by simp [ht])
  simp only [doBoundary, hon, hm, hph, ht, beq_self_eq_true, Bool.and_self, Core.when_true, if_true, Bool.false_eq_true,
    if_false, e, Core.stepped, Core.lane_modLane_same]

omit hon hm in
theorem doBoundary_of_unmarked (h : (c.lane l).rxMark ≠ some 0) : doBoundary l c = c := if_neg (by simp [h])

end Boundary

/-! ### The decision -/

section Decision

variable {own peer : Bool} (ho : (c.lane l).ownPass = some own) (hp : (c.lane l).peerPass = some peer)
include ho hp

/-- A passed test ends in UP at the top step and after a fast retrain, and else asks for the next step (R48, R52). -/
theorem Core.prbsDecide_of_passed (h : own = true ∧ peer = true) :
    c.prbsDecide l = if (c.lane l).fast = true ∨ (c.lane l).step = (c.lane l).top then c.enterUp l false else c.stepOn l := by
  simp only [Core.prbsDecide, ho, hp, h, Bool.and_self, if_true]

/-- A failed test ends a fast retrain, is repeated once, and then asks for the step below, which step 0 has not (R48, R49). -/
theorem Core.prbsDecide_of_failed (h : ¬ (own = true ∧ peer = true)) :
    c.prbsDecide l =
      if (c.lane l).fast = true then c.bringUp l
      else if (c.lane l).retried = false then (c.modLane l (fun x => { x with retried := true })).adapt l
      else if (c.lane l).step = 0 then c.laneFail l 4
      else (c.modLane l (fun x => { x with falling := true })).stepReq l ((c.lane l).step - 1) := by
  simp only [Core.prbsDecide, ho, hp, ← Bool.and_eq_true] at h ⊢
  exact if_neg h

end Decision

/-! ### The obligation -/

/-- Settles O19: each command acts in its phase on a lane that is on, by the lemma of that phase. -/
theorem bringUpAndTests : Obligations.BringUpAndTests := by
  refine ⟨fun s l hruns hon => ⟨fun hph => act_does_of hruns (doPllLocked_of_pll hon hph),
      fun inv hph => act_does_of hruns (doLaneAligned_of_fastAlign inv hon hph), fun inv hph => ?align,
      fun los hph => act_does_of hruns (doAlignTimeout_of_align los hon hph),
      fun hph => ⟨fun h => act_does_of hruns (doRelayed_of_up hon hph h),
        fun h => act_does_of hruns (doRelayed_of_failed hon hph h)⟩,
      fun hph => act_does_of hruns (doFastTimeout_of_fastAlign hon hph)⟩,
    fun s l hruns hon => ⟨fun hph hb => act_does_of hruns (doAdaptDone_of_bothWays hon hph hb),
      fun hph hb => act_does_of hruns (doAdaptDone_of_oneWay hon hph hb),
      fun nbits errs hph hm => act_does_of hruns (doPrbsDone_of_prbs nbits errs hon hph hm),
      fun nbits errs h => act_does_of hruns (doPrbsDone_of_not nbits errs h), fun hm hph => ?test,
      fun hm hph hb => ?testBothWays, fun hm hph hb => ?testOneWay,
      fun hm hph ht => act_does_of hruns (doBoundary_of_rate_waiting hon hm hph ht),
      fun hm hph ht => act_does_of hruns (doBoundary_of_rate_done hon hm hph ht),
      fun hm => act_does_of hruns (doBoundary_of_unmarked hm)⟩,
    fun c n own peer ho hp => ⟨fun h1 h2 h => (Core.prbsDecide_of_passed ho hp ⟨h1, h2⟩).trans (if_pos h),
      fun h1 h2 hf ht => (Core.prbsDecide_of_passed ho hp ⟨h1, h2⟩).trans (if_neg (by simp [hf, ht])),
      fun h hf => (Core.prbsDecide_of_failed ho hp h).trans (if_pos hf),
      fun h hf hr => ?repeated, fun h hf hr h0 => ?bottom, fun h hf hr h0 => ?below⟩⟩
  case align =>
    intro pol f
    have aligned {g : Core → Core} (e : _ = g s.core) : exec (.laneAligned l inv) s = s.does g :=
      act_does_of hruns ((doLaneAligned_of_align inv hon hph).trans e)
    refine ⟨fun hr ht => aligned ?_, fun hr ht => aligned ?_, fun hr hk => aligned ?_, fun hk hst => aligned ?_,
      fun hk hst => aligned ?_⟩
    · rw [if_neg (by simp [hr]), if_pos ht, Core.startCaps_of_direct (by simpa [Core.alignedLane] using hr)]
      rfl
    · rw [if_neg (by simp [hr]), if_neg (by simp [ht])]
      rfl
    · rw [if_pos hr, if_pos hk]
      rfl
    · rw [if_pos (Core.relayed_of_relayOk hk), if_neg (by simp [hk]), if_pos hst]
      rfl
    · rw [if_pos (Core.relayed_of_relayOk hk), if_neg (by simp [hk]), if_neg hst]
      rfl
  case test =>
    refine act_does_of hruns ((doBoundary_of_test hon hm (.inl hph)).trans ?_)
    rw [doAdaptDone_of_ended (by simp [hph])]
  case testBothWays =>
    refine act_does_of hruns ((doBoundary_of_test hon hm (.inr hph)).trans ?_)
    rw [doAdaptDone_of_bothWays hon hph hb]
  case testOneWay =>
    refine act_does_of hruns ((doBoundary_of_test hon hm (.inr hph)).trans ?_)
    rw [doAdaptDone_of_oneWay hon hph hb]
  case repeated => rw [Core.prbsDecide_of_failed ho hp h, if_neg (by simp [hf]), if_pos hr]
  case bottom => rw [Core.prbsDecide_of_failed ho hp h, if_neg (by simp [hf]), if_neg (by simp [hr]), if_pos h0]
  case below => rw [Core.prbsDecide_of_failed ho hp h, if_neg (by simp [hf]), if_neg (by simp [hr]), if_neg h0]

end Sys2Proof.Machine
end

section
/-! PROOFS. Control blocks sent and received (O20): the queue that a transmitter serves, the ways in which a received block can end,
and the effect of each type. -/

namespace Sys2Proof.Machine

variable {c : Core} {l : Nat}

/-! ### The transmitter -/

/-- A control block leaves with the running SEQ of its lane (R41). -/
theorem Core.putCtrl_eq {q : Nat} (m : CtrlOut) (h : (c.lane l).txSeq = q) :
    c.putCtrl l m = (c.modLane l (fun x => { x with txSeq := (x.txSeq + 1) % 65536, txK := 0 })).emit
      (.laneCtrl l (ctrlBytes m q) (ctrlLine (ctrlBytes m q))) := by
  subst h
  rfl

@[simp] theorem Core.stampNow_lane (c : Core) (n : Nat) : c.stampNow.2.lane n = c.lane n := rfl

/-- The record of a transmit time touches no lane. -/
theorem Core.tsRecord_lane (c : Core) (id l n : Nat) : (c.tsRecord id l).lane n = c.lane n := by
  unfold Core.tsRecord Core.stampNow
  dsimp only
  split_ifs <;> simp [Core.lane]

theorem doCtrlDue_of_sending (hon : c.laneOn l = true) (ht : c.txMode l ≠ 3) (hst : (c.lane l).st ≠ .off)
    (hi : (c.lane l).txIdle = false) (hp : (c.lane l).txPrbs = false) :
    doCtrlDue l c = if c.launchNear l = true then c.modLane l (fun x => { x with ctrlHeld := true }) else c.ctrlDue l :=
  if_pos (by simp [hon, ht, hst, hi, hp])

theorem doCtrlDue_of_silent (h : c.laneOn l = false ∨ (c.lane l).st = .off ∨ (c.lane l).txIdle = true ∨
    (c.lane l).txPrbs = true ∨ c.txMode l = 3) : doCtrlDue l c = c := by
  refine if_neg ?_
  rcases h with h | h | h | h | h <;> simp [h]

/-- On an OUTPUT lane every control block is a STATUS (R45). -/
theorem Core.ctrlDue_of_output (h : c.txMode l = 2) : c.ctrlDue l = c.putCtrl l { type := 7, body := c.statusBody l false } :=
  if_pos h

section Queues

variable (ht : c.txMode l ≠ 2)
include ht

/-- A waiting negotiation message goes first. -/
theorem Core.ctrlDue_of_ctl {m : CtrlOut} {ms : List CtrlOut} (h : (c.lane l).ctlQ = m :: ms) :
    c.ctrlDue l = ((c.modLane l (fun x => { x with ctlQ := ms })).putCtrl l m).markLeft l m := by
  simp only [Core.ctrlDue, if_neg ht, h]

variable (h1 : (c.lane l).ctlQ = [])
include h1

/-- Then an answer to a TIME_REQ, with its transmit time (R324, R325). -/
theorem Core.ctrlDue_of_resp {id : Nat} {t2 : Stamp} {rs : List (Nat × Stamp)} (h : (c.lane l).respQ = (id, t2) :: rs) :
    c.ctrlDue l = (c.stampNow.2.modLane l (fun x => { x with respQ := rs })).putCtrl l
      { type := 9
        body := leBytes 2 id ++ leBytes 1 c.tflags ++ [0, 0, 0, 0, 0] ++ t2.bytes ++ c.stampNow.1.bytes } := by
  simp only [Core.ctrlDue, if_neg ht, h1, h]
  rfl

variable (h2 : (c.lane l).respQ = [])
include h2

theorem Core.ctrlDue_of_time {id : Nat} {ts : List Nat} (h : (c.lane l).timeQ = id :: ts) :
    c.ctrlDue l = ((c.modLane l (fun x => { x with timeQ := ts })).tsRecord id l).putCtrl l
      { type := 8, body := leBytes 2 id ++ leBytes 1 c.tflags } := by
  simp only [Core.ctrlDue, if_neg ht, h1, h2, h]

variable (h3 : (c.lane l).timeQ = [])
include h3

theorem Core.ctrlDue_of_host {b : List Byte} {hs : List (List Byte)} (h : (c.lane l).hostQ = b :: hs) :
    c.ctrlDue l = (c.modLane l (fun x => { x with hostQ := hs })).putCtrl l { type := 0x0A, body := b } := by
  simp only [Core.ctrlDue, if_neg ht, h1, h2, h3, h]

/-- With nothing waiting, CAPS in steps 2 and 3 of a bring-up, else IDLE (R35, R48). -/
theorem Core.ctrlDue_of_empty (h : (c.lane l).hostQ = []) :
    c.ctrlDue l = c.putCtrl l
      (if (c.lane l).ph = .align ∨ (c.lane l).ph = .caps then { type := 1, body := c.capsBody l } else { type := 0 }) := by
  simp only [Core.ctrlDue, if_neg ht, h1, h2, h3, h]
  exact (apply_ite (c.putCtrl l) _ _ _).symm

end Queues

/-- With its own last STEP_MARK the transmitter takes the target step (R42). -/
theorem Core.markLeft_of_step {m : CtrlOut} (ht : (c.lane l).txMark = true) (h0 : m.count = 0) (hr : m.rel = none)
    (h4 : m.type = 4) (hph : (c.lane l).ph ≠ .markOwn) :
    c.markLeft l m = c.modLane l (fun x => { x with txMark := false, txStep := leAt m.body 0 1 }) := by
  simp [Core.markLeft, ht, h0, hr, h4, hph]

/-- With its own last PRBS_MARK the transmitter sends PRBS31 (R42, R48). -/
theorem Core.markLeft_of_prbs {m : CtrlOut} (ht : (c.lane l).txMark = true) (h0 : m.count = 0) (hr : m.rel = none)
    (h5 : m.type = 5) :
    c.markLeft l m = (c.modLane l (fun x => { x with txMark := false, txPrbs := true })).emit (.lanePrbs l (leAt m.body 0 5)) := by
  simp [Core.markLeft, ht, h0, hr, h5]

/-! ### How a received control block ends -/

section RxLine

variable {line : List Bool} (ts : Nat → Bool) (f : CtrlBlk → Core → Core)

/-- A lane that does not receive takes nothing from its line. -/
theorem rxLine_of_deaf (h : c.rxOn l = false) : rxLine l line ts f c = c := by
  unfold rxLine
  split
  · exact rxBlk_off _ h
  · split
    · exact rxBlk_off _ h
    · have hoff : ∀ p, c.when p (rxCtrl l (f ‹_›)) = c := fun p => by
        rw [Core.when_eq, rxCtrl, rxBlk_off _ h, ite_self]
      split_ifs
      · exact rxBlk_off _ h
      · exact hoff _
  · rfl

variable (hon : c.rxOn l = true)
include hon

/-- A block broken off is counted by what breaks it off (R38, R39). -/
theorem rxLine_of_broken {e : BlockErr} (h : rxBlock (c.lane l).pol line = some (false, .error e)) :
    rxLine l line ts f c = (c.modLane l (fun x => x.comma false)).inc (.lane l) e.cnt := by
  simp only [rxLine, h]
  exact rxBlk_on _ hon

variable {bs : List Bool} (h : rxBlock (c.lane l).pol line = some (false, .ok bs))
include h

/-- A block whose CRC fails is counted (R39). -/
theorem rxLine_of_crc (hp : parseCtrl (ctrlBlockBytes bs) = none) :
    rxLine l line ts f c = (c.modLane l (fun x => x.comma false)).inc (.lane l) 0x064 := by
  simp only [rxLine, h, hp]
  exact rxBlk_on _ hon

variable {b : CtrlBlk} (hp : parseCtrl (ctrlBlockBytes bs) = some b)
include hp

/-- A block of an unknown TYPE is counted (R41). -/
theorem rxLine_of_unknown (ht : 0x0A < b.type) :
    rxLine l line ts f c = (c.modLane l (fun x => x.comma false)).inc (.lane l) 0x064 := by
  simp only [rxLine, h, hp, if_pos ht]
  exact rxBlk_on _ hon

/-- A block of a type of the command's row counts its comma and has its effect (R41, R42). -/
theorem rxLine_of_known (ht : b.type ≤ 0x0A) (hts : ts b.type = true) :
    rxLine l line ts f c = f b (c.modLane l (fun x => x.comma false)) := by
  simp only [rxLine, h, hp, if_neg (not_lt.2 ht), hts, Core.when_true]
  exact rxBlk_on _ hon

end RxLine

/-! ### The effect of a received message -/

section Messages

/-- A message that is not relayed concerns its own lane, where that lane is not relayed itself (R46). -/
theorem Core.concerns_of_own {b : CtrlBlk} (hb : b.flags.testBit 0 = false) (hr : c.relayed l = false) :
    c.concerns l b = some l := by
  simp [Core.concerns, hb, hr]

/-- A relayed message concerns the lane it names, where that lane negotiates through this one (R46). -/
theorem Core.concerns_of_relayed {b : CtrlBlk} (hb : b.flags.testBit 0 = true) (hn : b.lane < 256)
    (hr : c.relayed b.lane = true) (hc : c.ctrlLane b.lane = l) : c.concerns l b = some b.lane := by
  simp [Core.concerns, hb, hn, hr, hc]

/-- A relayed lane tests its receive direction alone (R48). -/
theorem Core.bothWays_of_relayed (h : c.relayed l = true) : c.bothWays l = false := by
  simp [Core.bothWays, h]

/-- The partner's identity leaves the configuration of the lane. -/
theorem Core.maxStep_wr64_endpoint (c : Core) (l v : Nat) : (c.wr64 (.lane l) 0x080 v).maxStep l = c.maxStep l := by
  have h : ∀ o, o ≠ 0x040 → (PageKind.lane l).key 0x040 ≠ (PageKind.lane l).key o :=
    fun o ho e => ho (PageKind.key_inj.1 e).symm
  rw [Core.maxStep, Core.wr64, Core.rd_wr, if_neg (h _ (by decide)), Core.rd_wr, if_neg (h _ (by decide)), Core.maxStep]

variable {body : List Byte}

theorem Core.takeCaps_of_version (hph : (c.lane l).ph = .caps) (hv : leAt body 8 1 ≠ 1) :
    c.takeCaps l body = c.laneFail l 3 := by
  simp [Core.takeCaps, hph, hv]

theorem Core.takeCaps_of_agreed (hph : (c.lane l).ph = .caps) (hv : leAt body 8 1 = 1) :
    c.takeCaps l body = ((c.wr64 (.lane l) 0x080 (leAt body 0 8)).modLane l (fun x =>
      { x with features := leAt body 11 1, partnerMax := leAt body 9 1, partnerLane := leAt body 12 1,
               top := min (min (c.maxStep l) (leAt body 9 1)) 4, st := .stepping })).stepOn l := by
  simp [Core.takeCaps, hph, hv, Core.maxStep_wr64_endpoint]

section Ack

variable (hph : (c.lane l).ph = .ackWait) (ht : leAt body 0 1 = (c.lane l).target)
include hph ht

theorem Core.takeAck_of_bothWays (ha : leAt body 1 1 = 0) (hb : c.bothWays l = true) :
    c.takeAck l body = (c.modLane l (fun x => { x with ph := .mark })).sendMarks l 0x04 (leBytes 1 (c.lane l).target) := by
  simp [Core.takeAck, hph, ht, ha, hb]

theorem Core.takeAck_of_oneWay (ha : leAt body 1 1 = 0) (hb : c.bothWays l = false) :
    c.takeAck l body = c.modLane l (fun x => { x with ph := .mark }) := by
  simp [Core.takeAck, hph, ht, ha, hb]

/-- A refused step ends stepping: the lane tests the step it is at (R49). -/
theorem Core.takeAck_of_refused (ha : leAt body 1 1 ≠ 0) :
    c.takeAck l body = (c.modLane l (fun x => { x with top := x.step, falling := false, retried := false })).adapt l := by
  simp [Core.takeAck, hph, ht, ha]

end Ack

theorem Core.takeResult_of_result (hph : (c.lane l).ph = .result) (hb : c.bothWays l = true)
    (hs : leAt body 0 1 = (c.lane l).step) :
    c.takeResult l body = (c.modLane l (fun x => { x with peerPass := some (leAt body 13 8 == 0) })).prbsDecide l := by
  simp [Core.takeResult, hph, hb, hs]

theorem Core.takeMark_of_step {b : CtrlBlk} (h4 : b.type = 4) :
    c.takeMark l [.mark] b =
      if (c.lane l).ph = .mark then c.modLane l (fun x => { x with rxMark := some b.count }) else c := by
  simp [Core.takeMark, Core.when_eq, h4]

theorem Core.takeMark_of_prbs {b : CtrlBlk} (h5 : b.type = 5) :
    c.takeMark l [.adapt, .markPrbs] b =
      if (c.lane l).ph = .adapt ∨ (c.lane l).ph = .markPrbs
      then c.modLane l (fun x => { x with rxMark := some b.count, rxBits := leAt b.body 0 5 }) else c := by
  simp [Core.takeMark, Core.when_eq, h5]

end Messages

/-! ### The obligation -/

/-- Settles O20: a control block due falls to the first queue that waits (`Core.ctrlDue_of_output` and the lemmas after it); a
received one ends as its bits, its CRC and its type say (`rxLine_of_broken` to `rxLine_of_known`), and a known one then has the
effect of its message. -/
theorem controlBlocks : Obligations.ControlBlocks := by
  refine ⟨fun s l hruns => ⟨?due, fun h => act_does_of hruns (doCtrlDue_of_silent h), fun c m ht h0 hr =>
    ⟨fun h4 hph => Core.markLeft_of_step ht h0 hr h4 hph, fun h5 => Core.markLeft_of_prbs ht h0 hr h5⟩⟩,
    fun s l line hruns hon hst => ?received⟩
  case due =>
    intro hon ht hst hi hp put x
    have due {d : Core} (e : s.core.ctrlDue l = d) (hl : s.core.launchNear l = false) : doCtrlDue l s.core = d :=
      (doCtrlDue_of_sending hon ht hst hi hp).trans ((if_neg (by simp [hl])).trans e)
    have sent (d : Core) (m : CtrlOut) (h : (d.lane l).txSeq = (s.core.lane l).txSeq) : d.putCtrl l m = put m d :=
      Core.putCtrl_eq m h
    refine ⟨fun hl => act_does_of hruns ((doCtrlDue_of_sending hon ht hst hi hp).trans (if_pos hl)), fun hl =>
      ⟨fun h2 => act_does_of hruns (due ((Core.ctrlDue_of_output h2).trans (sent _ _ rfl)) hl), fun h2 =>
      ⟨fun m ms hq => act_does_of hruns (due ((Core.ctrlDue_of_ctl h2 hq).trans ?_) hl), fun hq1 =>
      ⟨fun id t2 rs hq => act_does_of hruns (due ((Core.ctrlDue_of_resp h2 hq1 hq).trans (sent _ _ ?_)) hl), fun hq2 =>
      ⟨fun id ts hq => act_does_of hruns (due ((Core.ctrlDue_of_time h2 hq1 hq2 hq).trans (sent _ _ ?_)) hl), fun hq3 =>
      ⟨fun b hs hq => act_does_of hruns (due ((Core.ctrlDue_of_host h2 hq1 hq2 hq3 hq).trans (sent _ _ ?_)) hl), fun hq4 =>
        act_does_of hruns (due ((Core.ctrlDue_of_empty h2 hq1 hq2 hq3 hq4).trans (sent _ _ rfl)) hl)⟩⟩⟩⟩⟩⟩
    · refine congrArg (fun d => d.markLeft l m) (sent _ _ ?_)
      rw [Core.lane_modLane_same]
    · rw [Core.lane_modLane_same, Core.stampNow_lane]
    · rw [Core.tsRecord_lane, Core.lane_modLane_same]
    · rw [Core.lane_modLane_same]
  case received =>
    intro f
    refine ⟨fun hph => ?_, fun hph => ⟨fun e he => ?_, fun bs hb => ⟨fun hp => ?_, fun b hp => ?_⟩⟩⟩
    · have hrx := Core.rxOn_of_deaf (.inr hph)
      exact ⟨act_does_of hruns (rxLine_of_deaf _ _ hrx), act_does_of hruns (rxLine_of_deaf _ _ hrx)⟩
    · refine act_does_of hruns ((rxLine_of_broken _ _ (Core.rxOn_of hon hst hph) he).trans ?_)
      cases e <;> rfl
    · exact act_does_of hruns (rxLine_of_crc _ _ (Core.rxOn_of hon hst hph) hb hp)
    · have hrx := Core.rxOn_of hon hst hph
      have known {ts : Nat → Bool} {e : CtrlBlk → Core → Core} {t : Nat} {d : Core} (ht : b.type = t) (hle : t ≤ 0x0A)
          (hts : ts t = true) (he : e b (f s.core) = d) : rxLine l line ts e s.core = d :=
        (rxLine_of_known ts e hrx hb hp (ht ▸ hle) (ht ▸ hts)).trans he
      have lane_f : (f s.core).lane l = (s.core.lane l).comma false := Core.lane_modLane_same ..
      refine ⟨fun ht => act_does_of hruns (rxLine_of_unknown _ _ hrx hb hp ht),
        fun ht => act_does_of hruns (known ht (by decide) rfl rfl), fun ht => act_does_of hruns (known ht (by decide) rfl rfl),
        fun ht => act_does_of hruns (known ht (by decide) rfl rfl),
        fun ht => act_does_of hruns (known ht (by decide) rfl ((Core.takeMark_of_step ht).trans (by rw [lane_f]; rfl))),
        fun ht => act_does_of hruns (known ht (by decide) rfl ((Core.takeMark_of_prbs ht).trans (by rw [lane_f]; rfl))),
        fun hf hr => ?own, fun hf t hlane h256 hne hr hc ht hph' htgt hack => ?relayed⟩
      case own =>
        have hcon : (f s.core).concerns l b = some l.val := Core.concerns_of_own hf hr
        refine ⟨fun ht hph' hv => act_does_of hruns (known ht (by decide) rfl ?_),
          fun ht hph' hv => act_does_of hruns (known ht (by decide) rfl ?_),
          fun ht hph' htgt hack hb => act_does_of hruns (known ht (by decide) rfl ?_),
          fun ht hph' htgt hack => act_does_of hruns (known ht (by decide) rfl ?_),
          fun ht hph' hb hstep => act_does_of hruns (known ht (by decide) rfl ?_)⟩ <;> simp only [hcon]
        · exact Core.takeCaps_of_version (by rw [lane_f]; exact hph') hv
        · exact Core.takeCaps_of_agreed (by rw [lane_f]; exact hph') hv
        · rw [Core.takeAck_of_bothWays (c := f s.core) (by rw [lane_f]; exact hph') (by rw [lane_f]; exact htgt) hack hb, lane_f]
          rfl
        · exact Core.takeAck_of_refused (by rw [lane_f]; exact hph') (by rw [lane_f]; exact htgt) hack
        · exact Core.takeResult_of_result (by rw [lane_f]; exact hph') hb (by rw [lane_f]; exact hstep)
      case relayed =>
        subst hlane
        have hcon : (f s.core).concerns l b = some b.lane := Core.concerns_of_relayed hf h256 hr hc
        have other : (f s.core).lane b.lane = s.core.lane b.lane := Core.lane_modLane_other _ _ hne
        refine act_does_of hruns (known ht (by decide) rfl ?_)
        simp only [hcon]
        exact Core.takeAck_of_oneWay (by rw [other]; exact hph') (by rw [other]; exact htgt) hack (Core.bothWays_of_relayed hr)

end Sys2Proof.Machine
end

section
/-! PROOFS. Time and host messages through a lane (O21): what a count leaves of the registers, the delivery of an item, and the
messages in turn. -/

namespace Sys2Proof.Machine

variable {c : Core} {l : Nat} {body : List Byte}

/-! ### What a count leaves -/

/-- The count of one register leaves every other. -/
theorem Core.rd_inc_of_ne (c : Core) (k j : PageKind) {o p : Nat} (n : Nat) (h : j.key p ≠ k.key o) :
    (c.inc k o n).rd j p = c.rd j p := by rw [Core.rd_inc, if_neg h]

/-- A count on a timing page leaves the configuration of every lane. -/
theorem Core.txReturn_inc_time (c : Core) (i o l : Nat) (hi : i < 4) (ho : o < 4096) :
    (c.inc (.time i) o).txReturn l = c.txReturn l := by
  rw [Core.txReturn, Core.txMode, Core.rd_inc_of_ne _ _ _ _ (PageKind.key_ne (by simp only [PageKind.no]; omega) (by decide) ho),
    Core.txReturn, Core.txMode]

/-! ### Items -/

/-- An item goes to a ring that holds the role asked for, with the ring's present generation (R373). -/
theorem Core.pushItem_of_role {r role : Nat} (kind : Nat) (bytes : List Byte) (h0 : r ≠ 0) (h : (c.ring r).role = role) :
    c.pushItem r role kind bytes = some (c.modRing r (fun x => { x with
      items := x.items ++ [{ kind := kind, gen := (c.ring r).gen, bytes := bytes, die := 4, from_ := r }] })) :=
  if_pos ⟨h0, h⟩

theorem Core.pushItem_of_not {r role : Nat} (kind : Nat) (bytes : List Byte) (h : r = 0 ∨ (c.ring r).role ≠ role) :
    c.pushItem r role kind bytes = none := by
  refine if_neg ?_
  rintro ⟨h0, hr⟩
  exact h.elim h0 (fun h => h hr)

/-! ### The messages -/

/-- A TIME_REQ is answered where time is on, the lane returns, and fewer than four wait (R325). -/
theorem Core.takeTimeReq_of_answered (he : bit (c.rd (.time 3) 0x040) 0 = true) (hr : c.txReturn l = true)
    (hq : (c.lane l).respQ.length < 4) :
    c.takeTimeReq l body = (c.inc (.time 3) 0x054).stampNow.2.modLane l (fun x =>
      { x with respQ := x.respQ ++ [(leAt body 0 2, (c.inc (.time 3) 0x054).stampNow.1)] }) := by
  refine if_pos ⟨?_, ?_, ?_⟩
  · rwa [Core.rd_inc_of_ne _ _ _ _ (by decide)]
  · rwa [Core.txReturn_inc_time _ _ _ _ (by decide) (by decide)]
  · rwa [Core.lane_inc]

theorem Core.takeTimeReq_of_dropped
    (h : ¬ (bit (c.rd (.time 3) 0x040) 0 = true ∧ c.txReturn l = true ∧ (c.lane l).respQ.length < 4)) :
    c.takeTimeReq l body = (c.inc (.time 3) 0x054).timeDrop := by
  refine if_neg ?_
  rwa [Core.rd_inc_of_ne _ _ _ _ (by decide), Core.txReturn_inc_time _ _ _ _ (by decide) (by decide), Core.lane_inc]

/-- What an answer leaves of the time unit and the counts: it is counted and stamped, and its request leaves the queue (R324). -/
def Core.answered (c : Core) (l id : Nat) : Core :=
  (c.inc (.time 3) 0x058).stampNow.2.modTime (fun t =>
    { t with tsQ := t.tsQ.filter (fun e => !(e.id == id && e.lane == l)) })

theorem Core.answered_regs (c : Core) (l id : Nat) : (c.answered l id).regs = (c.inc (.time 3) 0x058).regs := by
  rw [Core.answered, Core.modTime_regs, Core.stampNow]

theorem Core.answered_host (c : Core) (l id : Nat) : (c.answered l id).host = c.host := by
  rw [Core.answered, Core.modTime_host, Core.stampNow, Core.inc_host]

theorem Core.answered_tsQ (c : Core) (l id : Nat) :
    (c.answered l id).time.tsQ = c.time.tsQ.filter (fun e => !(e.id == id && e.lane == l)) := rfl

theorem Core.ring_answered (c : Core) (l id r : Nat) : (c.answered l id).ring r = c.ring r := by
  rw [Core.ring, Core.answered_host, Core.ring]

/-- The answer to a recorded request is an event with its transmit time, and no flag for a missing one (Table 13.8). -/
theorem Core.takeTimeResp_of_recorded {e : TsEntry}
    (he : c.time.tsQ.find? (fun e => e.id == leAt body 0 2 && e.lane == l) = some e) :
    c.takeTimeResp l body = (c.answered l (leAt body 0 2)).timeEvent l (leAt body 0 2)
      (4 * (leAt body 2 1 % 2) + 8 * b2n (c.time.dpll == .locked)) e.t1.bytes (slice body 8 32) c.stampNow.1.bytes := by
  have he' : (c.inc (.time 3) 0x058).stampNow.2.time.tsQ.find? (fun e => e.id == leAt body 0 2 && e.lane == l) = some e := he
  simp only [Core.takeTimeResp, he']
  rw [show b2n (some e).isNone = 0 from rfl, Nat.zero_add]
  rfl

theorem Core.timeEvent_of_role {r id fl : Nat} {t1 t23 t4 : List Byte} (hr : c.rd (.time 3) 0x048 = r) (h0 : r ≠ 0)
    (hrole : (c.ring r).role = 4) :
    c.timeEvent l id fl t1 t23 t4 = c.modRing r (fun x => { x with items := x.items ++ [
      { kind := 2, gen := (c.ring r).gen, die := 4, from_ := r,
        bytes := leBytes 2 l ++ leBytes 2 id ++ leBytes 4 fl ++ t1 ++ t23 ++ t4 }] }) := by
  simp only [Core.timeEvent, hr, Core.pushItem_of_role _ _ h0 hrole]

/-- The TIME_EXCHANGE item of the answer to request `e`, for ring `r` (Table 13.8). -/
def Core.exchangeItem (c : Core) (l r : Nat) (e : TsEntry) (body : List Byte) : Item :=
  { kind := 2, gen := (c.ring r).gen, die := 4, from_ := r,
    bytes := leBytes 2 l ++ leBytes 2 (leAt body 0 2) ++
      leBytes 4 (4 * (leAt body 2 1 % 2) + 8 * b2n (c.time.dpll == .locked)) ++ e.t1.bytes ++
      slice body 8 32 ++ c.stampNow.1.bytes }

/-- An answer leaves its request answered, is counted, and gives the ring that the host named its item (R324, R326). -/
theorem Core.takeTimeResp_delivered {r : Nat} {e : TsEntry} (hr : c.rd (.time 3) 0x048 = r) (h0 : r ≠ 0)
    (hrole : (c.ring r).role = 4) (he : c.time.tsQ.find? (fun e => e.id == leAt body 0 2 && e.lane == l) = some e) :
    (c.takeTimeResp l body).time.tsQ = c.time.tsQ.filter (fun e => !(e.id == leAt body 0 2 && e.lane == l)) ∧
    (c.takeTimeResp l body).rd (.time 3) 0x058 = (satInc (c.reg (PageKind.key (.time 3) 0x058)) 1).toNat ∧
    ((c.takeTimeResp l body).ring r).items = (c.ring r).items ++ [c.exchangeItem l r e body] := by
  have hrd : (c.answered l (leAt body 0 2)).rd (.time 3) 0x048 = r := by
    rw [Core.rd_congr (c.answered_regs ..), Core.rd_inc_of_ne _ _ _ _ (by decide), hr]
  rw [Core.takeTimeResp_of_recorded he, Core.timeEvent_of_role hrd h0 (by rw [Core.ring_answered, hrole])]
  refine ⟨c.answered_tsQ .., ?_, ?_⟩
  · rw [Core.rd_congr (Core.modRing_regs ..), Core.rd_congr (c.answered_regs ..), Core.rd_inc, if_pos rfl]
  · rw [Core.ring_modRing_same, Core.ring_answered, Core.exchangeItem]

theorem Core.takeHost_of_role {r : Nat} (hr : c.rd .ring 0x068 = r) (h0 : r ≠ 0) (hrole : (c.ring r).role = 4) :
    c.takeHost l body = c.modRing r (fun x => { x with items := x.items ++ [
      { kind := 1, gen := (c.ring r).gen, die := 4, from_ := r, bytes := leBytes 2 l ++ [0, 0] ++ slice body 0 52 }] }) := by
  simp only [Core.takeHost, hr, Core.pushItem_of_role _ _ h0 hrole]

theorem Core.takeHost_of_dropped {r : Nat} (hr : c.rd .ring 0x068 = r) (h : r = 0 ∨ (c.ring r).role ≠ 4) :
    c.takeHost l body = c.inc .ring 0x084 := by
  simp only [Core.takeHost, hr, Core.pushItem_of_not _ _ h]

/-! ### The obligation -/

/-- Settles O21: a block of each type is known (`rxLine_of_known`), and its message is answered, delivered or dropped by the
lemma of its case. -/
theorem timeAndHostMessages : Obligations.TimeAndHostMessages := by
  intro s l line bs b hruns hon hst hph hb hp f drop
  have known {ts : Nat → Bool} {e : CtrlBlk → Core → Core} {t : Nat} {d : Core} (ht : b.type = t) (hle : t ≤ 0x0A)
      (hts : ts t = true) (he : e b (f s.core) = d) : rxLine l line ts e s.core = d :=
    (rxLine_of_known ts e (Core.rxOn_of hon hst hph) hb hp (ht ▸ hle) (ht ▸ hts)).trans he
  have lane_f : (f s.core).lane l = (s.core.lane l).comma false := Core.lane_modLane_same ..
  refine ⟨fun ht he hr hq => act_does_of hruns (known ht (by decide) rfl
      (Core.takeTimeReq_of_answered he hr (by rw [lane_f]; exact hq))),
    fun ht hn => act_does_of hruns (known ht (by decide) rfl (Core.takeTimeReq_of_dropped (by rw [lane_f]; exact hn))),
    fun r e ht hr h0 hrole hfind => ?resp, fun r ht hr => ⟨fun h0 hrole => act_does_of hruns
      (known ht (by decide) rfl (Core.takeHost_of_role hr h0 hrole)), fun h => act_does_of hruns
      (known ht (by decide) rfl (Core.takeHost_of_dropped hr h))⟩⟩
  case resp =>
    have hf : (f s.core).regs = s.core.regs := rfl
    have e1 := known (ts := (· == 0x09)) (e := fun b c => c.takeTimeResp l b.body) ht (by decide) rfl rfl
    refine State.does_leaves (act_does _ s hruns) ?_
    rw [e1]
    obtain ⟨htsQ, hcnt, hitems⟩ := Core.takeTimeResp_delivered (c := f s.core) (r := r) (e := e)
      ((Core.rd_congr hf ..).trans hr) h0 hrole hfind
    refine ⟨htsQ, ?_, hitems⟩
    rw [hcnt, Core.reg, hf, Core.reg]

end Sys2Proof.Machine
end

section
/-! PROOFS. Recalibration and eye scans (O22): when a recalibration may start, its steps, and the end of a scan. -/

namespace Sys2Proof.Machine

variable {c : Core} {l : Nat}

/-! ### When a recalibration may start -/

/-- No lane of the group before this one is UP with a recalibration pending (R54). -/
theorem recal_none_earlier (h : ∀ i, i < l % 16 →
    (c.lane (l / 16 * 16 + i)).recalPending = false ∨ (c.lane (l / 16 * 16 + i)).st ≠ .up) :
    (List.range (l % 16)).any (fun i =>
      (c.lane (l / 16 * 16 + i)).recalPending && (c.lane (l / 16 * 16 + i)).st == .up) = false := by
  rw [List.any_eq_false]
  intro i hi
  rcases h i (List.mem_range.1 hi) with h | h <;> simp [h]

theorem doRecalStart_of_first (hon : c.laneOn l = true) (hp : (c.lane l).recalPending = true) (hst : (c.lane l).st = .up)
    (hg : c.groupRecal (l / 16) = false) (he : ∀ i, i < l % 16 →
      (c.lane (l / 16 * 16 + i)).recalPending = false ∨ (c.lane (l / 16 * 16 + i)).st ≠ .up) (hn : c.recalNow = true) :
    doRecalStart l c = (c.scanStop l).modLane l (fun x =>
      { x with recalPending := false, st := .recal, ph := .recalAdapt, aligned := false }) :=
  if_pos (by simp [hon, hp, hst, hg, recal_none_earlier he, hn])

/-- In a schedule a recalibration starts at the opening of a window for it (R15, R54). -/
theorem Core.recalNow_iff_of_running (h : c.running = true ∧ c.power.running = true ∧ c.power.mode ≠ .calibrate ∧
    c.imageMode ≠ .calibrate) :
    c.recalNow = true ↔ ∃ cls len, (c.chanter 4).win = some (cls, len) ∧ cls.testBit 4 = true ∧
      (c.chanter 4).winTc = c.time.tcNs ∧ c.recalWindow len = true := by
  rw [Core.recalNow, if_pos h]
  cases hw : (c.chanter 4).win with
  | none => simp
  | some w =>
    obtain ⟨cls, len⟩ := w
    simp only [Bool.and_eq_true, beq_iff_eq, Option.some.injEq, Prod.mk.injEq]
    constructor
    · rintro ⟨⟨hcls, hlen⟩, htc⟩
      exact ⟨cls, len, ⟨rfl, rfl⟩, hcls, htc, hlen⟩
    · rintro ⟨_, _, ⟨rfl, rfl⟩, hcls, htc, hlen⟩
      exact ⟨⟨hcls, hlen⟩, htc⟩

theorem Core.recalNow_of_idle (h : c.running = false ∨ c.power.running = false ∨ c.power.mode = .calibrate ∨
    c.imageMode = .calibrate) : c.recalNow = true := by
  refine if_neg ?_
  rintro ⟨h1, h2, h3, h4⟩
  rcases h with h | h | h | h
  · exact absurd (h.symm.trans h1) Bool.false_ne_true
  · exact absurd (h.symm.trans h2) Bool.false_ne_true
  · exact h3 h
  · exact h4 h

/-- A window of `n` cycles of the IO die lasts 2.5 ms or more (R54). -/
theorem Core.recalWindow_iff {i : Image} (n : Nat) (h : c.img = some i) :
    c.recalWindow n = true ↔ 25 * i.fclk.1 ≤ n * i.fclk.2 * 10000 := by
  simp only [Core.recalWindow, h, decide_eq_true_eq]

/-! ### Its steps, and the end of a scan -/

theorem doRecalAdapt_of_adapt (hon : c.laneOn l = true) (hph : (c.lane l).ph = .recalAdapt) :
    doRecalAdapt l c = c.modLane l (fun x => { x with ph := .recalAlign }) := if_pos (by simp [hon, hph])

/-- After a realignment the lane is UP again and scans (R53). -/
theorem doRecalAligned_of_align (hon : c.laneOn l = true) (hph : (c.lane l).ph = .recalAlign) :
    doRecalAligned l c = c.modLane l (fun x =>
      { x with st := .up, ph := .recalScan, aligned := true, upSince := c.time.tcNs }.cross (c.threshExp l) .recal) :=
  if_pos (by simp [hon, hph])

/-- What a scan leaves as its result: a count, or LANE_QUAL and, of a FULL scan, the table (R57, R58). -/
def Core.scanResult (c : Core) (l : Nat) (counts : List Nat) (x : LaneS) : Core :=
  if x.scanMode = 2 then c.wr (.lane l) 0x054 (min (nth 0 counts 0) m32)
  else if x.scanMode = 0 then
    (c.wr (.lane l) 0x04C (eyeQual (10 ^ x.scanDwell) x.scanThresh ((List.range 64).map (fun p => nth 0 counts (p * 255 + 127)))
      ((((List.range 16320).map (nth 0 counts)).drop (32 * 255)).take 255))).ioPut (scanTable (l / 16))
        (((List.range 16320).map (nth 0 counts)).flatMap (fun m => leBytes 4 (min m m32)))
  else c.wr (.lane l) 0x04C (eyeQual (10 ^ x.scanDwell) x.scanThresh ((List.range 64).map (nth 0 counts))
    ((List.range 255).map (fun i => nth 0 counts (64 + i))))

/-- A scan that ends writes its result and raises SCAN_DONE; a recalibration ends with it (R53, R58). -/
theorem doScanDone_of_scan (counts : List Nat) {why : ScanWhy} (hon : c.laneOn l = true) (h : (c.lane l).scan = some why) :
    doScanDone l counts c =
      let d := ((c.modLane l (fun x => { x with scan := none })).scanResult l counts (c.lane l)).raise (.lane l) 5
      if why = .recal then d.recalDone l else d := by
  simp only [doScanDone, h]
  exact if_neg (by simp [hon])

/-! ### The obligation -/

/-- Settles O22: each command acts in its phase; the start waits for the group and for the window (`recal_none_earlier`,
`Core.recalNow_iff_of_running`). -/
theorem recalibrationAndScans : Obligations.RecalibrationAndScans := by
  intro s l hruns hon
  exact ⟨fun hp hst hg he hn => act_does_of hruns (doRecalStart_of_first hon hp hst hg he hn),
    fun hph => act_does_of hruns (doRecalAdapt_of_adapt hon hph), fun hph => act_does_of hruns (doRecalAligned_of_align hon hph),
    fun counts why h => act_does_of hruns (doScanDone_of_scan counts hon h),
    fun h1 h2 h3 h4 => Core.recalNow_iff_of_running ⟨h1, h2, h3, h4⟩, fun len i hi => Core.recalWindow_iff len hi,
    Core.recalNow_of_idle⟩

end Sys2Proof.Machine
end

section
/-! PROOFS. Due packets and the intervals of ingest (O36): what a slip event leaves, the two outcomes of a due slot, the cases
of a due packet, and what the end of an interval leaves. -/

namespace Sys2Proof.Machine

/-! ### Slip events (R73) -/

section Slip

variable (c : Core) (x : Nat)

/-- The begin of a slip event changes nothing in ingest but SLIP. -/
theorem Core.slipSet_ingest : (c.slipSet x).ingest = { c.ingest with slip := true } := by
  unfold Core.slipSet
  split_ifs with h
  · rw [← h]
  · rw [Core.report_ingest, Core.raise_ingest, Core.inc_ingest]

@[simp] theorem Core.slipSet_io : (c.slipSet x).io = c.io := by
  unfold Core.slipSet
  split_ifs
  · rfl
  · rw [Core.report_io, Core.raise_io, Core.inc_io]

variable {c x}

/-- An open slip event goes on. -/
theorem Core.slipSet_of_open (h : c.ingest.slip = true) : c.slipSet x = c := if_pos h

/-- A slip event that begins reports kind SLIP, with the sample index of its packet. -/
theorem Core.slipSet_pend_of_closed (h : c.ingest.slip = false) :
    (c.slipSet x).pend = (c.report .ingest 0x15 c.clsDN x).pend := by
  rw [Core.slipSet, if_neg (by simp [h])]
  refine Core.report_pend_congr ?_ ..
  rw [Core.raise_pend, Core.inc_pend]

/-- No slip event is open after its end. -/
theorem Core.slipClear_slip : c.slipClear.ingest.slip = false := by
  unfold Core.slipClear
  split_ifs with h
  · rw [Core.raise_ingest]
  · exact Bool.eq_false_iff.2 h

end Slip

/-! ### The read of a due slot (R68 to R70) -/

/-- The lane's buffer without a slot that is read. -/
def Core.releaseSlot (c : Core) (x : Slot) : Core :=
  { c with ingest := { c.ingest with slots := c.ingest.slots.filter (fun y => decide (y ≠ x)) } }

/-- A packet outside the guard band is counted, and begins a slip event with the first such packet of the interval. -/
def Core.countGuard (c : Core) (lane blk : Nat) (out : Bool) : Core :=
  if out then (c.ingInc lane .guard).slipSet (c.ingest.cur.outside.getD (blk * 256)) else c

/-- A packet that its DFLAGS invalidate is counted. -/
def Core.countFlagged (c : Core) (lane : Nat) (flagged : Bool) : Core :=
  if flagged then c.ingInc lane .flagged else c

/-- The DFLAGS of a held packet invalidate it (R70). -/
def Core.flagged (c : Core) (x : Slot) : Bool := (x.dflags &&& bits (c.rd .ingest 0x040) 31 16) != 0

section Counts

variable (c : Core) (lane blk : Nat) (b : Bool)

@[simp] theorem Core.countFlagged_slots : (c.countFlagged lane b).ingest.slots = c.ingest.slots := by cases b <;> rfl
@[simp] theorem Core.countFlagged_slip : (c.countFlagged lane b).ingest.slip = c.ingest.slip := by cases b <;> rfl
@[simp] theorem Core.countFlagged_io : (c.countFlagged lane b).io = c.io := by cases b <;> rfl

@[simp] theorem Core.countGuard_slots : (c.countGuard lane blk b).ingest.slots = c.ingest.slots := by
  cases b
  · rfl
  · rw [Core.countGuard, if_pos rfl, Core.slipSet_ingest, Core.ingInc_slots]

@[simp] theorem Core.countGuard_io : (c.countGuard lane blk b).io = c.io := by
  cases b
  · rfl
  · rw [Core.countGuard, if_pos rfl, Core.slipSet_io, Core.ingInc_io]

/-- A packet outside the guard band leaves a slip event open (R73). -/
theorem Core.countGuard_slip : (c.countGuard lane blk true).ingest.slip = true := by
  rw [Core.countGuard, if_pos rfl, Core.slipSet_ingest]

end Counts

section Due

variable {c : Core} {i : Image} {l pos blk : Nat}

section Missing

variable (h : c.ingest.slots.find? (fun x => x.lane == l && x.pos == pos && x.blk == blk) = none)
include h

/-- A packet that is not there: nothing before the first block of the schedule, else a count by the state of the lane. -/
theorem Core.readSlot_of_missing : c.readSlot i l pos blk =
    (if blk < i.plan.b0 then c else if c.laneWasDown i l then c.ingInc l .laneDown else c.ingInc l .missing, 0, []) := by
  simp only [Core.readSlot, h]

theorem Core.readSlot_of_before (hb : blk < i.plan.b0) : c.readSlot i l pos blk = (c, 0, []) := by
  rw [Core.readSlot_of_missing h, if_pos hb]

theorem Core.readSlot_of_laneDown (hb : i.plan.b0 ≤ blk) (hd : c.laneWasDown i l = true) :
    c.readSlot i l pos blk = (c.ingInc l .laneDown, 0, []) := by
  rw [Core.readSlot_of_missing h, if_neg (not_lt.2 hb), if_pos hd]

theorem Core.readSlot_of_laneUp (hb : i.plan.b0 ≤ blk) (hd : c.laneWasDown i l = false) :
    c.readSlot i l pos blk = (c.ingInc l .missing, 0, []) := by
  rw [Core.readSlot_of_missing h, if_neg (not_lt.2 hb), if_neg (by simp [hd])]

end Missing

/-- A packet that is held is released and counted, and its mask passes where neither test invalidates it. -/
theorem Core.readSlot_of_held {x : Slot}
    (h : c.ingest.slots.find? (fun x => x.lane == l && x.pos == pos && x.blk == blk) = some x) :
    c.readSlot i l pos blk =
      (((c.releaseSlot x).countGuard l blk (!c.inBand i x.margin)).countFlagged l (c.flagged x),
        if !c.inBand i x.margin || c.flagged x then 0 else x.mask, c.io.read (slotAddr l x.idx) 8192) := by
  simp only [Core.readSlot, h]
  rfl

/-! ### A due packet -/

/-- The words in error among those that a due packet reads are reported, and what they held is lost (R423). -/
def Core.dueErrors (c : Core) (p : Plan) (rs : List (Nat × Nat)) (ce ue : List Nat) : Core :=
  (ue.filter (inReads rs)).foldl (fun c a => c.sramUe p a) (if ce.any (inReads rs) then c.sramCe else c)

/-- A block that the channeliser takes: WINDOW and EVAL_BLOCK, then each used input's samples. -/
def Core.dueBlock (c : Core) (p : Plan) (m : MapEnt) (blk mask : Nat) (pl : List Byte) (bad : List Nat) : Core :=
  let w := (blk - p.b0) * 256 / (p.L * p.P)
  let c := c.winEnter p w
  let evs := (List.range 8).map (fun x => if x = m.ch % 8 then some blk else nth none c.chan.evalBlk x)
  let c := { c with chan := { c.chan with evalBlk := evs } }
  (List.range 16).foldl (fun c x =>
    if p.uses (16 * m.group + x) then
      c.streamDue p (16 * m.group + x) m.ch blk (payloadInput pl x (mask.testBit x)) bad
    else c) ((c.wr64 .crook 0x048 w).noteBlk blk).turned

variable {ce ue : List Nat}

/-- Outside a schedule no packet falls due (R68). -/
theorem doPacketDue_of_idle (h : c.power.running = false ∨ c.img = none) : doPacketDue l pos blk ce ue c = c := by
  have hi : (if c.power.running = true then c.img else none) = none := by
    rcases h with h | h <;> simp [h]
  simp only [doPacketDue, hi]

variable (hr : c.power.running = true) (hi : c.img = some i)
include hr hi

theorem doPacketDue_of_unmapped (hm : i.plan.map.find? (fun e => e.lane == l && e.pos == pos) = none) :
    doPacketDue l pos blk ce ue c = c := by
  simp only [doPacketDue, hr, hi, if_true, hm]

/-- A due packet of the map: the errors of what it reads, the read of its slot, and its block where the channeliser takes it. -/
theorem doPacketDue_of_mapped {m : MapEnt} (hm : i.plan.map.find? (fun e => e.lane == l && e.pos == pos) = some m) :
    doPacketDue l pos blk ce ue c =
      let rs := i.plan.dueReads l m.group m.ch
      let q := (c.dueErrors i.plan rs ce ue).readSlot i l pos blk
      if blk < i.plan.b0 ∨ i.plan.histL.elem m.ch = false then q.1
      else q.1.dueBlock i.plan m blk q.2.1 q.2.2 (gainBadOf (ue.filter (inReads rs))) := by
  simp only [doPacketDue, hr, hi, if_true, hm]
  rfl

end Due

/-! ### The end of an interval (R71 to R73) -/

section IntervalEnd

variable {c : Core}

theorem ofInt_lt (n : Nat) (x : Int) : ofInt n x < 2 ^ n := by
  have h : (0 : Int) < 2 ^ n := by positivity
  refine (Int.toNat_lt (Int.emod_nonneg x h.ne')).2 ?_
  exact_mod_cast Int.emod_lt_of_pos x h

theorem Core.marginEnd_regs_of_margins {a b : Int} {l h : Nat} (hlo : c.ingest.cur.lo = some (a, l))
    (hhi : c.ingest.cur.hi = some (b, h)) : c.marginEnd.regs =
      (((c.wr .ingest 0x054 (ofInt 32 a)).wr .ingest 0x058 (ofInt 32 b)).wr .ingest 0x05C (l + 256 * h)).regs := by
  simp only [Core.marginEnd, hlo, hhi]

/-- The margin registers show the least and the greatest margin and their lanes (R71). -/
theorem Core.marginEnd_rd_of_margins {a b : Int} {l h : Nat} (hlo : c.ingest.cur.lo = some (a, l))
    (hhi : c.ingest.cur.hi = some (b, h)) (hl : l < 256) (hh : h < 256) :
    c.marginEnd.rd .ingest 0x054 = ofInt 32 a ∧ c.marginEnd.rd .ingest 0x058 = ofInt 32 b ∧
      c.marginEnd.rd .ingest 0x05C = l + 256 * h := by
  have hregs := Core.rd_congr (Core.marginEnd_regs_of_margins hlo hhi) .ingest
  refine ⟨(hregs _).trans ?_, (hregs _).trans ?_, (hregs _).trans ?_⟩
  · rw [Core.rd_wr, if_neg (by decide), Core.rd_wr, if_neg (by decide), Core.rd_wr_same, Nat.mod_eq_of_lt (ofInt_lt 32 a)]
  · rw [Core.rd_wr, if_neg (by decide), Core.rd_wr_same, Nat.mod_eq_of_lt (ofInt_lt 32 b)]
  · rw [Core.rd_wr_same, Nat.mod_eq_of_lt (by omega)]

/-- An interval without margins keeps the registers (R71). -/
theorem Core.marginEnd_regs_of_none (hlo : c.ingest.cur.lo = none) : c.marginEnd.regs = c.regs := by
  simp only [Core.marginEnd, hlo]

/-- An interval without a packet has no mean and keeps DRIFT (R71). -/
theorem Core.marginEnd_drift_of_empty (hn : c.ingest.cur.n = 0) : c.marginEnd.ingest.drift = c.ingest.drift := by
  simp only [Core.marginEnd, hn, if_true]
  split <;> rfl

theorem Core.slipEnd_of_outside {x : Nat} (h : c.ingest.cur.outside = some x) : c.slipEnd = c.slipSet x := by
  simp only [Core.slipEnd, h]

theorem Core.slipEnd_of_inside (h : c.ingest.cur.outside = none) :
    c.slipEnd = if c.ingest.cur.n = 0 then c else c.slipClear := by
  simp only [Core.slipEnd, h]

end IntervalEnd

/-! ### The obligation -/

/-- Settles O36: a due slot is held or not (`Core.readSlot_of_held`, `Core.readSlot_of_missing`), a due packet is of the running
image's map or not (`doPacketDue_of_mapped`), and an interval ends with a packet outside the band, with all inside, or empty. -/
theorem duePacketsAndIntervals : Obligations.DuePacketsAndIntervals := by
  refine ⟨fun c i l pos blk => ⟨Core.readSlot_of_before, Core.readSlot_of_laneDown, Core.readSlot_of_laneUp, fun x hx => ?held⟩,
    fun s l pos blk ce ue hruns => ⟨fun h => act_does_of hruns (doPacketDue_of_idle h), fun i hr hi =>
      ⟨fun hm => act_does_of hruns (doPacketDue_of_unmapped hr hi hm), fun m hm => ⟨fun h => ?skipped, fun hb hch => ?taken⟩⟩⟩,
    fun s h => snap_next h,
    fun s hruns => ⟨fun hon => act_does_of hruns (if_pos hon), fun hoff => act_does_of hruns (if_neg (by simp [hoff]))⟩,
    fun c => ?interval⟩
  case held =>
    intro d flagged
    have hd : d = _ := Core.readSlot_of_held hx
    refine ⟨?slots, by rw [hd], ?io, ?mask, fun hout => ?slip, fun hin hflag => ?valid⟩
    case slots => rw [hd, Core.countFlagged_slots, Core.countGuard_slots]; rfl
    case io => rw [hd, Core.countFlagged_io, Core.countGuard_io]; rfl
    case mask =>
      rw [hd]
      exact if_congr (by simp [flagged, Core.flagged]) rfl rfl
    case slip => rw [hd, Core.countFlagged_slip, hout, Bool.not_false, Core.countGuard_slip]
    case valid =>
      have hf : c.flagged x = false := hflag
      rw [hd, hin, hf]
      rfl
  case skipped => exact act_does_of hruns ((doPacketDue_of_mapped hr hi hm).trans (if_pos h))
  case taken =>
    refine act_does_of hruns ((doPacketDue_of_mapped hr hi hm).trans (if_neg ?_))
    rintro (h | h)
    · exact absurd h (not_lt.2 hb)
    · exact absurd (h.symm.trans hch) Bool.false_ne_true
  case interval =>
    refine ⟨fun a l b h hlo hhi hl hh => Core.marginEnd_rd_of_margins hlo hhi hl hh,
      fun hlo _ => Core.marginEnd_regs_of_none hlo, Core.marginEnd_drift_of_empty, fun x hx hs => ?_, fun x hx hs => ?_,
      fun hx hn => ?_, fun hx hn => ?_⟩
    · rw [Core.slipEnd_of_outside hx]
      exact ⟨by rw [Core.slipSet_ingest], Core.slipSet_pend_of_closed hs⟩
    · rw [Core.slipEnd_of_outside hx, Core.slipSet_of_open hs]
    · rw [Core.slipEnd_of_inside hx, if_neg hn, Core.slipClear_slip]
    · rw [Core.slipEnd_of_inside hx, if_pos hn]

end Sys2Proof.Machine
end

section
/-! PROOFS. Calibration and the turn path (O37): when a calibration begins and what the end of its pass does, then a turn row that
is late and the link of an X die. -/

namespace Sys2Proof.Machine

/-! ### Calibration (R101, R102) -/

section Calibration

variable {c : Core}

/-- CAL_START without an image, outside CALIBRATE, or while a calibration is in hand is a fault of the page (R101). -/
theorem doCalStart_of_rejected (h : c.img = none ∨ c.power.mode ≠ .calibrate ∨ c.chan.cal ≠ none) :
    doCalStart c = c.pageFlt (.fst 0) 0x04 := by
  unfold doCalStart
  cases hi : c.img with
  | none => rfl
  | some i =>
    have hno : ¬ (c.power.mode = .calibrate ∧ c.chan.cal = none) := fun ⟨hm, hc⟩ =>
      h.elim (fun hn => Option.some_ne_none i (hi.symm.trans hn)) (fun h => h.elim (· hm) (· hc))
    exact if_neg hno

theorem doCalAbort_of_none (h : c.chan.cal = none) : doCalAbort c = c := if_neg (by simp [h])

/-- The sums of a calibration at the end of its pass: those of the passes before, and those that the buffer holds (R101). -/
def Core.passSums (c : Core) (k : CalS) (p : Plan) : List (Nat × Nat) :=
  k.sums ++ (List.range (min (2 ^ 18) (p.nIn * p.nCh - k.pass * 2 ^ 18))).map c.calSum

/-- The new gains of all entries of a calibration, from its sums (R102). -/
def Core.calGains (c : Core) (rq : Nat) (k : CalS) : Core × CalS :=
  (k.sums.zip (List.range k.sums.length)).foldl (fun a e => a.1.calEntry rq a.2 e.2 e.1.1 e.1.2) (c, k)

/-- No pass ends where no calibration is in hand. -/
theorem doCalPassEnd_of_none (h : c.chan.cal = none ∨ c.img = none) : doCalPassEnd c = c := by
  unfold doCalPassEnd
  rcases h with h | h <;> rw [h]
  cases c.chan.cal <;> rfl

variable {k : CalS} {i : Image} (hk : c.chan.cal = some k) (hi : c.img = some i)
include hk hi

theorem doCalPassEnd_of_ready (hr : k.ready = true) : doCalPassEnd c = c := by
  simp only [doCalPassEnd, hk, hi, hr, if_true]

/-- A pass that is not the last keeps its sums, and the next begins with the buffer cleared (R101). -/
theorem doCalPassEnd_of_more (hr : k.ready = false) (hp : k.pass + 1 < k.passes) :
    doCalPassEnd c = { c.calClear with chan := { c.chan with
      cal := some { k with sums := c.passSums k i.plan, pass := k.pass + 1, start := k.start + 2 ^ 20 * i.plan.P / 256 } } } := by
  simp only [doCalPassEnd, hk, hi, hr, Bool.false_eq_true, if_false, hp, if_true]
  rfl

/-- After the last pass the gains of all entries are computed, and wait (R102). -/
theorem doCalPassEnd_of_last (hr : k.ready = false) (hp : k.passes ≤ k.pass + 1) :
    doCalPassEnd c =
      let r := c.calGains i.plan.rq { k with sums := c.passSums k i.plan }
      { r.1 with chan := { r.1.chan with cal := some { r.2 with ready := true } } } := by
  simp only [doCalPassEnd, hk, hi, hr, Bool.false_eq_true, if_false, not_lt.2 hp]
  rfl

end Calibration

/-! ### The turn path (R117) -/

section Turn

variable {c : Core} {d k w t : Nat}

/-- Outside a schedule no turn row is late. -/
theorem doTurnLate_of_idle (h : c.running = false ∨ c.img = none) : doTurnLate d k w t c = c := by
  have hi : (if c.running = true then c.img else none) = none := by
    rcases h with h | h <;> simp [h]
  simp only [doTurnLate, hi]

section Running

variable {i : Image} (hr : c.running = true) (hi : c.img = some i)
include hr hi

theorem doTurnLate_of_unowned (hk : (i.plan.owned c.part.dies d)[k]? = none) : doTurnLate d k w t c = c := by
  simp only [doTurnLate, hr, hi, if_true, hk]

variable {ch : Nat} (hk : (i.plan.owned c.part.dies d)[k]? = some ch)
include hk

theorem doTurnLate_of_beyond (h : i.plan.rows ch ≤ t ∨ c.part.dies ≤ d) : doTurnLate d k w t c = c := by
  simp only [doTurnLate, hr, hi, if_true, hk, if_pos h]

/-- A late row stands as invalid throughout; its window is noted, and the row counted and reported (R117). -/
theorem doTurnLate_of_row (ht : t < i.plan.rows ch) (hd : d < c.part.dies) :
    doTurnLate d k w t c =
      let c := (List.range i.plan.nPad).foldl (fun c r => c.stage i.plan ch w t r invalidWord) c
      let c := c.modX d (fun x => { x with lateWins := if x.lateWins.elem w then x.lateWins else w :: x.lateWins })
      ((c.inc .crook (0x060 + 4 * d)).raise .crook 0).report .crook 0x30 clsD (i.plan.fineIndex ch w t) := by
  have hin : ¬ (i.plan.rows ch ≤ t ∨ c.part.dies ≤ d) := by omega
  simp only [doTurnLate, hr, hi, if_true, hk, if_neg hin]

end Running

/-- A link that goes down is a Suspect fault, raised on its two pages (R117, R409). -/
theorem doLinkDown_of_up (h : nth false c.links d = true) :
    doLinkDown d c = ((({ c with links := c.links.set d false } : Core).raise .crook 1).raise (.xdie d) 6).report
      (.xdie d) 0x31 clsS 0 := if_pos h

theorem doLinkDown_of_down (h : nth false c.links d = false) : doLinkDown d c = c := if_neg (by simp [h])

end Turn

/-! ### The obligation -/

/-- Settles O37: a calibration command is served with or without a calibration in hand, a pass ends as the last or not
(`doCalPassEnd_of_more`, `doCalPassEnd_of_last`), and a turn row is the image's or not (`doTurnLate_of_row`). -/
theorem calibrationAndTurnPath : Obligations.CalibrationAndTurnPath := by
  refine ⟨fun s h => ⟨fun i hi hm hc => ?start, fun hrej => ?rejected, fun hc => ?noAbort, fun hc => ?abort⟩,
    fun s hruns => ⟨fun hn => act_does_of hruns (doCalPassEnd_of_none hn), fun k i hk hi =>
      ⟨fun hr => act_does_of hruns (doCalPassEnd_of_ready hk hi hr),
        fun hr hp => act_does_of hruns (doCalPassEnd_of_more hk hi hr hp),
        fun hr hp => act_does_of hruns (doCalPassEnd_of_last hk hi hr hp)⟩⟩,
    fun s d k w t hruns => ⟨fun hn => act_does_of hruns (doTurnLate_of_idle hn), fun i hr hi =>
      ⟨fun hk => act_does_of hruns (doTurnLate_of_unowned hr hi hk), fun ch hk =>
        ⟨fun hout => act_does_of hruns (doTurnLate_of_beyond hr hi hk hout),
          fun ht hd => act_does_of hruns (doTurnLate_of_row hr hi hk ht hd)⟩⟩⟩,
    fun s d hruns => ⟨fun hup => ⟨act_does_of hruns (doLinkDown_of_up hup), act_does_of hruns (if_pos hup)⟩,
      fun hdown => ⟨act_does_of hruns (doLinkDown_of_down hdown), act_does_of hruns (if_neg (by simp [hdown]))⟩⟩⟩
  case start =>
    exact regCmd_doesReg_of h (doCalStart_of_calibrate (by simpa using hi) (by simpa using hm) (by simpa using hc))
  case rejected => exact regCmd_doesReg_of h (doCalStart_of_rejected (by simpa using hrej))
  case noAbort => exact regCmd_doesReg_of h (doCalAbort_of_none (by simpa using hc))
  case abort => exact regCmd_doesReg_of h (doCalAbort_of_cal (by simpa using hc))

end Sys2Proof.Machine
end

section
/-! PROOFS. Commands that move data, and their bursts (O31): the outcomes of each command, the length of a burst, the outcomes of a
burst, and ABORT. -/

namespace Sys2Proof.Machine

/-! ### DMA (R378, R380) -/

section Dma

variable (c : Core) (r n : Nat)

/-- A ring that becomes busy leaves the channels as they are. -/
theorem Core.dma_setBusy : (c.setBusy r).dma n = c.dma n := rfl
theorem Core.hostChannels_setBusy : (c.setBusy r).hostChannels = c.hostChannels := rfl
theorem Core.idleChannel_setBusy (hi : Nat) : (c.setBusy r).idleChannel n hi = c.idleChannel n hi := rfl

variable {c r n} {j : Job} {d : Desc} {any : Bool}

/-- A DMA command takes the channel that it names, where that is idle. -/
theorem Core.hostJob_of_idle (ha : any = false) (h : (c.dma n).job = none) :
    c.hostJob j any n = (c.setBusy j.ring).startJob n j := by
  simp only [Core.hostJob, ha, Bool.false_eq_true, if_false, Core.dma_setBusy, h, Option.isNone_none, if_true]

theorem Core.hostJob_of_taken (ha : any = false) (h : (c.dma n).job ≠ none) :
    c.hostJob j any n = (c.setBusy j.ring).modDma n (fun x => { x with waiting := x.waiting ++ [j] }) := by
  simp only [Core.hostJob, ha, Bool.false_eq_true, if_false, Core.dma_setBusy, Option.isNone_iff_eq_none, h]

/-- A DMA command for the pool takes its lowest idle channel, or waits for one. -/
theorem Core.hostJob_of_pool (ha : any = true) {ch : Nat} (h : c.idleChannel 0 c.hostChannels = some ch) :
    c.hostJob j any n = (c.setBusy j.ring).startJob ch j := by
  simp only [Core.hostJob, ha, if_true, Core.hostChannels_setBusy, Core.idleChannel_setBusy, h]

theorem Core.hostJob_of_full (ha : any = true) (h : c.idleChannel 0 c.hostChannels = none) :
    c.hostJob j any n = { c.setBusy j.ring with host := { (c.setBusy j.ring).host with
      poolQ := (c.setBusy j.ring).host.poolQ ++ [j] } } := by
  simp only [Core.hostJob, ha, if_true, Core.hostChannels_setBusy, Core.idleChannel_setBusy, h]

theorem doDma_of_length {body : Option (List Byte)} (h : d.len ≠ 64) : doDma r body d c = c.finish r stInvalid := if_pos h

theorem doDma_of_hostErr (h : d.len = 64) : doDma r none d c = c.finish r stHostErr := if_neg (not_not.2 h)

/-- A DMA command is INVALID where it names no channel of the host or a condition of R380 fails. -/
def Core.dmaBad (c : Core) (r : Nat) (d : Desc) (bs : List Byte) : Prop :=
  c.hostChannels = 0 ∨ (d.arg0.testBit 6 = false ∧ c.hostChannels ≤ d.arg0 % 64) ∨ c.jobOk (parseJob r d bs) bs = false

variable {bs : List Byte}

theorem doDma_of_bad (h : d.len = 64) (hb : c.dmaBad r d bs) :
    doDma r (some bs) d c = c.jobInvalid r (d.arg0.testBit 6) (d.arg0 % 64) := (if_neg (not_not.2 h)).trans (if_pos hb)

theorem doDma_of_ok (h : d.len = 64) (hb : ¬ c.dmaBad r d bs) :
    doDma r (some bs) d c = c.hostJob (parseJob r d bs) (d.arg0.testBit 6) (d.arg0 % 64) :=
  (if_neg (not_not.2 h)).trans (if_neg hb)

end Dma

/-! ### IMAGE_CHUNK (R231) -/

section Chunk

variable {c : Core} {r : Nat} {d : Desc} {data : Option (List Byte)}

theorem doImageChunk_of_bad (hb : d.len % 64 ≠ 0 ∨ d.arg0 % 64 ≠ 0 ∨ 2 ^ 22 < d.len) :
    doImageChunk r data d c = c.finish r stInvalid d.len := if_pos hb

variable (hb : ¬ (d.len % 64 ≠ 0 ∨ d.arg0 % 64 ≠ 0 ∨ 2 ^ 22 < d.len))
include hb

theorem doImageChunk_of_mode (hm : c.power.mode ≠ .idle) : doImageChunk r data d c = c.finish r stMode d.len :=
  (if_neg hb).trans (if_pos hm)

variable (hm : c.power.mode = .idle)
include hm

theorem doImageChunk_of_range (ha : 0x2000000 < d.arg0 + d.len) : doImageChunk r data d c = c.finish r stRange d.len :=
  (if_neg hb).trans ((if_neg (not_not.2 hm)).trans (if_pos ha))

variable (ha : d.arg0 + d.len ≤ 0x2000000)
include ha

theorem doImageChunk_of_taken {q : Nat} (hq : c.host.commitRing.or c.host.loadRing = some q) (hne : q ≠ r) :
    doImageChunk r data d c = c.finish r stBusy d.len := by
  refine (if_neg hb).trans ((if_neg (not_not.2 hm)).trans ((if_neg (not_lt.2 ha)).trans (if_pos ?_)))
  simp [hq, hne]

/-- A chunk of the ring that holds the load, or of the ring that opens it, moves (R231). -/
theorem doImageChunk_of_free (hq : c.host.commitRing.or c.host.loadRing = none ∨
      c.host.commitRing.or c.host.loadRing = some r) :
    doImageChunk r data d c = data.elim (c.finish r stHostErr d.len)
      (fun bs => (if c.host.loadRing.isNone then c.openLoad r else c).engineJob
        { ring := r, n := d.n, tag := d.tag, irq := d.dflags.testBit 0, purpose := .chunk, srcSp := 0, dstSp := 5,
          len := d.len, src := d.addr, dst := 0x0E000000 + d.arg0 } bs) := by
  refine (if_neg hb).trans ((if_neg (not_not.2 hm)).trans ((if_neg (not_lt.2 ha)).trans ((if_neg ?_).trans ?_)))
  · rcases hq with hq | hq <;> simp [hq]
  · cases data <;> rfl

end Chunk

/-! ### BANK_LOAD (R172, R369) -/

section Bank

variable {c : Core} {r : Nat} {d : Desc} {data : Option (List Byte)}

theorem doBankLoad_of_bad (hb : c.bankPlaced (d.arg0 % 16) = false ∨ d.len ≠ bankSize (d.arg0 % 16)) :
    doBankLoad r data d c = c.finish r stInvalid d.len := if_pos hb

variable (hb : ¬ (c.bankPlaced (d.arg0 % 16) = false ∨ d.len ≠ bankSize (d.arg0 % 16)))
include hb

theorem doBankLoad_of_off (ho : c.domOn (71 + 35 * bankDie (d.arg0 % 16)) = false) :
    doBankLoad r data d c = c.finish r stMode d.len := (if_neg hb).trans (if_pos ho)

variable (ho : c.domOn (71 + 35 * bankDie (d.arg0 % 16)) = true)
include ho

theorem doBankLoad_of_inUse (hu : c.bankInUse (d.arg0 % 16) (d.arg0.testBit 4) = true) :
    doBankLoad r data d c = c.finish r stInUse d.len :=
  (if_neg hb).trans ((if_neg (by simp [ho])).trans (if_pos hu))

variable (hu : c.bankInUse (d.arg0 % 16) (d.arg0.testBit 4) = false)
include hu

theorem doBankLoad_of_hostErr : doBankLoad r none d c = c.finish r stHostErr d.len :=
  (if_neg hb).trans ((if_neg (by simp [ho])).trans (if_neg (by simp [hu])))

/-- A load that runs leaves its bank LOADING (R172). -/
theorem doBankLoad_of_image {bs : List Byte} {i : Image} (hi : c.img = some i) :
    let t := d.arg0 % 16
    let b := d.arg0.testBit 4
    doBankLoad r (some bs) d c = (c.setBank t b .loading).engineJob
      { ring := r, n := d.n, tag := d.tag, irq := d.dflags.testBit 0, purpose := .bank t b, srcSp := 0,
        dstSp := 1 + bankDie t, len := d.len, src := d.addr, dst := i.beams.bankAddr t b } bs := by
  refine (if_neg hb).trans ((if_neg (by simp [ho])).trans ((if_neg (by simp [hu])).trans ?_))
  simp only [hi]

end Bank

/-! ### GAIN_STEP and INSPECT_READ (R98, R369) -/

section Gain

variable {c : Core} {r : Nat} {d : Desc} {data : Option (List Byte)}

theorem doGainStep_of_bad (hb : d.len % 8 ≠ 0 ∨ d.len < 8 ∨ 524288 < d.len) :
    doGainStep r data d c = c.finish r stInvalid := if_pos hb

variable (hb : ¬ (d.len % 8 ≠ 0 ∨ d.len < 8 ∨ 524288 < d.len))
include hb

theorem doGainStep_of_idle (hr : c.running = false) (hs : c.starting = false) :
    doGainStep r data d c = ((c.raise (.fst 0) 4).report (.fst 0) 0x23 clsN 0).finish r stMode :=
  (if_neg hb).trans (if_pos ⟨hr, hs⟩)

variable (hs : c.running = true ∨ c.starting = true)
include hs

theorem doGainStep_of_hostErr : doGainStep r none d c = c.finish r stHostErr :=
  (if_neg hb).trans (if_neg (by simpa [imp_iff_not_or] using hs))

/-- The list of a gain step goes to the step buffer (R98). -/
theorem doGainStep_of_list {bs : List Byte} :
    doGainStep r (some bs) d c = c.engineJob
      { ring := r, n := d.n, tag := d.tag, irq := d.dflags.testBit 0, purpose := .gain d.arg1,
        srcSp := 0, dstSp := 5, len := d.len, src := d.addr, dst := 0x0DE00000 } bs :=
  (if_neg hb).trans (if_neg (by simpa [imp_iff_not_or] using hs))

end Gain

section Inspect

variable {c : Core} {r : Nat} {d : Desc}

theorem doInspectRead_of_mode (hm : c.power.mode ≠ .inspect) : doInspectRead r d c = c.finish r stMode d.len := if_pos hm

variable (hm : c.power.mode = .inspect)
include hm

theorem doInspectRead_of_none
    (ho : c.hbmObject (d.arg0 % 4) (bits d.arg0 4 2) (bits d.arg0 5 5) (bits d.arg0 19 6) = none) :
    doInspectRead r d c = c.finish r stInvalid d.len := by
  refine (if_neg (not_not.2 hm)).trans ?_
  simp only [ho]

/-- An object is read within its size alone (R369). -/
theorem doInspectRead_of_object {a size : Nat}
    (ho : c.hbmObject (d.arg0 % 4) (bits d.arg0 4 2) (bits d.arg0 5 5) (bits d.arg0 19 6) = some (a, size)) :
    doInspectRead r d c = if size < d.arg1 + d.len then c.finish r stInvalid d.len else c.engineJob
      { ring := r, n := d.n, tag := d.tag, irq := d.dflags.testBit 0, purpose := .inspectRead,
        srcSp := 1 + d.arg0 % 4, dstSp := 0, len := d.len, src := a + d.arg1, dst := d.addr } [] := by
  refine (if_neg (not_not.2 hm)).trans ?_
  simp only [ho]

end Inspect

/-! ### The length of a burst (R381) -/

section Length

/-- A length cut at `m` where `p` holds. -/
def cutAt (n : Nat) (p : Prop) [Decidable p] (m : Nat) : Nat := if p then min n m else n

variable {n m : Nat} {p : Prop} [Decidable p]

theorem cutAt_le : cutAt n p m ≤ n := by
  unfold cutAt
  split_ifs
  · exact min_le_left ..
  · exact le_rfl

theorem cutAt_le_of (h : p) : cutAt n p m ≤ m := (if_pos h).trans_le (min_le_right ..)

theorem cutAt_pos (hn : 0 < n) (hm : 0 < m) : 0 < cutAt n p m := by
  unfold cutAt
  split_ifs
  · exact lt_min hn hm
  · exact hn

/-- What is left of a 4 KiB page. -/
def pageRest (a : Nat) : Nat := 4096 - a % 4096

theorem pageRest_pos (a : Nat) : 0 < pageRest a := Nat.sub_pos_of_lt (Nat.mod_lt _ (by decide))

variable {j : Job}

theorem Job.circPos_lt (j : Job) (o : Nat) : j.circPos o < 2 ^ j.circLog := Nat.mod_lt _ (by positivity)

theorem Job.next_of_down (h : j.down = true) : j.next = min 4096 (j.len - j.done) := if_pos h

/-- A burst upward is cut at the page of a host source, at that of a host destination, and at the end of a circular region. -/
theorem Job.next_of_up (h : j.down = false) :
    j.next = cutAt (cutAt (cutAt (min 4096 (j.len - j.done)) (j.srcSp = 0 ∧ j.kind ≠ 1) (pageRest (j.srcAt j.done)))
      (j.dstSp = 0) (pageRest (j.dstAt j.done))) (j.kind = 2) (2 ^ j.circLog - j.circPos j.done) :=
  if_neg (by simp [h])

theorem Job.next_le (j : Job) : j.next ≤ min 4096 (j.len - j.done) := by
  cases h : j.down with
  | true => exact (Job.next_of_down h).le
  | false => exact (Job.next_of_up h).trans_le (cutAt_le.trans (cutAt_le.trans cutAt_le))

theorem Job.next_pos (hd : j.done < j.len) : 0 < j.next := by
  have hn : 0 < min 4096 (j.len - j.done) := by omega
  cases h : j.down with
  | true => exact hn.trans_eq (Job.next_of_down h).symm
  | false =>
    rw [Job.next_of_up h]
    exact cutAt_pos (cutAt_pos (cutAt_pos hn (pageRest_pos _)) (pageRest_pos _)) (Nat.sub_pos_of_lt (j.circPos_lt _))

theorem Job.next_le_src (h : j.down = false) (hs : j.srcSp = 0) (hk : j.kind ≠ 1) : j.next ≤ pageRest (j.srcAt j.done) :=
  (Job.next_of_up h).trans_le (cutAt_le.trans (cutAt_le.trans (cutAt_le_of ⟨hs, hk⟩)))

theorem Job.next_le_dst (h : j.down = false) (hd : j.dstSp = 0) : j.next ≤ pageRest (j.dstAt j.done) :=
  (Job.next_of_up h).trans_le (cutAt_le.trans (cutAt_le_of hd))

/-- What fits in a page does not cross its end. -/
theorem mod_add_le_of_le_pageRest {a n : Nat} (h : n ≤ pageRest a) : a % 4096 + n ≤ 4096 := by
  unfold pageRest at h
  omega

end Length

/-! ### Bursts (R381, R382, R387, R397, R398) -/

/-- A burst that starts uses up the age of its requester at its port (R397). -/
def Core.spendAge (c : Core) (ch : Nat) (j : Job) : Core :=
  { c with host := { c.host with bxbAged := c.host.bxbAged.filter (· != (ch % 8, j.port)) } }

/-- The age of a requester does not say which memories have power. -/
theorem Core.burstLost_aged (c : Core) (q : List (Nat × Nat)) (j : Job) (n : Nat) :
    ({ c with host := { c.host with bxbAged := q } } : Core).burstLost j n = c.burstLost j n := rfl

/-- The next burst of a job does not start: the channel reads back, a burst is under way, the link is in D3hot, a window is closed, or
another burst comes first. -/
abbrev Core.burstHeld (c : Core) (ch : Nat) (j : Job) : Prop :=
  (c.dma ch).readback = true ∨ j.pend ≠ 0 ∨ c.host.d3.isSome = true ∨ c.jobOpen j = false ∨ c.outranked ch j = true

section Burst

variable {c : Core} {ch : Nat} {data : Option (List Byte)} {ce ue : List Nat}

theorem Core.burst_of_none (h : (c.dma ch).job = none) : c.burst ch data ce ue = c := by
  simp only [Core.burst, h]

variable {j : Job} (hj : (c.dma ch).job = some j)
include hj

theorem Core.burst_of_held (h : c.burstHeld ch j) : c.burst ch data ce ue = c := by
  simp only [Core.burst, hj, if_pos h]

omit hj in
/-- No burst starts on a channel without a job, or that reads back, or while the link is in D3hot. -/
theorem Core.burst_of_idle (h : (c.dma ch).job = none ∨ (c.dma ch).readback = true ∨ c.host.d3 ≠ none) :
    c.burst ch data ce ue = c := by
  cases hj : (c.dma ch).job with
  | none => exact Core.burst_of_none hj
  | some j =>
    refine Core.burst_of_held hj ?_
    rcases h with h | h | h
    · exact absurd (hj.symm.trans h) (Option.some_ne_none j)
    · exact .inl h
    · exact .inr (.inr (.inl (Option.isSome_iff_ne_none.2 h)))

variable (hh : ¬ c.burstHeld ch j)
include hh

/-- A burst to or from a memory without power reaches a default target, and its job ends (R398). -/
theorem Core.burst_of_lost {t a : Nat} {w : Bool} (hl : c.burstLost j j.next = some (t, a, w)) :
    c.burst ch data ce ue =
      (((c.spendAge ch j).xbarDefault t a ch w).showJob ch { j with started := true }).endJob ch stMemErr := by
  simp only [Core.burst, hj, if_neg hh, Core.burstLost_aged, hl]
  rfl

variable (hl : c.burstLost j j.next = none)
include hl

/-- A FILL writes its pattern by the address of each byte (R382). -/
theorem Core.burst_of_fill (hk : j.kind = 1) :
    c.burst ch data ce ue = ((c.spendAge ch j).showJob ch { j with started := true, blen := j.next }).burstWrite ch
      ((List.range j.next).map (fun i => fillByte j.pattern (j.dstAt (j.offset j.next) + i))) := by
  simp only [Core.burst, hj, if_neg hh, Core.burstLost_aged, hl, hk, if_true]
  rfl

variable (hk : j.kind ≠ 1)
include hk

section Host

variable (hs : j.srcSp = 0)
include hs

/-- The bytes read from host memory go to the destination. -/
theorem Core.burst_of_host {bs : List Byte} (hn : j.next ≤ bs.length) :
    c.burst ch (some bs) ce ue =
      ((c.spendAge ch j).showJob ch { j with started := true, blen := j.next }).burstWrite ch (bs.take j.next) := by
  simp only [Core.burst, hj, if_neg hh, Core.burstLost_aged, hl, hk, hs, if_true, if_false, if_neg (not_lt.2 hn)]
  rfl

/-- A host read that fails ends the job (R387). -/
theorem Core.burst_of_hostErr :
    c.burst ch none ce ue = ((c.spendAge ch j).showJob ch { j with started := true }).endJob ch stHostErr := by
  simp only [Core.burst, hj, if_neg hh, Core.burstLost_aged, hl, hk, hs, if_true, if_false]
  rfl

end Host

section Hbm

variable (h1 : 1 ≤ j.srcSp) (h4 : j.srcSp ≤ 4)
include h1 h4

/-- A burst out of HBM waits for its pieces on the bank queues. -/
theorem Core.burst_of_hbm_engine (hp : j.purpose ≠ .host) :
    c.burst ch data ce ue =
      let q := (c.spendAge ch j).enqueueAll (j.srcSp - 1) (j.srcAt (j.offset j.next)) j.next (j.purpose == .inspectRead) false
        [] 0 (.dma ch)
      q.1.showJob ch { j with started := true, blen := j.next, pend := q.2, buf := List.replicate j.next 0 } := by
  simp only [Core.burst, hj, if_neg hh, Core.burstLost_aged, hl, hk, if_false, if_neg (Nat.one_le_iff_ne_zero.1 h1), h4, if_true,
    if_neg hp]
  rfl

/-- A burst of a DMA command out of HBM is first checked against the guarded places. -/
theorem Core.burst_of_hbm_host (hp : j.purpose = .host) :
    c.burst ch data ce ue =
      let a := j.srcAt (j.offset j.next)
      let q := ((c.spendAge ch j).guardNotes (.dma ch) (j.srcSp - 1) a j.next false).enqueueAll (j.srcSp - 1) a j.next false false
        [] 0 (.dma ch)
      q.1.showJob ch { j with started := true, blen := j.next, pend := q.2, buf := List.replicate j.next 0 } := by
  have hi : (j.purpose == .inspectRead) = false := by
    rw [hp]
    rfl
  simp only [Core.burst, hj, if_neg hh, Core.burstLost_aged, hl, hk, if_false, if_neg (Nat.one_le_iff_ne_zero.1 h1), h4, if_true,
    if_pos hp, hi]
  rfl

end Hbm

/-- A burst out of die SRAM moves at once; one that meets an uncorrectable word ends its job (R387). -/
theorem Core.burst_of_sram (h4 : 4 < j.srcSp) :
    c.burst ch data ce ue =
      let r := (c.spendAge ch j).sramRead (j.srcSp - 1) (j.srcAt (j.offset j.next)) j.next ce ue
      if r.2.2 then (r.1.showJob ch { j with started := true }).endJob ch stMemErr
      else (r.1.showJob ch { j with started := true, blen := j.next }).burstWrite ch r.2.1 := by
  have h0 : j.srcSp ≠ 0 := by omega
  simp only [Core.burst, hj, if_neg hh, Core.burstLost_aged, hl, hk, if_false, h0, if_neg (not_le.2 h4)]
  rfl

end Burst

/-! ### ABORT (R384, R385) -/

section Abort

variable {c : Core} {ch : Fin 64} {j : Job} (hj : (c.dma ch).job = some j) (hr : (c.dma ch).readback = false)
include hj hr

/-- A job that wrote host memory reads back before its completion (R384). -/
theorem doAbort_of_written (hp : j.pend = 0) (hs : j.dstSp = 0) (hd : 0 < j.done) :
    doAbort ch c = c.modDma ch (fun x =>
      { x with readback := true, job := some { j with pend := 0, stopAs := some stAborted } }) := by
  simp [doAbort, Core.abortJob, Core.endJob, hj, hr, hp, hs, hd]

/-- A job in a burst that is not its last ends with that burst (R385). -/
theorem doAbort_of_burst (hp : j.pend ≠ 0) (hl : j.done + j.blen ≠ j.len) (hs : j.stopAs = none) :
    doAbort ch c = c.showJob ch { j with stopAs := some stAborted } := by
  simp [doAbort, Core.abortJob, hj, hr, hp, hl, hs]

/-- A job in its last burst completes as if it were not aborted (R385). -/
theorem doAbort_of_lastBurst (hp : j.pend ≠ 0) (hl : j.done + j.blen = j.len) : doAbort ch c = c := by
  simp [doAbort, Core.abortJob, hj, hr, hp, hl]

end Abort

/-! ### The obligation -/

/-- Settles O31: each command is refused by the first condition of its rule that fails, or becomes its job; a burst upward is cut
at most three times (`Job.next_of_up`), and one that nothing holds back moves by its source (`Core.burst_of_lost` to
`Core.burst_of_sram`); ABORT passes the count of the lock's access. -/
theorem dataJobs : Obligations.DataJobs := by
  refine ⟨⟨fun s r d h => ⟨fun body hl => exec_does_of h (doDma_of_length hl), fun bs hl => ?dma,
        fun hl => exec_does_of h (doDma_of_hostErr hl)⟩,
      fun s r d h => ⟨fun data hb => exec_does_of h (doImageChunk_of_bad hb),
        fun data hb hm => exec_does_of h (doImageChunk_of_mode hb hm),
        fun data hb hm ha => exec_does_of h (doImageChunk_of_range hb hm ha),
        fun data q hb hm ha hq hne => exec_does_of h (doImageChunk_of_taken hb hm ha hq hne),
        fun hb hm ha hq => exec_does_of h (doImageChunk_of_free hb hm ha hq),
        fun bs hb hm ha hq => exec_does_of h (doImageChunk_of_free hb hm ha hq)⟩,
      fun s r d h => ⟨fun data hb => exec_does_of h (doBankLoad_of_bad hb),
        fun data hb ho => exec_does_of h (doBankLoad_of_off hb ho),
        fun hb ho hu => exec_does_of h (doBankLoad_of_hostErr hb ho hu),
        fun data hb ho hu => exec_does_of h (doBankLoad_of_inUse hb ho hu),
        fun bs i hb ho hu hi => exec_does_of h (doBankLoad_of_image hb ho hu hi)⟩,
      fun s r d h => ⟨fun data hb => exec_does_of h (doGainStep_of_bad hb),
        fun data hb hr hs => exec_does_of h (doGainStep_of_idle hb hr hs),
        fun hb hs => exec_does_of h (doGainStep_of_hostErr hb hs),
        fun bs hb hs => exec_does_of h (doGainStep_of_list hb hs)⟩,
      fun s r d h => ⟨fun hm => exec_does_of h (doInspectRead_of_mode hm),
        fun hm ho => exec_does_of h (doInspectRead_of_none hm ho), fun a size hm ho =>
        ⟨fun hsz => exec_does_of h ((doInspectRead_of_object hm ho).trans (if_pos hsz)),
          fun hsz => exec_does_of h ((doInspectRead_of_object hm ho).trans (if_neg (not_lt.2 hsz)))⟩⟩⟩,
    fun j hd => ?length, fun s ch data ce ue hruns hidle => act_does_of hruns (Core.burst_of_idle hidle),
    fun s ch j hj => ⟨fun data ce ue hruns hheld => act_does_of hruns (Core.burst_of_held hj ?held),
      fun hruns hr hp h3 ho hq => ?burst, fun h hr => ?abort⟩⟩
  case dma =>
    exact ⟨fun hb => exec_does_of h (doDma_of_bad hl hb),
      fun hb ha hj => exec_does_of h ((doDma_of_ok hl hb).trans (Core.hostJob_of_idle ha hj)),
      fun hb ha hj => exec_does_of h ((doDma_of_ok hl hb).trans (Core.hostJob_of_taken ha hj)),
      fun ch hb ha hch => exec_does_of h ((doDma_of_ok hl hb).trans (Core.hostJob_of_pool ha hch)),
      fun hb ha hch => exec_does_of h ((doDma_of_ok hl hb).trans (Core.hostJob_of_full ha hch))⟩
  case length =>
    have hle := j.next_le
    exact ⟨by omega, Job.next_pos hd, by omega,
      fun hup hs hk => mod_add_le_of_le_pageRest (Job.next_le_src hup hs hk),
      fun hup hs => mod_add_le_of_le_pageRest (Job.next_le_dst hup hs)⟩
  case held => exact .inr (hheld.imp_right .inr)
  case burst =>
    have hh : ¬ s.core.burstHeld ch j := by simp [hr, hp, h3, ho, hq]
    exact ⟨fun data ce ue t a w hl => act_does_of hruns (Core.burst_of_lost hj hh hl), fun hl =>
      ⟨fun data ce ue hk => act_does_of hruns (Core.burst_of_fill hj hh hl hk),
        fun bs ce ue hk hs hn => act_does_of hruns (Core.burst_of_host hj hh hl hk hs hn),
        fun ce ue hk hs => act_does_of hruns (Core.burst_of_hostErr hj hh hl hk hs),
        fun data ce ue hk h1 h4 hp => act_does_of hruns (Core.burst_of_hbm_engine hj hh hl hk h1 h4 hp),
        fun data ce ue hk h1 h4 hp => act_does_of hruns (Core.burst_of_hbm_host hj hh hl hk h1 h4 hp),
        fun data ce ue hk h4 => act_does_of hruns (Core.burst_of_sram hj hh hl hk h4)⟩⟩
  case abort =>
    have hj' : ((s.core.lockAccess (.dma ch) 0).dma ch).job = some j := by simpa using hj
    have hr' : ((s.core.lockAccess (.dma ch) 0).dma ch).readback = false := by simpa using hr
    exact ⟨fun hp hd => regCmd_doesReg_of h (doAbort_of_idle hj' hr' hp hd),
      fun hp hs hd => regCmd_doesReg_of h (doAbort_of_written hj' hr' hp hs hd),
      fun hp hl hs => regCmd_doesReg_of h (doAbort_of_burst hj' hr' hp hl hs),
      fun hp hl => regCmd_doesReg_of h (doAbort_of_lastBurst hj' hr' hp hl)⟩

end Sys2Proof.Machine
end

section
/-! PROOFS. The products of a cell pass (O43): the decoded words, one row's products entry by entry, then the rows of a pass. -/

namespace Sys2Proof.Machine

/-! ### Decoded words (R111) -/

/-- A word of two bytes under R111. -/
theorem nth_samples : ∀ {bs : List Byte} {n : Nat} {lo hi : Byte}, bs[2 * n]? = some lo → bs[2 * n + 1]? = some hi →
    nth {} (samples bs) n =
      if lo = 0x80 ∧ hi = 0x00 then ⟨0, 0, false⟩ else ⟨toInt 8 lo.toNat, toInt 8 hi.toNat, true⟩
  | [], _, _, _, hlo, _ => nomatch hlo
  | [_], 0, _, _, _, hhi => nomatch hhi
  | [_], _ + 1, _, _, hlo, _ => nomatch hlo
  | _ :: _ :: _, 0, _, _, hlo, hhi => by
    cases hlo
    cases hhi
    rfl
  | _ :: _ :: bs, n + 1, _, _, hlo, hhi => nth_samples (bs := bs) (n := n) hlo hhi

/-- The word of a row block is the row's. -/
theorem nth_rowBlock (r : List Samp) (p : Nat) {a : Nat} (h : a < 64) :
    nth {} ((r.drop (64 * p)).take 64) a = nth {} r (64 * p + a) := by
  rw [nth, List.getElem?_take_of_lt h]
  exact nth_drop ..

/-! ### The products of one row (R126) -/

/-- Where step `e` of a fold adds to what is read at `e` alone, each index below the bound is added to once. -/
theorem foldl_range_read {β γ : Type} [Add γ] {f : β → Nat → β} (read : β → Nat → γ) (add : Nat → γ)
    (h : ∀ t e k, read (f t e) k = if k = e then read t e + add e else read t k) (t : β) (n k : Nat) :
    read ((List.range n).foldl f t) k = if k < n then read t k + add k else read t k := by
  induction n with
  | zero => rfl
  | succ n ih =>
    rw [List.range_succ, List.foldl_append, List.foldl_cons, List.foldl_nil, h]
    by_cases hk : k = n
    · subst hk
      rw [if_pos rfl, ih, if_neg (lt_irrefl k), if_pos (Nat.lt_succ_self k)]
    · rw [if_neg hk, ih]
      exact if_congr (by omega) rfl rfl

/-- The sum of an entry of a tile. -/
def Tile.sumAt (t : Tile) (e : Nat) : Int × Int := SMap.get (fun _ => (0, 0)) t.acc e

/-- The count of an entry of a tile. -/
def Tile.countAt (t : Tile) (e : Nat) : Nat := SMap.get (fun _ => 0) t.cnt e

/-- What two words of a row add to a sum. -/
def Samp.times (a b : Samp) : Int × Int := (a.re * b.re + a.im * b.im, a.im * b.re - a.re * b.im)

/-- The products of one row at one entry. -/
def Tile.addEntry (count : Bool) (xa xb : List Samp) (t : Tile) (e : Nat) : Tile :=
  let a := nth {} xa (e / 64)
  let b := nth {} xb (e % 64)
  { acc := SMap.mod (fun _ => (0, 0)) t.acc e (· + a.times b),
    cnt := if count && a.v && b.v then SMap.mod (fun _ => 0) t.cnt e (· + 1) else t.cnt }

section Row

variable (t : Tile) (count : Bool) (xa xb : List Samp)

theorem Tile.addRow_eq : t.addRow count xa xb = (List.range 4096).foldl (Tile.addEntry count xa xb) t := rfl

theorem Tile.sumAt_addEntry (e k : Nat) :
    (t.addEntry count xa xb e).sumAt k =
      if k = e then t.sumAt e + (nth {} xa (e / 64)).times (nth {} xb (e % 64)) else t.sumAt k := by
  simp only [Tile.sumAt, Tile.addEntry, SMap.get_mod]

theorem Tile.countAt_addEntry (e k : Nat) :
    (t.addEntry count xa xb e).countAt k =
      if k = e then t.countAt e + b2n (count && (nth {} xa (e / 64)).v && (nth {} xb (e % 64)).v) else t.countAt k := by
  cases hv : count && (nth {} xa (e / 64)).v && (nth {} xb (e % 64)).v with
  | true => simp only [Tile.countAt, Tile.addEntry, hv, if_true, SMap.get_mod, b2n]
  | false =>
    simp only [Tile.countAt, Tile.addEntry, hv, Bool.false_eq_true, if_false, b2n, Nat.add_zero]
    split_ifs with h
    · rw [h]
    · rfl

variable {a b : Nat} (ha : a < 64) (hb : b < 64)
include ha hb

theorem Tile.sumAt_addRow :
    (t.addRow count xa xb).sumAt (64 * a + b) = t.sumAt (64 * a + b) + (nth {} xa a).times (nth {} xb b) := by
  rw [Tile.addRow_eq, foldl_range_read Tile.sumAt _ (fun t => t.sumAt_addEntry count xa xb), if_pos (by omega),
    show (64 * a + b) / 64 = a by omega, show (64 * a + b) % 64 = b by omega]

theorem Tile.countAt_addRow :
    (t.addRow count xa xb).countAt (64 * a + b) =
      t.countAt (64 * a + b) + b2n (count && (nth {} xa a).v && (nth {} xb b).v) := by
  rw [Tile.addRow_eq, foldl_range_read Tile.countAt _ (fun t => t.countAt_addEntry count xa xb), if_pos (by omega),
    show (64 * a + b) / 64 = a by omega, show (64 * a + b) % 64 = b by omega]

end Row

/-! ### The rows of a pass -/

theorem sumI_cons (x : Int) (l : List Int) : sumI (x :: l) = x + sumI l := by
  rw [sumI, sumI, ← List.sum_eq_foldl, ← List.sum_eq_foldl, List.sum_cons]

section Pass

variable (count : Bool) (p q : Nat) (t : Tile)

theorem Tile.pass_cons (r : List Samp) (rows : List (List Samp)) :
    t.pass count p q (r :: rows) =
      (t.addRow count ((r.drop (64 * p)).take 64) ((r.drop (64 * q)).take 64)).pass count p q rows := List.foldl_cons ..

variable {a b : Nat} (ha : a < 64) (hb : b < 64) (rows : List (List Samp))
include ha hb

theorem Tile.sumAt_pass :
    (t.pass count p q rows).sumAt (64 * a + b) =
      ((t.sumAt (64 * a + b)).1 + sumI (rows.map (fun r => ((nth {} r (64 * p + a)).times (nth {} r (64 * q + b))).1)),
       (t.sumAt (64 * a + b)).2 + sumI (rows.map (fun r => ((nth {} r (64 * p + a)).times (nth {} r (64 * q + b))).2))) := by
  induction rows generalizing t with
  | nil => exact Prod.ext (Int.add_zero _).symm (Int.add_zero _).symm
  | cons r rows ih =>
    rw [Tile.pass_cons, ih, Tile.sumAt_addRow _ _ _ _ ha hb, nth_rowBlock r p ha, nth_rowBlock r q hb]
    simp only [List.map_cons, sumI_cons, Int.add_assoc, Prod.fst_add, Prod.snd_add]

theorem Tile.countAt_pass :
    (t.pass count p q rows).countAt (64 * a + b) = t.countAt (64 * a + b) +
      if count = true then (rows.filter (fun r => (nth {} r (64 * p + a)).v && (nth {} r (64 * q + b)).v)).length else 0 := by
  induction rows generalizing t with
  | nil => exact (congrArg (t.countAt (64 * a + b) + ·) (ite_self 0)).symm
  | cons r rows ih =>
    rw [Tile.pass_cons, ih, Tile.countAt_addRow _ _ _ _ ha hb, nth_rowBlock r p ha, nth_rowBlock r q hb, Nat.add_assoc,
      List.filter_cons]
    cases count with
    | false => rfl
    | true =>
      rw [Bool.true_and, if_pos rfl, if_pos rfl]
      split_ifs with hv
      · rw [hv, List.length_cons, Nat.add_comm _ 1]
        rfl
      · rw [Bool.eq_false_of_not_eq_true hv, b2n, if_neg Bool.false_ne_true, Nat.zero_add]

end Pass

/-- The product of a word with itself has no imaginary part, and its real part is not negative. -/
theorem sumI_times_self (f : List Samp → Samp) (rows : List (List Samp)) :
    sumI (rows.map (fun r => ((f r).times (f r)).2)) = 0 ∧ 0 ≤ sumI (rows.map (fun r => ((f r).times (f r)).1)) := by
  induction rows with
  | nil => exact ⟨rfl, le_rfl⟩
  | cons r rows ih =>
    obtain ⟨him, hre⟩ := ih
    rw [List.map_cons, List.map_cons, sumI_cons, sumI_cons, him]
    exact ⟨by rw [Samp.times]; ring, add_nonneg (add_nonneg (mul_self_nonneg _) (mul_self_nonneg _)) hre⟩

/-- Settles O43: the sums and counts of a pass are those of its rows one after another (`Tile.sumAt_pass`,
`Tile.countAt_pass`), a word is decoded at its place (`nth_samples`), and the diagonal adds squares (`sumI_times_self`). -/
theorem cellProducts : Obligations.CellProducts := by
  refine ⟨fun t count p q a b rows ha hb => ⟨t.sumAt_pass count p q ha hb rows, t.countAt_pass count p q ha hb rows⟩,
    fun _ _ _ _ hlo hhi => nth_samples hlo hhi, fun count p a rows ha => ?_⟩
  obtain ⟨him, hre⟩ := sumI_times_self (fun r => nth {} r (64 * p + a)) rows
  have h := Tile.sumAt_pass count p p {} ha ha rows
  intro v
  rw [show v = _ from h]
  exact ⟨(Int.zero_add _).trans him, hre.trans_eq (Int.zero_add _).symm⟩

end Sys2Proof.Machine
end

section
/-! PROOFS. Long-term entries, weights, CELLS and UPDATE (O42): the new value of an entry and of a weight, the operands of a
CELLS, and where an UPDATE starts from. -/

namespace Sys2Proof.Machine

/-! ### Entries (R129) and weights (R134) -/

section Entry

variable {lost : Bool} {old x : Vis}

theorem visUpdate_of_lost (h : lost = true) : visUpdate lost old x = markLost := if_pos h

theorem visUpdate_of_mark (hl : lost = false) (h : isMark old = true) : visUpdate lost old x = old :=
  (if_neg (by simp [hl])).trans (if_pos h)

theorem visUpdate_of_over (hl : lost = false) (h : isMark old = false)
    (ho : (2 ^ 47 - 1 : Int) < old.1 + x.1 ∨ old.1 + x.1 < -(2 ^ 47 - 1) ∨ (2 ^ 47 - 1 : Int) < old.2 + x.2 ∨
      old.2 + x.2 < -(2 ^ 47 - 1)) : visUpdate lost old x = markOvr :=
  (if_neg (by simp [hl])).trans ((if_neg (by simp [h])).trans (if_pos ho))

theorem visUpdate_of_within (hl : lost = false) (h : isMark old = false) (hlo₁ : -(2 ^ 47 - 1 : Int) ≤ old.1 + x.1)
    (hhi₁ : old.1 + x.1 ≤ 2 ^ 47 - 1) (hlo₂ : -(2 ^ 47 - 1 : Int) ≤ old.2 + x.2) (hhi₂ : old.2 + x.2 ≤ 2 ^ 47 - 1) :
    visUpdate lost old x = (old.1 + x.1, old.2 + x.2) :=
  (if_neg (by simp [hl])).trans ((if_neg (by simp [h])).trans
    (if_neg (by simp only [not_or, not_lt]; exact ⟨hhi₁, hlo₁, hhi₂, hlo₂⟩)))

/-- A value whose real part is kept is no marker: a marker's is below the range (R129, R130). -/
theorem isMark_of_within {v : Vis} (h : -(2 ^ 47 - 1 : Int) ≤ v.1) : isMark v = false :=
  beq_false_of_ne (by omega)

end Entry

section Weight

variable {lost : Bool} {old n : Nat}

theorem weightUpdate_of_lost (h : lost = true ∨ old = 0xFFFFFFFF) : weightUpdate lost old n = 0xFFFFFFFF := if_pos h

theorem weightUpdate_of_kept (hl : lost = false) (h : old ≠ 0xFFFFFFFF) :
    weightUpdate lost old n = min (old + n) 0xFFFFFFFE := if_neg (by simp [hl, h])

end Weight

/-! ### CELLS (R240) -/

theorem bits_one_lt (w i : Nat) : bits w i i < 2 :=
  (Nat.mod_lt _ (Nat.two_pow_pos _)).trans_eq (by rw [Nat.add_sub_cancel_left, pow_one])

/-- The operands of a CELLS, each with the loop index that its instruction names (Table 10.15). -/
theorem cellsOp_operands (ins : Nat) (ls : List LoopS) : let o := cellsOp ins ls
    (bit ins 16 = false → o.k = bits ins 13 0) ∧ (bit ins 16 = true → o.k = bits ins 13 0 + loopIdx ls (bits ins 15 14)) ∧
    (bit ins 25 = false → o.s = bits ins 22 17) ∧ (bit ins 25 = true → o.s = bits ins 22 17 + loopIdx ls (bits ins 24 23)) ∧
    (bit ins 29 = false → o.b = bits ins 26 26) ∧
    (bit ins 29 = true → o.b = (bits ins 26 26 + loopIdx ls (bits ins 28 27)) % 2) ∧ o.b < 2 := by
  refine ⟨fun h => ?_, fun h => ?_, fun h => ?_, fun h => ?_, fun h => ?_, fun h => ?_, Nat.mod_lt _ Nat.two_pos⟩
  · simp [cellsOp, h]
  · simp [cellsOp, h]
  · simp [cellsOp, h]
  · simp [cellsOp, h]
  · simpa [cellsOp, h] using Nat.mod_eq_of_lt (bits_one_lt ins 26)
  · simp [cellsOp, h]

/-! ### UPDATE -/

/-- Nothing happens where the action is not the next of a running Chanter. -/
theorem action_not {s : State} {d kind : Nat} (f : Image → ChanterS → List Byte → Core → Core) (h : s.runs)
    (ha : s.core.atAction d kind = none) : act (fun c => c.action d kind f) s = s.does (fun c => c) := by
  refine act_does_of h ?_
  simp only [Core.action, ha]

/-- An error that strikes a cell while its task is updated loses that task (R136). -/
def Core.taskHit (d : Nat) (i : Image) (u : UpdAt) (c : Core) (f : TaskFault) : Core :=
  match (tasksOf u.p.B)[f.tau]? with
  | none => c
  | some (p, q) =>
    let (c, lost) := c.cellError d ((nth {} i.tasks d).holder u.k p q f.second) f.fault
    if lost then c.loseTask u.p d u.k u.ch u.w f.tau else c

section Update

variable {c : Core} {d : Nat} {fs : List TaskFault} {i : Image} {t : ChanterS} {bs : List Byte} {u : UpdAt} {m : Nat}

theorem doUpdate_of_none (h : c.updAt i d t bs = none) : doUpdate d fs i t bs c = c := by
  simp only [doUpdate, h]

/-- An image that does not correlate runs no long-term accumulation (R13). -/
theorem doUpdate_of_not_correlates (h : i.correlates = false) : doUpdate d fs i t bs c = c := by
  cases hu : c.updAt i d t bs with
  | none => exact doUpdate_of_none hu
  | some e => simp only [doUpdate, hu, h, if_true]

theorem doUpdate_of_correlates (h : i.correlates = true) (hu : c.updAt i d t bs = some (u, m)) :
    doUpdate d fs i t bs c = (fs.foldl (Core.taskHit d i u) c).update i u m := by
  simp only [doUpdate, hu, h, Bool.true_eq_false, if_false]
  rfl

/-- An UPDATE starts from the channel that its descriptor names and the window of that channel's last passes, or, where none has
run, the Chanter's window. -/
theorem Core.updAt_some (h : c.updAt i d t bs = some (u, m)) :
    let k := (actChan bs t.loops).toNat
    let x := SMap.get (fun _ => (0, 0)) (c.xdie d).chanWin k
    u.d = d ∧ u.k = k ∧ (i.plan.owned c.part.dies d)[k]? = some u.ch ∧ u.lost = (c.xdie d).lostNext.elem k ∧ u.missed = false ∧
    (x.1 = 0 → u.w = t.window ∧ m = t.mask) ∧ (x.1 ≠ 0 → u.w = x.1 - 1 ∧ m = x.2) := by
  intro k x
  cases hch : (i.plan.owned c.part.dies d)[k]? with
  | none => simp [Core.updAt, k, hch] at h
  | some ch =>
    simp only [Core.updAt, k, hch, Option.some.injEq, Prod.mk.injEq] at h
    obtain ⟨rfl, rfl⟩ := h
    refine ⟨rfl, rfl, rfl, rfl, rfl, fun h0 => ?_, fun h0 => ?_⟩
    · simp [x, k, h0]
    · simp [x, k, h0]

end Update

/-- Settles O42: entries and weights by the cases of their update, the operands of a CELLS by its instruction, and the commands
through what issuing an instruction or starting an action does (`issue_does`, `action_does`). -/
theorem cellsAndUpdate : Obligations.CellsAndUpdate := by
  refine ⟨fun lost old x => ⟨visUpdate_of_lost, visUpdate_of_mark, visUpdate_of_over, fun hl hm h1 h2 h3 h4 => ?within, rfl, rfl⟩,
    fun lost old n => ⟨weightUpdate_of_lost, fun hl ho => ?weight⟩, cellsOp_operands, fun s d fs h ha => issue_not _ h ha,
    fun s d fs h ha => action_not _ h ha, fun s d fs i t ins bs h ha hu => ?none, fun s d fs i t ins h ha => issue_does _ h ha,
    fun s d fs i t ins bs u m h ha hc hu => ?update, fun c i d t bs u m hu => Core.updAt_some hu⟩
  case within =>
    have hv := visUpdate_of_within hl hm h1 h2 h3 h4
    exact ⟨hv, hv ▸ isMark_of_within h1⟩
  case weight =>
    rw [weightUpdate_of_kept hl ho]
    exact ⟨min_le_right .., min_eq_left, min_eq_right⟩
  case none =>
    have he : doUpdate d.val fs i t bs s.core = s.core := hu.elim doUpdate_of_not_correlates doUpdate_of_none
    refine (action_does _ h ha).trans (State.does_congr ?_)
    rw [he]
  case update =>
    refine (action_does _ h ha).trans (State.does_congr ?_)
    rw [doUpdate_of_correlates hc hu]
    rfl

end Sys2Proof.Machine
end

section
/-! PROOFS. BAR2, INSPECT and the PCIe link (O32): an access to SRAM that takes its turn, what BAR2 does with a read and a write,
what FETCH copies, and the changes of the link. -/

namespace Sys2Proof.Machine

/-! ### The turn of an access to SRAM (R360) -/

section Turn

variable {c : Core} {e : Bar2Op}

/-- The accesses to SRAM that wait are `q`; the next to come has number `n`. -/
def Core.bar2Wait (c : Core) (n : Nat) (q : List Bar2Op) : Core := { c with host := { c.host with asyncN := n, bar2W := q } }

/-- An access that is alone needs its window, and a read a die to which no write is under way. -/
theorem Core.bar2Ready_alone (n : Nat) (hw : c.host.bar2W = []) :
    (c.bar2Wait n [e]).bar2Ready e = (c.winOpen (targetChip e.target) 33 &&
      (e.data.isSome || (c.bar2Writing (targetChip e.target)).all (fun n => decide (e.id < n)))) := by
  have ho : (c.bar2Wait n [e]).winOpen (targetChip e.target) 33 = c.winOpen (targetChip e.target) 33 := rfl
  have hq : (c.bar2Wait n [e]).host.bar2W = [e] := rfl
  rw [Core.bar2Ready, ho, hq]
  cases hd : e.data with
  | some bs => simp
  | none =>
    have hr : (c.bar2Wait n [e]).bar2Writing (targetChip e.target) = c.bar2Writing (targetChip e.target) := by
      simp [Core.bar2Writing, Core.bar2Wait, Core.stack, hw, hd]
    simp [hr]

variable (hw : c.host.bar2W = [])
include hw

theorem Core.bar2Put_eq : c.bar2Put e =
    if (c.bar2Wait (e.id + 1) [e]).bar2Ready e then (c.bar2Wait (e.id + 1) []).bar2Serve e else c.bar2Wait (e.id + 1) [e] := by
  have hf : [e].filter (fun f => f.id != e.id) = [] := by simp
  calc c.bar2Put e = (c.bar2Wait (e.id + 1) (c.host.bar2W ++ [e])).bar2Run := rfl
    _ = (c.bar2Wait (e.id + 1) [e]).bar2Run := by rw [hw, List.nil_append]
    _ = if (c.bar2Wait (e.id + 1) [e]).bar2Ready e then
          (c.bar2Wait (e.id + 1) ([e].filter (fun f => f.id != e.id))).bar2Serve e
        else c.bar2Wait (e.id + 1) [e] := rfl
    _ = _ := by rw [hf]

theorem Core.bar2Put_of_shut (ho : c.winOpen (targetChip e.target) 33 = false) : c.bar2Put e = c.bar2Wait (e.id + 1) [e] := by
  rw [Core.bar2Put_eq hw, Core.bar2Ready_alone _ hw, ho, Bool.false_and, if_neg Bool.false_ne_true]

theorem Core.bar2Put_of_open (ho : c.winOpen (targetChip e.target) 33 = true)
    (hr : e.data.isSome = true ∨ c.bar2Writing (targetChip e.target) = []) :
    c.bar2Put e = (c.bar2Wait (e.id + 1) []).bar2Serve e := by
  rw [Core.bar2Put_eq hw, Core.bar2Ready_alone _ hw, ho, Bool.true_and, if_pos]
  rcases hr with h | h <;> simp [h]

end Turn

/-! ### BAR2 (R359 to R361) -/

section Bar2

variable {c : Core} {o : Fin 68719476736} {n : Nat} {ce ue : List Nat} {bs : List Byte}

theorem doBar2Read_of_off (h : c.bar2On = false) : doBar2Read o.val n ce ue c = c := if_pos h

theorem doBar2Write_of_off (h : c.bar2On = false) : doBar2Write o.val bs c = c := if_pos h

variable (hon : c.bar2On = true) (hq : c.host.heldQ = [])
include hon

theorem doBar2Write_of_unmapped (ha : c.bar2At o = none) : doBar2Write o.val bs c = c.bar2Range := by
  simp only [doBar2Write, hon, Bool.true_eq_false, if_false, ha]

include hq in
theorem doBar2Read_of_unmapped (ha : c.bar2At o = none) :
    doBar2Read o.val n ce ue c = c.bar2Range.aborts (.bar2 o none false) := by
  simp only [doBar2Read, hon, hq, List.isEmpty_nil, Bool.true_eq_false, if_false, ha]

variable {t a : Nat} (ha : c.bar2At o = some (t, a))
include ha

theorem doBar2Write_of_range (hok : c.targetOk t a bs.length = false) : doBar2Write o.val bs c = c.bar2Range := by
  simp only [doBar2Write, hon, Bool.true_eq_false, if_false, ha, hok, if_true]

include hq

theorem doBar2Read_of_range (hok : c.targetOk t a n = false) :
    doBar2Read o.val n ce ue c = c.bar2Range.aborts (.bar2 o none false) := by
  simp only [doBar2Read, hon, hq, List.isEmpty_nil, Bool.true_eq_false, if_false, ha, hok, if_true]

/-- Flow control holds a write to a die of which 512 writes wait (R360). -/
theorem doBar2Write_of_full (hok : c.targetOk t a bs.length = true) (hf : c.bar2Full (targetChip t) = true) :
    doBar2Write o.val bs c =
      { c with host := { c.host with heldQ := [(Fin.ofNat 5 (targetChip t), .bar2Write o bs)] } } := by
  have ho : Fin.ofNat 68719476736 o.val = o := Fin.ofNat_val_eq_self ..
  simp only [doBar2Write, hon, Bool.true_eq_false, if_false, ha, hok, hf, or_true, if_true, hq, List.nil_append, ho]

section Write

variable (hok : c.targetOk t a bs.length = true) (hf : c.bar2Full (targetChip t) = false)
include hok hf

theorem doBar2Write_of_hbm (ht : t < 4) :
    doBar2Write o.val bs c = ((c.guardNotes .pciex t a bs.length true).hbmHostPut t a bs false
      (.bar2 (c.guardNotes .pciex t a bs.length true).host.asyncN)).1 := by
  simp only [doBar2Write, hon, hq, List.isEmpty_nil, Bool.true_eq_false, Bool.false_eq_true, or_self, if_false, ha, hok, hf, ht,
    if_true]

theorem doBar2Write_of_sram (ht : 4 ≤ t) :
    doBar2Write o.val bs c = c.bar2Put { id := c.host.asyncN, addr := o, target := t, at_ := a, data := some bs,
                                         len := bs.length, ce := [], ue := [] } := by
  simp only [doBar2Write, hon, hq, List.isEmpty_nil, Bool.true_eq_false, Bool.false_eq_true, or_self, if_false, ha, hok, hf,
    not_lt.2 ht]

end Write

section Read

variable (hok : c.targetOk t a n = true)
include hok

theorem doBar2Read_of_hbm (ht : t < 4) :
    doBar2Read o.val n ce ue c =
      let c := c.guardNotes .pciex t a n false
      let id := c.host.asyncN
      let e := { c with host := { c.host with asyncN := id + 1 } }.enqueueAll t a n false false [] 0 (.bar2 id)
      { e.1 with host := { e.1.host with bar2Q := e.1.host.bar2Q ++
        [{ id := id, addr := o, target := t, at_ := a, data := List.replicate n 0, left := e.2 }] } } := by
  simp only [doBar2Read, hon, hq, List.isEmpty_nil, Bool.true_eq_false, if_false, ha, hok, ht, if_true]

theorem doBar2Read_of_sram (ht : 4 ≤ t) :
    doBar2Read o.val n ce ue c = c.bar2Put { id := c.host.asyncN, addr := o, target := t, at_ := a, data := none, len := n,
                                             ce := ce, ue := ue } := by
  simp only [doBar2Read, hon, hq, List.isEmpty_nil, Bool.true_eq_false, if_false, ha, hok, not_lt.2 ht]

end Read

end Bar2

/-! ### FETCH (R140, R142, R145) -/

/-- FETCH of a choice that no object has ends with BAD_SEL. -/
def Core.fetchBad (c : Core) (i : Nat) : Core := c.inspEnd i (fun x => { x with badSel := true })

/-- FETCH of bytes of a cell object: `sel` is INSP_SEL, `off` the offset of the window. -/
def Core.fetchCell (c : Core) (i sel off : Nat) : Core :=
  if (if bits sel 4 2 = 3 then 16384 else 32768) ≤ off ∨ (bits sel 4 2 = 2 ∧ 6 ≤ bits sel 16 14) ∨
    (bits sel 4 2 = 3 ∧ 2 ≤ bits sel 16 14) then c.fetchBad i
  else if (c.chanter (sel % 4)).st ≠ .held then c.inspEnd i (fun x => { x with busyCell := true })
  else c.inspEnd i (fun x => { x with
    run := true,
    data := (SMap.get (fun _ => {}) (c.xdie (sel % 4)).cells (bits sel 13 5)).object (bits sel 4 2) (bits sel 16 14) off 2048 })

/-- FETCH of an HBM object of `size` bytes at `a` queues the pieces of its window. -/
def Core.fetchHbm (c : Core) (i d off a size : Nat) : Core :=
  ((c.inspEnd i (fun x => { x with run := true, data := List.replicate 2048 0 })).enqueueAll d (a + off)
    (min 2048 (size - off)) true false [] 0 (.inspect i)).1

/-- The bytes from offset `off` on lie in the cell object that `sel` names (Table 6.7). -/
def fetchLies (sel off : Nat) : Prop :=
  off < (if bits sel 4 2 = 3 then 16384 else 32768) ∧ (bits sel 4 2 = 2 → bits sel 16 14 < 6) ∧
    (bits sel 4 2 = 3 → bits sel 16 14 < 2)

theorem not_fetchLies_iff {sel off : Nat} : ¬ fetchLies sel off ↔ (if bits sel 4 2 = 3 then 16384 else 32768) ≤ off ∨
    (bits sel 4 2 = 2 ∧ 6 ≤ bits sel 16 14) ∨ (bits sel 4 2 = 3 ∧ 2 ≤ bits sel 16 14) := by
  unfold fetchLies
  omega

section Cell

variable {c : Core} {i sel off : Nat}

theorem Core.fetchCell_of_outside (h : ¬ fetchLies sel off) : c.fetchCell i sel off = c.fetchBad i :=
  if_pos (not_fetchLies_iff.1 h)

variable (hl : fetchLies sel off)
include hl

/-- A cell of a die that runs is busy (R140). -/
theorem Core.fetchCell_of_busy (h : (c.chanter (sel % 4)).st ≠ .held) :
    c.fetchCell i sel off = c.inspEnd i (fun x => { x with busyCell := true }) :=
  (if_neg (mt not_fetchLies_iff.2 (not_not.2 hl))).trans (if_pos h)

theorem Core.fetchCell_of_held (h : (c.chanter (sel % 4)).st = .held) :
    c.fetchCell i sel off = c.inspEnd i (fun x => { x with
      run := true,
      data := (SMap.get (fun _ => {}) (c.xdie (sel % 4)).cells (bits sel 13 5)).object (bits sel 4 2) (bits sel 16 14) off
        2048 }) :=
  (if_neg (mt not_fetchLies_iff.2 (not_not.2 hl))).trans (if_neg (not_not.2 h))

end Cell

section Fetch

variable {c : Core} {i sel off : Nat}

theorem doFetch_of_running (h : (c.inspAt i).run = true) : doFetch i c = c := if_pos h

variable (hsel : c.rd (.insp i) 0x040 = sel)
  (hoff : (c.rd (.insp i) 0x044 + 2 ^ 32 * c.rd (.insp i) 0x048) / 2048 * 2048 = off) (hrun : (c.inspAt i).run = false)

include hrun in
/-- FETCH outside INSPECT is DENIED, and reported (R140). -/
theorem doFetch_of_mode (hm : c.power.mode ≠ .inspect) :
    doFetch i c = (c.inspEnd i (fun x => { x with denied := true })).report (.insp i) 0x06 clsN 0 :=
  (if_neg (by simp [hrun])).trans (if_pos hm)

variable (hm : c.power.mode = .inspect)
include hsel hrun hm

theorem doFetch_of_badChoice (h : c.part.dies ≤ sel % 4 ∨ bits sel 4 2 = 7 ∨ 384 ≤ bits sel 13 5) :
    doFetch i c = c.fetchBad i := by
  subst hsel
  exact (if_neg (by simp [hrun])).trans ((if_neg (by simp [hm])).trans (if_pos h))

variable (hd : sel % 4 < c.part.dies) (hcell : bits sel 13 5 < 384)
include hoff hd hcell

/-- The kinds up to 3 are those of a cell (Table 6.7). -/
theorem doFetch_of_cell (hk : bits sel 4 2 ≤ 3) : doFetch i c = c.fetchCell i sel off := by
  subst hsel hoff
  exact (if_neg (by simp [hrun])).trans ((if_neg (by simp [hm])).trans ((if_neg (by omega)).trans (if_pos hk)))

section Hbm

variable (h4 : 4 ≤ bits sel 4 2) (h6 : bits sel 4 2 ≤ 6)
include h4 h6

omit hoff in
theorem doFetch_of_noObject (h : c.hbmObject (sel % 4) (bits sel 4 2) (bits sel 17 17) (bits sel 31 18) = none) :
    doFetch i c = c.fetchBad i := by
  subst hsel
  refine (if_neg (by simp [hrun])).trans ((if_neg (by simp [hm])).trans ((if_neg (by omega)).trans
    ((if_neg (by omega)).trans ?_)))
  simp only [h]
  rfl

theorem doFetch_of_object {a size : Nat}
    (h : c.hbmObject (sel % 4) (bits sel 4 2) (bits sel 17 17) (bits sel 31 18) = some (a, size)) :
    doFetch i c = if size ≤ off then c.fetchBad i else c.fetchHbm i (sel % 4) off a size := by
  subst hsel hoff
  refine (if_neg (by simp [hrun])).trans ((if_neg (by simp [hm])).trans ((if_neg (by omega)).trans
    ((if_neg (by omega)).trans ?_)))
  simp only [h]
  rfl

end Hbm

end Fetch

/-- A lock's count of accesses leaves the objects of the HBM where they are. -/
@[simp] theorem Core.hbmObject_lockAccess (c : Core) (k : PageKind) (m d kind half n : Nat) :
    (c.lockAccess k m).hbmObject d kind half n = c.hbmObject d kind half n := by
  simp only [Core.hbmObject, Core.lockAccess_img, Core.lockAccess_part]

/-- A lock's count of accesses leaves the registers of an INSPECT window. -/
theorem Core.rd_insp_lockAccess (c : Core) (k : PageKind) (m : Nat) (i : Fin 16) {o : Nat} (ho : o < 4096) :
    (c.lockAccess k m).rd (.insp i) o = c.rd (.insp i) o :=
  Core.rd_lockAccess_off _ _ _ _ ho (by simp only [PageKind.no]; omega) (by simp only [PageKind.no]; omega)

/-! ### The end of a copy (R145), and the link (R355, R356) -/

section Done

variable {c : Core} {i : Nat}

/-- A piece of the copy of window `i` is still to be read. -/
def Core.copyWaits (c : Core) (i : Nat) : Bool :=
  (List.range 8).any (fun k => (c.stack k).queue.any (fun r => r.origin == .inspect i))

theorem doFetchDone_of_not (h : (c.inspAt i).run = false ∨ c.copyWaits i = true) : doFetchDone i c = c := by
  refine if_neg (fun ⟨hr, hw⟩ => ?_)
  rcases h with h | h
  · exact Bool.false_ne_true (h.symm.trans hr)
  · exact Bool.false_ne_true (hw.symm.trans h)

theorem doFetchDone_of_read (hr : (c.inspAt i).run = true) (hw : c.copyWaits i = false) :
    doFetchDone i c = c.setInsp i { c.inspAt i with run := false, ready := true } := if_pos ⟨hr, hw⟩

end Done

section Link

variable {c : Core} {gen width mps : Nat}

theorem doLinkChange_of_down (h : c.host.linkUp = false) : doLinkChange gen width mps c = c := if_neg (by simp [h])

theorem doLinkUp_of_not (h : c.host.linkUp = true ∨ c.perst = true ∨ c.power.mode = .shelved ∨ c.domOn 34 = false) :
    doLinkUp gen width mps c = c := by
  refine if_neg (fun ⟨hl, _, hp, hm, hd⟩ => ?_)
  rcases h with h | h | h | h
  · exact Bool.false_ne_true (hl.symm.trans h)
  · exact Bool.false_ne_true (hp.symm.trans h)
  · exact hm h
  · exact Bool.false_ne_true (h.symm.trans hd)

variable (hok : linkOk gen width = true)
include hok

theorem doLinkChange_of_up (h : c.host.linkUp = true) : doLinkChange gen width mps c =
    ({ c with host := { c.host with gen := gen, width := width, mps := mps } }.raise .pciex 0).report .pciex 0x90 clsN 0 :=
  if_pos ⟨h, hok⟩

theorem doLinkUp_of_powered (hl : c.host.linkUp = false) (hp : c.perst = false) (hm : c.power.mode ≠ .shelved)
    (hd : c.domOn 34 = true) : doLinkUp gen width mps c =
      { c with host := { c.host with linkUp := true, gen := gen, width := width, mps := mps } } :=
  if_pos ⟨hl, hok, hp, hm, hd⟩

end Link

/-! ### The obligation -/

/-- Settles O32: BAR2 by its segment, its target and the die's queue, where an access to SRAM that is alone takes its turn at once
or waits (`Core.bar2Put_of_open`, `Core.bar2Put_of_shut`); FETCH by the first condition of its choice that fails, its conditions
passing the count of the lock's access. -/
theorem bar2InspectAndLink : Obligations.Bar2InspectAndLink := by
  refine ⟨fun s o n ce ue bs h => ⟨fun hoff => ⟨act_does_of h (doBar2Read_of_off hoff), act_does_of h (doBar2Write_of_off hoff)⟩,
      fun hon hq => ⟨fun ha => ⟨act_does_of h (doBar2Read_of_unmapped hon hq ha), act_does_of h (doBar2Write_of_unmapped hon ha)⟩,
        fun t a ha => ⟨fun hok => act_does_of h (doBar2Read_of_range hon hq ha hok),
          fun hok => act_does_of h (doBar2Write_of_range hon ha hok),
          fun hok hf => act_does_of h (doBar2Write_of_full hon hq ha hok hf),
          fun hok hf ht => act_does_of h (doBar2Write_of_hbm hon hq ha hok hf ht),
          fun hok ht => act_does_of h (doBar2Read_of_hbm hon hq ha hok ht),
          fun ht hw => ⟨fun hok hf => ?write, fun hok => ?read⟩⟩⟩⟩,
    fun s i h => ?fetch, fun s i h hd => act_does_of h (doFetchDone_of_not hd),
    fun s i h hr hw => act_does_of h (doFetchDone_of_read hr hw), fun s i reg v h => regCmd_does _ _ _ s h,
    fun s gen width mps h hok => ⟨fun hl => act_does_of h (doLinkChange_of_down hl), fun hl => act_does_of h (doLinkUp_of_not hl),
      fun hl => act_does_of h (doLinkChange_of_up hok hl),
      fun hl hp hm hd => act_does_of h (doLinkUp_of_powered hok hl hp hm hd)⟩⟩
  case write =>
    have he := doBar2Write_of_sram hon hq ha hok hf ht
    exact ⟨fun ho => act_does_of h (he.trans (Core.bar2Put_of_open hw ho (.inl rfl))),
      fun ho => act_does_of h (he.trans (Core.bar2Put_of_shut hw ho))⟩
  case read =>
    have he := doBar2Read_of_sram (ce := ce) (ue := ue) hon hq ha hok ht
    exact ⟨fun ho hr => act_does_of h (he.trans (Core.bar2Put_of_open hw ho (.inr hr))),
      fun ho => act_does_of h (he.trans (Core.bar2Put_of_shut hw ho))⟩
  case fetch =>
    have hrd : ∀ o, o < 4096 → (s.core.lockAccess (.insp i) 0).rd (.insp i) o = s.core.rd (.insp i) o := fun o ho =>
      s.core.rd_insp_lockAccess _ 0 i ho
    have hsel := hrd 0x040 (by decide)
    have hoff := congrArg₂ (fun lo hi => (lo + 2 ^ 32 * hi) / 2048 * 2048) (hrd 0x044 (by decide)) (hrd 0x048 (by decide))
    refine ⟨fun hrun => regCmd_doesReg_of h (doFetch_of_running (by simpa using hrun)), fun hrun =>
      ⟨fun hm => regCmd_doesReg_of h (doFetch_of_mode (by simpa using hrun) (by simpa using hm)), fun hm => ?_⟩⟩
    rw [← Core.inspAt_lockAccess s.core (.insp i) 0] at hrun
    rw [← Core.lockAccess_power s.core (.insp i) 0] at hm
    refine ⟨fun hb => regCmd_doesReg_of h (doFetch_of_badChoice hsel hrun hm (by simpa using hb)), fun hd hcell hk => ?cell,
      fun hd hcell h4 h6 => ?hbm⟩
    all_goals rw [← Core.lockAccess_part s.core (.insp i) 0] at hd
    case cell =>
      have he := doFetch_of_cell hsel hoff hrun hm hd hcell hk
      exact ⟨fun hl => regCmd_doesReg_of h (he.trans (Core.fetchCell_of_outside hl)),
        fun hl hst => regCmd_doesReg_of h (he.trans (Core.fetchCell_of_busy hl (by rwa [Core.chanter_lockAccess]))),
        fun hl hst => regCmd_doesReg_of h (he.trans (Core.fetchCell_of_held hl (by rwa [Core.chanter_lockAccess])))⟩
    case hbm =>
      refine ⟨fun ho => regCmd_doesReg_of h (doFetch_of_noObject hsel hrun hm hd hcell h4 h6
        (by rwa [Core.hbmObject_lockAccess])), fun a size ho => ?_⟩
      have he := doFetch_of_object hsel hoff hrun hm hd hcell h4 h6 ((Core.hbmObject_lockAccess ..).trans ho)
      exact ⟨fun hs => regCmd_doesReg_of h (he.trans (if_pos hs)),
        fun hs => regCmd_doesReg_of h (he.trans (if_neg (not_le.2 hs)))⟩

end Sys2Proof.Machine
end

section
/-! PROOFS. Frames that leave a die (O45): what a reading action queues, the paths of the frame at the head, and what each event
of the egress queue does with that frame. -/

namespace Sys2Proof.Machine

/-- What a reading action queues, with INTERVAL_DONE as a condition on the frames it reads. -/
theorem Core.readFrames_eq (c : Core) (d k : Nat) (i : Image) (t : ChanterS) (bs : List Byte) :
    let rs := c.reads d k i t bs
    c.readFrames d k i t bs =
      ((rs.foldl (fun c r => c.queueFrame i d r.frame r.len (t.scyc + actDeadline bs) r.read) c).areaRead d k i t bs).when
        (decide (k = 14 ∧ rs.any (fun r => r.frame.flags.testBit 1) = true)) (fun c => c.raise (.red d) 0) := by
  simp only [Core.readFrames, Core.intervalDone, Core.when, decide_eq_true_eq]

/-! ### The path of the frame at the head (R164, R271, Table 7.6) -/

section Path

variable {c : Core} {d : Nat} {f : Frame}

theorem Core.framePath_of_linkDown (hr : f.dest.testBit 15 = true) (hl : c.host.linkUp = false) :
    c.framePath d f = (c.popFrame d).framePathDown d f.type f.hdr := (if_pos hr).trans (if_pos hl)

/-- Whether the link has credit is free: the frame joins its ring's items, or it holds the head and waits. -/
theorem Core.framePath_of_linkUp (hr : f.dest.testBit 15 = true) (hl : c.host.linkUp = true) :
    let e := { c with free := c.free + 1 }
    c.framePath d f = e.frameRing d f ∨
      c.framePath d f = e.modX d (fun x => { x with egress := { f with held := true, wait := true } :: x.egress.drop 1 }) := by
  intro e
  rw [Core.framePath, if_pos hr, if_neg (by simp [hl])]
  exact ite_eq_or_eq ..

theorem Core.framePath_of_lane (hr : f.dest.testBit 15 = false) :
    c.framePath d f =
      if ((c.popFrame d).lane (f.dest % 256)).st ≠ .up ∧ ((c.popFrame d).lane (f.dest % 256)).st ≠ .recal then
        (c.popFrame d).framePathDown d f.type f.hdr
      else ((c.popFrame d).lanePacket (f.dest % 256) f).frameSent d f.type f.hdr := if_neg (by simp [hr])

theorem Core.framePath_of_laneDown (hr : f.dest.testBit 15 = false) (hu : ((c.popFrame d).lane (f.dest % 256)).st ≠ .up)
    (hc : ((c.popFrame d).lane (f.dest % 256)).st ≠ .recal) :
    c.framePath d f = (c.popFrame d).framePathDown d f.type f.hdr :=
  (Core.framePath_of_lane hr).trans (if_pos ⟨hu, hc⟩)

theorem Core.framePath_of_laneUp (hr : f.dest.testBit 15 = false)
    (hu : ((c.popFrame d).lane (f.dest % 256)).st = .up ∨ ((c.popFrame d).lane (f.dest % 256)).st = .recal) :
    c.framePath d f = ((c.popFrame d).lanePacket (f.dest % 256) f).frameSent d f.type f.hdr :=
  (Core.framePath_of_lane hr).trans (if_neg (fun ⟨hn, hm⟩ => hu.elim hn hm))

end Path

/-! ### The events of an egress queue (R163) -/

section Head

variable {c : Core} {d : Nat} {f : Frame} {q : List Frame}

theorem doFrameAtHead_of_empty (he : (c.xdie d).egress = []) : doFrameAtHead d c = c := by simp only [doFrameAtHead, he]

theorem doFrameLaunch_of_empty (he : (c.xdie d).egress = []) : doFrameLaunch d c = c := by simp only [doFrameLaunch, he]

theorem doLinkCredit_of_empty (he : (c.xdie d).egress = []) : doLinkCredit d c = c := by simp only [doLinkCredit, he]

theorem doFrameAtHead_of_held (he : (c.xdie d).egress = f :: q) (hf : f.held = true) : doFrameAtHead d c = c := by
  simp only [doFrameAtHead, he, if_pos hf]

theorem doFrameAtHead_of_early (he : (c.xdie d).egress = f :: q) (hf : f.held = false)
    (hl : ¬ (f.launch : Int) * 65536 < c.time.atb) :
    doFrameAtHead d c = c.modX d (fun x => { x with egress := { f with held := true } :: x.egress.drop 1 }) := by
  simp only [doFrameAtHead, he, hf, Bool.false_eq_true, if_false, if_neg hl]

/-- A late frame, where the page says to drop late frames (LATE_POLICY). -/
theorem doFrameAtHead_of_lateDrop (he : (c.xdie d).egress = f :: q) (hf : f.held = false)
    (hl : (f.launch : Int) * 65536 < c.time.atb) (hd : bit (c.rd (.xdie d) 0x208) 0 = true) :
    doFrameAtHead d c = (c.popFrame d).frameLateDrop d f.type f.hdr := by
  simp only [doFrameAtHead, he, hf, Bool.false_eq_true, if_false, if_pos hl, if_pos hd]

/-- A late frame, where the page says to send late frames marked. -/
theorem doFrameAtHead_of_lateSend (he : (c.xdie d).egress = f :: q) (hf : f.held = false)
    (hl : (f.launch : Int) * 65536 < c.time.atb) (hd : bit (c.rd (.xdie d) 0x208) 0 = false) :
    doFrameAtHead d c =
      (((c.inc (.xdie d) 0x248).raise (.xdie d) 2).frameNotice d 0x42).framePath d { f with flags := f.flags ||| 1 } := by
  simp only [doFrameAtHead, he, hf, hd, Bool.false_eq_true, if_false, if_pos hl]

theorem doFrameLaunch_of_due (he : (c.xdie d).egress = f :: q) (hf : f.held = true) (hw : f.wait = false)
    (hl : (f.launch : Int) * 65536 ≤ c.time.atb) : doFrameLaunch d c = c.framePath d f := by
  have hn : ¬ (f.held = false ∨ f.wait ∨ c.time.atb < (f.launch : Int) * 65536) := by simp [hf, hw, hl]
  simp only [doFrameLaunch, he, if_neg hn]

theorem doFrameLaunch_of_not_due (he : (c.xdie d).egress = f :: q)
    (hn : f.held = false ∨ f.wait = true ∨ c.time.atb < (f.launch : Int) * 65536) : doFrameLaunch d c = c := by
  simp only [doFrameLaunch, he, if_pos hn]

theorem doLinkCredit_of_waiting (he : (c.xdie d).egress = f :: q) (hw : f.wait = true) (hl : c.host.linkUp = true) :
    doLinkCredit d c = c.frameRing d { f with wait := false } := by
  simp only [doLinkCredit, he, if_pos (And.intro hw hl)]

theorem doLinkCredit_of_not_waiting (he : (c.xdie d).egress = f :: q) (hn : f.wait = false ∨ c.host.linkUp = false) :
    doLinkCredit d c = c := by
  have hn : ¬ (f.wait = true ∧ c.host.linkUp = true) := fun ⟨hw, hl⟩ => by simp [hw, hl] at hn
  simp only [doLinkCredit, he, if_neg hn]

end Head

/-- Settles O45: the reading actions through what starting an action does (`action_does`), the events of the egress queue by what
they find at its head, and the path of that frame by its destination and the state of the lane or link it goes to. -/
theorem framesLeave : Obligations.FramesLeave := by
  refine ⟨fun s d i t ins bs h => ?read, fun s d h he => ?empty, fun s d f q h he hf => ?head, fun s d f q h he => ?held,
    fun c d f => ⟨Core.framePath_of_linkDown, Core.framePath_of_laneDown, Core.framePath_of_laneUp, Core.framePath_of_linkUp⟩⟩
  case read =>
    intro queue
    have hread : ∀ k, s.core.atAction d k = some (i, t, ins, bs) →
        act (fun c => c.action d k (fun i t bs c => c.readFrames d k i t bs)) s = s.does (queue k) := fun k ha =>
      (action_does _ h ha).trans (State.does_congr (by rw [Core.readFrames_eq]))
    exact ⟨action_not _ h, action_not _ h, action_not _ h, action_not _ h, action_not _ h,
      hread 2, hread 3, hread 4, hread 10, hread 14⟩
  case empty =>
    exact ⟨act_does_of h (doFrameAtHead_of_empty he), act_does_of h (doFrameLaunch_of_empty he),
      act_does_of h (doLinkCredit_of_empty he)⟩
  case head =>
    exact ⟨fun hl => act_does_of h (doFrameAtHead_of_early he hf hl), fun hl hd => act_does_of h (doFrameAtHead_of_lateDrop he hf hl hd),
      fun hl hd => act_does_of h (doFrameAtHead_of_lateSend he hf hl hd)⟩
  case held =>
    exact ⟨fun hf => act_does_of h (doFrameAtHead_of_held he hf), fun hf hw hl => act_does_of h (doFrameLaunch_of_due he hf hw hl),
      fun hn => act_does_of h (doFrameLaunch_of_not_due he hn), fun hw hl => act_does_of h (doLinkCredit_of_waiting he hw hl),
      fun hn => act_does_of h (doLinkCredit_of_not_waiting he hn)⟩

end Sys2Proof.Machine
end

section
/-! PROOFS. Bank commands, swaps and regeneration (O44): the outcomes of BANK_SELECT, the statuses of a swap in the order of Table
8.3, and the outcomes of BEAM_SWAP. -/

namespace Sys2Proof.Machine

/-! ### BANK_SELECT (R172) -/

section Select

variable {c : Core} {r : Nat} {d : Desc}

theorem doBankSelect_of_unplaced (hp : c.bankPlaced (d.arg0 % 16) = false) : doBankSelect r d c = c.finish r stInvalid :=
  if_pos hp

variable (hp : c.bankPlaced (d.arg0 % 16) = true)
include hp

theorem doBankSelect_of_running (hr : c.running = true) : doBankSelect r d c = c.finish r stMode :=
  (if_neg (by simp [hp])).trans (if_pos hr)

theorem doBankSelect_of_stopped (hr : c.running = false) :
    doBankSelect r d c =
      (c.modTarget (d.arg0 % 16) (fun x => { x with activeB := d.arg0.testBit 4 })).finish r stAccepted :=
  (if_neg (by simp [hp])).trans (if_neg (by simp [hr]))

end Select

/-! ### The status of a swap (Table 8.3) -/

section Status

variable {c : Core} {mask len act : Nat}

/-- Outside a schedule, and without an image, every swap is INVALID. -/
theorem Core.swapStatus_of_stopped (h : c.running = false ∨ c.img = none) : c.swapStatus mask len act = (stInvalid, 0) := by
  have hi : (if c.running then c.img else none) = none := by
    rcases h with h | h <;> simp [h]
  simp only [Core.swapStatus, hi]

/-- The swap names no target, or one that is not used, or its length is out of range. -/
def Core.swapBad (c : Core) (mask len : Nat) : Prop :=
  setBits mask 12 = [] ∨ (setBits mask 12).all c.targetUsed = false ∨ len = 0 ∨ 65536 < len

variable {i : Image} {k : Nat} (hr : c.running = true) (hi : c.img = some i) (hk : i.plan.swapBlock act = some k)
include hr hi hk

/-- An INVALID swap of a schedule, at a block that its plan has. -/
theorem Core.swapStatus_of_bad (hb : c.swapBad mask len) : c.swapStatus mask len act = (stInvalid, k) := by
  simp only [Core.swapStatus, hr, hi, hk, if_true, List.isEmpty_iff]
  exact if_pos hb

/-- A swap that is not INVALID is refused by the first of the further conditions that holds. -/
theorem Core.swapStatus_of_not_bad (hb : ¬ c.swapBad mask len) :
    c.swapStatus mask len act =
      if (setBits mask 12).any (fun t => (c.target t).swap.isSome && !(c.target t).fading) then (stBusy, k)
      else if (setBits mask 12).any (fun t => (c.target t).fading) then (stFading, k)
      else if (setBits mask 12).any (fun t => !(c.target t).otherLoaded) then (stNotReady, k)
      else if 64 * k / i.plan.L ≤ c.rd64 .crook 0x048 then (stLate, k)
      else (stAccepted, k) := by
  simp only [Core.swapStatus, hr, hi, hk, if_true, List.isEmpty_iff]
  exact if_neg hb

end Status

/-! ### BEAM_SWAP (R177, R180) -/

section Swap

/-- The status of the swap that a descriptor asks for, and its first block. -/
def Core.swapAsked (c : Core) (d : Desc) : Nat × Nat := c.swapStatus (d.arg0 % 4096) (bits d.arg0 28 12) d.arg1

variable {c : Core} {r : Nat} {d : Desc}

theorem doBeamSwap_of_refused (hs : (c.swapAsked d).1 ≠ stAccepted) :
    doBeamSwap r d c = (c.swapRefuse (d.arg0 % 4096)).finish r (c.swapAsked d).1 :=
  if_pos hs

variable (hs : (c.swapAsked d).1 = stAccepted)
include hs

/-- With the Chanters stopped already an accepted swap is dropped at once (R180). -/
theorem doBeamSwap_of_stopped (hp : c.power.running = false) : doBeamSwap r d c = c.finish r stAbandoned :=
  (if_neg (not_not.2 hs)).trans (if_pos hp)

theorem doBeamSwap_of_held (hp : c.power.running = true) :
    let w : Swap := { mask := d.arg0 % 4096, act := d.arg1, len := bits d.arg0 28 12, ring := r, idx := d.n,
                      kap := (c.swapAsked d).2 }
    doBeamSwap r d c =
      ((setBits (d.arg0 % 4096) 12).foldl (fun c t =>
        c.modTarget t (fun x => { x with swap := some w, fading := false, pos := 0 })) c).modRing r (fun x => { x with busy := true }) :=
  (if_neg (not_not.2 hs)).trans (if_neg (by simp [hp]))

end Swap

/-! ### The obligation -/

/-- Settles O44: a ring command has its effect on its descriptor (`exec_does_of`), a regeneration acts at the head of its Chanter
(`action_does`), and a swap that is not INVALID is judged by the ladder of `Core.swapStatus_of_not_bad`. -/
theorem beamCommands : Obligations.BeamCommands := by
  refine ⟨fun s r d h => ⟨fun hp => exec_does_of h (doBankSelect_of_unplaced hp),
      fun hp hr => exec_does_of h (doBankSelect_of_running hp hr), fun hp hr => exec_does_of h (doBankSelect_of_stopped hp hr)⟩,
    fun s r d h => ⟨fun hs => exec_does_of h (doBeamSwap_of_refused hs), fun hs hp => exec_does_of h (doBeamSwap_of_stopped hs hp),
      fun hs hp => exec_does_of h (doBeamSwap_of_held hs hp)⟩,
    fun c mask len act i k hr hi hk => ?status, fun c mask len act h => Core.swapStatus_of_stopped h,
    fun s d i t ins bs h => ⟨action_not _ h, action_not _ h, action_does _ h, action_does _ h⟩⟩
  case status =>
    intro ts bad busy fading cold late
    have ladder (hb : ¬ bad) : c.swapStatus mask len act =
        if busy then (stBusy, k) else if fading then (stFading, k) else if cold then (stNotReady, k)
        else if late then (stLate, k) else (stAccepted, k) := Core.swapStatus_of_not_bad hr hi hk hb
    refine ⟨Core.swapStatus_of_bad hr hi hk, fun hb h1 => ?_, fun hb h1 h2 => ?_, fun hb h1 h2 h3 => ?_,
      fun hb h1 h2 h3 h4 => ?_, fun hb h1 h2 h3 h4 => ?_⟩
    · rw [ladder hb, if_pos h1]
    · rw [ladder hb, h1, h2]; rfl
    · rw [ladder hb, h1, h2, h3]; rfl
    · rw [ladder hb, h1, h2, h3]; exact if_pos h4
    · rw [ladder hb, h1, h2, h3]; exact if_neg h4

end Sys2Proof.Machine
end

section
/-! PROOFS. The reduction units (O46, O47): a term that enters its group, RED_ENTER and RED_CLOSE, and the rounding address of a
moment sum. -/

namespace Sys2Proof.Machine

/-! ### A term enters its group (R203, R204) -/

section Enter

variable {x : RedGrp} {g : RedCfg} {seed : DWord} {d j n : Nat} {t : Term}

/-- The term's difference from the shift of its group, which the first term sets where nothing else has (R204, R206). -/
def RedGrp.offset (x : RedGrp) (g : RedCfg) (t : Term) : Exact :=
  t.value.sub (f64Exact ((g.shift x).getD (f64OfExact t.value)))

/-- An extrema unit keeps the count and the two extremes. -/
theorem RedGrp.enter_of_extrema (h : g.kind = 1) :
    let idx := t.index (if g.source = 1 then g.selLo else 0)
    x.enter g seed d j n t =
      { x with n := x.n + 1, max := pickExt (fun a b => a.lt b) x.max t.value idx,
               min := pickExt (fun a b => b.lt a) x.min t.value idx } :=
  if_pos h

/-- A moments unit keeps the count, the shift and the two sums, each with an address of its own. -/
theorem RedGrp.enter_of_moments (h : g.kind ≠ 1) :
    x.enter g seed d j n t =
      { x with n := x.n + 1, c := some ((g.shift x).getD (f64OfExact t.value)),
               s1 := x.s1.add seed (redAddr d 0 j n) 0 (x.offset g t),
               s2 := x.s2.add seed (redAddr d 1 j n) 0 ((x.offset g t).mul (x.offset g t)) } :=
  if_neg h

theorem RedGrp.enter_n : (x.enter g seed d j n t).n = x.n + 1 := by
  by_cases h : g.kind = 1
  · rw [RedGrp.enter_of_extrema h]
  · rw [RedGrp.enter_of_moments h]

end Enter

/-! ### Running sums (R195) -/

section Sum

variable {r : RSum} {seed : DWord} {addr base : Nat} {e : Exact}

theorem RSum.add_k : (r.add seed addr base e).k = r.k + 1 := rfl

/-- The first 2^24 terms of a sum are rounded stochastically, the term count their step. -/
theorem RSum.add_s_of_lt (h : r.k < 2 ^ 24) :
    (r.add seed addr base e).s = (srBits seed ((f32Exact r.s).add e) addr (base + r.k)).1 := by
  simp only [RSum.add, if_pos h]

end Sum

/-! ### RED_ENTER and RED_CLOSE -/

section Actions

variable {c : Core} {d : Nat} {i : Image}

@[simp] theorem Core.xdie_redFlag (off irq kind before after m : Nat) :
    (c.redFlag d off irq kind before after).xdie m = c.xdie m := by
  unfold Core.redFlag
  dsimp only
  split_ifs
  · rw [Core.xdie_report, Core.xdie_raise, Core.xdie_inc]
  · exact Core.xdie_inc ..

theorem Core.xdie_ite_raise (p : Prop) [Decidable p] (k : PageKind) (b m : Nat) :
    (if p then c.raise k b else c).xdie m = c.xdie m := by
  split_ifs
  · exact Core.xdie_raise ..
  · rfl

/-- The groups of a unit after the terms of the interval in accumulation: an excluded one only marks its group (R200). -/
def Core.redEntered (c : Core) (i : Image) (d : Nat) : SMap RedGrp :=
  let g := i.redCfg d
  let r := (c.xdie d).red
  (c.dueTerms i d).1.foldl (fun m t =>
    SMap.mod (fun _ => {}) m (g.group t) (fun x =>
      if t.excl then { x with part := true } else x.enter g i.hdr.seed d r.interval (g.group t) t)) r.groups

/-- In QUIESCE, or with the unit off, the terms that wait are forgotten. -/
theorem doRedEnter_of_idle (h : c.power.mode = .quiesce ∨ (i.redCfg d).kind = 0) :
    doRedEnter d i c = c.modX d (fun x => { x with red := { x.red with terms := [] } }) :=
  if_pos h

/-- What RED_ENTER leaves of the unit: the groups with the due terms entered, and the terms of other intervals. -/
theorem doRedEnter_red (hm : c.power.mode ≠ .quiesce) (hk : (i.redCfg d).kind ≠ 0) :
    ((doRedEnter d i c).xdie d).red =
      { (c.xdie d).red with groups := c.redEntered i d, terms := (c.dueTerms i d).2 } := by
  have h : ¬ (c.power.mode = .quiesce ∨ (i.redCfg d).kind = 0) := not_or.2 ⟨hm, hk⟩
  unfold doRedEnter
  dsimp only
  rw [if_neg h, Core.xdie_redFlag, Core.xdie_redFlag, Core.xdie_inc, Core.xdie_inc64, Core.xdie_modX_same]
  rfl

theorem doRedClose_of_kept (h : c.power.mode = .quiesce ∧ (c.xdie d).red.closing = false ∨ (i.redCfg d).kind = 0) :
    doRedClose d i c = c :=
  if_pos h

/-- Where the interval closes the next one begins, in the other bank, and no report waits to close (R208). -/
theorem doRedClose_red (hm : c.power.mode ≠ .quiesce ∨ (c.xdie d).red.closing = true) (hk : (i.redCfg d).kind ≠ 0) :
    let r := ((doRedClose d i c).xdie d).red
    r.interval = (c.xdie d).red.interval + 1 ∧ r.bank = (!(c.xdie d).red.bank) ∧ r.closing = false := by
  have h : ¬ (c.power.mode = .quiesce ∧ (c.xdie d).red.closing = false ∨ (i.redCfg d).kind = 0) := by
    rintro (⟨hq, hc⟩ | h0)
    · exact hm.elim (· hq) (by simp [hc])
    · exact hk h0
  unfold doRedClose
  dsimp only
  rw [if_neg h, Core.xdie_ite_raise, Core.xdie_modX_same]
  exact ⟨rfl, rfl, rfl⟩

end Actions

/-- Settles O46: the actions through what starting an action does (`action_does`), then what each leaves of its unit
(`doRedEnter_red`, `doRedClose_red`) and what a term leaves of its group, by the unit's kind. -/
theorem reductionActions : Obligations.ReductionActions := by
  refine ⟨fun s d i t ins bs h => ⟨action_not _ h, action_not _ h, action_does _ h, action_does _ h⟩,
    fun c d i => ⟨doRedEnter_of_idle, doRedClose_of_kept, doRedClose_red, fun hm hk => ?enter⟩,
    fun x g seed d j n t => ⟨RedGrp.enter_n, fun h => ?extrema, fun h => ?moments⟩⟩
  case enter =>
    rw [doRedEnter_red hm hk]
    exact ⟨rfl, rfl, rfl⟩
  case extrema =>
    rw [RedGrp.enter_of_extrema h]
    exact ⟨rfl, rfl⟩
  case moments =>
    rw [RedGrp.enter_of_moments h]
    exact ⟨rfl, rfl, RSum.add_k, RSum.add_k⟩

/-! ### The rounding address (R205) -/

section Address

variable {d d' kind kind' j j' group group' : Nat}

theorem shiftLeft_or_eq_add {a b i : Nat} (h : b < 2 ^ i) : a <<< i ||| b = a * 2 ^ i + b := by
  rw [← Nat.shiftLeft_add_eq_or_of_lt h, Nat.shiftLeft_eq]

/-- The fields of an address lie below one another, so their union is their sum. -/
theorem redAddr_eq_add (hd : d < 4) (hg : group < 8192) (hk : kind < 2) :
    redAddr d kind j group = 2 ^ 37 + d * 2 ^ 35 + kind * 2 ^ 34 + j % 2 ^ 21 * 2 ^ 13 + group := by
  calc redAddr d kind j group
      = 1 <<< 37 ||| (d <<< 35 ||| (kind <<< 34 ||| ((j % 2 ^ 21) <<< 13 ||| group))) := by
        simp only [redAddr, Nat.or_assoc, Nat.one_shiftLeft]
    _ = 1 * 2 ^ 37 + (d * 2 ^ 35 + (kind * 2 ^ 34 + (j % 2 ^ 21 * 2 ^ 13 + group))) := by
        rw [shiftLeft_or_eq_add (i := 13) hg, shiftLeft_or_eq_add (i := 34) (by omega),
          shiftLeft_or_eq_add (i := 35) (by omega), shiftLeft_or_eq_add (i := 37) (by omega)]
    _ = 2 ^ 37 + d * 2 ^ 35 + kind * 2 ^ 34 + j % 2 ^ 21 * 2 ^ 13 + group := by omega

/-- Two moment sums share an address only with die, kind and group alike and a whole number of horizons apart. -/
theorem redAddr_eq_iff (hd : d < 4) (hd' : d' < 4) (hk : kind < 2) (hk' : kind' < 2) (hg : group < 8192) (hg' : group' < 8192) :
    redAddr d kind j group = redAddr d' kind' j' group' ↔
      d = d' ∧ kind = kind' ∧ group = group' ∧ j % 2 ^ 21 = j' % 2 ^ 21 := by
  rw [redAddr_eq_add hd hg hk, redAddr_eq_add hd' hg' hk']
  omega

end Address

/-- Settles O47: the address as a sum of fields (`redAddr_eq_add`), which determines them (`redAddr_eq_iff`), and its use by the
two sums of a group and by the rounding of each of their terms. -/
theorem momentRoundingAddresses : Obligations.MomentRoundingAddresses := by
  refine ⟨fun d j group hd hg kind hk => redAddr_eq_add hd hg hk, fun x g seed d j n t h => ?sums, fun r seed addr e h => ?step,
    fun d d' kind kind' j j' g g' hd hd' hk hk' hg hg' => redAddr_eq_iff hd hd' hk hk' hg hg'⟩
  case sums =>
    rw [RedGrp.enter_of_moments h]
    exact ⟨rfl, rfl⟩
  case step =>
    rw [RSum.add_s_of_lt h, Nat.zero_add]

end Sys2Proof.Machine
end

section
/-! PROOFS. What issuing an instruction does to its Chanter (O38): the cycles it occupies, the next address and the loop levels. -/

namespace Sys2Proof.Machine

/-! ### Issue: PC, SCYC and the loop levels (R235, R237) -/

section Advance

variable {t : ChanterS} {ins : Nat}

theorem ChanterS.advance_scyc : (t.advance ins).scyc = t.scyc + (if insOp ins = 1 then bits ins 47 0 else 1) := rfl

/-- LOOP opens a level at index 0 whose body begins at the next instruction. -/
theorem ChanterS.advance_of_loop (h : insOp ins = 3) :
    (t.advance ins).pc = t.pc + 1 ∧ (t.advance ins).loops = t.loops ++ [⟨bits ins 31 0, 0, t.pc + 1⟩] := by
  simp only [ChanterS.advance, h, if_true, and_self]

theorem ChanterS.advance_of_straight (h3 : insOp ins ≠ 3) (h4 : insOp ins ≠ 4) :
    (t.advance ins).pc = t.pc + 1 ∧ (t.advance ins).loops = t.loops := by
  simp only [ChanterS.advance, if_neg h3, if_neg h4, and_self]

theorem ChanterS.advance_of_endloop (h : insOp ins = 4) :
    (t.advance ins).pc = (loopEnd t.loops t.pc).2 ∧ (t.advance ins).loops = (loopEnd t.loops t.pc).1 := by
  simp [ChanterS.advance, h]

/-- ENDLOOP looks at the innermost level alone: a pass is left where the count is 0 or not yet reached. -/
theorem loopEnd_append (ls : List LoopS) (l : LoopS) (pc : Nat) :
    loopEnd (ls ++ [l]) pc =
      if l.count = 0 ∨ l.index + 1 < l.count then (ls ++ [⟨l.count, (l.index + 1) % 2 ^ 32, l.body⟩], l.body)
      else (ls, pc + 1) := by
  simp only [loopEnd, List.getLast?_concat, List.dropLast_concat]

variable {ls : List LoopS} {l : LoopS} (h : insOp ins = 4) (hl : t.loops = ls ++ [l])
include h hl

theorem ChanterS.advance_of_passDone (h0 : l.count ≠ 0) (hc : l.count ≤ l.index + 1) :
    (t.advance ins).pc = t.pc + 1 ∧ (t.advance ins).loops = ls := by
  have hn : ¬ (l.count = 0 ∨ l.index + 1 < l.count) := not_or.2 ⟨h0, hc.not_gt⟩
  obtain ⟨hpc, hls⟩ := ChanterS.advance_of_endloop (t := t) h
  rw [hpc, hls, hl, loopEnd_append, if_neg hn]
  exact ⟨rfl, rfl⟩

theorem ChanterS.advance_of_passLeft (hc : l.count = 0 ∨ l.index + 1 < l.count) :
    (t.advance ins).pc = l.body ∧ (t.advance ins).loops = ls ++ [⟨l.count, (l.index + 1) % 2 ^ 32, l.body⟩] := by
  obtain ⟨hpc, hls⟩ := ChanterS.advance_of_endloop (t := t) h
  rw [hpc, hls, hl, loopEnd_append, if_pos hc]
  exact ⟨rfl, rfl⟩

end Advance

/-- Settles O38: each instruction through what issuing does (`issue_does`, `issue_not`), and the Chanter past it by the kinds of
`ChanterS.advance`. -/
theorem chanterIssues : Obligations.ChanterIssues := by
  refine ⟨fun s x i t ins h => ?issue, fun t ins => ⟨ChanterS.advance_scyc, rfl, rfl, rfl, ChanterS.advance_of_loop,
    ChanterS.advance_of_straight, fun ls l hop hl => ⟨ChanterS.advance_of_passDone hop hl, ChanterS.advance_of_passLeft hop hl⟩⟩⟩
  exact ⟨issue_does _ h, issue_does _ h, issue_does _ h, issue_does _ h, issue_does _ h, issue_not _ h, issue_not _ h,
    issue_not _ h, issue_not _ h, issue_not _ h, act_does _ s h⟩

end Sys2Proof.Machine
end

section
/-! PROOFS. MARK (O39): what its registers hold once they are written, and the event that it raises. -/

namespace Sys2Proof.Machine

section Mark

variable {c : Core} {k : PageKind}

/-- An event of a page leaves every register of the page but PAGE_IRQ. -/
theorem Core.rd_raise_off {b p : Nat} (h : p ≠ 0x010) : (c.raise k b).rd k p = c.rd k p := by
  rw [Core.rd_raise, if_neg (mt PageKind.key_inj.1 h)]

theorem Core.bit_rd_raise {b : Nat} (hb : b < 32) : bit ((c.raise k b).rd k 0x010) b = true := by
  rw [Core.rd_raise, if_pos rfl, bit, Nat.testBit_mod_two_pow]
  simp [hb]

/-- The five registers of MARK, written (R244). -/
def Core.markRegs (c : Core) (k : PageKind) (id scyc sec nsec : Nat) : Core :=
  (((c.wr k 0x068 id).wr64 k 0x06C scyc).wr k 0x074 sec).wr k 0x078 nsec

variable (id scyc sec nsec : Nat)

/-- What the registers of MARK hold then does not depend on what they held. -/
theorem Core.rd_markRegs : let c' := c.markRegs k id scyc sec nsec
    c'.rd k 0x068 = id % 2 ^ 32 ∧ c'.rd k 0x06C = scyc % 2 ^ 32 ∧ c'.rd k 0x070 = scyc / 2 ^ 32 % 2 ^ 32 ∧
    c'.rd k 0x074 = sec % 2 ^ 32 ∧ c'.rd k 0x078 = nsec % 2 ^ 32 ∧ c'.rd k 0x010 = c.rd k 0x010 := by
  simp [Core.markRegs, Core.wr64, Core.rd_wr, PageKind.key_inj]

/-- Writing them, and raising MARK or not, touches registers and what an interrupt may. -/
theorem Core.markRegs_frame (irq : Bool) : let c' := (c.markRegs k id scyc sec nsec).when irq (fun c => c.raise k 0)
    c'.chanters = c.chanters ∧ c'.xdies = c.xdies ∧ c'.power = c.power := by
  cases irq <;> simp [Core.markRegs]

/-- With IRQ = 1 MARK is raised on top. -/
theorem doMark_eq (x : Nat) (i : Image) (t : ChanterS) (ins : Nat) :
    let ns := (c.atbOfCycle i x t.scyc / 65536).toNat
    doMark x i t ins c =
      (c.markRegs (chanterPage x) (bits ins 15 0) t.scyc (ns / 1000000000) (ns % 1000000000)).when (bit ins 16)
        (fun c => c.raise (chanterPage x) 0) := by
  simp only [doMark, Core.markRegs, Core.when]

theorem Core.rd_whenRaise_off {p : Nat} (irq : Bool) (b : Nat) (h : p ≠ 0x010) :
    (c.when irq (fun c => c.raise k b)).rd k p = c.rd k p := by
  cases irq
  · rfl
  · exact Core.rd_raise_off h

end Mark

/-- Settles O39: the registers after their writes (`Core.rd_markRegs`), which an interrupt leaves but for PAGE_IRQ, and the
Chanter past the instruction. -/
theorem markRegisters : Obligations.MarkRegisters := by
  refine ⟨fun s x h ha => issue_not _ h ha, fun s x i t ins h ha => State.does_leaves (issue_does _ h ha) ?_⟩
  obtain ⟨-, -, -, ht, -, -⟩ := Core.atOp_some ha
  set k := chanterPage x.val
  set ns := (s.core.atbOfCycle i x.val t.scyc / 65536).toNat
  obtain ⟨hid, hlo, hhi, hsec, hnsec, hirq⟩ :=
    Core.rd_markRegs (c := s.core) (k := k) (bits ins 15 0) t.scyc (ns / 1000000000) (ns % 1000000000)
  obtain ⟨hchanters, hxdies, hpower⟩ :=
    Core.markRegs_frame (c := s.core) (k := k) (bits ins 15 0) t.scyc (ns / 1000000000) (ns % 1000000000) (bit ins 16)
  rw [← doMark_eq] at hchanters hxdies hpower
  have hrd : ∀ p, p ≠ 0x010 →
      ((doMark x.val i t ins s.core).modChanter x.val (fun t => t.advance ins)).rd k p =
        (s.core.markRegs k (bits ins 15 0) t.scyc (ns / 1000000000) (ns % 1000000000)).rd k p := fun p hp => by
    rw [Core.rd_congr (Core.modChanter_regs ..), doMark_eq, Core.rd_whenRaise_off _ _ hp]
  have hidLt : bits ins 15 0 < 2 ^ 32 := (Nat.mod_lt _ (Nat.two_pow_pos _)).trans (by decide)
  have hnsLt : ns % 1000000000 < 2 ^ 32 := (Nat.mod_lt _ (by decide)).trans (by decide)
  refine ⟨?id, (hrd _ (by decide)).trans hlo, (hrd _ (by decide)).trans hhi, (hrd _ (by decide)).trans hsec, ?nsec,
    fun hb => ?raised, fun hb => ?kept, ?past, hxdies, hpower⟩
  case id => rw [hrd _ (by decide), hid, Nat.mod_eq_of_lt hidLt]
  case nsec => rw [hrd _ (by decide), hnsec, Nat.mod_eq_of_lt hnsLt]
  case raised =>
    rw [Core.rd_congr (Core.modChanter_regs ..), doMark_eq, hb, Core.when_true]
    exact Core.bit_rd_raise (by decide)
  case kept =>
    rw [Core.rd_congr (Core.modChanter_regs ..), doMark_eq, hb, Core.when_false]
    exact hirq
  case past =>
    rw [Core.chanter_modChanter_same, Core.chanter_congr hchanters, ht]

end Sys2Proof.Machine
end

section
/-! PROOFS. The events of a Chanter (O40): SETR and its posted writes, SYNC and barriers, FRAME_END, HALT, and stepping. -/

namespace Sys2Proof.Machine

/-! ### SETR (R242) -/

section Setr

variable {c : Core} {x ins : Nat}

theorem doSetr_of_full (h : 16 ≤ (c.chanter x).setrQ.length) :
    doSetr x ins c =
      ((c.inc (chanterPage x) 0x07C).raise (chanterPage x) 5).report (chanterPage x) 0x53 clsN 0 := if_pos h

theorem doSetr_of_room (h : (c.chanter x).setrQ.length < 16) :
    doSetr x ins c =
      c.modChanter x (fun t => { t with setrQ := t.setrQ ++ [(bits ins 35 32, word (bits ins 31 0))] }) :=
  if_neg h.not_ge

theorem doSetrApply_of_none (h : (c.chanter x).setrQ = []) : doSetrApply x c = c := by simp only [doSetrApply, h]

theorem doSetrApply_of_oldest {n : Nat} {v : Word} {q : List (Nat × Word)} (h : (c.chanter x).setrQ = (n, v) :: q) :
    doSetrApply x c =
      ((c.modChanter x (fun t => { t with setrQ := q })).wr (chanterPage x) (0x100 + 4 * n) v.toNat).raise
        (chanterPage x) 1 := by
  simp only [doSetrApply, h]

end Setr

/-! ### FRAME_END and HALT (R245, R246, R249) -/

section FrameEnd

variable {c : Core} {x ins : Nat} {i : Image} {t : ChanterS}

/-- A hold is due at the end of this frame: after one frame, or at the end of a window. -/
def ChanterS.holdDue (t : ChanterS) (x : Nat) (i : Image) : Bool :=
  decide (x < 4) && (t.stepReq == 1 || t.stepReq == 2 && (t.frame + 1) % max i.hdr.fpw 1 == 0)

theorem doFrameEnd_of_goOn (h : t.holdDue x i = false) :
    doFrameEnd x i t c = c.modChanter x (fun t => { t with frame := t.frame + 1 }) := by
  unfold ChanterS.holdDue at h
  simp only [doFrameEnd, h, Bool.false_eq_true, if_false]

theorem doFrameEnd_of_hold (h : t.holdDue x i = true) :
    doFrameEnd x i t c =
      ((c.modChanter x (fun t => { t with frame := t.frame + 1, st := .held, stepReq := 0 })).modPower
        (fun p => { p with stepped := true })).raise (.xchn x) 2 := by
  unfold ChanterS.holdDue at h
  simp only [doFrameEnd, h, if_true]

theorem doHalt_of_none (h : c.atOp x 0x3F = none) : doHalt x c = c := by simp only [doHalt, h]

theorem doHalt_of_next (h : c.atOp x 0x3F = some (i, t, ins)) :
    doHalt x c =
      let c := (c.modChanter x (fun t => t.advance ins)).raise (chanterPage x) 3
      if (4 :: List.range c.part.dies).all (fun y => (c.chanter y).st == .halted) then c.toQuiesce.chantersStop else c := by
  simp only [doHalt, h]

end FrameEnd

/-! ### SYNC and barriers (R243, R249) -/

section Sync

/-- The participants that the leading Chanter has heard for a barrier. -/
def ChanterS.heard (t : ChanterS) (key : Nat) : Nat := 
  match t.syncs.find? (fun e => e.1 == key) with
  | some e => e.2
  | none => 0

theorem ChanterS.heard_eq_elim (t : ChanterS) (key : Nat) :
    t.heard key = (t.syncs.find? (fun e => e.1 == key)).elim 0 (fun e => e.2) := by
  unfold ChanterS.heard
  cases t.syncs.find? (fun e => e.1 == key) <;> rfl

/-- Barrier `key` of the leading Chanter once `x` has reached it: over, or with `x` among those heard. -/
def ChanterS.reach (t : ChanterS) (key x : Nat) : ChanterS :=
  let now := t.heard key ||| 2 ^ partBit x
  let rest := t.syncs.filter (fun e => e.1 != key)
  { t with syncs := if now = key / 256 then rest else rest ++ [(key, now)] }

theorem doSync_eq (x ins : Nat) (c : Core) :
    doSync x ins c = c.modChanter 4 (fun t => t.reach (bits ins 15 8 + 256 * bits ins 4 0) x) := by
  rfl

theorem find?_filter_ne (l : List (Nat × Nat)) (key : Nat) :
    (l.filter (fun e => e.1 != key)).find? (fun e => e.1 == key) = none := by
  rw [List.find?_filter, List.find?_eq_none]
  simp

variable {t : ChanterS} {key x : Nat}

theorem ChanterS.reach_of_last (h : t.heard key ||| 2 ^ partBit x = key / 256) :
    (t.reach key x).syncs.find? (fun e => e.1 == key) = none := by
  simp only [ChanterS.reach, if_pos h, find?_filter_ne]

theorem ChanterS.reach_of_missing (h : t.heard key ||| 2 ^ partBit x ≠ key / 256) :
    (t.reach key x).syncs.find? (fun e => e.1 == key) = some (key, t.heard key ||| 2 ^ partBit x) := by
  simp only [ChanterS.reach, if_neg h, List.find?_append, find?_filter_ne, Option.none_or]
  simp

/-- The participants that a SYNC names lie above its ID. -/
theorem syncKey_div (ins : Nat) : (bits ins 15 8 + 256 * bits ins 4 0) / 256 = bits ins 4 0 := by
  have hid : bits ins 15 8 < 256 := Nat.mod_lt _ (Nat.two_pow_pos _)
  omega

/-- The barrier whose participants are missing: one with the given ID, but not one between the IO die and held X dies. -/
def Core.openBarrier (c : Core) (id : Nat) : Option (Nat × Nat) :=
  let held := (List.range 4).any (fun d => (c.chanter d).st == .held)
  (c.chanter 4).syncs.find? (fun e => e.1 % 256 == id && !(held && (e.1 / 256) % 2 == 1))

variable {c : Core} {id : Nat}

theorem doBarrier_of_none (h : c.openBarrier id = none) : doBarrier id c = c := by
  unfold Core.openBarrier at h
  simp only [doBarrier, h]

theorem doBarrier_of_missing {e : Nat × Nat} (h : c.openBarrier id = some e) :
    doBarrier id c =
      let t := c.chanter 4
      let c := c.setChanter 4 { t with syncs := t.syncs.filter (fun y => y.1 != e.1) }
      let c := if bit (c.rd .chn 0x180) 6 then c
        else ((c.wr .chn 0x180 64).wr .chn 0x198 (t.pc % 65536 + 6 * 65536)).wr64 .chn 0x19C t.scyc
      ((c.inc .chn 0x080).raise .chn 4).report .chn 0x51 clsS 0 := by
  unfold Core.openBarrier at h
  simp only [doBarrier, h]

end Sync

/-! ### Stepping in INSPECT (R249) -/

section Step

variable {c : Core} {d : Nat} {f : ChanterS → ChanterS}

theorem stepCmd_of_not_inspect (h : c.power.mode ≠ .inspect) : stepCmd d f c = c.pageFlt (.xchn d) 0x05 := if_neg h

variable {s : State} (hs : s.serves (.xchn d)) (i : Instr)
include hs

/-- A stepping command that is served in INSPECT acts on every X Chanter. -/
theorem step_does (h : s.core.power.mode = .inspect) :
    regCmd i (.xchn d) (stepCmd d f) s =
      s.doesReg (.xchn d) (fun c => (List.range c.part.dies).foldl (fun c x => c.modChanter x f) c) :=
  regCmd_doesReg_of hs (stepCmd_of_inspect (by rwa [Core.lockAccess_power]))

theorem step_refused (h : s.core.power.mode ≠ .inspect) :
    regCmd i (.xchn d) (stepCmd d f) s = s.doesReg (.xchn d) (fun c => c.pageFlt (.xchn d) 0x05) :=
  regCmd_doesReg_of hs (stepCmd_of_not_inspect (by rwa [Core.lockAccess_power]))

end Step

/-- Settles O40: each instruction through what issuing does (`issue_does`, `issue_not`) and the cases of its own effect, SYNC by
what the leading Chanter has heard (`doSync_eq`), and the stepping commands through `stepCmd`. -/
theorem chanterEvents : Obligations.ChanterEvents := by
  refine ⟨fun s x i t ins h => ?issue, fun c x ins => ?sync, fun s id h => ⟨fun hm => act_does_of h (doBarrier_of_none hm),
      fun e hm => act_does_of h (doBarrier_of_missing hm)⟩, fun s i t ins h ha => issue_does _ h ha,
    fun s d h => ⟨fun hm => ⟨step_does h _ hm, step_does h _ hm, step_does h _ hm, step_does h _ hm⟩,
      fun hm => ⟨step_refused h _ hm, step_refused h _ hm, step_refused h _ hm, step_refused h _ hm⟩⟩⟩
  case issue =>
    refine ⟨issue_not _ h, issue_not _ h, issue_not _ h, fun ha => act_does_of h (doHalt_of_none ha), issue_not _ h,
      fun ha => ?setr, fun n v q hq => act_does_of h (doSetrApply_of_oldest hq), fun hq => act_does_of h (doSetrApply_of_none hq),
      fun ha => ⟨fun hh => ?goOn, fun hh => ?hold⟩, fun ha => act_does_of h (doHalt_of_next ha), issue_does _ h⟩
    case setr =>
      obtain ⟨-, -, -, ht, -, -⟩ := Core.atOp_some ha
      subst ht
      refine ⟨fun hl => ?full, fun hl => ?room⟩
      case full => exact (issue_does _ h ha).trans (State.does_congr (by rw [doSetr_of_full hl]))
      case room => exact (issue_does _ h ha).trans (State.does_congr (by rw [doSetr_of_room hl]))
    case goOn => exact (issue_does _ h ha).trans (State.does_congr (by rw [doFrameEnd_of_goOn hh]))
    case hold => exact (issue_does _ h ha).trans (State.does_congr (by rw [doFrameEnd_of_hold hh]))
  case sync =>
    intro key seen
    have hseen : seen (c.chanter 4) = (c.chanter 4).heard key ||| 2 ^ partBit x := by rw [ChanterS.heard_eq_elim]
    have hsync : (doSync x ins c).chanter 4 = (c.chanter 4).reach key x := by
      rw [doSync_eq, Core.chanter_modChanter_same]
    rw [hseen, hsync, ← syncKey_div ins]
    refine ⟨ChanterS.reach_of_last, ChanterS.reach_of_missing, fun y hy => ?_⟩
    rw [doSync_eq, Core.chanter_modChanter, if_neg hy]

end Sys2Proof.Machine
end

section
/-! PROOFS. Movers, HBMS lists and missed actions (O41): the transfer of a mover from its MOVE to its end, the slots of a list,
and which list goes first. -/

namespace Sys2Proof.Machine

/-! ### MOVE and HBMQ (R224, R226) -/

section Start

variable {c : Core} {d : Nat} {i : Image} {t : ChanterS} {ins : Nat}

theorem doMove_of_none (h : i.move d (bits ins 23 0) = none) : doMove d i t ins c = c := by simp only [doMove, h]

theorem doMove_of_desc {bs : List Byte} (h : i.move d (bits ins 23 0) = some bs) :
    let m : MoveS := { spaces := mvSpaces bs, src := mvSrc bs t.loops, dst := mvDst bs t.loops, len := mvLen bs,
                       win := t.window, pc := t.pc, deadline := t.scyc + mvDeadline bs, from_ := t.scyc }
    doMove d i t ins c = c.modX d (fun x => { x with movers := SMap.set (fun _ => noMove) x.movers (mvUnit bs) m }) := by
  simp only [doMove, h]

/-- A list that is missing, or has no entry, takes no slot. -/
theorem doHbmq_of_none (h : ∀ l, i.hbmsList d (bits ins 23 0) = some l → l.entries = []) : doHbmq d i t ins c = c := by
  cases hl : i.hbmsList d (bits ins 23 0) with
  | none => simp only [doHbmq, hl]
  | some l => simp only [doHbmq, hl, h l hl]

theorem doHbmq_of_entries {l : HbmsList} {e : HbmsEnt} {es : List HbmsEnt} (hl : i.hbmsList d (bits ins 23 0) = some l)
    (he : l.entries = e :: es) :
    let z : ListS := { list := bits ins 23 0, entry := 0, slot := t.scyc + 1 + e.delay, loops := t.loops, win := t.window,
                       pc := t.pc }
    doHbmq d i t ins c = c.modX d (fun x => { x with lists := x.lists ++ [z] }) := by
  simp only [doHbmq, hl, he]

end Start

/-! ### The end of a transfer (R224, R249, Table 11.5) -/

section Transfer

variable {c : Core} {d m : Nat}

theorem Core.inFlight_of_noImage (h : c.img = none) : c.inFlight d m = none := by
  simp only [Core.inFlight, h, Option.map_none, ite_self]

theorem Core.inFlight_of_still (h : (c.xdie d).mover m = noMove ∨ (c.chanter d).st = .held) : c.inFlight d m = none :=
  if_pos h

theorem Core.inFlight_of_moving {i : Image} (hi : c.img = some i) (hx : (c.xdie d).mover m ≠ noMove)
    (hh : (c.chanter d).st ≠ .held) : c.inFlight d m = some (i.plan, (c.xdie d).mover m) :=
  (if_neg (not_or.2 ⟨hx, hh⟩)).trans (by rw [hi, Option.map_some])

theorem doMoveComplete_of_none (h : c.inFlight d m = none) : doMoveComplete d m c = c := by simp only [doMoveComplete, h]

theorem doMoveMiss_of_none (h : c.inFlight d m = none) : doMoveMiss d m c = c := by simp only [doMoveMiss, h]

variable {p : Plan} {x : MoveS} (h : c.inFlight d m = some (p, x))
include h

theorem doMoveComplete_of_some : doMoveComplete d m c = (c.moverCopy p d x x.len).moverFree d m := by
  simp only [doMoveComplete, h]

theorem doMoveMiss_of_some :
    doMoveMiss d m c =
      let n := 64 * ((Config.freeWord c.free).toNat % max (x.len / 64) 1)
      let c := ({ c with free := c.free + 1 }.moverCopy p d x n).moverFree d m
      let c := if x.spaces / 16 = 3 then c.modX d (fun y => { y with bufBad := y.bufBad.set (bufOf x.dst).1 true }) else c
      c.breach d .deadline 0 x.pc x.deadline := by
  simp only [doMoveMiss, h]

end Transfer

/-! ### The list whose slot comes first (R335) -/

section Next

variable {cls : ListS → Nat}

/-- List `z` goes no later than `y`: an earlier slot, or the same with S0 before S1. -/
def ListS.first (cls : ListS → Nat) (z y : ListS) : Prop := z.slot < y.slot ∨ z.slot = y.slot ∧ cls z ≤ cls y

theorem ListS.first_trans {x y z : ListS} (hxy : x.first cls y) (hyz : y.first cls z) : x.first cls z := by
  unfold ListS.first at *
  omega

theorem nextList_eq_none_iff {ls : List ListS} : nextList cls ls = none ↔ ls = [] := by
  cases ls with
  | nil => simp [nextList]
  | cons l ls =>
    simp only [nextList, reduceCtorEq, iff_false]
    split
    · simp
    · split_ifs <;> simp

theorem nextList_some {ls zs : List ListS} {z : ListS} (h : nextList cls ls = some (z, zs)) :
    (∀ y ∈ ls, z.first cls y) ∧ z ∈ ls ∧ zs.length + 1 = ls.length := by
  induction ls generalizing z zs with
  | nil => simp [nextList] at h
  | cons l ls ih =>
    have hrefl : ∀ y : ListS, y.first cls y := fun y => .inr ⟨rfl, le_rfl⟩
    cases hn : nextList cls ls with
    | none =>
      obtain rfl := nextList_eq_none_iff.1 hn
      obtain ⟨rfl, rfl⟩ : l = z ∧ [] = zs := by simpa [nextList] using h
      simp [hrefl]
    | some e =>
      obtain ⟨b, r⟩ := e
      obtain ⟨hfirst, hmem, hlen⟩ := ih hn
      simp only [nextList, hn] at h
      split_ifs at h with hb
      · obtain ⟨rfl, rfl⟩ : b = z ∧ l :: r = zs := by simpa using h
        have hbl : b.first cls l := hb.imp_right (fun ⟨hs, hc⟩ => ⟨hs, hc.le⟩)
        exact ⟨List.forall_mem_cons.2 ⟨hbl, hfirst⟩, List.mem_cons_of_mem _ hmem, by simpa using hlen⟩
      · obtain ⟨rfl, rfl⟩ : l = z ∧ b :: r = zs := by simpa using h
        have hlb : l.first cls b := by unfold ListS.first; omega
        exact ⟨List.forall_mem_cons.2 ⟨hrefl l, fun y hy => ListS.first_trans hlb (hfirst y hy)⟩, List.mem_cons_self,
          by simpa using hlen⟩

end Next

/-! ### HBMS_ENTRY_SLOT (R226, R238) -/

section Slot

variable {c : Core} {d : Nat} {i : Image}

theorem doHbmsEntrySlot_of_noImage (h : c.img = none) : doHbmsEntrySlot d c = c := by
  simp only [doHbmsEntrySlot, h, Option.bind_none]

theorem doHbmsEntrySlot_of_empty (h : (c.xdie d).lists = []) : doHbmsEntrySlot d c = c := by
  cases hi : c.img with
  | none => exact doHbmsEntrySlot_of_noImage hi
  | some i => simp only [doHbmsEntrySlot, hi, h, nextList, Option.bind_some, Option.map_none]

theorem doHbmsEntrySlot_of_held (h : (c.chanter d).st = .held) : doHbmsEntrySlot d c = c := by
  unfold doHbmsEntrySlot
  split
  · exact if_pos h
  · rfl

variable {z : ListS} {zs : List ListS} (hi : c.img = some i)
  (hz : nextList (i.listClass d) (c.xdie d).lists = some (z, zs)) (hh : (c.chanter d).st ≠ .held)
include hi hz hh

theorem doHbmsEntrySlot_of_noList (hl : i.hbmsList d z.list = none) : doHbmsEntrySlot d c = c := by
  simp only [doHbmsEntrySlot, hi, Option.bind_some, hz, Option.map_some, if_neg hh, hl]

/-- A slot that passes: the request of its entry, where the list has it, then the list at its next entry, where there is one. -/
theorem doHbmsEntrySlot_of_list {l : HbmsList} (hl : i.hbmsList d z.list = some l) :
    let issued := l.entries[z.entry]?.elim c (fun e => c.hbmsIssue i.plan d l e z)
    let lists := l.entries[z.entry + 1]?.elim zs (fun e => { z with entry := z.entry + 1, slot := z.slot + e.delay } :: zs)
    doHbmsEntrySlot d c =
      (issued.modX d (fun x => { x with lists := lists })).modChanter d (fun t => { t with last := max t.last z.slot }) := by
  simp only [doHbmsEntrySlot, hi, Option.bind_some, hz, Option.map_some, if_neg hh, hl]
  cases l.entries[z.entry]? <;> cases l.entries[z.entry + 1]? <;> rfl

end Slot

/-! ### Missed actions (R268, Table 11.5) -/

section Miss

/-- The kind of action that is next on a die, if one is. -/
def Core.nextAction (c : Core) (d : Nat) : Option Nat :=
  ([1, 2, 3, 4, 8, 9, 10, 12, 13, 14] : List Nat).find? (fun k => (c.atAction d k).isSome)

variable {c : Core} {d : Nat}

theorem doMissAction_of_none (h : c.nextAction d = none) : doMissAction d c = c := by
  unfold Core.nextAction at h
  simp only [doMissAction, h, Option.elim_none]

theorem doMissAction_of_next {k : Nat} (h : c.nextAction d = some k) :
    doMissAction d c = c.action d k (fun i t bs c => missAction d k i t bs c) := by
  unfold Core.nextAction at h
  simp only [doMissAction, h, Option.elim_some]

end Miss

/-! ### The obligation -/

/-- Settles O41: MOVE and HBMQ through what issuing does (`issue_does`), a transfer by whether it is in flight, a slot by its list
and its entries (`doHbmsEntrySlot_of_list`), the order of lists by `nextList_some`, and a missed action by the kind that is next. -/
theorem moversAndLists : Obligations.MoversAndLists := by
  refine ⟨fun s d i t ins h => ?start, fun s d m h hi => ?noImage, fun s d m i h hi => ?transfer, fun s d i h hi => ?slot,
    fun cls ls => ⟨nextList_eq_none_iff, fun z zs hz => nextList_some hz⟩, fun s d h => ?miss⟩
  case start =>
    refine ⟨fun bs ha hbs => ?_, fun l e es ha hl he => ?_, issue_not _ h, issue_not _ h, fun ha hbs => ?_, fun ha hl => ?_⟩
    · exact (issue_does _ h ha).trans (State.does_congr (by rw [doMove_of_desc hbs]))
    · exact (issue_does _ h ha).trans (State.does_congr (by rw [doHbmq_of_entries hl he]))
    · exact (issue_does _ h ha).trans (State.does_congr (by rw [doMove_of_none hbs]))
    · exact (issue_does _ h ha).trans (State.does_congr (by rw [doHbmq_of_none hl]))
  case noImage =>
    have hf : s.core.inFlight d.val m.val = none := Core.inFlight_of_noImage hi
    exact ⟨act_does_of h (doMoveComplete_of_none hf), act_does_of h (doMoveMiss_of_none hf),
      act_does_of h (doHbmsEntrySlot_of_noImage hi)⟩
  case transfer =>
    refine ⟨fun hs => ?still, fun hx hh => ?moving⟩
    case still =>
      have hf := Core.inFlight_of_still hs
      exact ⟨act_does_of h (doMoveComplete_of_none hf), act_does_of h (doMoveMiss_of_none hf)⟩
    case moving =>
      have hf := Core.inFlight_of_moving hi hx hh
      exact ⟨act_does_of h (doMoveComplete_of_some hf), act_does_of h (doMoveMiss_of_some hf)⟩
  case slot =>
    refine ⟨fun hs => act_does_of h (hs.elim doHbmsEntrySlot_of_empty doHbmsEntrySlot_of_held),
      fun z zs hz hh => ⟨fun hl => act_does_of h (doHbmsEntrySlot_of_noList hi hz hh hl), fun l hl => ?list⟩⟩
    have hslot := doHbmsEntrySlot_of_list hi hz hh hl
    refine ⟨fun e he => ⟨fun e' he' => act_does_of h ?more, fun hn => act_does_of h ?last⟩, fun he => act_does_of h ?none⟩
    case more => rw [hslot, he, he']; rfl
    case last => rw [hslot, he, hn]; rfl
    case none =>
      have hn : l.entries[z.entry + 1]? = none :=
        List.getElem?_eq_none ((List.getElem?_eq_none_iff.1 he).trans (Nat.le_succ _))
      rw [hslot, he, hn]; rfl
  case miss =>
    refine ⟨fun hn => act_does_of h (doMissAction_of_none hn), fun k i t ins bs hn ha => act_does_of h ?_⟩
    calc doMissAction d s.core = s.core.action d k (fun i t bs c => missAction d k i t bs c) := doMissAction_of_next hn
      _ = _ := by simp only [Core.action, ha]

end Sys2Proof.Machine
end

section
/-! PROOFS. IMAGE_COMMIT and the end of verification (O48): when a commit is refused, what the end of a verification leaves, and
what a verdict holds. -/

namespace Sys2Proof.Machine

/-! ### IMAGE_COMMIT (R231) -/

section Commit

variable {c : Core} {r : Nat} {d : Desc}

theorem doImageCommit_of_refused (h : c.power.mode ≠ .idle ∨ c.host.loadRing = none ∨ c.host.commitRing ≠ none) :
    doImageCommit r d c = c.finish r stMode :=
  if_pos (by rwa [Option.isNone_iff_eq_none, Option.isSome_iff_ne_none])

theorem doImageCommit_of_taken (hm : c.power.mode = .idle) (hl : c.host.loadRing ≠ none) (hc : c.host.commitRing = none) :
    doImageCommit r d c =
      { c.setBusy r with imgSt := 2, host := { (c.setBusy r).host with loadRing := none, commitRing := some r } } :=
  if_neg (by simp [hm, hl, hc])

end Commit

/-! ### A verdict (R232, Table 10.14) -/

section Verdict

variable {c : Core} {b : List Byte} {n : Nat}

/-- A size that fails is the first failure, before anything that a verdict shows. -/
theorem Core.verify_of_size {f : ImgFail} (h : checkSize b n = some f) : c.verify b n = { fail := some f } := by
  simp only [Core.verify, h, firstFail]

/-- Every failure found ends the checks; only the last branch, which has the image, can be without one. -/
theorem Core.verify_img_isSome (h : (c.verify b n).fail = none) : (c.verify b n).img.isSome = true := by
  unfold Core.verify at h ⊢
  dsimp only at h ⊢
  split at h -- SIZE and FORMAT
  · cases h
  split at h -- DEVICE to CHAN
  · cases h
  split at h -- STAGE to DUMP
  · cases h
  split at h -- FRAM to POWR
  · cases h
  simp only [*, Option.isSome_some]

end Verdict

/-! ### The end of verification (R232) -/

section Done

/-- The verdict on the image that was staged. -/
def Core.verdict (c : Core) : Verdict := c.verify (c.io.read 0x0E000000 c.host.extent) c.host.extent

/-- The registers that a verdict shows, once the commit is over: the gaps and budgets that it reached (R265, R277). -/
def Core.showVerdict (c : Core) (v : Verdict) : Core :=
  let c := { c with host := { c.host with commitRing := none } }
  let c := match v.gaps with
    | some g => c.showGaps g
    | none => c
  match v.bud with
  | some g => c.showBudgets g
  | none => c

theorem Core.showVerdict_eq_elim (c : Core) (v : Verdict) :
    c.showVerdict v =
      let c := { c with host := { c.host with commitRing := none } }
      let c := v.gaps.elim c (fun g => c.showGaps g)
      v.bud.elim c (fun g => c.showBudgets g) := by
  obtain ⟨-, gaps, bud, -⟩ := v
  cases gaps <;> cases bud <;> rfl

variable {c : Core}

theorem doImageVerifyDone_of_idle (h : c.host.commitRing = none ∨ c.imgSt ≠ 2) : doImageVerifyDone c = c := by
  unfold doImageVerifyDone
  split
  · rfl
  next r hr => exact if_pos (h.resolve_left (by simp [hr]))

variable {r : Nat} (hr : c.host.commitRing = some r) (hst : c.imgSt = 2)
include hr hst

theorem doImageVerifyDone_of_failed {f : ImgFail} (hf : c.verdict.fail = some f) :
    doImageVerifyDone c = (c.showVerdict c.verdict).imgRejected r f := by
  unfold Core.verdict at hf
  simp only [doImageVerifyDone, hr]
  rw [if_neg (not_not.2 hst)]
  simp only [hf]
  rfl

theorem doImageVerifyDone_of_passed {i : Image} (hf : c.verdict.fail = none) (hi : c.verdict.img = some i) :
    doImageVerifyDone c =
      (c.showVerdict c.verdict).imgLoaded r i (imgSects (c.io.read 0x0E000000 c.host.extent)) := by
  unfold Core.verdict at hf hi
  simp only [doImageVerifyDone, hr]
  rw [if_neg (not_not.2 hst)]
  simp only [hf, hi]
  rfl

end Done

/-! ### The obligation -/

/-- Settles O48: a commit by its refusal, the end of the verification by its verdict (`doImageVerifyDone_of_failed`,
`doImageVerifyDone_of_passed`), and the verdict by the order of its checks. -/
theorem imageCommitAndVerify : Obligations.ImageCommitAndVerify := by
  refine ⟨fun s r d h => ⟨fun hn => exec_does_of h (doImageCommit_of_refused hn),
      fun hm hl hc => exec_does_of h (doImageCommit_of_taken hm hl hc)⟩, fun s r h hr hst => ?done,
    fun s h hn => act_does_of h (doImageVerifyDone_of_idle hn),
    fun c b n => ⟨Core.verify_img_isSome, fun f hf => ?size⟩⟩
  case done =>
    intro b v shown
    have hshown : shown s.core = s.core.showVerdict s.core.verdict := (Core.showVerdict_eq_elim ..).symm
    refine ⟨fun f hf => act_does_of h ?failed, fun i hf hi => act_does_of h ?passed⟩
    case failed => rw [hshown]; exact doImageVerifyDone_of_failed hr hst hf
    case passed => rw [hshown]; exact doImageVerifyDone_of_passed hr hst hf hi
  case size =>
    rw [Core.verify_of_size hf]
    exact ⟨rfl, rfl⟩

end Sys2Proof.Machine
end

section
/-! PROOFS. Host accesses that wait (O9): the route of an access by what stands before it, what each kind of access does where it
may not be served, and the posted queue's own command. -/

namespace Sys2Proof.Machine

/-! ### The route of a host access -/

section Route

variable {c : Core} {k : PageKind}

/-- Where the device takes host accesses, one waits as soon as anything stands before it (R264, R392, R393). -/
theorem Core.route_of_waits (hm : c.power.mode ≠ .shelved) (hd : c.host.d3 = none)
    (h : c.winOpen k.chip 32 = false ∨ c.posted.any (fun p => p.1.val == k.chip) = true ∨ c.lockedOut k 0 = true ∨
      c.host.heldQ.isEmpty = false ∨ c.debugFirst k = true) : c.route k = .queue := by
  unfold Core.route
  rw [if_neg (by simp [hm, hd]), if_pos h]

/-- In SHELVED and in D3hot no host access has an effect (Table 12.1, R427). -/
theorem Core.route_of_down (h : c.power.mode = .shelved ∨ c.host.d3 ≠ none) : c.route k = .none :=
  if_pos (h.imp_right Option.isSome_iff_ne_none.2)

end Route

/-! ### An access that is not served -/

section Unserved

variable {s : State} {k : PageKind}

/-- A command whose effect on the present state lies in the core. -/
theorem live_does_of {f : State → State} {g : Core → Core} (h : s.runs) (e : f s = s.onCore g) :
    .next (s.live f) = s.does g := by
  rw [State.live, h.1, if_neg (by decide), e, State.does]

section Command

variable {i : Instr} {f : Core → Core} (h : s.runs) (hp : pageAt s.core.part k.no = some k)
include h hp

theorem regCmd_of_queue (hr : s.core.route k = .queue) : regCmd i k f s = s.does (fun c => c.post k.chip i) :=
  live_does_of h (by simp only [regCmdF, hp, hr])

theorem regCmd_of_none (hr : s.core.route k = .none) : regCmd i k f s = s.does (fun c => c) :=
  live_does_of h (by simp only [regCmdF, hp, hr]; rfl)

end Command

section Access

variable {page off : Fin 4096} (h : s.runs) (hp : pageAt s.core.part page.val = some k) (hr : s.core.route k = .queue)
include h hp hr

theorem registerWrite_of_queue (v : Word) :
    exec (.registerWrite .pcie page off v) s = s.does (fun c => c.post k.chip (.registerWrite .pcie page off v)) :=
  act_does_of (f := doRegisterWrite .pcie page off v) h (by simp only [doRegisterWrite, hp, hr])

theorem snapshotRead_of_queue (ho : off.val % 4 = 0) :
    exec (.snapshotRead .pcie page off) s = s.does (fun c => c.post k.chip (.snapshotRead .pcie page off)) :=
  live_does_of (f := readAccess .pcie page off) h (by simp only [readAccess, hp, hr, ho, ne_eq, not_true_eq_false, if_false])

/-- BAR0 takes an aligned 8 B access at a `_LO` register, which waits as a 4 B one does (R264, R358). -/
theorem accessSize_of_queue (write : Bool) (d : DWord) (ho : off.val % 8 = 0) (hlo : off.val ∈ k.loOffs) :
    exec (.accessSize page off 8 ⟨write, d⟩) s = s.does (fun c => c.post k.chip (.accessSize page off 8 ⟨write, d⟩)) := by
  have hok : s.core.bar0Ok page off 8 = true := by simp [Core.bar0Ok, hp, ho, hlo]
  refine live_does_of (f := accessSizeCmd page off 8 write d) h ?_
  simp only [accessSizeCmd, hok, hp, hr, Bool.true_eq_false, if_false, show ¬ (8 : Nat) = 4 by decide]

end Access

end Unserved

/-! ### The posted queue -/

section Post

variable {c : Core} {x : Nat} {i : Instr}

theorem Core.post_of_room (hh : c.host.heldQ = []) (hn : c.postedN x < 256) :
    c.post x i = { c with posted := c.posted ++ [(Fin.ofNat 5 x, i)] } :=
  if_neg (by simp [hh, hn])

theorem Core.post_of_held (h : c.host.heldQ ≠ [] ∨ 256 ≤ c.postedN x) :
    c.post x i = { c with host := { c.host with heldQ := c.host.heldQ ++ [(Fin.ofNat 5 x, i)] } } :=
  if_pos (h.imp_left List.isEmpty_eq_false_iff.2)

end Post

section Apply

variable {s : State}

/-- In an open window, with no lock and no debug access before it, the oldest waiting access is served: it leaves the queue, its
promotion ends with it, and what flow control holds moves up (R264, R392). -/
theorem doPostedApply_of_ready {x : Chip} {i : Instr} {k : PageKind} {rest : List (Chip × Instr)}
    (hq : s.core.posted = (x, i) :: rest) (hw : s.core.winOpen x.val 32 = true) (hd : s.core.host.d3 = none)
    (hp : pageOf s.core.part i = some k) (hl : s.core.lockedOut k 0 = false) (hf : s.core.debugFirst k = false) :
    doPostedApply x s =
      ((s.onCore (fun c => { c with posted := rest }.cxbServed k.group 0)).apply i).onCore Core.heldMove := by
  have hfind : s.core.posted.find? (fun p => p.1 == x) = some (x, i) := by simp [hq]
  have hwaits : s.core.hostWaits i = false := by simp [Core.hostWaits, hp, hl, hf]
  have hcore : s.onCore (fun c => { c with posted := c.posted.erase (x, i) }) = s.onCore (fun c => { c with posted := rest }) := by
    simp [State.onCore, hq]
  unfold doPostedApply
  simp only [hfind]
  rw [if_neg (by simp [hw, hd, hwaits]), hcore]
  simp only [State.onCore_core, hp]
  rfl

theorem pageOf_recal (p : Part) (l : Lane) : pageOf p (.recal l) = some (.lane l) := rfl

/-- A waiting RECAL of a lane whose commands act counts for the host's lock, then has its effect (R393). -/
theorem State.apply_recal {l : Lane} (ha : s.core.acts (.lane l) = true) :
    s.apply (.recal l) = s.onCore (fun c => doRecal l (c.lockAccess (.lane l) 0)) :=
  if_pos ((Core.acts_lockAccess ..).trans ha)

end Apply

/-! ### The obligation -/

/-- Settles O9: the route of the access is to the queue (`Core.route_of_waits`) or to no effect (`Core.route_of_down`), the queue
has room or not, and the oldest waiting access is served by `doPostedApply_of_ready`. -/
theorem hostWritesWaitTheirTurn : Obligations.HostWritesWaitTheirTurn := by
  refine ⟨fun s page off v k h hp hm hd hw => ?waits, fun c x i => ⟨Core.post_of_room, Core.post_of_held⟩,
    fun s l h hm hd hw => regCmd_of_queue h (lane_page _ l) (Core.route_of_waits hm hd (.inl hw)),
    fun s h hm hd hw => regCmd_of_queue h rfl (Core.route_of_waits hm hd (.inl hw)),
    fun s l h hdown => regCmd_of_none h (lane_page _ l) (Core.route_of_down hdown),
    fun s x l rest h hq hw hd hl hf ha => live_does_of (f := doPostedApply x) h ?apply⟩
  case waits =>
    have hr := Core.route_of_waits hm hd hw
    exact ⟨registerWrite_of_queue h hp hr v, snapshotRead_of_queue h hp hr, accessSize_of_queue h hp hr⟩
  case apply =>
    rw [doPostedApply_of_ready hq hw hd (pageOf_recal _ l) hl hf, State.apply_recal]
    · rfl
    · exact ha

end Sys2Proof.Machine
end

section
/-! PROOFS. Register reads (O11): which reads are served, what a served one does on the way, and what it answers of a page whose
registers are off. -/

namespace Sys2Proof.Machine

/-! ### A read by its master -/

section Read

variable {s : State} {k : PageKind} {m : Master} {page off : Fin 4096}

section Mapped

variable (hp : pageAt s.core.part page.val = some k) (ho : off.val % 4 = 0)
include hp ho

/-- A read is served to the host by its route, to the debug port in its window, and to the Drone domain past the locks
(R264, R393, R433). -/
theorem readAccess_served
    (hm : (m = .pcie ∧ s.core.route k = .serve) ∨ (m = .debug ∧ s.core.debugOpenFor 0 = true ∧ s.core.debugServed k = true) ∨
      (m = .drone ∧ s.core.lockedOut k 3 = false)) :
    readAccess m page off s = s.serveRead k (masterCode m) page off := by
  obtain ⟨rfl, hr⟩ | ⟨rfl, hopen, hserved⟩ | ⟨rfl, hl⟩ := hm
  · simp [readAccess, hp, ho, hr, masterCode]
  · simp [readAccess, hp, ho, hopen, hserved, masterCode]
  · simp [readAccess, hp, ho, hl, masterCode]

/-- Outside its window a debug read becomes the port's request (R433). -/
theorem readAccess_debug_waits (hopen : s.core.debugOpenFor 0 = true) (hs : s.core.debugServed k = false) :
    readAccess .debug page off s = s.onCore (fun c => c.debugWait (debugReq page off false 0)) := by
  simp [readAccess, hp, ho, hopen, hs]

end Mapped

/-- SETR reads no register, mapped or not (R242). -/
theorem readAccess_setr : readAccess .setr page off s = s := by
  unfold readAccess
  split
  · rfl
  · exact ite_self _

end Read

/-! ### The aperture of an INSPECT window -/

section Aperture

variable {c : Core} {k : PageKind} {off : Nat}

theorem Core.aperture_of_denied {i : Nat} (ho : 0x800 ≤ off) (hm : c.power.mode ≠ .inspect)
    (hr : c.pageReady (.insp i) = true) :
    c.aperture (.insp i) off = (c.setInsp i { c.inspAt i with denied := true }).report (.insp i) 0x06 clsN 0 :=
  if_pos ⟨ho, hm, hr⟩

/-- Below the aperture, in INSPECT, and on every other page, a read denies nothing (R140). -/
theorem Core.aperture_of_allowed (h : off < 0x800 ∨ c.power.mode = .inspect ∨ ∀ i, k ≠ .insp i) : c.aperture k off = c := by
  unfold Core.aperture
  split
  next i =>
    refine if_neg (fun ⟨ho, hm, _⟩ => ?_)
    obtain hlt | hin | hne := h
    · omega
    · exact hm hin
    · exact hne i rfl
  · rfl

end Aperture

/-! ### The value that a read answers -/

section Value

variable {s : State} {k : PageKind} {off : Nat}

/-- PAGE_STS.READY is the lowest bit (Table 16.7). -/
theorem Core.header_sts_mod_two (c : Core) (k : PageKind) : c.header k 0x00C % 2 = b2n (c.pageReady k) := by
  have hb : b2n (c.pageReady k) < 2 := by cases c.pageReady k <;> decide
  have hsts : c.header k 0x00C = fld (b2n (c.pageReady k)) 1 0 + fld (b2n (c.busy k)) 1 1 +
      fld (b2n (SMap.get (fun _ => 0) c.faulted k.no != 0)) 1 2 + fld (b2n (c.powered k)) 1 3 := rfl
  simp only [hsts, fld, Nat.shiftLeft_eq]
  omega

variable (hk : ∀ b, k ≠ .doorbell b)
include hk

/-- The common header is read whatever the state of the page's domain (R405). -/
theorem State.readReg_header (ho : off < 0x020) : s.readReg k off = s.core.header k off % 2 ^ 32 := by
  unfold State.readReg
  split
  · exact absurd rfl (hk _)
  · dsimp only
    rw [if_pos ho]

/-- Block registers read 0 until the page is READY (R405). -/
theorem State.readReg_of_not_ready (hr : s.core.pageReady k = false) (ho : 0x020 ≤ off) : s.readReg k off = 0 := by
  unfold State.readReg
  split
  · exact absurd rfl (hk _)
  · dsimp only
    rw [if_neg (by omega), if_pos (show s.core.powered k = false from hr), Nat.zero_mod]

end Value

/-! ### The obligation -/

/-- Settles O11: a read by its master and what lets it be served (`readAccess_served`), the aperture by its page, offset and mode,
and the value by the part of the page that is read. -/
theorem readsAnswer : Obligations.ReadsAnswer := by
  refine ⟨fun s m page off k h hp ho hm => live_does_of (f := readAccess m page off) h (readAccess_served hp ho hm),
    fun s page off k h hp ho hopen hs =>
      live_does_of (f := readAccess .debug page off) h (readAccess_debug_waits hp ho hopen hs),
    fun s page off h => live_does_of (f := readAccess .setr page off) h readAccess_setr,
    fun c i off => Core.aperture_of_denied, fun c k off => Core.aperture_of_allowed,
    fun s k off hk hr => ⟨State.readReg_of_not_ready hk hr, ?ready⟩, fun s k hk => State.readReg_header hk (by decide)⟩
  case ready =>
    rintro rfl
    rw [State.readReg_header hk (by decide), Nat.mod_mod_of_dvd _ (by decide), Core.header_sts_mod_two, hr]
    rfl

end Sys2Proof.Machine
end

section
/-! PROOFS. The mask of withheld sub-blocks (O51): its bits one by one, and their count as the growth of a rounded quotient. -/

namespace Sys2Proof.Machine

/-! ### The bits of a mask -/

/-- A mask built from a list has the list's entries as its bits. -/
theorem testBit_maskBits (l : List Bool) (n : Nat) : (maskFor.maskBits l).testBit n = l.getD n false := by
  induction l generalizing n with
  | nil => exact Nat.zero_testBit n
  | cons b l ih =>
    have hc : maskFor.maskBits (b :: l) = 2 * maskFor.maskBits l + b2n b := Nat.add_comm ..
    have hb : b2n b < 2 := by cases b <;> decide
    cases n with
    | zero =>
      rw [hc, Nat.testBit_zero, Nat.mul_add_mod, Nat.mod_eq_of_lt hb]
      cases b <;> rfl
    | succ n =>
      rw [hc, Nat.testBit_succ, show (2 * maskFor.maskBits l + b2n b) / 2 = maskFor.maskBits l by omega, ih]
      rfl

theorem maskBits_lt (l : List Bool) : maskFor.maskBits l < 2 ^ l.length := by
  induction l with
  | nil => decide
  | cons b l ih =>
    have hc : maskFor.maskBits (b :: l) = b2n b + 2 * maskFor.maskBits l := rfl
    have hb : b2n b < 2 := by cases b <;> decide
    rw [hc, List.length_cons, Nat.pow_succ]
    omega

/-- Bit `n` of a skip mask says that the rounded count of withheld sub-blocks grows at `n` (R286). -/
theorem testBit_maskFor {s a n : Nat} (h : n < s) :
    (maskFor s a).testBit n = decide ((n * (s - a) + s / 2) / s < ((n + 1) * (s - a) + s / 2) / s) := by
  unfold maskFor
  rw [testBit_maskBits, List.getD_eq_getElem?_getD, List.getElem?_map, List.getElem?_range h]
  rfl

/-! ### Their count -/

/-- A sequence that grows by at most one at each step grows as often as it gains. -/
theorem length_filter_growth {f : Nat → Nat} (hmono : ∀ n, f n ≤ f (n + 1)) (hstep : ∀ n, f (n + 1) ≤ f n + 1) (m : Nat) :
    ((List.range m).filter (fun n => decide (f n < f (n + 1)))).length + f 0 = f m := by
  induction m with
  | zero => exact Nat.zero_add _
  | succ m ih =>
    have hm := hmono m
    have hs := hstep m
    rw [List.range_succ, List.filter_append, List.length_append]
    by_cases h : f m < f (m + 1)
    · simp only [List.filter_cons, h, decide_true, if_true, List.filter_nil, List.length_cons, List.length_nil]
      omega
    · simp only [List.filter_cons, h, decide_false, Bool.false_eq_true, if_false, List.filter_nil, List.length_nil]
      omega

/-- The rounded count of withheld sub-blocks grows by at most one from a sub-block to the next. -/
theorem withheld_growth {s k : Nat} (hs : 0 < s) (hk : k ≤ s) (n : Nat) :
    (n * k + s / 2) / s ≤ ((n + 1) * k + s / 2) / s ∧ ((n + 1) * k + s / 2) / s ≤ (n * k + s / 2) / s + 1 := by
  have hsucc : (n + 1) * k = n * k + k := Nat.succ_mul n k
  constructor
  · exact Nat.div_le_div_right (by omega)
  · rw [← Nat.add_div_right _ hs]
    exact Nat.div_le_div_right (by omega)

/-- Of `s` sub-blocks of which `a` are executed, `s - a` are withheld (R286). -/
theorem length_setBits_maskFor {s a : Nat} (hs : 0 < s) : (setBits (maskFor s a) s).length = s - a := by
  have hg := withheld_growth hs (Nat.sub_le s a)
  have hcount := length_filter_growth (f := fun n => (n * (s - a) + s / 2) / s) (fun n => (hg n).1) (fun n => (hg n).2) s
  have hbits : setBits (maskFor s a) s =
      (List.range s).filter (fun n => decide ((n * (s - a) + s / 2) / s < ((n + 1) * (s - a) + s / 2) / s)) :=
    List.filter_congr fun n hn => testBit_maskFor (List.mem_range.1 hn)
  have hhalf : s / 2 / s = 0 := Nat.div_eq_of_lt (by omega)
  rw [Nat.zero_mul, Nat.zero_add, hhalf, Nat.add_zero, Nat.mul_add_div hs, hhalf, Nat.add_zero] at hcount
  rw [hbits, hcount]

/-! ### The obligation -/

/-- Settles O51: the bits of the mask are the list that it is built from (`testBit_maskFor`), and those set are the sub-blocks at
which the rounded count of withheld ones grows, from 0 to `s - a` (`length_setBits_maskFor`). -/
theorem skipMask : Obligations.SkipMask :=
  ⟨by decide, fun s a hs _ => ⟨length_setBits_maskFor hs,
    (maskBits_lt _).trans_eq (by rw [List.length_map, List.length_range]), fun _ hn => testBit_maskFor hn⟩⟩

end Sys2Proof.Machine
end

section
/-! PROOFS. The requests of MODE_CMD (O49): the gate that they share, the refusals of each, and the conditions of a start in the
order in which it asks for them. -/

namespace Sys2Proof.Machine

/-! ### Requests (R279, R425) -/

section Requests

variable {c : Core} {f : Core → Core}

theorem Core.request_of_safe (h : c.power.mode = .safe) : c.request f = c.modeReject 1 := if_pos h

/-- Outside STEADY, and during a forced stop, a request is refused with reason 2 (R279, R425). -/
theorem Core.request_of_busy (hs : c.power.mode ≠ .safe) (hb : c.power.forced = true ∨ c.power.phase ≠ .steady) :
    c.request f = c.modeReject 2 := (if_neg hs).trans (if_pos hb)

@[simp] theorem Core.starting_lockAccess (k : PageKind) (m : Nat) : (c.lockAccess k m).starting = c.starting := by
  simp [Core.starting]

/-- One stack that is not TRAINED at rate 0 is enough (R344). -/
theorem Core.allTrained_of_exists {n : Nat} (hn : n < 2 * c.part.dies) (h : c.stackUp n = false ∨ (c.stack n).rate ≠ 0) :
    c.allTrained = false := by
  refine Bool.eq_false_iff.2 fun ht => ?_
  have hup := List.all_eq_true.1 ht n (List.mem_range.2 hn)
  simp only [Bool.and_eq_true, beq_iff_eq] at hup
  obtain h | h := h
  · simp [h] at hup
  · exact h hup.2

section Steady

variable (hs : c.power.mode ≠ .safe) (hf : c.power.forced = false) (hp : c.power.phase = .steady)
include hs hf hp

theorem doReqBringup_of_not_idle (hm : c.power.mode ≠ .idle) : doReqBringup c = c.modeReject 1 := by
  rw [doReqBringup, Core.request_of_steady hs hf hp, if_neg hm]

theorem doReqIdle_of_not_bringup (hm : c.power.mode ≠ .bringup) : doReqIdle c = c.modeReject 1 := by
  rw [doReqIdle, Core.request_of_steady hs hf hp, if_pos hm]

theorem doReqIdle_of_untrained (hm : c.power.mode = .bringup) (ht : c.allTrained = false) : doReqIdle c = c.modeReject 4 := by
  rw [doReqIdle, Core.request_of_steady hs hf hp, if_neg (not_not.2 hm), if_neg (by simp [ht])]

theorem doReqShelve_of_not_quiet (hb : c.power.mode ≠ .bringup) (hi : c.power.mode ≠ .idle) :
    doReqShelve c = c.modeReject 1 := by
  rw [doReqShelve, Core.request_of_steady hs hf hp, if_neg (not_or.2 ⟨hb, hi⟩)]

theorem doReqStart_eq (b : Bool) :
    doReqStart b c = if c.power.mode = .idle then c.startIdle b else c.modeReject 1 := by
  rw [doReqStart, Core.request_of_steady hs hf hp]

end Steady

section Stop

variable (hs : c.power.mode ≠ .safe)
include hs

theorem doReqStop_of_forced (hf : c.power.forced = true) : doReqStop c = c.modeReject 2 := by
  simp [doReqStop, hs, hf]

variable (hf : c.power.forced = false) (hm : c.power.mode.isSchedule = false)
include hf hm

theorem doReqStop_of_starting (hst : c.starting = true) : doReqStop c = c.abandonStart none := by
  simp [doReqStop, hs, hf, hm, hst]

/-- A STOP while a stop runs is no refusal (R281). -/
theorem doReqStop_of_stopping (hst : c.starting = false) (hp : c.power.phase ≠ .steady) : doReqStop c = c := by
  simp [doReqStop, hs, hf, hm, hst, hp]

theorem doReqStop_of_steady (hst : c.starting = false) (hp : c.power.phase = .steady) : doReqStop c = c.modeReject 1 := by
  simp [doReqStop, hs, hf, hm, hst, hp]

end Stop

end Requests

/-! ### START in IDLE (R279, R280) -/

section Start

variable {c : Core} {b : Bool} {i : Image}

theorem Core.startIdle_of_unloaded (h : c.imgSt ≠ 3 ∨ c.img = none) : c.startIdle b = c.modeReject 3 := by
  have hn : (if c.imgSt = 3 then c.img else none) = none := by
    obtain h | h := h
    · exact if_neg h
    · rw [h, ite_self]
  simp only [Core.startIdle, hn]

variable (hst : c.imgSt = 3) (hi : c.img = some i)
include hst hi

theorem Core.startIdle_of_untrained (ht : c.allTrained = false) : c.startIdle b = c.modeReject 4 := by
  simp [Core.startIdle, hst, hi, ht]

variable (ht : c.allTrained = true)
include ht

theorem Core.startIdle_of_unlocked (h1 : c.time.dpll ≠ .locked) (h2 : c.time.dpll ≠ .holdover) :
    c.startIdle b = c.modeReject 5 := by
  simp [Core.startIdle, hst, hi, ht, h1, h2]

variable (hd : c.time.dpll = .locked ∨ c.time.dpll = .holdover)
include hd

theorem Core.startIdle_of_alarm (ha : c.plant.latch = true ∨ (c.plantEn = true ∧ c.plant.granted = false)) :
    c.startIdle b = c.modeReject 6 := by
  have hdpll : ¬ (c.time.dpll ≠ .locked ∧ c.time.dpll ≠ .holdover) := fun h => hd.elim h.1 h.2
  simp only [Core.startIdle, hst, hi, ht, hdpll, ha, Bool.true_eq_false, if_true, if_false]

variable (hl : c.plant.latch = false) (hg : c.plantEn = false ∨ c.plant.granted = true)
include hl hg

/-- A start that is accepted is POWERING, and asks the image's domains on (R280). -/
def Core.startPowering (c : Core) (i : Image) (b : Bool) : Core :=
  let n := c.startSample i
  let x := c.modPower (fun p => { p with phase := .powering, startSample := n, ballast := 0, runOn := false, draw := 0,
                                         image := if b then some (Mode.ofHdr i.hdr.mode) else none })
  ({ x with img := some { i with plan := { i.plan with start := n } } } : Core).askDomains (i.domains x.part.dies) true

/-- Past the refusals of reasons 3 to 6, a start is judged by the start checks and by its time (R279, R280). -/
theorem Core.startIdle_of_quiet :
    c.startIdle b =
      let d := (c.startChecks i).1
      if (c.startChecks i).2 = false then d.modeReject 7
      else if d.startEarliest.any (fun e => decide (e ≤ (d.startSample i : Int))) = false then d.startLate
      else d.startPowering i b := by
  have hdpll : ¬ (c.time.dpll ≠ .locked ∧ c.time.dpll ≠ .holdover) := fun h => hd.elim h.1 h.2
  have hquiet : ¬ (c.plant.latch = true ∨ (c.plantEn = true ∧ c.plant.granted = false)) := by
    rintro (h | ⟨h1, h2⟩)
    · simp [hl] at h
    · simp [h1, h2] at hg
  simp only [Core.startIdle, Core.startPowering, hst, hi, ht, hdpll, hquiet, Bool.true_eq_false, if_true, if_false]

theorem Core.startIdle_of_failed (hc : (c.startChecks i).2 = false) : c.startIdle b = (c.startChecks i).1.modeReject 7 := by
  rw [Core.startIdle_of_quiet hst hi ht hd hl hg]
  exact if_pos hc

variable (hc : (c.startChecks i).2 = true)
include hc

theorem Core.startIdle_of_early (he : (c.startChecks i).1.startEarliest = none ∨
    ∃ e, (c.startChecks i).1.startEarliest = some e ∧ ((c.startChecks i).1.startSample i : Int) < e) :
    c.startIdle b = (c.startChecks i).1.startLate := by
  rw [Core.startIdle_of_quiet hst hi ht hd hl hg]
  refine (if_neg (by simp [hc])).trans (if_pos ?_)
  obtain he | ⟨e, he, hlt⟩ := he
  · rw [he]; rfl
  · rw [he]; exact decide_eq_false (not_le.2 hlt)

theorem Core.startIdle_of_in_time {e : Int} (he : (c.startChecks i).1.startEarliest = some e)
    (hle : e ≤ ((c.startChecks i).1.startSample i : Int)) :
    c.startIdle b = (c.startChecks i).1.startPowering i b := by
  rw [Core.startIdle_of_quiet hst hi ht hd hl hg]
  refine (if_neg (by simp [hc])).trans (if_neg ?_)
  rw [he]
  exact fun h => of_decide_eq_false h hle

end Start

/-! ### The obligation -/

theorem Core.modeReject_power (c : Core) (n : Nat) : (c.modeReject n).power = { c.power with reject := n } := by
  simp [Core.modeReject, Core.modPower]

/-- Settles O49: a request falls to its gate (`Core.request_of_safe`, `Core.request_of_busy`, `Core.request_of_steady`) or to its
own condition, which the count of the lock's access leaves as it was; START in IDLE passes its conditions one after another. -/
theorem modeRequests : Obligations.ModeRequests := by
  refine ⟨fun s h => ?served, fun c b => ?start, fun c n => by simp [Core.modeReject_power]⟩
  case served =>
    have hpow : (s.core.lockAccess .mode 0).power = s.core.power := Core.lockAccess_power ..
    have hstart : (s.core.lockAccess .mode 0).starting = s.core.starting := Core.starting_lockAccess ..
    dsimp only
    rw [← hpow, ← hstart]
    refine ⟨fun hs b => ?safe, fun hs hb b => ?busy, fun hs hf hp => ?steady,
      fun hs hf => regCmd_doesReg_of h (doReqStop_of_forced hs hf), fun hs hf => ?stop⟩
    case safe =>
      exact ⟨regCmd_doesReg_of h (Core.request_of_safe hs), regCmd_doesReg_of h (Core.request_of_safe hs),
        regCmd_doesReg_of h (if_pos hs), regCmd_doesReg_of h (Core.request_of_safe hs),
        regCmd_doesReg_of h (Core.request_of_safe hs)⟩
    case busy =>
      exact ⟨regCmd_doesReg_of h (Core.request_of_busy hs hb), regCmd_doesReg_of h (Core.request_of_busy hs hb),
        regCmd_doesReg_of h (Core.request_of_busy hs hb), regCmd_doesReg_of h (Core.request_of_busy hs hb)⟩
    case steady =>
      exact ⟨fun hm => regCmd_doesReg_of h (doReqBringup_of_idle hf hp hm),
        fun hm => regCmd_doesReg_of h (doReqBringup_of_not_idle hs hf hp hm),
        fun hm => regCmd_doesReg_of h (doReqIdle_of_not_bringup hs hf hp hm),
        fun hm ht => regCmd_doesReg_of h (doReqIdle_of_trained hf hp hm (by simpa using Core.allTrained_of_forall ht)),
        fun n hm hn ht => regCmd_doesReg_of h
          (doReqIdle_of_untrained hs hf hp hm (by simpa using Core.allTrained_of_exists hn ht)),
        fun hb hi => regCmd_doesReg_of h (doReqShelve_of_not_quiet hs hf hp hb hi),
        fun hm => regCmd_doesReg_of h (doReqShelve_of_quiet hf hp hm),
        fun hm b => regCmd_doesReg_of h ((doReqStart_eq hs hf hp b).trans (if_neg hm)),
        fun hm b => regCmd_doesReg_of h ((doReqStart_eq hs hf hp b).trans (if_pos hm))⟩
    case stop =>
      exact ⟨fun hm => regCmd_doesReg_of h (doReqStop_of_schedule hf hm),
        fun hm hst => regCmd_doesReg_of h (doReqStop_of_starting hs hf hm hst),
        fun hm hst hp => regCmd_doesReg_of h (doReqStop_of_stopping hs hf hm hst hp),
        fun hm hst hp => regCmd_doesReg_of h (doReqStop_of_steady hs hf hm hst hp)⟩
  case start =>
    exact ⟨Core.startIdle_of_unloaded, fun i hst hi => ⟨Core.startIdle_of_untrained hst hi,
      Core.startIdle_of_unlocked hst hi, Core.startIdle_of_alarm hst hi, Core.startIdle_of_failed hst hi,
      fun ht hd hl hg hc => ⟨Core.startIdle_of_early hst hi ht hd hl hg hc,
        fun e => Core.startIdle_of_in_time hst hi ht hd hl hg hc⟩⟩⟩

end Sys2Proof.Machine
end

section
/-! PROOFS. The state right after reset (O3): each register stands at the reset value of its row. -/

namespace Sys2Proof.Machine

/-- At reset every register of a page of the OTR4096-A holds the reset value of its row (R9). -/
theorem rd_reset {k : PageKind} {o : Nat} (hp : pageAt .otr4096A k.no = some k) (ho : o < 4096) :
    State.reset.core.rd k o = (k.row o).reset % 2 ^ 32 := by
  have hno : k.key o / 4096 = k.no := by unfold PageKind.key; omega
  have hoff : k.key o % 4096 = o := by unfold PageKind.key; omega
  have hreg : State.reset.core.reg (k.key o) = regReset (k.key o) := rfl
  rw [Core.rd, hreg, regReset, hno, hp, hoff]
  exact BitVec.toNat_ofNat ..

/-- The page of a lane lies outside the Drone domain: its rows stand as its tables give them (R304, R402). -/
theorem lane_rows (n : Nat) : (PageKind.lane n).rows = headerRows ++ (PageKind.lane n).blockRows := by
  simp [PageKind.rows, PageKind.domain]

theorem lane_row_reset (n : Nat) :
    ((PageKind.lane n).row 0x040).reset = 0xC0104 ∧ ((PageKind.lane n).row 0x050).reset = 0x06002061 ∧
      ((PageKind.lane n).row 0x008).reset = 1 := by
  simp only [PageKind.row, lane_rows]
  exact ⟨rfl, rfl, rfl⟩

/-- Settles O3: the fields are those of the initial state, and each register is read by `rd_reset`. -/
theorem resetState : Obligations.ResetState := by
  refine ⟨by decide, fun l => ?lane, ?others⟩
  case lane =>
    have hp := lane_page .otr4096A l
    obtain ⟨hcfg, hscan, hctl⟩ := lane_row_reset l.val
    rw [rd_reset hp (by decide), rd_reset hp (by decide), rd_reset hp (by decide), hcfg, hscan, hctl]
    decide
  case others =>
    and_intros <;> exact rd_reset rfl (by decide)

end Sys2Proof.Machine
end

section
/-! PROOFS. The Pilot service (O57): the cases of its start, the oldest integration that may close, and what its end leaves. -/

namespace Sys2Proof.Machine

/-! ### Start and close (R300, R303, R457) -/

section Pilot

variable {c : Core}

theorem doPilotStart_of_barred (h : c.pilotMay = false ∨ c.pilot.on = true) : doPilotStart c = c := if_pos h

/-- The Pilot runs once its domains are on and ready, and asks for them till then (R457). -/
theorem doPilotStart_of_may (hm : c.pilotMay = true) (ho : c.pilot.on = false) :
    doPilotStart c =
      if pilotDoms.all (fun n => c.domOn n && c.power.ready.testBit n) = true then { c with pilot := { on := true } }
      else c.askDomains (pilotDoms.filter (fun n => !c.power.want.elem (n, true))) true :=
  if_neg (by simp [hm, ho])

theorem doPilotClose_of_found {q : PilotInt}
    (h : c.pilot.ints.find? (fun x => c.pilot.ints.any (fun y => y.q == x.q + 1)) = some q) :
    doPilotClose c = (({ c with pilot := { c.pilot with
      ints := c.pilot.ints.filter (fun x => x.q != q.q), closed := some q.q } }).pilotFrames q).raise .mode 3 := by
  simp only [doPilotClose, h]

/-- While no integration has a successor, none closes (R303). -/
theorem doPilotClose_of_none (h : c.pilot.ints.find? (fun x => c.pilot.ints.any (fun y => y.q == x.q + 1)) = none) :
    doPilotClose c = c := by
  simp only [doPilotClose, h]

/-! ### The end (R300, R457) -/

/-- A domain that is on is asked off. -/
theorem Core.mem_want_askDomains {n : Nat} {ns : List Nat} (hn : n ∈ ns) (h : c.domOn n = true) :
    (n, false) ∈ (c.askDomains ns false).power.want :=
  List.mem_append_right _ (List.mem_map_of_mem (List.mem_filter.2 ⟨hn, by simp [h]⟩))

theorem Core.pilotEnd_pilot : c.pilotEnd.pilot = {} := by
  unfold Core.pilotEnd
  split_ifs <;> rfl

theorem Core.mem_want_pilotEnd {n : Nat} (ho : c.pilot.on = true) (hn : n ∈ pilotDoms) (h : c.domOn n = true) :
    (n, false) ∈ c.pilotEnd.power.want := by
  rw [Core.pilotEnd, if_pos (.inl ho)]
  exact Core.mem_want_askDomains hn h

end Pilot

/-! ### The obligation -/

/-- Settles O57: the start by the Pilot's condition and its domains (`doPilotStart_of_may`), the close by the integration that is
found, and the end by what it asks off (`Core.mem_want_pilotEnd`). -/
theorem pilotCommands : Obligations.PilotCommands := by
  refine ⟨fun s h => ?commands, fun c => ⟨Core.pilotEnd_pilot, fun ho n hn hd => Core.mem_want_pilotEnd ho hn hd⟩⟩
  case commands =>
    exact ⟨fun hb => act_does_of h (doPilotStart_of_barred hb),
      fun hm ho hr => act_does_of h ((doPilotStart_of_may hm ho).trans (if_pos hr)),
      fun hm ho hr => act_does_of h ((doPilotStart_of_may hm ho).trans (if_neg (Bool.eq_false_iff.1 hr))),
      fun hm => act_does_of h (if_pos hm), fun hm => act_does_of h (if_neg (Bool.eq_false_iff.1 hm)),
      fun q hq => act_does_of h (doPilotClose_of_found hq), fun hq => act_does_of h (doPilotClose_of_none hq)⟩

end Sys2Proof.Machine
end

section
/-! PROOFS. The fault collector and page FLT (O54): the slot that is taken, what an accepted message leaves of the collector, the
conditions of THERMTRIP, and the reactions of the classes. -/

namespace Sys2Proof.Machine

/-! ### Acceptance (R414 to R417) -/

section Accept

variable {s : State} {p : Pend} {page : Nat}

/-- A command on the whole device that no freeze stops leaves its effect. -/
theorem live_next {f : State → State} {t : State} (h : s.runs) (e : f s = t) :
    (.next (s.live f) : Host.Outcome State Fault Refusal) = .next (s.after t) := by
  rw [State.live, h.1, if_neg (by decide), e]

theorem doFaultAccept_of_turn (hn : s.nextSlot = some p) (hp : p.page = page) :
    doFaultAccept page s = (s.onCore (fun c => { c with pend := c.pend.filter (fun q => q.page != page) })).accept p := by
  simp only [doFaultAccept, hn, if_pos hp]

theorem doFaultAccept_of_other (h : ∀ p, s.nextSlot = some p → p.page ≠ page) : doFaultAccept page s = s := by
  unfold doFaultAccept
  split
  next p hn => exact if_neg (h p hn)
  next => rfl

end Accept

section Collector

variable (l : Collector) (r : FaultRec) (page : Nat)

/-- A class whose flag is outstanding goes one up, and every other stays (R415). -/
theorem Collector.final_eq {n : Nat} (h : n < 3) : l.final n = if l.flag n = true then n + 1 else n := by
  simp [Collector.final, h]

theorem Collector.final_of_fatal {n : Nat} (h : 3 ≤ n) : l.final n = n := if_neg (fun e => absurd e.1 (by omega))

theorem Collector.flag_mark {j : Nat} (hj : j < 3) (m : Nat) : (l.mark m).flag j = (decide (j = m) || l.flag j) := by
  unfold Collector.mark
  split_ifs with h0 h1 h2
  all_goals interval_cases j
  all_goals simp [Collector.flag, *]
  all_goals omega

theorem Collector.latch_mark (m : Nat) : (l.mark m).latch = (decide (3 ≤ m) || l.latch) := by
  unfold Collector.mark
  split_ifs
  all_goals simp [*]
  all_goals omega

/-- The flags after a message are those that its final class marks. -/
theorem Collector.flag_accept (m j : Nat) : (l.accept r m page).flag j = (l.mark m).flag j := rfl
theorem Collector.latch_accept (m : Nat) : (l.accept r m page).latch = (l.mark m).latch := rfl

theorem Collector.final_cases (n : Nat) : l.final n = n ∨ l.final n = n + 1 ∧ n < 3 := by
  obtain h3 | h3 := Nat.lt_or_ge n 3
  · rw [l.final_eq h3]
    split_ifs
    · exact .inr ⟨rfl, h3⟩
    · exact .inl rfl
  · exact .inl (l.final_of_fatal h3)

theorem Collector.final_eq_succ_iff {n : Nat} (h : n < 3) : l.final n = n + 1 ↔ l.flag n = true := by
  rw [l.final_eq h]
  split_ifs with hf <;> simp [hf]

end Collector

/-! ### THERMTRIP (R297, R414) -/

section Thermtrip

variable {s t : State} {k : Nat} {r : Int}

theorem doThermtrip_of_hot (hd : s.core.droneOn = true) (hk : s.core.part.sensors.elem k = true) (hr : 11000 ≤ r)
    (ht : s.core.plant.tripped = false) :
    doThermtrip k r s = (s.onCore (fun c =>
      (c.modPlant (fun p => { p with tripped := true })).emit .thermtrip)).accept ⟨4, 0x64, clsF, 0, 0⟩ :=
  if_neg (by rw [hd, hk, ht]; simp [hr])

theorem doThermtrip_of_barred
    (h : s.core.droneOn = false ∨ s.core.part.sensors.elem k = false ∨ r < 11000 ∨ s.core.plant.tripped = true) :
    doThermtrip k r s = s := if_pos h

theorem thermtrip_next {k : Fin 40} {r : BitVec 16} (e : doThermtrip k.val r.toInt s = t) :
    exec (.thermtrip k r) s = .next (s.after t) := congrArg (fun u => Host.Outcome.next (s.after u)) e

end Thermtrip

/-! ### Reactions (R411, R419, R420) -/

section React

variable {c : Core} {n : Nat}

theorem Core.react_of_mild (h : n < 2) : c.react n = c := (if_neg (by omega)).trans (if_pos h)

/-- A Fatal message reacts by the mode (R278, R282, R420). -/
theorem Core.react_of_fatal (h : 2 < n) :
    c.react n =
      if c.power.mode = .safe then c
      else if c.power.mode = .shelved ∧ (c.perst = true ∨ c.power.railsOff = true) then c.muteNow.pathOff.pwmMax.plantStatus
      else c.enterSafe :=
  (if_neg (by omega)).trans (if_neg (by omega))

end React

/-! ### The obligation -/

/-- Settles O54: the turn by the next slot, the collector after a message by its final class (`Collector.final_eq`) and what that
class marks (`Collector.flag_mark`, `Collector.latch_mark`), the commands of page FLT by what a served command does
(`regCmdS_next`), THERMTRIP by its conditions and the reactions by the class. -/
theorem faultCommands : Obligations.FaultCommands := by
  refine ⟨fun s page h => ⟨fun p hn hp => live_next h (doFaultAccept_of_turn hn hp),
      fun hn => live_next h (doFaultAccept_of_other hn)⟩,
    fun s p => ⟨rfl, rfl, rfl, bne_iff_ne, Option.isNone_iff_eq_none⟩, fun l r n page _ => ?collector,
    fun s h => ⟨fun v => regCmdS_next _ _ _ s h, regCmdS_next _ _ _ s h, regCmdS_next _ _ _ s h,
      fun v => regCmdS_next _ _ _ s h⟩,
    fun s k r => ⟨fun hd hk hr ht => thermtrip_next (doThermtrip_of_hot hd hk hr ht),
      fun hb => thermtrip_next (doThermtrip_of_barred hb)⟩, fun c n => ⟨Core.react_of_mild, rfl, fun hn => ?fatal⟩⟩
  case collector =>
    refine ⟨l.final_cases n, fun h => l.final_eq_succ_iff h, fun hm => ?marked, fun hm => ?latched, fun j hj hf => ?kept,
      fun hl => ?keptLatch, rfl, rfl, rfl⟩
    case marked => rw [Collector.flag_accept, Collector.flag_mark l hm]; simp
    case latched => rw [Collector.latch_accept, Collector.latch_mark, hm]; rfl
    case kept => rw [Collector.flag_accept, Collector.flag_mark l hj, hf, Bool.or_true]
    case keptLatch => rw [Collector.latch_accept, Collector.latch_mark, hl, Bool.or_true]
  case fatal =>
    rw [Core.react_of_fatal hn]
    refine ⟨fun hm => if_pos hm, fun hm hh => (if_neg (by simp [hm])).trans (if_pos ⟨hm, hh⟩), fun hm hh =>
      (if_neg hm).trans (if_neg ?_)⟩
    rintro ⟨hs, hb⟩
    obtain hs' | ⟨hp, hr⟩ := hh
    · exact hs' hs
    · simp [hp, hr] at hb

end Sys2Proof.Machine
end

section
/-! PROOFS. The items of an outbound ring (O30): the fates of the front item in the order in which they are tried, then the
read-back and the coalescing time. -/

namespace Sys2Proof.Machine

/-! ### The front item (R299, R370 to R376, R421) -/

section Deliver

variable {c : Core} {r : Nat} {i : Item} {is : List Item}

theorem doDeliver_of_idle (h : (c.ring r).items = [] ∨ c.host.linkUp = false ∨ c.host.d3 ≠ none) : doDeliver r c = c := by
  unfold doDeliver
  dsimp only
  split
  next => rfl
  next i is hi =>
    refine if_pos ?_
    obtain h | h | h := h
    · simp [hi] at h
    · exact .inl h
    · exact .inr (Option.isSome_iff_ne_none.2 h)

theorem Core.telemShut_iff : c.telemShut i = true ↔ i.kind = 0 ∧ 4 ≤ i.die ∧ c.winOpen 4 33 = false := by
  simp [Core.telemShut, and_assoc]

variable (hi : (c.ring r).items = i :: is) (hl : c.host.linkUp = true) (hd : c.host.d3 = none)
include hi hl hd

theorem doDeliver_of_muted (hm : c.power.mute = true ∧ i.kind ≠ 3 ∧ i.kind ≠ 4) :
    doDeliver r c = (c.setRing r { c.ring r with items := is }).itemMuted i := by
  simp [doDeliver, hi, hl, hd, hm]

variable (hm : ¬ (c.power.mute = true ∧ i.kind ≠ 3 ∧ i.kind ≠ 4))
include hm

theorem doDeliver_of_shut (hs : i.kind = 0 ∧ 4 ≤ i.die ∧ c.winOpen 4 33 = false) : doDeliver r c = c := by
  simp only [doDeliver, hi, hl, hd, hm, Core.telemShut_iff.2 hs, Option.isSome_none, Bool.true_eq_false, Bool.false_eq_true,
    or_self, if_true, if_false]

variable (hs : ¬ (i.kind = 0 ∧ 4 ≤ i.die ∧ c.winOpen 4 33 = false))
include hs

/-- An item of another generation goes to ring 0 (R374, R375). -/
theorem doDeliver_of_stale (hr : r ≠ 0) (hg : i.gen ≠ (c.ring r).gen) :
    doDeliver r c = ((((c.setRing r { c.ring r with items := is }).diverted.inc .ring 0x070).report .ring 0x93 clsN 0).modRing 0
      (fun y => { y with items := y.items ++ [{ i with orphan := true, from_ := r }] })) := by
  have hshut : ¬ c.telemShut i = true := fun h => hs (Core.telemShut_iff.1 h)
  simp only [doDeliver, hi, hl, hd, hm, hshut, hr, hg, Option.isSome_none, Bool.true_eq_false, Bool.false_eq_true, or_self,
    ne_eq, not_false_eq_true, and_self, if_true, if_false]

variable (hg : r = 0 ∨ i.gen = (c.ring r).gen)
include hg

theorem doDeliver_of_buffer {d : Desc} {ds : List Desc} (hx : (c.ring r).descs = d :: ds) (hdead : d.dead = false)
    (hop : d.op = 0x80) (hb : (c.ring r).busy = false) :
    doDeliver r c = (c.setRing r { c.ring r with items := is }).itemTake r i d ds := by
  have hshut : ¬ c.telemShut i = true := fun h => hs (Core.telemShut_iff.1 h)
  have hgen : ¬ (r ≠ 0 ∧ i.gen ≠ (c.ring r).gen) := fun h => hg.elim h.1 h.2
  simp only [doDeliver, hi, hl, hd, hm, hshut, hgen, hx, hdead, hop, hb, Option.isSome_none, Bool.true_eq_false,
    Bool.false_eq_true, ne_eq, not_true_eq_false, or_self, if_false]

variable (hx : (c.ring r).descs = [])
include hx

/-- Without a posted buffer an item waits for one that is still to be fetched, and else is dropped (R370, R376). -/
theorem doDeliver_of_no_buffer :
    doDeliver r c =
      if (c.ring r).fetch ≠ (c.ring r).tail ∧ (c.ring r).error = false then c
      else if r = 0 then (((c.setRing r { c.ring r with items := is }).inc .ring 0x074).raise .ring 2).itemDrop i
      else (c.setRing r { c.ring r with items := is }).itemDrop i := by
  have hshut : ¬ c.telemShut i = true := fun h => hs (Core.telemShut_iff.1 h)
  have hgen : ¬ (r ≠ 0 ∧ i.gen ≠ (c.ring r).gen) := fun h => hg.elim h.1 h.2
  simp only [doDeliver, hi, hl, hd, hm, hshut, hgen, hx, Option.isSome_none, Bool.true_eq_false, Bool.false_eq_true, or_self,
    if_false]
  split_ifs <;> rfl

end Deliver

/-! ### Read-back and the coalescing time (R371, R384) -/

section Readback

variable {c : Core} {r : Nat} {ok : Bool}

theorem doReadback_of_channel {ch : Nat} {j : Job} (hc : c.readbackChannel r = some ch) (hj : (c.dma ch).job = some j) :
    doReadback r ok c = c.completeJob ch (if ok then j.stopAs.getD stAccepted else stHostErr) := by
  simp only [doReadback, hc, hj]

/-- A completion that waits for its read-back is written when the read returns (R384). -/
theorem doReadback_of_front {q : Compl} {qs : List Compl} (hx : (c.ring r).compl = q :: qs) (hw : q.writes = true)
    (hc : c.readbackChannel r = none) :
    doReadback r ok c =
      (if ok then (c.setRing r { c.ring r with compl := qs }).complete r q
       else (c.setRing r { c.ring r with compl := qs }).hostErr.complete r { q with status := stHostErr }).flushCompl 9 r := by
  simp only [doReadback, hc, hx, hw, if_true]

theorem doCoalesce_of_due (hu : (c.ring r).unsig ≠ 0) (ht : (c.ring r).coalUs ≠ 0) :
    doCoalesce r c = (c.setRing r { c.ring r with unsig := 0 }).msix (c.ring r).vec :=
  if_neg (not_or.2 ⟨hu, ht⟩)

end Readback

/-! ### The obligation -/

/-- Settles O30: the front item is muted, waits for its window, goes to ring 0, takes a buffer, waits for one or is dropped, each
case after those before it have failed. -/
theorem outboundItems : Obligations.OutboundItems := by
  refine fun s r h => ⟨fun i is hi hl hd => ⟨fun hm => act_does_of h (doDeliver_of_muted hi hl hd hm),
      fun hm hs => act_does_of h (doDeliver_of_shut hi hl hd hm hs),
      fun hm hs hr hg => act_does_of h (doDeliver_of_stale hi hl hd hm hs hr hg), fun hm hs hg => ?current⟩,
    fun hx => act_does_of h (doDeliver_of_idle hx),
    fun q qs hx hw hc => ⟨act_does_of h (doReadback_of_front hx hw hc), act_does_of h (doReadback_of_front hx hw hc)⟩,
    fun ch j hc hj => ⟨act_does_of h (doReadback_of_channel hc hj), act_does_of h (doReadback_of_channel hc hj)⟩,
    fun hx => act_does_of h (if_pos hx), fun hu ht => act_does_of h (doCoalesce_of_due hu ht)⟩
  case current =>
    have hnone hx := doDeliver_of_no_buffer hi hl hd hm hs hg hx
    refine ⟨fun d ds hx hdead hop hb => act_does_of h (doDeliver_of_buffer hi hl hd hm hs hg hx hdead hop hb),
      fun hx he hr => ?drop, fun hx he hr => ?dropZero, fun hx hf he => act_does_of h ((hnone hx).trans (if_pos ⟨hf, he⟩))⟩
    case drop =>
      exact act_does_of h ((hnone hx).trans ((if_neg fun hw => hw.1 (he.resolve_right (by simp [hw.2]))).trans (if_neg hr)))
    case dropZero =>
      exact act_does_of h ((hnone hx).trans ((if_neg fun hw => hw.1 (he.resolve_right (by simp [hw.2]))).trans (if_pos hr)))

end Sys2Proof.Machine
end

section
/-! PROOFS. The Breath governor (O52): its ticks, the messages to the plant, and the bounds of ceiling and rate. -/

namespace Sys2Proof.Machine

/-- A command of the Drone domain whose effect on the present core is `g`. -/
theorem actDrone_does_of {f g : Core → Core} {s : State} (e : f s.core = g s.core) : actDrone f s = s.does g :=
  State.does_congr e

/-! ### Ticks (R285, R287, R288) -/

section Ticks

variable (c : Core)

/-- The counts of a Breath tick, which go on in a freeze: the coolant's age and the seconds of a warning (R287, R430). -/
def Core.breathAged : Core :=
  ({ c with plant := { c.plant with coolMs := min (c.plant.coolMs + 1) 0xFFFF } }).modPower
    (fun p => { p with warnMs := if c.plant.warn then p.warnMs + 1 else 0 })

theorem doBreathTick_of_on (h : c.droneOn = true) :
    doBreathTick c = if c.dbg.frozen = true then c.breathAged else c.breathAged.accrue.preRollTick.rampTick := by
  rw [doBreathTick, h, Core.when_true]
  rfl

@[simp] theorem Core.plantSend_power (t : Nat) (b : List Byte) : (c.plantSend t b).power = c.power := by
  unfold Core.plantSend
  split_ifs <;> rfl

@[simp] theorem Core.plantSend_regs (t : Nat) (b : List Byte) : (c.plantSend t b).regs = c.regs := by
  unfold Core.plantSend
  split_ifs <;> rfl

/-- A forecast tick begins the next slot and leaves mode, duty and registers (R288). -/
theorem doForecastTick_keeps (h : c.droneOn = true) :
    (doForecastTick c).power.fcSlot = c.power.fcSlot + 1 ∧ (doForecastTick c).power.mode = c.power.mode ∧
      (doForecastTick c).power.duty = c.power.duty ∧ (doForecastTick c).regs = c.regs := by
  rw [doForecastTick, h, Core.when_true]
  dsimp only
  rw [Core.plantSend_power, Core.plantSend_regs]
  split_ifs <;> exact ⟨rfl, rfl, rfl, rfl⟩

theorem doDemand_of_met (h : c.target0 0 ≤ c.ceiling) : doDemand c = c := by
  simp [doDemand, not_lt.2 h]

end Ticks

/-! ### Bounds (R285, R287, R288) -/

/-- A fold whose steps never rise ends no higher than it began. -/
theorem foldl_le_of_step_le {α : Type} {f : Nat → α → Nat} (h : ∀ m a, f m a ≤ m) (l : List α) (m : Nat) : l.foldl f m ≤ m := by
  induction l generalizing m with
  | nil => exact le_rfl
  | cons a l ih => exact (ih (f m a)).trans (h m a)

section Bounds

variable (c : Core)

/-- No term of the ceiling raises it above 620 W (R287, R293). -/
theorem Core.ceiling_le : c.ceiling ≤ 6200 := by
  unfold Core.ceiling
  refine (Nat.sub_le ..).trans ((foldl_le_of_step_le (fun m a => ?_) _ _).trans (min_le_right ..))
  cases a with
  | none => exact le_rfl
  | some x => exact min_le_left ..

theorem Core.rampUp_le : c.rampUp ≤ 20000 := max_le (by decide) (min_le_left ..)

theorem Core.rEff_le : c.rEff ≤ 20000 := by
  have h := c.rampUp_le
  unfold Core.rEff
  dsimp only
  split_ifs <;> omega

theorem Core.forecastVal_le (j : Nat) : c.forecastVal j ≤ c.ceiling ∧ c.forecastVal j ≤ 0xFFFF :=
  ⟨(min_le_right ..).trans (min_le_left ..), (min_le_right ..).trans (min_le_right ..)⟩

end Bounds

/-! ### The obligation -/

/-- Settles O52: without the Drone supply nothing happens; with it a Breath tick is its counts and, outside a freeze, the governor's
steps (`doBreathTick_of_on`), a forecast tick keeps what it does not advance, and the bounds follow from the folds and minima. -/
theorem breathCommands : Obligations.BreathCommands := by
  refine ⟨fun s => ⟨fun hd => ?off, fun hd => ?on⟩, fun s h => ⟨fun hb hd => ?sent, fun hb => ?unsent⟩,
    fun c => ⟨rfl, rfl, rfl, rfl⟩, fun c j => c.forecastVal_le j, fun c => ⟨c.ceiling_le, c.rEff_le⟩⟩
  case off =>
    exact ⟨actDrone_does_of (if_neg (by simp [hd])), actDrone_does_of (if_neg (by simp [hd])),
      actDrone_does_of (if_neg (by simp [hd])), actDrone_does_of (if_neg (by simp [hd]))⟩
  case on =>
    exact ⟨fun hf => actDrone_does_of ((doBreathTick_of_on _ hd).trans (if_pos hf)),
      fun hf => actDrone_does_of ((doBreathTick_of_on _ hd).trans (if_neg (by simp [hf]))),
      actDrone_does_of (if_pos hd), fun ht => actDrone_does_of (doDemand_of_met _ ht),
      fun ht => actDrone_does_of (if_pos (by simp [hd, ht])),
      State.does_leaves (actDrone_does ..) (doForecastTick_keeps _ hd)⟩
  case sent => exact act_does_of h (if_pos (by simp [hb, hd]))
  case unsent =>
    refine act_does_of h (if_neg ?_)
    obtain hb | hb := hb <;> simp [hb]

end Sys2Proof.Machine
end

section
/-! PROOFS. The plant port and the temperatures (O53): the first message in received bytes, what each kind of message does, and
what each reading leaves of the plant's record. -/

namespace Sys2Proof.Machine

/-! ### The receiver (R289, R290) -/

section Receiver

variable (body crc rest : List Byte) (t n : Byte)

/-- The receiver drops what comes before the sync byte and takes as many bytes as LEN says, with the CRC (R289). -/
theorem plantMsg_framed {junk : List Byte} (hj : ∀ b ∈ junk, b ≠ 0xA5) (hb : body.length = n.toNat) (hc : crc.length = 2) :
    plantMsg (junk ++ (0xA5 :: t :: n :: (body ++ (crc ++ rest)))) = (some (plantKind t n body crc, body), rest) := by
  have hskip : (junk ++ (0xA5 :: t :: n :: (body ++ (crc ++ rest)))).dropWhile (fun b => b != 0xA5) =
      0xA5 :: t :: n :: (body ++ (crc ++ rest)) := by
    rw [List.dropWhile_append_of_pos (fun b hm => bne_iff_ne.2 (hj b hm))]
    rfl
  have hlen : ¬ (body ++ (crc ++ rest)).length < n.toNat + 2 := by
    simp only [List.length_append]
    omega
  unfold plantMsg
  rw [hskip]
  dsimp only
  rw [if_neg hlen, ← hb, ← hc, List.take_left, List.drop_left, List.take_left, ← List.drop_drop, List.drop_left, List.drop_left]

/-- The CRC of a message in the order in which its bytes come (R289). -/
theorem leBytes_two_reverse (v : Nat) : (leBytes 2 v).reverse = [BitVec.ofNat 8 (v / 256), BitVec.ofNat 8 v] := rfl

theorem plantLen_eq_iff {k : Nat} : plantLen t.toNat = some k ↔
    t.toNat = 0x81 ∧ k = 4 ∨ t.toNat = 0x82 ∧ k = 6 ∨ t.toNat = 0x83 ∧ k = 2 := by
  unfold plantLen
  split_ifs with h1 h2 h3
  · simp [h1, eq_comm]
  · simp [h2, eq_comm]
  · simp [h3, eq_comm]
  · simp [h1, h2, h3]

end Receiver

/-! ### Messages (R289 to R293) -/

section Messages

variable {c : Core} {bytes : List Byte} {row : Nat → Bool} {f : Nat → List Byte → Core → Core}

theorem plantIn_of_disabled (h : (c.droneOn && c.plantEn) = false) : plantIn bytes row f c = c :=
  if_neg (Bool.eq_false_iff.1 h)

variable (h : (c.droneOn && c.plantEn) = true)
include h

/-- Bytes that complete no message are kept. -/
theorem plantIn_of_part (hm : (plantMsg (c.plant.rx ++ bytes)).1 = none) :
    plantIn bytes row f c = c.modPlant (fun p => { p with rx := (plantMsg (c.plant.rx ++ bytes)).2 }) := by
  rw [plantIn, h, Core.when_true]
  split
  next e => rw [e]
  next e => rw [e] at hm; exact absurd hm (Option.some_ne_none _)

/-- A message of a command's row has its effect, and one of another row is no command of this one. -/
theorem plantIn_of_message {k : Nat} {m : List Byte} (hm : (plantMsg (c.plant.rx ++ bytes)).1 = some (k, m)) :
    plantIn bytes row f c =
      if row k = true then f k m (c.modPlant (fun p => { p with rx := (plantMsg (c.plant.rx ++ bytes)).2 })) else c := by
  rw [plantIn, h, Core.when_true]
  split
  next e => rw [e] at hm; exact absurd hm.symm (Option.some_ne_none _)
  next m' _ e =>
    rw [e] at hm
    obtain rfl : m' = (k, m) := Option.some.inj hm
    rw [e]
    rfl

end Messages

section Alarm

variable {c : Core} {m : List Byte}

/-- A second ALARM during QUIESCE changes no more than its code (R292). -/
theorem doAlarm_of_again (hq : c.power.mode = .quiesce) (hl : c.plant.latch = true) :
    doAlarm m c = c.plantOk1.modPlant (fun p => { p with code := leAt m 0 1 }) := if_pos ⟨hq, hl⟩

theorem doAlarm_of_first (h : c.power.mode ≠ .quiesce ∨ c.plant.latch = false) :
    doAlarm m c = (((c.plantOk1.modPlant (fun p => { p with latch := true, code := leAt m 0 1, alarmRun := true })).raise
      .plant 0).report .plant 0x60 clsS 0).alarmStop := by
  refine if_neg (show ¬ (c.power.mode = .quiesce ∧ c.plant.latch = true) from ?_)
  rintro ⟨hq, hl⟩
  obtain h | h := h
  · exact h hq
  · simp [hl] at h

end Alarm

theorem doPlantSilent_of_silent {c : Core} (h : c.plant.silent = true) : doPlantSilent c = c := by simp [doPlantSilent, h]

/-- The first silence of an episode is raised and reported (R293). -/
theorem doPlantSilent_of_first {c : Core} (h : (c.droneOn && c.plantEn) = true) (hs : c.plant.silent = false) :
    doPlantSilent c = ((c.modPlant (fun p => { p with silent := true, silCeil := if p.granted then none else some c.drawNow })).raise
      .plant 1).report .plant 0x61 c.clsDN 0 := by
  rw [doPlantSilent, h, hs]
  rfl

/-! ### Readings (R295 to R298) -/

section Readings

variable (c : Core)

theorem Core.tachFlow_fst (n : Nat) :
    (bits (c.rd .plant 0x060) 15 0 ≠ 0 → (c.tachFlow n).1 = min (n * 6000 / bits (c.rd .plant 0x060) 15 0) 0xFFFF) ∧
      (c.tachFlow n).1 ≤ 0xFFFF := by
  unfold Core.tachFlow
  dsimp only
  split_ifs with h
  · exact ⟨fun hn => absurd h hn, Nat.le_of_lt_succ (Nat.mod_lt _ (by decide))⟩
  · exact ⟨fun _ => rfl, min_le_right ..⟩

theorem Core.tachFlow_plant (n : Nat) : (c.tachFlow n).2.plant = c.plant := by
  unfold Core.tachFlow
  dsimp only
  split_ifs <;> rfl

/-- A pulse count gives the flow, and changes FLOW_LOW only as the second in a row (R295). -/
theorem doFlow_plant (n : Nat) (h : c.droneOn = true) :
    ∃ low secs, (doFlow n c).plant = { c.plant with tach := (c.tachFlow n).1, flowLow := low, flowSecs := secs } ∧
      (c.plant.flowSecs = 0 → low = c.plant.flowLow) := by
  rw [← c.tachFlow_plant n, doFlow, h, Core.when_true]
  rcases c.tachFlow n with ⟨q, d⟩
  dsimp only
  split_ifs with _ _ hs _ hs
  · exact ⟨_, _, rfl, fun _ => rfl⟩
  · exact ⟨_, _, rfl, fun _ => rfl⟩
  · exact ⟨_, _, rfl, fun h0 => absurd h0 hs⟩
  · exact ⟨_, _, rfl, fun _ => rfl⟩
  · exact ⟨true, 0, by rw [Core.report_plant, Core.raise_plant]; rfl, fun h0 => absurd h0 hs⟩
  · exact ⟨_, _, rfl, fun _ => rfl⟩

/-- The readings of the part's junction sensors, each with the number of its sensor (R296). -/
def Core.tjList (rs : List (BitVec 16)) : List (Int × Nat) :=
  c.part.sensors.filterMap (fun k => (rs[k]?).map (fun r => (r.toInt, k)))

/-- The second part of TJ_READ: THERM_WARN by the readings (R297). -/
def Core.thermWarn (l : List (Int × Nat)) : Core :=
  if c.plant.warn then
    if l.all (fun e => decide (e.1 < 9700)) then (c.modPlant (fun p => { p with warn := false })).unhold 0 else c
  else if l.any (fun e => decide (10000 ≤ e.1)) then
    (((c.hold 0).modPlant (fun p => { p with warn := true })).raise .therm 0).report .therm 0x63 clsD 0
  else c

theorem doTjRead_eq_thermWarn {rs : List (BitVec 16)} (h : c.droneOn = true) (hl : c.tjList rs ≠ []) :
    ∃ d : Core, d.plant.warn = c.plant.warn ∧ doTjRead rs c = d.thermWarn (c.tjList rs) := by
  have hon : (c.droneOn && !(c.tjList rs).isEmpty) = true := by rw [h, List.isEmpty_eq_false_iff.2 hl]; rfl
  refine ⟨_, ?_, if_pos hon⟩
  split <;> rfl

/-- THERM_WARN ends once all readings are below 97 °C (R297). -/
theorem Core.thermWarn_of_warn (l : List (Int × Nat)) (h : c.plant.warn = true) :
    (c.thermWarn l).plant.warn = l.any (fun e => decide (9700 ≤ e.1)) := by
  have hall : l.all (fun e => decide (e.1 < 9700)) = !l.any (fun e => decide (9700 ≤ e.1)) := by
    simp [List.all_eq_not_any_not, ← decide_not]
  rw [Core.thermWarn, if_pos h, hall]
  cases l.any (fun e => decide (9700 ≤ e.1))
  · rfl
  · exact h

/-- THERM_WARN begins with a reading of 100 °C or more (R297). -/
theorem Core.thermWarn_of_calm (l : List (Int × Nat)) (h : c.plant.warn = false) :
    (c.thermWarn l).plant.warn = l.any (fun e => decide (10000 ≤ e.1)) := by
  rw [Core.thermWarn, if_neg (Bool.eq_false_iff.1 h)]
  cases l.any (fun e => decide (10000 ≤ e.1))
  · exact h
  · rw [if_pos rfl, Core.report_plant, Core.raise_plant]; rfl

/-- A reading of the case sensor ends a run of missing ones, and marks a temperature outside 0 to 85 °C (R297). -/
theorem Core.caseRead_some (w : BitVec 16) :
    (c.caseRead (some w)).plant = { c.plant with
      caseT := ofInt 16 (i2cTemp w), failRun := 0, sensorFail := false,
      caseBad := decide (i2cTemp w < 0 ∨ 8500 < i2cTemp w) } := by
  unfold Core.caseRead
  dsimp only
  cases decide (i2cTemp w < 0 ∨ 8500 < i2cTemp w) <;> cases hb : c.plant.caseBad
  all_goals simp [Core.modPlant, Core.unhold, Core.hold, hb]

/-- The third missing reading of the case sensor in a row is SENSOR_FAIL (R297). -/
theorem Core.caseRead_none :
    (c.caseRead none).plant = { c.plant with
      failRun := c.plant.failRun + 1, sensorFail := c.plant.sensorFail || decide (2 ≤ c.plant.failRun) } := by
  unfold Core.caseRead
  dsimp only
  by_cases h : 2 ≤ c.plant.failRun <;> cases hb : c.plant.sensorFail
  all_goals simp [Core.modPlant, h, hb]

end Readings

/-! ### The obligation -/

/-- Settles O53: received bytes are a part of a message or complete one (`plantIn_of_part`, `plantIn_of_message`), whose effect is
that of its kind; each reading leaves the record that its own lemma gives. -/
theorem plantCommands : Obligations.PlantCommands := by
  refine ⟨fun s => ⟨fun hup a b bs => ?disabled, fun hd => actDrone_does_of (if_pos hd),
      fun hd => actDrone_does_of (if_neg (by simp [hd])), fun hup => ?enabled, fun hd => ?on, fun hd => ?off⟩,
    fun junk body crc rest t n hj hb hc => plantMsg_framed body crc rest t n hj hb hc, fun body crc t n => ?kind,
    fun s h => regCmd_does _ _ _ s h, fun s rs hd hl => ?tj, fun c w => ?caseTemp, fun c => ?missing⟩
  case disabled =>
    exact ⟨actDrone_does_of (plantIn_of_disabled hup), actDrone_does_of (plantIn_of_disabled hup),
      actDrone_does_of (plantIn_of_disabled hup), actDrone_does_of (plantIn_of_disabled hup),
      actDrone_does_of (if_neg (by simp [hup]))⟩
  case enabled =>
    refine ⟨?messages, fun hs => actDrone_does_of (doPlantSilent_of_silent hs),
      fun hs => actDrone_does_of (doPlantSilent_of_first hup hs)⟩
    case messages =>
      rintro h x y _ rfl
      refine ⟨fun hn => ⟨actDrone_does_of (plantIn_of_part hup hn), actDrone_does_of (plantIn_of_part hup hn),
        actDrone_does_of (plantIn_of_part hup hn), actDrone_does_of (plantIn_of_part hup hn)⟩, fun k m hm => ?_⟩
      have hin {row f} := plantIn_of_message (row := row) (f := f) hup hm
      exact ⟨fun hk => actDrone_does_of (hin.trans (if_pos (by simp [hk]))),
        fun hk => actDrone_does_of (hin.trans (if_pos (by simp [hk]))),
        fun hk hq hl => actDrone_does_of ((hin.trans (if_pos (by simp [hk]))).trans (doAlarm_of_again hq hl)),
        fun hk hf => actDrone_does_of ((hin.trans (if_pos (by simp [hk]))).trans (doAlarm_of_first hf)),
        fun hk => actDrone_does_of (hin.trans ((if_pos (by simp [hk])).trans (by rw [hk]; rfl))),
        fun hk => actDrone_does_of (hin.trans ((if_pos (by simp [hk])).trans (by rw [hk]; rfl))),
        fun hk => actDrone_does_of (hin.trans (if_neg (by simp [hk]))),
        fun hk => actDrone_does_of (hin.trans (if_neg (by simp [hk]))),
        fun hk => actDrone_does_of (hin.trans (if_neg (by simp [hk]))),
        fun hk => actDrone_does_of (hin.trans (if_neg (by simp only [decide_eq_true_eq]; omega)))⟩
  case on =>
    refine ⟨actDrone_does_of (if_pos hd), fun n => State.does_leaves (actDrone_does ..) ?flow,
      fun rs => actDrone_does_of ?i2c⟩
    case flow =>
      obtain ⟨low, secs, hp, hlow⟩ := doFlow_plant s.core n hd
      obtain ⟨htach, hmax⟩ := s.core.tachFlow_fst n
      rw [hp]
      exact ⟨htach, hmax, fun hf hs => (hlow hs).trans hf, fun hf hs => (hlow hs).trans hf⟩
    case i2c =>
      rw [doI2c, hd, Core.when_true]
      refine congrArg (fun f => (List.range 8).foldl f s.core) (funext fun c => funext fun i => ?_)
      cases nth none rs i <;> rfl
  case off =>
    exact ⟨actDrone_does_of (if_neg (by simp [hd])), fun n => actDrone_does_of (if_neg (by simp [hd])),
      fun rs => actDrone_does_of (if_neg (by simp [hd])), fun ts => actDrone_does_of (if_neg (by simp [hd]))⟩
  case kind =>
    exact ⟨fun hg => if_pos hg,
      fun hg hf => (if_neg (not_not.2 hg)).trans (if_pos ((plantLen_eq_iff t).2 hf)),
      fun hg hf => (if_neg (not_not.2 hg)).trans (if_neg (mt (plantLen_eq_iff t).1 hf))⟩
  case tj =>
    refine State.does_leaves (actDrone_does ..) ?_
    obtain ⟨d, hw, e⟩ := doTjRead_eq_thermWarn s.core hd hl
    rw [e, ← hw]
    exact ⟨d.thermWarn_of_calm _, d.thermWarn_of_warn _⟩
  case caseTemp =>
    rw [Core.caseRead_some]
    exact ⟨rfl, rfl, rfl, decide_eq_true_iff⟩
  case missing =>
    rw [Core.caseRead_none]
    exact ⟨rfl, rfl, by simp⟩

end Sys2Proof.Machine
end

section
/-! PROOFS. The start, the stop and power domains (O50): the steps of a start and of the end of a stop, the synchronising reset, and
the switches of domains. -/

namespace Sys2Proof.Machine

/-! ### The steps of a start (R280) -/

section Start

variable {c : Core}

theorem doPreRoll_of_image {i : Image} (hi : c.img = some i) (hs : c.starting = true) (hp : c.power.phase = .powering) :
    doPreRoll c = if (i.domains c.part.dies).all (fun n => c.domOn n && c.power.ready.testBit n) = true then
      c.modPower (fun p => { p with phase := .preRoll }) else c := by
  simp only [doPreRoll, hi, hs, hp, true_and]

theorem doPreRoll_of_other (h : c.img = none ∨ c.starting = false ∨ c.power.phase ≠ .powering) : doPreRoll c = c := by
  unfold doPreRoll
  split
  next i hi =>
    refine if_neg fun ⟨hs, hp, _⟩ => ?_
    obtain h | h | h := h
    · simp [hi] at h
    · simp [hs] at h
    · exact h hp
  next => rfl

theorem doT0_of_other (h : c.img = none ∨ c.starting = false ∨ c.power.phase ≠ .waitT0) : doT0 c = c := by
  unfold doT0
  split
  next => rfl
  next i hi => exact if_pos (h.resolve_left (by simp [hi]))

end Start

/-! ### The synchronising reset (R89, R280) -/

/-- What every step of a fold keeps, the fold keeps. -/
theorem foldl_keeps {α β γ : Type} {f : α → β → α} (p : α → γ) (h : ∀ a b, p (f a b) = p a) (l : List β) (a : α) :
    p (l.foldl f a) = p a := by
  induction l generalizing a with
  | nil => rfl
  | cons b l ih => exact (ih (f a b)).trans (h a b)

section SyncReset

variable (c : Core)

/-- A Chanter begins anew (R234, R280). -/
def Core.chanterRestart (x : Nat) : Core := (c.setChanter x { st := .running }).wr (chanterPage x) 0x180 0

theorem Core.chanter_restarts (l : List Nat) (y : Nat) :
    (l.foldl Core.chanterRestart c).chanter y = if y ∈ l then { st := .running } else c.chanter y := by
  induction l generalizing c with
  | nil => rfl
  | cons x l ih =>
    rw [List.foldl_cons, ih, Core.chanterRestart, Core.chanter_wr, Core.chanter_setChanter]
    by_cases hl : y ∈ l <;> by_cases hx : y = x <;> simp [hl, hx]

/-- The core after the memories and the Chanters of a start: the first two steps of the synchronising reset. -/
def Core.restarted : Core :=
  (4 :: List.range c.part.dies).foldl Core.chanterRestart
    ((List.range c.part.dies).foldl (fun c d => c.modX d XDieS.fresh) c)

theorem Core.restarted_keeps {γ : Type} (p : Core → γ) (hx : ∀ c d, p (c.modX d XDieS.fresh) = p c)
    (hr : ∀ c x, p (Core.chanterRestart c x) = p c) : p c.restarted = p c :=
  (foldl_keeps p hr _ _).trans (foldl_keeps p hx _ _)

theorem Core.chanter_restarted {x : Nat} (h : x = 4 ∨ x < c.part.dies) : c.restarted.chanter x = { st := .running } := by
  rw [Core.restarted, Core.chanter_restarts, if_pos]
  rw [List.mem_cons, List.mem_range]
  exact h

theorem Core.syncReset_chanters : c.syncReset.chanters = c.restarted.chanters := by
  unfold Core.syncReset
  dsimp only
  rw [Core.wr64_chanters]
  rfl

theorem Core.syncReset_img : c.syncReset.img = c.restarted.img := by
  unfold Core.syncReset
  dsimp only
  rw [Core.wr64_img]
  rfl

theorem Core.syncReset_gain : c.syncReset.io.gain = c.restarted.io.gain := by
  unfold Core.syncReset
  dsimp only
  rw [Core.wr64_io]
  rfl

/-- Every Chanter of the part begins anew; image and gains stand, and the slots of ingest and the sequence numbers of the frames
are cleared (R89, R280). -/
theorem Core.syncReset_leaves {x : Nat} (h : x = 4 ∨ x < c.part.dies) :
    c.syncReset.chanter x = { st := .running } ∧ c.syncReset.img = c.img ∧ c.syncReset.io.gain = c.io.gain ∧
      c.syncReset.ingest.slots = [] ∧ c.syncReset.host.seqs = [] := by
  refine ⟨(Core.chanter_congr c.syncReset_chanters x).trans (c.chanter_restarted h), c.syncReset_img.trans ?img,
    c.syncReset_gain.trans ?gain, rfl, rfl⟩
  case img => exact c.restarted_keeps Core.img (fun _ _ => rfl) (fun _ _ => rfl)
  case gain => exact c.restarted_keeps (fun d => d.io.gain) (fun _ _ => rfl) (fun _ _ => rfl)

end SyncReset

/-! ### The end of a stop, and the switches (R281, R283, R285) -/

section Switches

variable {c : Core} {n : Nat}

theorem Core.enterMode_mode (m : Mode) : (c.enterMode m).power.mode = m := by
  unfold Core.enterMode
  dsimp only
  by_cases h : c.power.mode = m
  · rw [if_pos h]; exact h
  · rw [if_neg h, Core.raise_power]; rfl

theorem doPowerDownDone_of_done (hp : c.power.phase = .powerDown) (hw : ∀ e ∈ c.power.want, e.2 = true) :
    doPowerDownDone c = (c.modPower (fun p =>
      { p with phase := .steady, image := none, ramp := false, stopDrain := false })).enterMode .idle :=
  if_pos ⟨hp, by simpa using hw⟩

theorem doPowerDownDone_of_left (h : c.power.phase ≠ .powerDown ∨ ∃ e ∈ c.power.want, e.2 = false) :
    doPowerDownDone c = c := by
  refine if_neg fun ⟨hp, hw⟩ => ?_
  obtain h | ⟨e, he, hf⟩ := h
  · exact h hp
  · simp only [List.any_eq_false] at hw
    exact hw e he (by simp [hf])

/-- A switch-on waits its turn, for credit and for the ceiling (R283, R285). -/
theorem doSwitchOn_of_waiting (h : c.power.nextOn ≠ some n ∨ c.power.credit < idleOf n ∨
    c.ceiling * 1000 < c.pDraw + idleOf n) : doSwitchOn n c = c := by
  refine if_neg fun ⟨hn, hc, hd⟩ => ?_
  obtain h | h | h := h
  · exact h hn
  · omega
  · omega

/-- A switch-off waits its turn, for down-credit and for the messages of its pages (R283, R285). -/
theorem doSwitchOff_of_waiting (h : c.power.nextOff ≠ some n ∨ c.power.down < idleOf n ∨ c.domPending n = true) :
    doSwitchOff n c = c := by
  refine if_neg fun ⟨hn, hc, hd⟩ => ?_
  obtain h | h | h := h
  · exact h hn
  · omega
  · simp [hd] at h

theorem doDomainReady_of_other (h : c.domOn n = false ∨ c.power.ready.testBit n = true) : doDomainReady n c = c := by
  refine if_neg fun ⟨hn, hr⟩ => ?_
  obtain h | h := h
  · simp [hn] at h
  · simp [hr] at h

end Switches

/-! ### The obligation -/

/-- Settles O50: each command acts where its condition holds, by the lemma of that case, and the synchronising reset keeps what
its folds keep (`Core.syncReset_leaves`). -/
theorem startStopAndDomains : Obligations.StartStopAndDomains := by
  refine ⟨fun s h => ⟨fun i hi hs hp => ⟨fun hd => ?ready, fun n hn hd => ?unready⟩,
      fun hb => act_does_of h (doPreRoll_of_other hb), fun hs hc => act_does_of h (if_pos ⟨hs, hc⟩), fun hb => ?ceiling,
      fun hs hp => act_does_of h (if_pos ⟨hs, hp⟩), fun hb => ?late, fun hb => act_does_of h (doT0_of_other hb),
      fun i hi hs hp => ?t0,
      fun hp hw => act_does_of h (doPowerDownDone_of_done hp hw), fun hb => act_does_of h (doPowerDownDone_of_left hb),
      fun n => ⟨fun hn hc hd => act_does_of h (if_pos ⟨hn, hc, hd⟩), fun hb => act_does_of h (doSwitchOn_of_waiting hb),
        fun hn hc hd => act_does_of h (if_pos ⟨hn, hc, hd⟩), fun hb => act_does_of h (doSwitchOff_of_waiting hb),
        fun hn hr => act_does_of h (if_pos ⟨hn, hr⟩), fun hb => act_does_of h (doDomainReady_of_other hb)⟩⟩,
    fun c x hx => c.syncReset_leaves hx, fun c m => Core.enterMode_mode m,
    fun s x late h ha => issue_not _ h ha, fun s x late i t ins h ha => issue_does _ h ha⟩
  case ready =>
    exact act_does_of h ((doPreRoll_of_image hi hs hp).trans (if_pos (by simpa using hd)))
  case unready =>
    refine act_does_of h ((doPreRoll_of_image hi hs hp).trans (if_neg fun hall => ?_))
    have hon := List.all_eq_true.1 hall n hn
    obtain hd | hd := hd <;> simp [hd] at hon
  case t0 =>
    refine act_does_of h ?_
    simp only [doT0, hi]
    exact if_neg (by simp [hs, hp])
  case ceiling =>
    refine act_does_of h (if_neg fun ⟨hs, hc⟩ => ?_)
    obtain hb | hb := hb
    · simp [hs] at hb
    · omega
  case late =>
    refine act_does_of h (if_neg fun ⟨hs, hp⟩ => ?_)
    obtain hb | hb := hb
    · simp [hs] at hb
    · exact hp hb

end Sys2Proof.Machine
end

section
/-! PROOFS. What every step keeps (O1, O2, O4, O6 to O8): a step is the command at the front of the queue or the tick, the bounds
of the collector and the Fatal latch are closed under every change of the collector, and a freeze stops every other command. -/

namespace Sys2Proof.Machine

/-! ### A step (R315, R319) -/

theorem step_of_pending {c : Instr} {rest : List Instr} {s : State} (h : s.pending = c :: rest) :
    step s = exec c { s with pending := rest } := by
  unfold step
  rw [h]

theorem step_of_idle {s : State} (h : s.pending = []) : step s = .next s.tick := by
  unfold step
  rw [h]

/-- The tick counts TC and LTB, each where its domain runs. -/
theorem State.tick_eq (s : State) :
    s.tick = { s with core := { s.core with time := { s.core.time with
      tc := if s.core.domOn 35 = true ∧ s.core.dbg.frozen = false then s.core.time.tc + 65536 else s.core.time.tc,
      ltbSub := if s.core.droneOn = true then s.core.time.ltbSub + 1 else s.core.time.ltbSub } } } := by
  simp only [State.tick, Bool.and_eq_true, Bool.not_eq_true']
  by_cases hd : s.core.droneOn = true <;> by_cases ht : s.core.domOn 35 = true ∧ s.core.dbg.frozen = false <;> simp [hd, ht]

/-- Settles O1. -/
theorem stepRunsFront : Obligations.StepRunsFront := fun _ _ _ => step_of_pending

/-- Settles O2: the tick, field by field (`State.tick_eq`). -/
theorem idleStepIsATick : Obligations.IdleStepIsATick := fun s h => by rw [step_of_idle h, s.tick_eq]

/-! ### The collector (R416, R420) -/

/-- A step keeps what every change of the collector keeps, a power cycle apart. -/
theorem step_closed {P : State → Prop} (h : State.Closed P) (hq : ∀ s q, P s → P { s with pending := q }) {s t : State}
    (hp : P s) (hs : step s = .next t) (hc : s.pending.head? ≠ some .powerCycle) : P t := by
  cases hl : s.pending with
  | nil =>
    rw [step_of_idle hl] at hs
    cases hs
    exact h.core s _ hp
  | cons i rest =>
    rw [step_of_pending hl] at hs
    obtain ⟨u, hu, hpu⟩ := exec_closed h i { s with pending := rest } (hq s rest hp) (fun e => hc (by rw [hl, e]; rfl))
    rw [hu] at hs
    cases hs
    exact hpu

theorem Collector.ok_iff (l : Collector) : l.ok = true ↔ l.hist.length ≤ 32 ∧ (l.fatal ≠ none → l.latch = true) := by
  unfold Collector.ok
  cases l.latch <;> cases l.fatal <;> simp

/-- A message keeps the bounds: the history is cut at 32, and a class that is recorded as Fatal sets the latch. -/
theorem Collector.ok_accept {l : Collector} (r : FaultRec) (cls page : Nat) (h : l.ok = true) :
    (l.accept r cls page).ok = true := by
  rw [Collector.ok_iff] at h ⊢
  refine ⟨List.length_take_le .., fun hf => ?_⟩
  rw [Collector.latch_accept, Collector.latch_mark]
  obtain h3 | h3 := Nat.lt_or_ge cls 3
  · have hl : l.fatal ≠ none := by simpa [Collector.accept, Nat.ne_of_lt h3] using hf
    rw [h.2 hl, Bool.or_true]
  · simp [h3]

/-- The bounds are closed: the commands of page FLT set no record, and CLR_HIST empties both (R437). -/
theorem closed_collectorOk : State.Closed (fun s => s.col.ok = true) where
  core _ _ h := h
  accept _ _ h := Collector.ok_accept _ _ _ h
  ack _ _ h := h
  first _ h := h
  clear s _ := by rw [Collector.ok_iff]; exact ⟨Nat.zero_le _, fun h => absurd rfl h⟩
  sel _ _ h := h
  noSel _ h := h
  perst _ h := h

/-- The Fatal latch is closed: a message can only set it, and no command of page FLT clears it (R420, R437). -/
theorem closed_latch : State.Closed (fun s => s.col.latch = true) where
  core _ _ h := h
  accept _ _ h := by
    refine (Collector.latch_accept ..).trans ?_
    rw [Collector.latch_mark, h, Bool.or_true]
  ack _ _ h := h
  first _ h := h
  clear _ h := h
  sel _ _ h := h
  noSel _ h := h
  perst _ h := h

/-- Settles O4. -/
theorem collectorBoundsAtReset : Obligations.CollectorBoundsAtReset :=
  (Collector.ok_iff _).2 ⟨Nat.zero_le 32, fun h => absurd rfl h⟩

/-- Settles O7: the latch is closed (`closed_latch`). -/
theorem fatalLatchHolds : Obligations.FatalLatchHolds := fun _ _ h hs hc =>
  step_closed closed_latch (fun _ _ h => h) h hs hc

/-- Settles O6: the bounds are closed (`closed_collectorOk`), and a power cycle leaves an empty collector. -/
theorem collectorBoundsKept : Obligations.CollectorBoundsKept := by
  intro s t h hs
  by_cases hc : s.pending.head? = some .powerCycle
  · obtain ⟨rest, hl⟩ := List.head?_eq_some_iff.1 hc
    rw [step_of_pending hl] at hs
    cases hs
    exact collectorBoundsAtReset
  · exact step_closed closed_collectorOk (fun _ _ h => h) h hs hc

/-! ### Freeze (R430) -/

/-- A change of the whole device is none in a freeze. -/
theorem live_frozen (f : State → State) {s : State} (h : s.core.dbg.frozen = true) :
    (.next (s.live f) : Host.Outcome State Fault Refusal) = .next s := by rw [State.live, if_pos h]

/-- The locks of the control crossbar stand in a freeze, whatever the master. -/
theorem lockCmd_frozen (i : Instr) (m : Master) (f : Core → Core) {s : State} (h : s.core.dbg.frozen = true) :
    lockCmd i m f s = .next s := by
  cases m <;> exact live_frozen _ h

/-- Settles O8: every command that a freeze stops is a change of the whole device (`live_frozen`). -/
theorem freezeHoldsAllState : Obligations.FreezeHoldsAllState := by
  intro i s h hi
  cases i <;> first
    | exact live_frozen _ h
    | exact lockCmd_frozen _ _ _ h
    | exact absurd hi Bool.true_eq_false.mp

end Sys2Proof.Machine
end

section
/-! PROOFS. The tests of a reference, and disputes (O24): what a change of a reference leaves, then each event in the order of its
tests. -/

namespace Sys2Proof.Machine

/-! ### What a change of a reference leaves -/

section ModRef

variable (c : Core) (n : Nat) (f : RefS → RefS)

theorem Core.modRef_time : (c.modRef n f).time = { c.time with refs := c.time.refs.set n (f (c.ref n)) } := by
  unfold Core.modRef
  dsimp only
  split_ifs
  · rw [Core.raise_time]; rfl
  · rfl

@[simp] theorem Core.modRef_free : (c.modRef n f).free = c.free := by
  unfold Core.modRef
  dsimp only
  split_ifs
  · rw [Core.raise_free]; rfl
  · rfl

/-- Of the registers, a change of a reference touches PAGE_IRQ of TIME1 alone (Table 13.13). -/
theorem Core.rd_modRef {j : PageKind} {p : Nat} (h : j.key p ≠ (PageKind.time 1).key 0x010) :
    (c.modRef n f).rd j p = c.rd j p := by
  unfold Core.modRef
  dsimp only
  split_ifs
  · rw [Core.rd_raise, if_neg h]; rfl
  · rfl

theorem Core.rd_modRef_time1 {p : Nat} (h : p ≠ 0x010) : (c.modRef n f).rd (.time 1) p = c.rd (.time 1) p :=
  c.rd_modRef n f (fun e => h (PageKind.key_inj.1 e))

@[simp] theorem Core.refCfg_modRef (m : Nat) : (c.modRef n f).refCfg m = c.refCfg m := c.rd_modRef_time1 n f (by omega)
@[simp] theorem Core.refHz_modRef (m : Nat) : (c.modRef n f).refHz m = c.refHz m := by simp [Core.refHz]
@[simp] theorem Core.refQual_modRef (m : Nat) : (c.modRef n f).refQual m = c.refQual m := c.rd_modRef_time1 n f (by omega)

end ModRef

/-! ### The events of an enabled reference (R306, R307, R312) -/

section RefEvents

variable {c : Core} {n cycles : Nat} {phase jump offset : Int}

theorem refEvent_does_of {s : State} {f g : Core → Core} (h : s.runs) (ht : s.core.timeOn = true)
    (he : s.core.refEn n = true) (e : f s.core = g s.core) : act (refEvent n f) s = s.does g :=
  act_does_of h ((by simp [refEvent, ht, he] : refEvent n f s.core = f s.core).trans e)

/-- A PPS edge is seen: activity, and its phase less REF_DELAY. -/
def Core.ppsSeen (c : Core) (n : Nat) (phase : Int) : Core :=
  c.modRef n (fun r => { r with activity := true, phase := phase - c.refDelay n, raw := phase })

theorem doRefPps_of_cycles (h : cycles + 1 < c.refHz n ∨ c.refHz n + 1 < cycles) :
    doRefPps n cycles phase jump c = (c.ppsSeen n phase).refFails n 4 := if_pos (by simpa using h)

theorem doRefPps_of_on_time (h1 : c.refHz n ≤ cycles + 1) (h2 : cycles ≤ c.refHz n + 1) :
    doRefPps n cycles phase jump c =
      if bits (c.refQual n) 31 24 * 10000 < jump.natAbs then (c.ppsSeen n phase).refFails n 5
      else if c.time.active = some n ∧ (c.time.dpll = .locked ∨ c.time.dpll = .acquiring) then
        { (c.ppsSeen n phase).modTime (fun t => { t with
            phaseErr := phase - c.refDelay n, freqOff := (Config.freeWord c.free).toInt,
            clean := t.dpll == .locked && !t.pulling,
            freqLog := if t.clean then ((Config.freeWord c.free).toInt :: t.freqLog).take 1000 else t.freqLog }) with
          free := c.free + 1 }
      else c.ppsSeen n phase := by
  unfold doRefPps
  simp only [Core.refHz_modRef, Core.refQual_modRef, Core.modRef_time, Core.modRef_free]
  exact if_neg (by omega)

theorem doRefFreq_eq : doRefFreq n offset c =
    let d := c.modRef n (fun r => { r with activity := true, freq := offset })
    if bits (c.refQual n) 15 0 * 1000 < offset.natAbs then d.refFails n 2 else d := by
  simp only [doRefFreq, Core.refQual_modRef]

theorem doRefQualified_of_new (h : (c.ref n).qual = false) :
    doRefQualified n c =
      let wtr := min (bits (c.rd (.time 0) 0x050) 27 16) 3600
      (c.modRef n (fun r => { r with activity := true, qual := true, everQual := true,
                                     inWtr := r.everQual && wtr != 0, wtrLeft := if r.everQual then wtr else 0 })).raise
        (.time 1) 1 := if_neg (by simp [h])

end RefEvents

/-! ### Disputes (R309) -/

section Disputes

variable {c : Core} {n a : Nat} {diff : Int}

theorem doDispute_of_other (ha : c.time.active = some a)
    (h : a = n ∨ (c.ref n).qual = false ∨ (c.ref a).qual = false ∨ c.refRank a ≠ c.refRank n) : doDispute n diff c = c := by
  simp only [doDispute, ha]
  exact if_pos h

/-- DISPUTE_THR in 0.01 ppb, within its range. -/
def Core.disputeThr (c : Core) : Nat := max 1 (min 10000 (bits (c.rd (.time 0) 0x054) 15 0)) * 10

/-- The window of a qualified reference of the active one's rank, by the difference. -/
theorem doDispute_of_equal (ha : c.time.active = some a) (hn : a ≠ n) (hq : (c.ref n).qual = true)
    (hqa : (c.ref a).qual = true) (hr : c.refRank a = c.refRank n) :
    doDispute n diff c =
      if c.disputeThr < diff.natAbs then
        (if (c.ref n).disputed then c.modRef n (fun r => { r with calm := 0, vs := a })
         else ((c.modRef n (fun r => { r with disputed := true, calm := 0, vs := a })).raise (.time 1) 2).report
           (.time 1) 0x72 clsN n)
      else if (c.ref n).disputed = false then c
      else if c.disputeThr < 2 * diff.natAbs then c.modRef n (fun r => { r with calm := 0 })
      else if (c.ref n).calm + 1 = 3 then c.modRef n (fun r => { r with disputed := false, calm := 0 })
      else c.modRef n (fun r => { r with calm := r.calm + 1 }) := by
  simp only [doDispute, ha]
  exact if_neg (by simp [hn, hq, hqa, hr])

end Disputes

/-! ### The obligation -/

/-- Settles O24: each event of an enabled reference by its tests in order (`doRefPps_of_cycles`, `doRefPps_of_on_time`,
`doRefFreq_eq`), and each window of a dispute by the difference (`doDispute_of_equal`). -/
theorem referenceTestsAndDisputes : Obligations.ReferenceTestsAndDisputes := by
  refine ⟨fun s n h ht he => ?events, fun s n a diff h ht he ha => ?disputes⟩
  case events =>
    have ev {f g : Core → Core} (e : f s.core = g s.core) : act (refEvent n.val f) s = s.does g := refEvent_does_of h ht he e
    refine ⟨fun cycles phase jump => ⟨fun hc => ev (doRefPps_of_cycles hc), fun h1 h2 hj => ev ?jump,
        fun h1 h2 hj hd => ev ?idle, fun h1 h2 hj ha hd => ⟨(Config.freeWord s.core.free).toInt, ev ?steer⟩⟩,
      ev rfl, ev rfl, fun offset => ⟨fun ho => ev ?off, fun ho => ev ?on⟩, fun hq => ev (if_pos hq),
      fun hq => ev (doRefQualified_of_new hq), fun hw => ev (if_pos hw), fun hw => ev (if_neg (by simp [hw]))⟩
    case jump => exact (doRefPps_of_on_time h1 h2).trans (if_pos hj)
    case idle =>
      refine (doRefPps_of_on_time h1 h2).trans ((if_neg (by omega)).trans (if_neg ?_))
      rintro ⟨ha, hl⟩
      obtain hd | ⟨h3, h4⟩ := hd
      · exact hd ha
      · exact hl.elim h3 h4
    case steer =>
      exact (doRefPps_of_on_time h1 h2).trans ((if_neg (by omega)).trans (if_pos ⟨ha, hd⟩))
    case off => exact doRefFreq_eq.trans (if_pos ho)
    case on => exact doRefFreq_eq.trans (if_neg (by omega))
  case disputes =>
    have ev {g : Core → Core} (e : doDispute n.val diff s.core = g s.core) :
        exec (.disputeWindowEnd n diff) s = s.does g := refEvent_does_of h ht he e
    refine ⟨fun hb => ev (doDispute_of_other ha hb), fun hn hq hqa hr => ?equal⟩
    have eq := doDispute_of_equal (diff := diff) ha hn hq hqa hr
    have marked (hd : diff.natAbs ≤ s.core.disputeThr) (hp : (s.core.ref n).disputed = true) :=
      eq.trans ((if_neg (Nat.not_lt.2 hd)).trans (if_neg (by simp [hp])))
    refine ⟨fun hd hp => ev ?new, fun hd hp => ev ?again, fun hd hp => ev ?quiet, fun h2 hd hp => ev ?near,
      fun h2 hp hk => ev ?third, fun h2 hp hk => ev ?calm⟩
    case new => exact eq.trans ((if_pos hd).trans (if_neg (by simp [hp])))
    case again => exact eq.trans ((if_pos hd).trans (if_pos hp))
    case quiet => exact eq.trans ((if_neg (Nat.not_lt.2 hd)).trans (if_pos hp))
    case near => exact (marked hd hp).trans (if_pos h2)
    case third => exact (marked ((Nat.le_mul_of_pos_left _ Nat.two_pos).trans h2) hp).trans ((if_neg (Nat.not_lt.2 h2)).trans (if_pos (by rw [hk])))
    case calm => exact (marked ((Nat.le_mul_of_pos_left _ Nat.two_pos).trans h2) hp).trans ((if_neg (Nat.not_lt.2 h2)).trans (if_neg (by omega)))

end Sys2Proof.Machine
end

section
/-! PROOFS. The choice of the active reference (O25), and the steps of the DPLL (O26): the best of the eligible references as a
fold, the four cases of the choice, what a failure leaves of every reference, and each transition of Table 13.3. -/

namespace Sys2Proof.Machine

/-! ### The eligible reference that ranks first (R308) -/

section Choice

variable (c : Core)

/-- The eligible references, in ascending order. -/
def Core.eligibles : List Nat := ([0, 1, 2, 3] : List Nat).filter (fun n => (c.ref n).eligible)

/-- The reference that ranks before another one that was found first. -/
def Core.betterRef (b : Option Nat) (n : Nat) : Option Nat :=
  match b with
  | none => some n
  | some o => if c.refRank n < c.refRank o then some n else b

/-- Reference `m` ranks first of a list, and of equal ranks it has the lowest number (R308). -/
def Core.RanksFirst (l : List Nat) (m : Nat) : Prop :=
  m ∈ l ∧ ∀ k ∈ l, c.refRank m < c.refRank k ∨ (c.refRank m = c.refRank k ∧ m ≤ k)

theorem Core.mem_eligibles {n : Nat} : n ∈ c.eligibles ↔ n < 4 ∧ (c.ref n).eligible = true := by
  simp only [Core.eligibles, List.mem_filter, List.mem_cons, List.not_mem_nil, or_false]
  refine and_congr_left fun _ => ?_
  omega

theorem Core.chooseRef_eq : c.chooseRef =
    if bit (c.rd (.time 0) 0x050) 0 = true ∧ c.eligibles.elem (bits (c.rd (.time 0) 0x050) 2 1) = true then
      some (bits (c.rd (.time 0) 0x050) 2 1)
    else
      match c.time.active, c.eligibles.foldl c.betterRef none with
      | some a, some b => if c.eligibles.elem a = true ∧ c.refRank a ≤ c.refRank b then some a else some b
      | _, b => b := rfl

/-- A fold over an ascending list, begun at a lower number, ends at the one that ranks first. -/
theorem Core.foldl_betterRef (l : List Nat) (o : Nat) (hs : (o :: l).Pairwise (· < ·)) :
    ∃ m, l.foldl c.betterRef (some o) = some m ∧ c.RanksFirst (o :: l) m := by
  induction l generalizing o with
  | nil => exact ⟨o, rfl, by simp [Core.RanksFirst]⟩
  | cons x l ih =>
    have hox : o < x := (List.pairwise_cons.1 hs).1 x (by simp)
    by_cases hr : c.refRank x < c.refRank o
    · obtain ⟨m, hm, hin, hf⟩ := ih x (List.pairwise_cons.1 hs).2
      refine ⟨m, by rw [List.foldl_cons, Core.betterRef, if_pos hr, hm], List.mem_cons_of_mem _ hin, ?_⟩
      rintro k (_ | ⟨_, hk⟩)
      · left
        obtain h | h := hf x (by simp) <;> omega
      · exact hf k hk
    · have hs' : (o :: l).Pairwise (· < ·) := hs.sublist (by simp)
      obtain ⟨m, hm, hin, hf⟩ := ih o hs'
      refine ⟨m, by rw [List.foldl_cons, Core.betterRef, if_neg hr, hm], ?_, ?_⟩
      · exact (List.mem_cons.1 hin).elim (fun e => by simp [e]) (fun e => by simp [e])
      · rintro k (_ | ⟨_, hk⟩)
        · exact hf o (by simp)
        · obtain _ | ⟨_, hk⟩ := hk
          · obtain h | h := hf o (by simp) <;> omega
          · exact hf k (List.mem_cons_of_mem _ hk)

theorem Core.best_of_nonempty (h : c.eligibles ≠ []) :
    ∃ m, c.eligibles.foldl c.betterRef none = some m ∧ c.RanksFirst c.eligibles m := by
  have hs : c.eligibles.Pairwise (· < ·) := List.Pairwise.filter _ (by decide)
  cases hl : c.eligibles with
  | nil => exact absurd hl h
  | cons o l => exact c.foldl_betterRef l o (hl ▸ hs)

/-- Only one reference ranks first. -/
theorem Core.ranksFirst_unique {l : List Nat} {m k : Nat} (hm : c.RanksFirst l m) (hk : c.RanksFirst l k) : m = k := by
  obtain ⟨hm, fm⟩ := hm
  obtain ⟨hk, fk⟩ := hk
  have := fm k hk
  have := fk m hm
  omega

theorem Core.chooseRef_of_manual (h : bit (c.rd (.time 0) 0x050) 0 = true ∧ bits (c.rd (.time 0) 0x050) 2 1 ∈ c.eligibles) :
    c.chooseRef = some (bits (c.rd (.time 0) 0x050) 2 1) := by
  rw [c.chooseRef_eq]
  exact if_pos (by simpa using h)

theorem Core.chooseRef_of_auto
    (h : ¬ (bit (c.rd (.time 0) 0x050) 0 = true ∧ bits (c.rd (.time 0) 0x050) 2 1 ∈ c.eligibles)) :
    c.chooseRef =
      match c.time.active, c.eligibles.foldl c.betterRef none with
      | some a, some b => if a ∈ c.eligibles ∧ c.refRank a ≤ c.refRank b then some a else some b
      | _, b => b := by
  rw [c.chooseRef_eq, if_neg (by simpa using h)]
  simp only [List.elem_iff]

/-- The active reference stays while no eligible one ranks before it. -/
theorem Core.chooseRef_of_active {a : Nat}
    (h : ¬ (bit (c.rd (.time 0) 0x050) 0 = true ∧ bits (c.rd (.time 0) 0x050) 2 1 ∈ c.eligibles))
    (ha : c.time.active = some a) (hel : a ∈ c.eligibles) (hr : ∀ m ∈ c.eligibles, c.refRank a ≤ c.refRank m) :
    c.chooseRef = some a := by
  obtain ⟨b, hb, hin, -⟩ := c.best_of_nonempty (List.ne_nil_of_mem hel)
  rw [c.chooseRef_of_auto h, ha, hb]
  exact if_pos ⟨hel, hr b hin⟩

/-- Else the reference that ranks first is chosen. -/
theorem Core.chooseRef_of_first {m : Nat}
    (h : ¬ (bit (c.rd (.time 0) 0x050) 0 = true ∧ bits (c.rd (.time 0) 0x050) 2 1 ∈ c.eligibles))
    (ha : ∀ a, c.time.active = some a → a ∈ c.eligibles → c.refRank m < c.refRank a) (hm : c.RanksFirst c.eligibles m) :
    c.chooseRef = some m := by
  obtain ⟨b, hb, hf⟩ := c.best_of_nonempty (List.ne_nil_of_mem hm.1)
  rw [c.chooseRef_of_auto h, hb, c.ranksFirst_unique hf hm]
  cases hact : c.time.active with
  | none => rfl
  | some a =>
    refine if_neg ?_
    rintro ⟨hel, hle⟩
    have := ha a hact hel
    omega

theorem Core.chooseRef_of_none (h : c.eligibles = []) : c.chooseRef = none := by
  rw [c.chooseRef_of_auto (by simp [h]), h]
  cases c.time.active <;> rfl

end Choice

/-! ### What a failure leaves of the references (R306, R309) -/

section Fails

variable {c : Core} {n : Nat}

/-- Reference `n` as the test of a FAIL_CODE leaves it. -/
def RefS.failed (r : RefS) (code : Nat) : RefS :=
  { r with fail := code, qual := false, inWtr := false, wtrLeft := 0, disputed := false, calm := 0,
           disqual := if r.qual then min (r.disqual + 1) m32 else r.disqual }

/-- Marks of a dispute against `n` clear, in the references of a list. -/
def Core.clearMarks (c : Core) (n : Nat) (l : List Nat) : Core :=
  l.foldl (fun c m =>
    if (c.ref m).disputed ∧ (c.ref m).vs = n then c.modRef m (fun r => { r with disputed := false, calm := 0 }) else c) c

theorem Core.refFails_eq (code : Nat) : c.refFails n code =
    let d := c.modRef n (fun r =>
      { r with fail := code, qual := false, inWtr := false, wtrLeft := 0, disputed := false, calm := 0,
               disqual := if (c.ref n).qual then min (r.disqual + 1) m32 else r.disqual })
    if (c.ref n).qual then
      let e := ((d.clearMarks n [0, 1, 2, 3]).raise (.time 1) 0).report (.time 1) 0x70 clsN n
      if e.time.active = some n then e.selectRef else e
    else d := rfl

/-- A reference that stands in no dispute keeps its state while the marks of others clear. -/
theorem Core.clearMarks_ref {m : Nat} (l : List Nat) (hl : c.time.refs.length = 4) (hb : ∀ k ∈ l, k < 4)
    (hm : (c.ref m).disputed = false) : (c.clearMarks n l).ref m = c.ref m := by
  induction l generalizing c with
  | nil => rfl
  | cons k l ih =>
    have step : (if (c.ref k).disputed ∧ (c.ref k).vs = n then
        c.modRef k (fun r => { r with disputed := false, calm := 0 }) else c).ref m = c.ref m := by
      split_ifs with hk
      · rw [c.modRef_ref k m _ hl (hb k (by simp)), if_neg]
        rintro rfl
        simp [hk.1] at hm
      · rfl
    refine (ih ?_ (fun j hj => hb j (by simp [hj])) (by rw [step]; exact hm)).trans step
    dsimp only
    split_ifs
    · rw [Core.modRef_length]; exact hl
    · exact hl

theorem Core.ref_congr {d : Core} (h : d.time.refs = c.time.refs) (m : Nat) : d.ref m = c.ref m := by
  unfold Core.ref
  rw [h]

/-- The marks that clear, the report and the choice that follows leave a reference in no dispute as it is. -/
theorem Core.ref_disqualified (hl : c.time.refs.length = 4) (hd : (c.ref n).disputed = false) :
    (let e := ((c.clearMarks n [0, 1, 2, 3]).raise (.time 1) 0).report (.time 1) 0x70 clsN n
     if e.time.active = some n then e.selectRef else e).ref n = c.ref n := by
  refine Eq.trans (Core.ref_congr (c := c.clearMarks n [0, 1, 2, 3]) ?_ n) (Core.clearMarks_ref _ hl (by decide) hd)
  dsimp only
  split_ifs
  · rw [Core.selectRef_refs, Core.report_time, Core.raise_time]
  · rw [Core.report_time, Core.raise_time]

/-- The reference that fails a test (R306). -/
theorem Core.refFails_ref (hl : c.time.refs.length = 4) (hn : n < 4) (code : Nat) :
    (c.refFails n code).ref n = (c.ref n).failed code := by
  rw [Core.refFails_eq]
  extract_lets d
  have hd : d.ref n = (c.ref n).failed code := (c.modRef_ref n n _ hl hn).trans (if_pos rfl)
  have hlen : d.time.refs.length = 4 := (c.modRef_length n _).trans hl
  by_cases hq : (c.ref n).qual = true
  · rw [if_pos hq]; exact (Core.ref_disqualified hlen (by rw [hd]; rfl)).trans hd
  · rw [if_neg hq]; exact hd

theorem Core.refFails_active_of_unqualified (h : (c.ref n).qual = false) (code : Nat) :
    (c.refFails n code).time.active = c.time.active := by
  rw [Core.refFails_eq]
  extract_lets d
  rw [if_neg (by simp [h])]
  exact Core.modRef_active ..

end Fails

/-- Settles O25: what a failure leaves (`Core.refFails_ref`), and the choice by its cases, the manual one, the active one, the one
that ranks first, none. -/
theorem referenceChoice : Obligations.ReferenceChoice := by
  intro c hl
  refine ⟨fun n code => ?fails, ?choice⟩
  case fails =>
    dsimp only
    rw [Core.refFails_ref hl n.isLt]
    exact ⟨rfl, rfl, rfl, rfl, rfl, fun hq => if_pos hq,
      fun hq => ⟨if_neg (by simp [hq]), Core.refFails_active_of_unqualified hq code⟩⟩
  case choice =>
    simp only [← Core.mem_eligibles]
    exact ⟨c.chooseRef_of_manual, fun a hm ha hel hr => c.chooseRef_of_active hm ha hel hr,
      fun m hm ha hel hf => c.chooseRef_of_first hm ha ⟨hel, hf⟩,
      fun h => c.chooseRef_of_none (List.eq_nil_iff_forall_not_mem.2 h)⟩

/-! ### The DPLL (R311 to R314) -/

section Dpll

variable {c : Core} {err : Int}

@[simp] theorem Core.setDpll_power (st : DpllSt) : (c.setDpll st).power = c.power := by
  unfold Core.setDpll
  split_ifs
  · rfl
  · cases st <;> simp

@[simp] theorem Core.running_setDpll (st : DpllSt) : (c.setDpll st).running = c.running := by simp [Core.running]

theorem doDpllLock_of_other (h : c.time.dpll ≠ .acquiring ∨ c.time.active = none) : doDpllLock err c = c :=
  if_pos (by simpa using h)

theorem doDpllLock_of_acquiring (hd : c.time.dpll = .acquiring) (ha : c.time.active.isSome = true) :
    doDpllLock err c =
      if c.running = true then (c.setDpll .locked).modTime (fun t => { t.pull (err != 0) with phaseErr := err })
      else if err = 0 then (c.setDpll .locked).modTime (fun t => { t with phaseErr := 0 })
      else
        let d := rneDiv (-err) 1000
        ((((c.setDpll .locked).modTime (fun t => { t with phaseErr := 0, tc := ((t.tc : Int) + d * 65536).toNat })).inc
          (.time 0) 0x0C8).raise (.time 0) 2).report (.time 0) 0x76 clsN (ofInt 42 d) := by
  have hn : ¬ (c.time.dpll ≠ .acquiring ∨ c.time.active.isNone = true) := by
    rw [Option.isNone_eq_false_iff.2 ha, hd]
    simp
  simp only [doDpllLock, if_neg hn, Core.running_setDpll]

theorem timeEvent_does_of {s : State} {f g : Core → Core} (h : s.runs) (ht : s.core.timeOn = true) (e : f s.core = g s.core) :
    act (fun c => c.when c.timeOn f) s = s.does g :=
  act_does_of h ((by rw [ht]; rfl : s.core.when s.core.timeOn f = f s.core).trans e)

end Dpll

section Select

variable {c : Core} {a b : Nat}

/-- The core with its active reference replaced. -/
def Core.withActive (c : Core) (new : Option Nat) : Core :=
  c.modTime (fun t => { t with active := new, phaseErr := match new with
    | some n => (c.ref n).phase
    | none => t.phaseErr })

theorem Core.selectRef_gain (ha : c.time.active = none) (hb : c.chooseRef = some b) :
    c.selectRef = match c.time.dpll with
      | .freerun => ((c.withActive (some b)).modTime (fun t => { t with acqFrom := .freerun })).setDpll .acquiring
      | .lost => ((c.withActive (some b)).modTime (fun t => { t with acqFrom := .lost })).setDpll .acquiring
      | .holdover => ((c.withActive (some b)).setDpll .locked).modTime (·.pull true)
      | _ => c.withActive (some b) := by
  simp only [Core.selectRef, ha, hb]
  rfl

theorem Core.selectRef_loss (ha : c.time.active = some a) (hb : c.chooseRef = none) :
    c.selectRef = match c.time.dpll with
      | .acquiring => (c.withActive none).setDpll c.time.acqFrom
      | .locked => (c.withActive none).setDpll (if c.time.oscOk then .holdover else .lost)
      | _ => c.withActive none := by
  simp only [Core.selectRef, ha, hb]
  rfl

/-- A change of the active reference of a locked loop is pulled (R308, R312). -/
theorem Core.selectRef_switch (ha : c.time.active = some a) (hb : c.chooseRef = some b) (hne : a ≠ b)
    (hd : c.time.dpll = .locked) :
    c.selectRef = ((((c.withActive (some b)).inc (.time 0) 0x0CC).raise (.time 0) 1).report (.time 0) 0x71 clsN b).modTime
      (·.pull true) := by
  simp only [Core.selectRef, ha, hb, if_neg hne]
  exact if_pos (by simpa using hd)

end Select

/-- Settles O26: each step by its condition, and what the choice does to the DPLL by the state it finds
(`Core.selectRef_gain`, `Core.selectRef_loss`, `Core.selectRef_switch`). -/
theorem dpllSteps : Obligations.DpllSteps := by
  intro s h ht
  have ev {f g : Core → Core} (e : f s.core = g s.core) : act (fun c => c.when c.timeOn f) s = s.does g :=
    timeEvent_does_of h ht e
  have osc {f g : Core → Core} (ho : s.core.oscEn = true) (e : f s.core = g s.core) :
      act (fun c => c.when (c.timeOn && c.oscEn) f) s = s.does g :=
    act_does_of h ((by rw [ht, ho]; rfl : s.core.when (s.core.timeOn && s.core.oscEn) f = f s.core).trans e)
  have noOsc {f : Core → Core} (ho : s.core.oscEn = false) :
      act (fun c => c.when (c.timeOn && c.oscEn) f) s = s.does (fun c => c) :=
    act_does_of h (by rw [ht, ho]; rfl)
  refine ⟨ev rfl, fun err hd ha => ⟨fun hr => ev ?pulled, fun hr he => ev ?exact, fun hr he => ev ?stepped⟩,
    fun err hb => ev (doDpllLock_of_other hb), ev rfl, fun hd hm => ev (if_pos ⟨hd, hm⟩), fun hb => ev (if_neg ?limit),
    fun hb => ?noFail, noOsc, fun ho hk => osc ho ?fail, fun ho => osc ho rfl,
    fun c => ⟨fun b ha hb hd => ?acquire, fun b ha hb hd => ?relock, fun a ha hb => ⟨fun hd => ?abandon, fun hd => ?hold⟩,
      fun a b ha hb hne hd => ?switch⟩⟩
  case pulled => exact (doDpllLock_of_acquiring hd ha).trans (if_pos hr)
  case exact => exact (doDpllLock_of_acquiring hd ha).trans ((if_neg (by simp [hr])).trans (if_pos he))
  case stepped => exact (doDpllLock_of_acquiring hd ha).trans ((if_neg (by simp [hr])).trans (if_neg he))
  case limit => exact fun ⟨hd, hm⟩ => hb.elim (fun e => e hd) hm
  case noFail =>
    obtain ho | hk := hb
    · exact noOsc ho
    · by_cases ho : s.core.oscEn = true
      · exact osc ho (if_neg (by simp [hk]))
      · exact noOsc (by simpa using ho)
  case fail => exact (if_pos hk).trans (by simp only [Core.oscDown, Core.modTime_time, Core.report_time])
  case acquire =>
    rw [Core.selectRef_gain ha hb]
    obtain hd | hd := hd <;> simp [hd, Core.withActive]
  case relock =>
    rw [Core.selectRef_gain ha hb]
    simp [hd, Core.withActive]
  case abandon =>
    rw [Core.selectRef_loss ha hb]
    simp [hd, Core.withActive]
  case hold =>
    rw [Core.selectRef_loss ha hb]
    simp [hd, Core.withActive]
  case switch =>
    rw [Core.selectRef_switch ha hb hne hd]
    simp [hd, Core.withActive]

end Sys2Proof.Machine
end

section
/-! PROOFS. A millisecond boundary of the Slide (O27): the instant of the boundary, what activates at it, the step that begins, and
the rate of ATB against TC. -/

namespace Sys2Proof.Machine

section Slide

variable (t : TimeS)

/-! ### The instant of a boundary (R321) -/

theorem TimeS.nextMs_mod : t.nextMs % 1000000 = 0 := by
  unfold TimeS.nextMs
  dsimp only
  split_ifs <;> exact Nat.mul_mod_left ..

/-- The timing unit with TC at an instant. -/
def TimeS.withTc (n : Nat) : TimeS := { t with tc := n }

theorem TimeS.withTc_keeps (n : Nat) : (t.withTc n).pend = t.pend ∧ (t.withTc n).rem = t.rem ∧ (t.withTc n).sstep = t.sstep :=
  ⟨rfl, rfl, rfl⟩

/-- The timing unit with TC at the boundary that comes next. -/
def TimeS.atMs : TimeS := t.withTc (t.nextMs * 65536)

theorem TimeS.tcNs_atMs : t.atMs.tcNs = t.nextMs := Nat.mul_div_cancel _ (by decide)

/-! ### A correction that is due -/

theorem TimeS.activate_of_none (h : t.pend = none) : t.activate = t := by
  unfold TimeS.activate
  rw [h]

theorem TimeS.activate_of_due {q : SlideReq} (h : t.pend = some q) (ha : q.act ≤ t.atb) :
    t.activate = { t with rem := t.rem + q.off, sstep := q.step, pend := none } := by
  unfold TimeS.activate
  rw [h]
  exact if_pos ha

theorem TimeS.activate_of_later {q : SlideReq} (h : t.pend = some q) (ha : t.atb < q.act) : t.activate = t := by
  unfold TimeS.activate
  rw [h]
  exact if_neg (by omega)

/-- A correction that activates leaves what ATB follows from. -/
theorem TimeS.activate_keeps : t.activate.tc = t.tc ∧ t.activate.base = t.base ∧ t.activate.acc = t.acc ∧
    (t.activate.pend = t.pend ∨ t.activate.pend = none) := by
  cases hp : t.pend with
  | none => rw [t.activate_of_none hp]; exact ⟨rfl, rfl, rfl, .inr hp⟩
  | some q =>
    by_cases ha : q.act ≤ t.atb
    · rw [t.activate_of_due hp ha]; exact ⟨rfl, rfl, rfl, .inr rfl⟩
    · rw [t.activate_of_later hp (by omega)]; exact ⟨rfl, rfl, rfl, .inl hp⟩

/-! ### One step toward 0 -/

theorem slewStep_of_pos {st : Nat} {r : Int} (h : 0 < r) : slewStep st r = min (st : Int) r := if_pos h

theorem slewStep_of_neg {st : Nat} {r : Int} (h : r < 0) : slewStep st r = -(min (st : Int) (-r)) :=
  (if_neg (by omega)).trans (if_pos h)

theorem slewStep_zero (st : Nat) : slewStep st 0 = 0 := rfl

theorem TimeS.boundary_rem : t.boundary.rem + t.boundary.slew = t.atMs.activate.rem := Int.sub_add_cancel ..

/-- The boundary shows what activated. -/
theorem TimeS.boundary_of_activate {u : TimeS} (h : t.atMs.activate = u) :
    t.boundary.pend = u.pend ∧ t.boundary.sstep = u.sstep ∧ t.boundary.rem + t.boundary.slew = u.rem := by
  subst h
  exact ⟨rfl, rfl, t.boundary_rem⟩

theorem TimeS.boundary_slew : t.boundary.slew = slewStep t.boundary.sstep (t.boundary.rem + t.boundary.slew) :=
  congrArg (slewStep _) t.boundary_rem.symm

theorem TimeS.boundary_slewAt : t.boundary.slewAt = t.nextMs :=
  (congrArg (· / 65536) t.atMs.activate_keeps.1).trans t.tcNs_atMs

/-- Since the step began, A has grown by the floor of the step's share. -/
theorem TimeS.acc_of_step {v : TimeS} (h : t.slewAt ≤ v.tcNs) (ha : v.ak = t.ak) (hs : v.slew = t.slew) (hw : v.slewAt = t.slewAt) :
    v.acc = t.ak + t.slew * ((v.tcNs - t.slewAt : Nat) : Int) / 1000000 := by
  rw [TimeS.acc, ha, hs, hw, Int.natCast_sub h]

/-! ### ATB runs on (R321) -/

/-- With steps of at most 2^16 a millisecond, ATB gains on every nanosecond of TC. -/
theorem TimeS.atb_lt_atb {t u : TimeS} (ha : t.ak = u.ak) (hs : t.slew = u.slew) (hw : t.slewAt = u.slewAt)
    (hb : t.base = u.base) (hm : t.slew.natAbs ≤ 65536) (ht : t.tc % 65536 = 0) (hu : u.tc % 65536 = 0) (h : t.tc < u.tc) :
    t.atb < u.atb := by
  obtain ⟨d, hd⟩ : ∃ d : Nat, u.tcNs = t.tcNs + (d + 1) := ⟨u.tcNs - t.tcNs - 1, by unfold TimeS.tcNs; omega⟩
  have htc : (u.tc : Int) = t.tc + 65536 * (d + 1) := by unfold TimeS.tcNs at hd; omega
  have hshare : u.slew * ((u.tcNs : Int) - u.slewAt) = u.slew * ((t.tcNs : Int) - u.slewAt) + u.slew * (d + 1) := by
    rw [← mul_add, hd]
    push_cast
    ring_nf
  have hleast : -65536 * ((d : Int) + 1) ≤ u.slew * (d + 1) := Int.mul_le_mul_of_nonneg_right (by omega) (by omega)
  rw [TimeS.atb, TimeS.atb, TimeS.acc, TimeS.acc, ha, hs, hw, hb, htc, hshare]
  omega

/-! ### SLIDE_DONE -/

/-- SLIDE_DONE: the remainder is 0 now, and was not, or a correction activated. -/
theorem TimeS.slideDone_iff :
    t.slideDone = true ↔ t.boundary.rem = 0 ∧ (t.rem ≠ 0 ∨ t.boundary.pend ≠ t.pend) := by
  have hp : t.boundary.pend = t.pend ∨ t.boundary.pend = none := by
    obtain ⟨-, -, -, h⟩ := t.atMs.activate_keeps
    exact h.imp_left (fun e => e.trans (t.withTc_keeps _).1)
  have hact : (t.pend.isSome && t.boundary.pend.isNone) = true ↔ t.boundary.pend ≠ t.pend := by
    obtain hp | hp := hp
    · rw [hp]; cases t.pend <;> simp
    · rw [hp]; cases t.pend <;> simp
  simp only [TimeS.slideDone, Bool.and_eq_true, Bool.or_eq_true, beq_iff_eq, bne_iff_ne]
  exact and_congr_right fun _ => or_congr_right (Bool.and_eq_true _ _ ▸ hact)

theorem doSlideMs_eq (c : Core) : doSlideMs c =
    let u := c.time.boundary
    if u.rem = 0 ∧ (c.time.rem ≠ 0 ∨ u.pend ≠ c.time.pend) then (c.modTime TimeS.boundary).raise (.time 2) 0
    else c.modTime TimeS.boundary := by
  simp only [doSlideMs, TimeS.slideDone_iff]

end Slide

/-- Settles O27: a boundary is a correction that may activate and one step of the remainder, and ATB gains on every nanosecond of
TC (`TimeS.atb_lt_atb`). -/
theorem slideBoundary : Obligations.SlideBoundary := by
  refine ⟨fun t => ?boundary, fun t u ha hs hw hb hm ht hu h => TimeS.atb_lt_atb ha hs hw hb hm ht hu h,
    fun s h ht => timeEvent_does_of h ht (doSlideMs_eq _)⟩
  obtain ⟨htc, hbase, hacc, -⟩ := t.atMs.activate_keeps
  obtain ⟨hpend, hrem, hstep⟩ : t.atMs.pend = t.pend ∧ t.atMs.rem = t.rem ∧ t.atMs.sstep = t.sstep := t.withTc_keeps _
  refine ⟨t.nextMs_mod, htc, t.boundary_slewAt, hacc, hbase, fun hp => ?none, fun q hp hd => ?due, fun q hp hl => ?later,
    fun h => t.boundary_slew.trans (slewStep_of_pos h), fun h => t.boundary_slew.trans (slewStep_of_neg h),
    fun h => by rw [t.boundary_slew, h, slewStep_zero], fun v ha hs hw hv => TimeS.acc_of_step _ hv ha hs hw⟩
  case none =>
    obtain ⟨he, hs, hr⟩ := t.boundary_of_activate (t.atMs.activate_of_none (hpend.trans hp))
    exact ⟨he.trans (hpend.trans hp), hs.trans hstep, hr.trans hrem⟩
  case due =>
    obtain ⟨he, hs, hr⟩ := t.boundary_of_activate (t.atMs.activate_of_due (hpend.trans hp) hd)
    exact ⟨he, hs, hr.trans (congrArg (· + q.off) hrem)⟩
  case later =>
    obtain ⟨he, hs, hr⟩ := t.boundary_of_activate (t.atMs.activate_of_later (hpend.trans hp) hl)
    exact ⟨he.trans (hpend.trans hp), hs.trans hstep, hr.trans hrem⟩

end Sys2Proof.Machine
end

section
/-! PROOFS. Array-time settings and time commands (O28): the registers of TIME0 and TIME1, the armed set, PPS_OUT, and the commands
SLIDE and TIME_SEND. -/

namespace Sys2Proof.Machine

/-! ### The registers of TIME0 and TIME1 (R306, R315, R316) -/

section Settings

variable {c : Core} {k : PageKind} {n v : Nat} {den : Bool}

theorem Core.unlessRunning_of_running {f : Core → Core} (h : c.running = true) : c.unlessRunning k f = c.pageFlt k 0x01 :=
  if_pos h

@[simp] theorem Core.fccShown_lockAccess (m : Nat) : (c.lockAccess k m).fccShown = c.fccShown := by
  have h : (c.lockAccess k m).fcc = c.fcc := by
    simp only [Core.fcc, Core.lockAccess_img, Core.rd_lockAccess_off c k (.time 0) m (by decide : 0x0B8 < 4096) (by decide) (by decide),
      Core.rd_lockAccess_off c k (.time 0) m (by decide : 0x0BC < 4096) (by decide) (by decide)]
  simp only [Core.fccShown, h]

theorem doFcc_of_ignored (hr : c.running = false) (h : c.img.isSome = true ∨ v = 0) : doFcc den v c = c :=
  (if_neg (by simp [hr])).trans (if_pos h)

/-- In a schedule the rate stands, and a write that would change it is recorded (R9, R316). -/
theorem doFcc_of_running (hr : c.running = true) :
    doFcc den v c =
      if v = (if c.img.isSome then (if den then c.fccShown.2 else c.fccShown.1) % 2 ^ 32
        else c.rd (.time 0) (if den then 0x0BC else 0x0B8)) then c
      else c.pageFlt (.time 0) 0x01 := if_pos hr

/-- A REF_CFG write that clears ENABLE fails the reference with DISABLED (R306). -/
theorem doRefCfg_of_cleared (h : c.refEn n = true) (hv : v.testBit 0 = false) :
    doRefCfg n v c = (c.wr (.time 1) (0x040 + 32 * n) (v &&& 0x1F)).refFails n 6 := by
  refine if_pos ⟨h, ?_⟩
  rw [Core.refEn, Core.refCfg, Core.rd_wr_same, bit, Nat.testBit_mod_two_pow, Nat.testBit_and, hv]
  simp

end Settings

/-! ### The armed set (R315, R322) -/

section AtbSet

variable {c : Core}

/-- TC as the armed set leaves it: at the PPS of the active reference, or at the next whole second. -/
def Core.atbSetTc (c : Core) : Nat :=
  if c.time.active.isSome then c.time.tc else cdiv c.time.tcNs 1000000000 * 1000000000 * 65536

/-- ATB in 2^-16 ns as the armed set makes it. -/
def Core.atbSetTo (c : Core) : Nat := c.rd64 (.time 0) 0x090 * 1000000000 * 65536

/-- The timing unit after the armed set. -/
def TimeS.atbSet (t : TimeS) (tc atb : Nat) : TimeS :=
  { t with tc := tc, base := (atb : Int) - (tc : Int), ak := 0, slew := 0, slewAt := tc / 65536, rem := 0, pend := none,
           armed := false, atbValid := true }

theorem TimeS.atbSet_acc (t : TimeS) (tc atb : Nat) : (t.atbSet tc atb).acc = 0 := by simp [TimeS.acc, TimeS.atbSet]

theorem TimeS.atbSet_atb (t : TimeS) (tc atb : Nat) : (t.atbSet tc atb).atb = atb := by
  rw [TimeS.atb, TimeS.atbSet_acc]
  simp [TimeS.atbSet]

theorem doAtbSet_of_armed (h : c.time.armed = true) :
    doAtbSet c =
      let d := c.modTime (fun t => t.atbSet c.atbSetTc c.atbSetTo)
      if c.time.pend.isSome then d.inc (.time 2) 0x05C else d := if_neg (by simp [h])

theorem doAtbSet_time (h : c.time.armed = true) : (doAtbSet c).time = c.time.atbSet c.atbSetTc c.atbSetTo := by
  rw [doAtbSet_of_armed h]
  dsimp only
  split_ifs
  · exact Core.inc_time ..
  · rfl

end AtbSet

/-! ### PPS_OUT (R328) -/

section PpsOut

variable {c : Core} {tc : Nat}

theorem Core.ppsDue_iff : c.ppsDue tc = true ↔
    (bits (c.rd (.time 0) 0x040) 3 2 = 0 ∧
      nearMul (1000000000 * 65536) (2 * 65536) (c.time.atbAt (tc * 65536) - c.ppsDelay * 65536) = true) ∨
    (bits (c.rd (.time 0) 0x040) 3 2 = 1 ∧ ∃ n, c.time.active = some n ∧
      nearMul 1000000000000 2000 (((tc : Int) - c.ppsDelay) * 1000 - (c.ref n).raw) = true) ∨
    (2 ≤ bits (c.rd (.time 0) 0x040) 3 2 ∧ nearMul 1000000000 2 ((tc : Int) - c.ppsDelay) = true) := by
  unfold Core.ppsDue
  dsimp only
  split
  next h => simp [h]
  next h =>
    simp only [h]
    cases c.time.active <;> simp
  next h0 h1 =>
    replace h0 : bits (c.rd (.time 0) 0x040) 3 2 ≠ 0 := h0
    replace h1 : bits (c.rd (.time 0) 0x040) 3 2 ≠ 1 := h1
    have h2 : 2 ≤ bits (c.rd (.time 0) 0x040) 3 2 := by omega
    simp [h0, h1, h2]

theorem doPpsOut_of_due (he : bit (c.rd (.time 0) 0x040) 1 = true) (ht : c.time.tcNs ≤ tc) (hd : c.ppsDue tc = true)
    (hp : ∀ p, c.time.ppsOutAt = some p → p + 4 < tc) :
    doPpsOut tc c = ((c.timeTo tc).modTime (fun t => { t with ppsOutAt := some tc })).emit (.ppsOut tc c.ppsWidth) := by
  refine if_neg ?_
  rw [he, hd]
  cases ha : c.time.ppsOutAt with
  | none => simp [ht]
  | some p =>
    have := hp p ha
    simp [ht]
    omega

theorem doPpsOut_of_disabled (h : bit (c.rd (.time 0) 0x040) 1 = false) : doPpsOut tc c = c := if_pos (.inl h)

/-- Where the search for the next edge begins: the present TC, and past the last edge. -/
def Core.ppsFrom (c : Core) : Nat :=
  match c.time.ppsOutAt with
  | some p => max c.time.tcNs (p + 5)
  | none => c.time.tcNs

theorem Core.le_ppsFrom (c : Core) : c.time.tcNs ≤ c.ppsFrom ∧ ∀ p, c.time.ppsOutAt = some p → p + 4 < c.ppsFrom := by
  unfold Core.ppsFrom
  cases c.time.ppsOutAt with
  | none => exact ⟨le_rfl, fun p h => nomatch h⟩
  | some p =>
    refine ⟨le_max_left .., fun q h => ?_⟩
    cases h
    exact lt_of_lt_of_le (by omega) (le_max_right _ _)

/-- With TC as the source, the next whole second plus the delay. -/
theorem Core.ppsNext_of_tc (h : 2 ≤ bits (c.rd (.time 0) 0x040) 3 2) :
    c.ppsNext = c.ppsFrom + ((c.ppsDelay - (c.ppsFrom : Int)) % 1000000000).toNat := by
  unfold Core.ppsNext
  dsimp only
  split
  next e => omega
  next e => omega
  next => rfl

theorem Core.ppsNext_whole (h : 2 ≤ bits (c.rd (.time 0) 0x040) 3 2) : ((c.ppsNext : Int) - c.ppsDelay) % 1000000000 = 0 := by
  rw [Core.ppsNext_of_tc h]
  omega

end PpsOut

/-! ### SLIDE and TIME_SEND (R320, R324) -/

section Commands

variable {c : Core} {r : Nat} {d : Desc} {b : List Byte}

theorem doSlide_of_len {body : Option (List Byte)} (ht : c.timeOn = true) (hl : d.len ≠ 32) :
    doSlide r body d c = ((c.inc (.time 2) 0x05C).raise (.time 2) 1).finish r stInvalid :=
  (if_neg (by simp [ht])).trans (if_pos hl)

theorem doSlide_of_body {body : Option (List Byte)} (ht : c.timeOn = true) (hl : d.len = 32) :
    doSlide r body d c = match body with
      | none => c.finish r stHostErr
      | some b =>
        if c.slideStatus b = stAccepted then
          let q : SlideReq := { actS := leAt b 0 8, actNs := leAt b 8 4, step := leAt b 12 4, off := sleAt b 16 8 }
          ((c.modTime (fun t => { t with pend := some q })).inc (.time 2) 0x058).finish r (c.slideStatus b)
        else ((c.inc (.time 2) 0x05C).raise (.time 2) 1).finish r (c.slideStatus b) :=
  (if_neg (by simp [ht])).trans (if_neg (not_not.2 hl))

theorem doTimeSend_of_deaf (h : ¬ ((c.lane (d.arg0 % 256)).st = .up ∧ c.txReturn (d.arg0 % 256) = true ∧
    (c.lane (d.arg0 % 256)).features.testBit 0 = true)) : doTimeSend r d c = c.finish r stInvalid := by
  refine if_pos ?_
  by_contra hn
  simp only [not_or, ne_eq, not_not, Bool.not_eq_false] at hn
  exact h hn

theorem doTimeSend_of_able (h : (c.lane (d.arg0 % 256)).st = .up ∧ c.txReturn (d.arg0 % 256) = true ∧
    (c.lane (d.arg0 % 256)).features.testBit 0 = true) :
    doTimeSend r d c =
      if c.time.tsQ.any (fun e => e.id == bits d.arg0 31 16) = true then c.finish r stBusy
      else (c.modLane (d.arg0 % 256) (fun x => { x with timeQ := x.timeQ ++ [bits d.arg0 31 16] })).finish r stAccepted :=
  if_neg (by simp [h])

end Commands

/-! ### The obligation -/

/-- Settles O28: the settings by the branch of each command, the armed set by what it leaves (`doAtbSet_time`), PPS_OUT by when an
edge is due (`Core.ppsDue_iff`), and the ring commands by their status. -/
theorem timeSettingsAndCommands : Obligations.TimeSettingsAndCommands := by
  refine ⟨fun s => ⟨fun h => ?time0, fun h n v he hv => ?cleared, fun h n v hk => ?kept, fun hd => ?tick, fun hd => ?noTick,
      fun h ht => ⟨fun ha => ?armed, fun ha => timeEvent_does_of h ht (if_pos ha), fun tc hn he hle hp hdue => ?edge,
        fun he => timeEvent_does_of h ht (doPpsOut_of_disabled he), fun h2 => ?next⟩, fun c => ?pin⟩,
    fun c b => ⟨fun hb => if_pos hb, fun hb hp => (if_neg hb).trans (if_pos hp),
      fun hb hp hl => (if_neg hb).trans ((if_neg (by simp [hp])).trans (if_pos hl)),
      fun hb hp hl hr => (if_neg hb).trans ((if_neg (by simp [hp])).trans ((if_neg hl).trans (if_pos hr))),
      fun hb hp hl hr => (if_neg hb).trans ((if_neg (by simp [hp])).trans ((if_neg hl).trans (if_neg hr)))⟩,
    fun s r d h => ⟨fun body ht => exec_does_of h (if_pos ht), fun body ht hl => exec_does_of h (doSlide_of_len ht hl),
      fun ht hl => exec_does_of h (doSlide_of_body ht hl), fun b ht hl => ⟨fun hs => exec_does_of h ?accepted,
        fun hs => exec_does_of h ((doSlide_of_body ht hl).trans (if_neg hs))⟩⟩,
    fun s r d h => ⟨fun hok => exec_does_of h (doTimeSend_of_deaf hok),
      fun hok hq => exec_does_of h ((doTimeSend_of_able hok).trans (if_pos hq)),
      fun hok hq => exec_does_of h ((doTimeSend_of_able hok).trans (if_neg (by simp [hq])))⟩,
    fun s e es h ht hq => timeEvent_does_of h ht ?aged, fun s h hb => act_does_of h ?notAged⟩
  case time0 =>
    refine ⟨fun hr => ?stopped, fun hr => ?running, fun v den hr hi hv => ?stored, fun v den hr hi => ?ignored,
      fun v den hr hi => ?unloaded, fun v den i hr hi => ?loaded⟩
    case stopped =>
      have hr' : (s.core.lockAccess (.time 0) 0).running = false := by simpa using hr
      exact ⟨regCmd_doesReg_of h (Core.unlessRunning_of_not hr'), regCmd_doesReg_of h (Core.unlessRunning_of_not hr')⟩
    case running =>
      have hr' : (s.core.lockAccess (.time 0) 0).running = true := by simpa using hr
      exact ⟨regCmd_doesReg_of h (Core.unlessRunning_of_running hr'), regCmd_doesReg_of h (Core.unlessRunning_of_running hr')⟩
    case stored =>
      exact regCmd_doesReg_of h (doFcc_of_unloaded (by simpa using hr) (by simpa using hi) (fun e => hv (BitVec.eq_of_toNat_eq e)))
    case ignored =>
      exact regCmd_doesReg_of h (doFcc_of_ignored (by simpa using hr) (by simpa using hi.imp_right (congrArg BitVec.toNat)))
    case unloaded =>
      refine regCmd_doesReg_of h ((doFcc_of_running (by simpa using hr)).trans ?_)
      have hoff : (if den then 0x0BC else 0x0B8) < 4096 := by cases den <;> decide
      simp only [Core.lockAccess_img, hi, Option.isSome_none, Bool.false_eq_true, if_false,
        Core.rd_lockAccess_off s.core (.time 0) (.time 0) 0 hoff (by decide) (by decide)]
    case loaded =>
      refine regCmd_doesReg_of h ((doFcc_of_running (by simpa using hr)).trans ?_)
      simp only [Core.lockAccess_img, hi, Option.isSome_some, if_true, Core.fccShown_lockAccess]
  case cleared =>
    exact regCmd_doesReg_of h (doRefCfg_of_cleared (by simpa using he) (by simpa [BitVec.getLsbD] using hv))
  case kept => exact regCmd_doesReg_of h (doRefCfg_of_kept (by simpa [BitVec.getLsbD] using hk))
  case tick => exact actDrone_does_of (by rw [hd]; rfl)
  case noTick => exact actDrone_does_of (by rw [hd]; rfl)
  case armed =>
    refine State.does_leaves (timeEvent_does_of h ht rfl) ?_
    have hregs := doAtbSet_of_armed ha
    rw [doAtbSet_time ha]
    refine ⟨TimeS.atbSet_atb .., TimeS.atbSet_acc .., rfl, rfl, rfl, rfl, fun hs => if_pos hs, fun hs => if_neg (by simp [hs]),
      fun hp => ?_, fun hp => ?_⟩
    · rw [hregs]; simp [hp]
    · rw [hregs, if_pos (Option.ne_none_iff_isSome.1 hp)]; rfl
  case edge =>
    refine timeEvent_does_of h ht ?_
    rw [← hn]
    exact doPpsOut_of_due he hle (Core.ppsDue_iff.2 hdue) hp
  case next =>
    obtain ⟨h1, hp⟩ := s.core.le_ppsFrom
    have hle : s.core.ppsFrom ≤ s.core.ppsNext := by rw [Core.ppsNext_of_tc h2]; exact Nat.le_add_right ..
    exact ⟨h1.trans hle, Core.ppsNext_whole h2, fun p e => (hp p e).trans_le hle⟩
  case pin =>
    simp only [Core.ppsPin, Bool.and_eq_true, Option.any_eq_true, decide_eq_true_eq, and_assoc]
    rfl
  case accepted => exact (doSlide_of_body ht hl).trans ((if_pos hs).trans (by rw [hs]))
  case aged => rw [doTsAged, hq]
  case notAged =>
    obtain ht | hq := hb
    · rw [ht]; rfl
    · cases s.core.timeOn
      · rfl
      · rw [Core.when_true, doTsAged, hq]

end Sys2Proof.Machine
end

section
/-! PROOFS. What BAR0 refuses (O12), page interrupts and their messages (O13): the sizes that BAR0 accepts, the message of a
pending bit that becomes free, and the words of the MSI-X table. -/

namespace Sys2Proof.Machine

/-! ### Unmapped accesses and sizes (R358, R395) -/

section Refused

variable {s : State} {m : Master} {page off : Fin 4096}

/-- The default target records an access that finds no page; the host's read is aborted there. -/
theorem doUnmapped_of_none {write : Bool} (hp : pageAt s.core.part page.val = none) (hm : m ≠ .setr) :
    doUnmapped m page off write s.core =
      (let c := s.core.unmapped m page off write
       if write = false ∧ m = .pcie then c.aborts (.read page off none) else c) := by
  unfold doUnmapped
  rw [if_neg (by simp [hp, hm])]
  cases write <;> by_cases h : m = .pcie <;> simp [h]

theorem Core.bar0Ok_iff (c : Core) (page off size : Nat) : c.bar0Ok page off size = true ↔
    (size = 4 ∧ off % 4 = 0) ∨ (size = 8 ∧ off % 8 = 0 ∧ ∃ k, pageAt c.part page = some k ∧ off ∈ k.loOffs) := by
  cases h : pageAt c.part page <;> simp [Core.bar0Ok, h, and_assoc]

variable {size : Nat} {write : Bool} {v : DWord} (h : s.runs)
include h

theorem accessSize_of_refused (hb : s.core.bar0Ok page off size = false) :
    exec (.accessSize page off size ⟨write, v⟩) s = s.does (doAccessSize page off write) :=
  live_does_of (f := accessSizeCmd page off size write v) h (if_pos hb)

/-- A 4 B access has rows of its own. -/
theorem accessSize_of_four (hb : s.core.bar0Ok page off 4 = true) :
    exec (.accessSize page off 4 ⟨write, v⟩) s = s.does (fun c => c) := by
  refine live_does_of (f := accessSizeCmd page off 4 write v) h ?_
  simp only [accessSizeCmd, hb, Bool.true_eq_false, if_false, if_true, State.onCore_id]
  split <;> rfl

theorem accessSize_of_served {k : PageKind} (hb : s.core.bar0Ok page off 8 = true) (hp : pageAt s.core.part page.val = some k)
    (hr : s.core.route k = .serve) :
    exec (.accessSize page off 8 ⟨write, v⟩) s = .next (s.after (s.pairAccess k page off write v)) := by
  have e : accessSizeCmd page off 8 write v s = s.pairAccess k page off write v := by
    simp only [accessSizeCmd, hb, hp, hr, Bool.true_eq_false, if_false, show ¬ (8 : Nat) = 4 by decide]
  rw [← e]
  exact live_next h rfl

end Refused

/-- Settles O12: an access without a page goes to the default target; of the others `Core.bar0Ok_iff` names those that BAR0
accepts. -/
theorem refusedAccesses : Obligations.RefusedAccesses := by
  refine ⟨fun s m page off write h hp hm => act_does_of h (doUnmapped_of_none hp hm), fun s page off size write v h =>
    ⟨fun hn => ?refused, fun h4 ho => ?four, fun k h8 ho hp hlo hr => ?pair⟩⟩
  case refused =>
    exact accessSize_of_refused h (by rw [← Bool.not_eq_true, Core.bar0Ok_iff]; exact hn)
  case four =>
    subst h4
    exact accessSize_of_four h ((Core.bar0Ok_iff ..).2 (.inl ⟨rfl, ho⟩))
  case pair =>
    subst h8
    have e := accessSize_of_served (write := write) (v := v) h ((Core.bar0Ok_iff ..).2 (.inr ⟨rfl, ho, k, hp, hlo⟩)) hp hr
    exact ⟨fun hw => by subst hw; exact e, fun hw => by subst hw; exact e⟩

/-! ### Page interrupts (R403) -/

/-- A header command that is served, and whose effect lies in the core. -/
theorem hdrCmd_doesReg (i : Instr) (page : Nat) {k : PageKind} (f : PageKind → Core → Core) {s : State}
    (h : s.servesHdr page k) : hdrCmd i page (fun k => State.onCore (f k)) s = s.doesReg k (f k) :=
  hdrCmd_next i page k _ s h

/-- A raised bit sends the page's message where Y leaves 0; the bit itself leaves VEC. -/
theorem Core.raise_eq (c : Core) (k : PageKind) (b : Nat) : c.raise k b =
    if c.irqOn k = true ∧ c.irqY k = 0 ∧ (c.wr k 0x010 (c.rd k 0x010 ||| 2 ^ b)).irqY k ≠ 0 then
      (c.wr k 0x010 (c.rd k 0x010 ||| 2 ^ b)).msix (c.rd k 0x018 % 2048)
    else c.wr k 0x010 (c.rd k 0x010 ||| 2 ^ b) := by
  have hv : ∀ w, (c.wr k 0x010 w).rd k 0x018 = c.rd k 0x018 := fun w => by
    rw [Core.rd_wr, if_neg (fun e => absurd (PageKind.key_inj.1 e) (by decide))]
  simp only [Core.raise, Core.pageMsg, hv]

/-! ### The MSI-X table and the pending bits (R357, R362) -/

section Msix

variable (c : Core) (v : Nat)

theorem Core.msix_of_masked (h : c.host.fmask = true ∨ v ∈ c.host.mask) : c.msix v =
    { c with host := { c.host with pbits := if v ∈ c.host.pbits then c.host.pbits else c.host.pbits ++ [v] } } := by
  unfold Core.msix
  rw [if_pos (by simpa using h)]
  by_cases hp : v ∈ c.host.pbits <;> simp [hp]

theorem Core.msix_of_free (hf : c.host.fmask = false) (hm : v ∉ c.host.mask) :
    c.msix v = if c.host.linkUp = true then c.emit (.msix v (c.msixEntry v).1 (c.msixEntry v).2) else c := by
  unfold Core.msix
  rw [if_neg (by simp [hf, hm])]

theorem Core.msix_host_of_free (hf : c.host.fmask = false) (hm : v ∉ c.host.mask) : (c.msix v).host = c.host := by
  rw [c.msix_of_free v hf hm]
  split_ifs <;> rfl

theorem Core.unmask_eq : c.unmask v =
    (let c := { c with host := { c.host with mask := c.host.mask.filter (· != v) } }
     if v ∈ c.host.pbits ∧ c.host.fmask = false then
       { c with host := { c.host with pbits := c.host.pbits.filter (· != v) } }.msix v
     else c) := by
  simp [Core.unmask, Core.msixFree]

theorem Core.maskVec_eq :
    c.maskVec v = if v ∈ c.host.mask then c else { c with host := { c.host with mask := v :: c.host.mask } } := by
  simp [Core.maskVec]

/-- While the function is masked, no pending bit sends a message. -/
theorem Core.foldl_msixFree_of_fmask (vs : List Nat) (h : c.host.fmask = true) : vs.foldl Core.msixFree c = c := by
  have hs : ∀ v, c.msixFree v = c := fun v => if_neg (by simp [h])
  induction vs with
  | nil => rfl
  | cons v vs ih => rw [List.foldl_cons, hs, ih]

/-- A vector that becomes free loses its pending bit; the masks stay, and so does every other pending bit. -/
theorem Core.msixFree_host (hf : c.host.fmask = false) :
    (c.msixFree v).host.fmask = false ∧ (c.msixFree v).host.mask = c.host.mask ∧
      ∀ w, w ∈ (c.msixFree v).host.pbits ↔ w ∈ c.host.pbits ∧ (w ∈ c.host.mask ∨ w ≠ v) := by
  by_cases h : v ∈ c.host.pbits ∧ v ∉ c.host.mask
  · have e : (c.msixFree v).host = { c.host with pbits := c.host.pbits.filter (· != v) } := by
      rw [Core.msixFree, if_pos (by simp [h, hf])]
      exact Core.msix_host_of_free _ v hf h.2
    rw [e]
    refine ⟨hf, rfl, fun w => ?_⟩
    have : w ∈ c.host.mask → w ≠ v := fun hw e => h.2 (e ▸ hw)
    simp only [List.mem_filter, bne_iff_ne, ne_eq]
    tauto
  · have e : c.msixFree v = c := if_neg (by simpa [hf] using h)
    rw [e]
    refine ⟨hf, rfl, fun w => ⟨fun hw => ⟨hw, ?_⟩, And.left⟩⟩
    by_cases hv : w = v
    · subst hv
      exact .inl (by_contra fun hm => h ⟨hw, hm⟩)
    · exact .inr hv

/-- Once the function is unmasked, the pending bits that stay are those of masked vectors. -/
theorem Core.foldl_msixFree_host (vs : List Nat) (hf : c.host.fmask = false) :
    (vs.foldl Core.msixFree c).host.fmask = false ∧
      ∀ w, w ∈ (vs.foldl Core.msixFree c).host.pbits ↔ w ∈ c.host.pbits ∧ (w ∈ c.host.mask ∨ w ∉ vs) := by
  induction vs generalizing c with
  | nil => simp [hf]
  | cons v vs ih =>
    obtain ⟨hf', hm', hp'⟩ := c.msixFree_host v hf
    obtain ⟨hr, hp⟩ := ih (c.msixFree v) hf'
    refine ⟨hr, fun w => ?_⟩
    rw [List.foldl_cons, hp, hp', hm', List.mem_cons]
    tauto

end Msix

/-- Settles O13: the header's commands and the vectors' words are the model's own cases; the end of the function's mask is a fold
over the pending bits (`Core.foldl_msixFree_host`). -/
theorem pageInterrupts : Obligations.PageInterrupts := by
  refine ⟨⟨fun s page v k h => hdrCmd_doesReg _ _ (doPageIrq · v.toNat) h,
      fun s page ctl v k h => hdrCmd_doesReg _ _ (doIrqEnable · ctl v.toNat) h, fun c k b =>
      ⟨fun h => (c.raise_eq k b).trans (if_pos h), fun h => (c.raise_eq k b).trans (if_neg h)⟩⟩,
    fun c v => ⟨c.msix_of_masked v, fun hf hm hl => ?up, fun hf hm hl => ?down⟩,
    fun s o v h => ⟨fun hlt h3 hb => act_does_of h ?unmask, fun hlt h3 hb => act_does_of h ?mask,
      fun hlt h3 => act_does_of h ?entry, fun hge => act_does_of h ?beyond, act_does_of h ?read⟩,
    fun s h => ?fn⟩
  case up => rw [c.msix_of_free v hf hm, if_pos hl]
  case down => rw [c.msix_of_free v hf hm, if_neg (by simp [hl])]
  case unmask => simp [doMsixUnmask, Core.msixWrite, hlt, h3, hb, Core.unmask_eq]
  case mask => simp [doMsixUnmask, Core.msixWrite, hlt, h3, hb, Core.maskVec_eq]
  case entry =>
    obtain h0 | h1 | h2 : o.val % 4 = 0 ∨ o.val % 4 = 1 ∨ o.val % 4 = 2 := by omega
    · simp [doMsixUnmask, Core.msixWrite, hlt, h0]
    · simp [doMsixUnmask, Core.msixWrite, hlt, h1]
    · simp [doMsixUnmask, Core.msixWrite, hlt, h2]
  case beyond => simp [doMsixUnmask, Nat.not_lt.2 hge]
  case read => simp [doMsixUnmask, Core.bar4Word, b2n]
  case fn =>
    refine ⟨act_does_of h (Core.foldl_msixFree_of_fmask _ _ rfl), fun _ => ⟨_, act_does _ s h, ?_⟩⟩
    obtain ⟨hf, hp⟩ := Core.foldl_msixFree_host { s.core with host := { s.core.host with fmask := false } } s.core.host.pbits rfl
    exact ⟨hf, fun v => (hp v).trans (and_congr_right fun hv => or_iff_left (not_not_intro hv))⟩

end Sys2Proof.Machine
end

section
/-! PROOFS. Locks of the control crossbar and age promotion (O15): the waiting master that goes first, the lock that it takes, and
the commands of each master. -/

namespace Sys2Proof.Machine

/-! ### The waiting master of highest level (R394) -/

section Wait

variable (c : Core) (g : Nat) (ws : List Nat)

/-- Of the masters of `l` that wait, `b` goes first: the highest level, of equal levels the lowest code. -/
def Core.WaitsFirst (l : List Nat) (b : Option Nat) : Prop :=
  match b with
  | none => ∀ n ∈ l, n ∉ ws
  | some m => m ∈ ws ∧ m ∈ l ∧ ∀ n ∈ l, n ∈ ws → c.prioG g n < c.prioG g m ∨ (c.prioG g n = c.prioG g m ∧ m ≤ n)

/-- The choice after one more master. -/
def Core.betterWait (b : Option Nat) (m : Nat) : Option Nat :=
  if ws.elem m then
    (match b with
     | none => some m
     | some o => if c.prioG g o < c.prioG g m then some m else b)
  else b

theorem Core.bestWait_eq : c.bestWait g ws = ([0, 1, 2, 3] : List Nat).foldl (c.betterWait g ws) none := rfl

variable {c g ws}

theorem Core.WaitsFirst.step {l : List Nat} {b : Option Nat} {m : Nat} (h : c.WaitsFirst g ws l b) (hl : ∀ n ∈ l, n < m) :
    c.WaitsFirst g ws (l ++ [m]) (c.betterWait g ws b m) := by
  unfold Core.betterWait
  by_cases hm : m ∈ ws
  · rw [if_pos (by simpa using hm)]
    cases b with
    | none =>
      refine ⟨hm, by simp, fun n hn hw => ?_⟩
      obtain hn | hn := List.mem_append.1 hn
      · exact absurd hw (h n hn)
      · simp [List.mem_singleton.1 hn]
    | some o =>
      obtain ⟨ho, hol, hf⟩ := h
      dsimp only
      split_ifs with hlt
      · refine ⟨hm, by simp, fun n hn hw => ?_⟩
        obtain hn | hn := List.mem_append.1 hn
        · obtain h | h := hf n hn hw <;> omega
        · simp [List.mem_singleton.1 hn]
      · refine ⟨ho, by simp [hol], fun n hn hw => ?_⟩
        obtain hn | hn := List.mem_append.1 hn
        · exact hf n hn hw
        · have := hl o hol
          rw [List.mem_singleton.1 hn]
          omega
  · rw [if_neg (by simpa using hm)]
    cases b with
    | none =>
      intro n hn
      obtain hn | hn := List.mem_append.1 hn
      · exact h n hn
      · exact List.mem_singleton.1 hn ▸ hm
    | some o =>
      obtain ⟨ho, hol, hf⟩ := h
      refine ⟨ho, by simp [hol], fun n hn hw => ?_⟩
      obtain hn | hn := List.mem_append.1 hn
      · exact hf n hn hw
      · exact absurd (List.mem_singleton.1 hn ▸ hw) hm

variable (c g ws)

theorem Core.bestWait_first : c.WaitsFirst g ws [0, 1, 2, 3] (c.bestWait g ws) := by
  have h0 : c.WaitsFirst g ws [] none := by simp [Core.WaitsFirst]
  rw [c.bestWait_eq]
  exact (((h0.step (m := 0) (by simp)).step (m := 1) (by decide)).step (m := 2) (by decide)).step (m := 3) (by decide)

variable {ws}

/-- Where a master waits, one goes first. -/
theorem Core.bestWait_of_waiting (h : ws ≠ []) (h4 : ∀ m ∈ ws, m < 4) :
    ∃ m ∈ ws, c.bestWait g ws = some m ∧
      ∀ n ∈ ws, c.prioG g n < c.prioG g m ∨ (c.prioG g n = c.prioG g m ∧ m ≤ n) := by
  have hmem : ∀ m ∈ ws, m ∈ [0, 1, 2, 3] := fun m hm => by
    have := h4 m hm
    simp only [List.mem_cons, List.not_mem_nil, or_false]
    omega
  have hb := c.bestWait_first g ws
  cases e : c.bestWait g ws with
  | none =>
    obtain ⟨m, hm⟩ := List.exists_mem_of_ne_nil ws h
    exact absurd hm ((e ▸ hb : c.WaitsFirst g ws _ none) m (hmem m hm))
  | some m =>
    obtain ⟨hm, -, hf⟩ : c.WaitsFirst g ws _ (some m) := e ▸ hb
    exact ⟨m, hm, rfl, fun n hn => hf n (hmem n hn) hn⟩

end Wait

/-! ### A lock that ends (R393, R394) -/

section End

variable (c : Core) (g : Nat)

/-- The levels of a group are registers, which a lock leaves. -/
theorem Core.bestWait_setLock (n : Nat) (x : LockS) (ws : List Nat) : (c.setLock n x).bestWait g ws = c.bestWait g ws := rfl

theorem Core.lockGrant_lock (m : Nat) :
    (c.lockGrant g m).lock g = { owner := some m, acc := 0, wait := (c.lock g).wait.filter (· != m) } := by
  simp [Core.lockGrant]

theorem Core.lockEnd_of_none (h : (c.lock g).wait = []) : (c.lockEnd g).lock g = { owner := none, acc := 0, wait := [] } := by
  simp [Core.lockEnd, h, show ∀ d : Core, d.bestWait g [] = none from fun _ => rfl]

theorem Core.lockEnd_of_best {m : Nat} (h : c.bestWait g (c.lock g).wait = some m) :
    (c.lockEnd g).lock g = { owner := some m, acc := 0, wait := (c.lock g).wait.filter (· != m) } := by
  simp only [Core.lockEnd, Core.bestWait_setLock, h, Core.lockGrant_lock, Core.lock_setLock_same]

end End

/-! ### The commands -/

section Commands

variable {c : Core}

theorem doAcquire_of_taken {m g o : Nat} (hg : g < 7 + c.part.dies) (ho : (c.lock g).owner = some o) (hne : o ≠ m)
    (hw : m ∉ (c.lock g).wait) : doAcquire m g c = c.setLock g { c.lock g with wait := (c.lock g).wait ++ [m] } := by
  simp [doAcquire, Core.groupOk, hg, ho, hne, hw]

theorem doRelease_of_ne {m g : Nat} (ho : (c.lock g).owner ≠ some m) : doRelease m g c = c := if_neg ho

theorem Core.lockCmdOpen_of {m : Master} (ha : c.acts .cxb = true)
    (hm : m = .drone ∨ m = .debug ∧ c.debugOpenFor 0 = true ∧ c.winOpen 4 37 = true) : c.lockCmdOpen m = true := by
  obtain rfl | ⟨rfl, hd, hw⟩ := hm
  · exact ha
  · simp [Core.lockCmdOpen, hd, hw, ha]

/-- The command of a master other than the host, once it is served. -/
theorem lockCmd_does {i : Instr} {m : Master} {f : Core → Core} {s : State} (h : s.runs) (hm : m ≠ .pcie)
    (ho : s.core.lockCmdOpen m = true) : lockCmd i m f s = s.does f := by
  unfold lockCmd
  split
  · exact absurd rfl hm
  · exact act_does_of h (if_pos ho)

/-- The sequencer's master has no LOCK_CMD. -/
theorem lockCmd_setr (i : Instr) {f : Core → Core} {s : State} (h : s.runs) : lockCmd i .setr f s = s.does (fun c => c) :=
  act_does_of h (if_neg (by simp [Core.lockCmdOpen]))

theorem Core.lockedOut_iff {k : PageKind} {m o : Nat} (hk : k.lockable = true) (ho : (c.lock k.group).owner = some o) :
    c.lockedOut k m = true ↔ o ≠ m := by
  simp [Core.lockedOut, hk, ho]

theorem Core.lockAccess_of_holder {k : PageKind} {m : Nat} (hk : k.lockable = true) (ho : (c.lock k.group).owner = some m) :
    c.lockAccess k m = if c.maxAcc ≤ (c.lock k.group).acc + 1 then c.lockExpire k.group
      else c.setLock k.group { c.lock k.group with acc := (c.lock k.group).acc + 1 } := if_pos ⟨hk, ho⟩

end Commands

/-- Settles O15: each command is the model's own case; the lock that ends goes to the master that `Core.bestWait_of_waiting`
names. -/
theorem locksAndAge : Obligations.LocksAndAge := by
  refine ⟨⟨fun s g h hg => ?host, fun s m g h hg ha hm => ?masters,
      fun s g h => ⟨lockCmd_setr (.acquire .setr g) h, lockCmd_setr (.release .setr g) h⟩,
      fun s g h ho => act_does_of h (if_pos (Option.isSome_iff_ne_none.2 ho)), fun c g h => c.lockEnd_of_none g h,
      fun c g h h4 => ?wait, fun c k m o hk ho => c.lockedOut_iff hk ho, fun c k m hk ho hlt => ?counts,
      fun c k m hk ho hle => ?last⟩,
    fun s m g h => ⟨fun hl => act_does_of h (if_pos hl), fun hl => act_does_of h (if_neg (by omega))⟩,
    fun s m t h hm ht => ⟨fun hl => act_does_of h (if_pos ⟨hm, ht, hl⟩), fun hl => act_does_of h (if_neg (by omega))⟩,
    fun c m g t => ?levels⟩
  case host =>
    refine ⟨fun ho => regCmd_doesReg_of h ?_, fun o ho hne hw => regCmd_doesReg_of h ?_,
      fun ho => regCmd_doesReg_of h ?_, fun ho => regCmd_doesReg_of h ?_⟩ <;> rw [Core.lockAccess_cxb]
    · exact doAcquire_of_free hg ho
    · exact doAcquire_of_taken hg ho hne hw
    · exact doRelease_of_owner ho
    · exact doRelease_of_ne ho
  case masters =>
    have ho := Core.lockCmdOpen_of ha hm
    have hp : m ≠ .pcie := by
      rintro rfl
      simp at hm
    exact ⟨fun hf => (lockCmd_does h hp ho).trans (State.does_congr (doAcquire_of_free hg hf)),
      fun hf => (lockCmd_does h hp ho).trans (State.does_congr (doRelease_of_owner hf))⟩
  case wait =>
    obtain ⟨m, hm, hb, hf⟩ := c.bestWait_of_waiting g h h4
    exact ⟨m, hm, c.lockEnd_of_best g hb, hf⟩
  case counts => rw [Core.lockAccess_of_holder hk ho, if_neg (by omega)]
  case last => rw [Core.lockAccess_of_holder hk ho, if_pos hle]
  case levels =>
    exact ⟨fun h => if_pos (by simpa using h), fun h => if_pos (by simpa using h), fun h => if_neg (by simpa using h),
      fun h => if_neg (by simpa using h), by simp [Core.cxbServed]⟩

end Sys2Proof.Machine
end

section
/-! PROOFS. UNIT_RESET of a page (O14): what an entrywise change of a map reads, and with it every register of a page that is
reset, kept bits and the registers of other pages too. -/

namespace Sys2Proof.Machine

/-! ### An entrywise change of a map -/

theorem SMap.get_of_absent {α : Type} (d : Nat → α) (m : SMap α) (k : Nat) (h : ∀ e ∈ m, e.1 ≠ k) : SMap.get d m k = d k :=
  SMap.get_append_left d [] m k h

/-- Where each entry of key `k` becomes `g` of its value, or is dropped where that is the default, so does what the map reads. -/
theorem SMap.get_filterMap {α : Type} (d : Nat → α) (m : SMap α) (f : Nat × α → Option (Nat × α)) (k : Nat) (g : α → α)
    (hm : m.Pairwise (fun a b => a.1 < b.1)) (hkey : ∀ e e', f e = some e' → e'.1 = e.1)
    (hk : ∀ v, f (k, v) = none ∧ g v = d k ∨ f (k, v) = some (k, g v)) (hd : g (d k) = d k) :
    SMap.get d (m.filterMap f) k = g (SMap.get d m k) := by
  induction m with
  | nil => exact hd.symm
  | cons e m ih =>
    obtain ⟨j, v⟩ := e
    obtain ⟨hj, hm⟩ := List.pairwise_cons.1 hm
    by_cases h : j = k
    · subst h
      have ha : SMap.get d m j = d j := SMap.get_of_absent d m j fun e he => (hj e he).ne'
      obtain ⟨hn, hg⟩ | hs := hk v
      · rw [List.filterMap_cons_none hn, ih hm, ha, hd, SMap.get, if_pos rfl, hg]
      · rw [List.filterMap_cons_some hs, SMap.get, SMap.get, if_pos rfl, if_pos rfl]
    · rw [SMap.get, if_neg h, ← ih hm]
      cases he : f (j, v) with
      | none => rw [List.filterMap_cons_none he]
      | some e' => rw [List.filterMap_cons_some he, SMap.get, if_neg (by rw [hkey _ _ he]; exact h)]

/-! ### The registers of a page that is reset (R404) -/

section ResetPage

variable (c : Core) (k : PageKind) (keep : Nat → Nat)

/-- A register's value after a reset that keeps the bits of a mask. -/
def keptBits (old reset : Word) (m : Nat) : Nat := (old.toNat &&& m) ||| (reset.toNat &&& (m32 ^^^ m))

theorem keptBits_lt (old reset : Word) (m : Nat) : keptBits old reset m < 2 ^ 32 :=
  Nat.or_lt_two_pow (Nat.lt_of_le_of_lt Nat.and_le_left old.isLt) (Nat.lt_of_le_of_lt Nat.and_le_left reset.isLt)

/-- A register at its reset value stays there. -/
theorem word_keptBits_self (reset : Word) (m : Nat) : word (keptBits reset reset m) = reset := by
  have h : keptBits reset reset m = reset.toNat := by
    rw [keptBits, ← Nat.and_or_distrib_left]
    refine Nat.eq_of_testBit_eq fun i => ?_
    by_cases hi : i < 32
    · have hm : m32.testBit i = true := by
        rw [show m32 = 2 ^ 32 - 1 from rfl, Nat.testBit_two_pow_sub_one]
        exact decide_eq_true hi
      cases hb : m.testBit i <;> simp [hm, hb]
    · have hb : reset.toNat.testBit i = false :=
        Nat.testBit_lt_two_pow (Nat.lt_of_lt_of_le reset.isLt (Nat.pow_le_pow_right (by decide) (by omega)))
      simp [hb]
  rw [h, word, BitVec.ofNat_toNat, BitVec.setWidth_eq]

theorem toNat_word_keptBits (old reset : Word) (m : Nat) : (word (keptBits old reset m)).toNat = keptBits old reset m := by
  rw [word, BitVec.toNat_ofNat, Nat.mod_eq_of_lt (keptBits_lt old reset m)]

theorem PageKind.key_div {j : PageKind} {off : Nat} (ho : off < 4096) : j.key off / 4096 = j.no := by
  unfold PageKind.key
  omega

theorem PageKind.key_mod {j : PageKind} {off : Nat} (ho : off < 4096) : j.key off % 4096 = off := by
  unfold PageKind.key
  omega

variable {c}

theorem Core.resetPage_keys (e e' : Nat × Word)
    (h : (if e.1 / 4096 = k.no then
        let m := keep (e.1 % 4096)
        let v := word ((e.2.toNat &&& m) ||| ((regReset e.1).toNat &&& (m32 ^^^ m)))
        if v = regReset e.1 then none else some (e.1, v)
      else some e) = some e') : e'.1 = e.1 := by
  dsimp only at h
  split_ifs at h <;> cases h <;> rfl

/-- A reset keeps the bits of the mask in the page's own registers, and every register of the other pages. -/
theorem Core.rd_resetPage_keep (hw : SMap.wf regReset c.regs = true) (j : PageKind) {off : Nat} (ho : off < 4096) :
    (c.resetPage k keep).rd j off =
      if j.no = k.no then
        (c.rd j off &&& keep off) ||| ((regReset (k.key off)).toNat &&& (m32 ^^^ keep off))
      else c.rd j off := by
  have hp := ((SMap.wf_iff _ _).1 hw).1
  split_ifs with hj
  · have hk : j.key off = k.key off := by unfold PageKind.key; rw [hj]
    have e : (c.resetPage k keep).reg (j.key off) =
        word (keptBits (c.reg (j.key off)) (regReset (k.key off)) (keep off)) := by
      refine SMap.get_filterMap regReset c.regs _ _ (fun w => word (keptBits w (regReset (k.key off)) (keep off))) hp
        (Core.resetPage_keys k keep) (fun v => ?_) (by rw [hk]; exact word_keptBits_self _ _)
      simp only [PageKind.key_div ho, PageKind.key_mod ho, if_true, hk]
      by_cases hv : word (keptBits v (regReset (k.key off)) (keep off)) = regReset (k.key off)
      · exact .inl ⟨if_pos hv, hv⟩
      · exact .inr (if_neg hv)
    rw [Core.rd, e, toNat_word_keptBits]
    rfl
  · refine congrArg BitVec.toNat (SMap.get_filterMap regReset c.regs _ (j.key off) id hp (Core.resetPage_keys k keep)
      (fun v => .inr ?_) rfl)
    simp only [PageKind.key_div ho, hj, if_false, id]

end ResetPage

/-! ### The command -/

section Command

variable {s : State} {page : Fin 4096} {k : PageKind}

/-- What UNIT_RESET leaves before the references and the oscillator follow. -/
def State.unitReset (s : State) (k : PageKind) : State :=
  (s.onCore (fun c => (c.lockAccess k 0).resetPage k k.keepOnReset)).resetSide k

theorem State.rd_unitReset (hw : SMap.wf regReset s.core.regs = true) (j : PageKind) {off : Nat} (ho : off < 4096) :
    (s.unitReset k).core.rd j off =
      if j.no = k.no then ((s.core.lockAccess k 0).rd j off &&& k.keepOnReset off) |||
        ((regReset (k.key off)).toNat &&& (m32 ^^^ k.keepOnReset off))
      else (s.core.lockAccess k 0).rd j off :=
  (Core.rd_congr (State.resetSide_regs ..) j off).trans
    (Core.rd_resetPage_keep k k.keepOnReset (Core.regsWf_lockAccess k 0 hw) j ho)

theorem unitReset_next (h : s.servesHdr page.val k) (hrun : s.core.running = false) : exec (.unitReset page) s =
    .next (s.after ((s.unitReset k).onCore (fun c => (s.core.lockAccess k 0).timeFollow c k))) := by
  have e : doUnitReset k (s.onCore (fun c => c.lockAccess k 0)) =
      (s.unitReset k).onCore (fun c => (s.core.lockAccess k 0).timeFollow c k) := by
    unfold doUnitReset
    exact if_neg (by simpa using hrun)
  rw [← e]
  exact hdrCmd_next _ _ _ _ s h

end Command

/-- Settles O14: a schedule that runs turns the command into a report; else the registers are those of `State.rd_unitReset`, and
outside TIME0 and TIME1 nothing follows. -/
theorem unitResetOfAPage : Obligations.UnitResetOfAPage := by
  refine fun s page k h _ => ⟨fun hrun => ?_, fun hrun hw => ⟨s.unitReset k, unitReset_next h hrun, fun h0 h1 => ?_,
    fun j off ho => ?_⟩⟩
  · have e : doUnitReset k (s.onCore (fun c => c.lockAccess k 0)) = s.onCore (fun c => (c.lockAccess k 0).pageFlt k 0x01) :=
      if_pos (by simpa using hrun)
    refine (hdrCmd_next _ _ _ _ s h).trans ?_
    rw [e]
    rfl
  · have e : (s.unitReset k).onCore (fun c => (s.core.lockAccess k 0).timeFollow c k) = s.unitReset k := by
      rw [State.onCore, Core.timeFollow_of_ne _ _ h0 h1]
    rw [unitReset_next h hrun, e, State.after_idle s _ h.1.2 (.inl hrun)]
  · exact s.rd_unitReset hw j ho

end Sys2Proof.Machine
end

section
/-! PROOFS. Doorbells and ring descriptors (O29): the ring that a commit leaves, and each descriptor command on a ring where it is
the front one. -/

namespace Sys2Proof.Machine

/-! ### Doorbells and commits (R365, R372) -/

section Commit

variable (c : Core)

theorem doDoorbell_of_active_eq {r t : Nat} (ha : c.ringActive r = true) : doDoorbell r t c =
    if (t + 2 ^ 32 - (c.ring r).head % 2 ^ 32) % 2 ^ 32 ≤ 2 ^ (c.ring r).k ∧
        (t + 2 ^ 32 - (c.ring r).tail % 2 ^ 32) % 2 ^ 32 ≤ 2 ^ (c.ring r).k then c.setRing r { c.ring r with tail := t }
    else (((c.setRing r { c.ring r with error := true }).inc .ring 0x078).raise .ring 1).report .ring 0x91 clsN 0 := by
  unfold doDoorbell
  exact if_neg (by simp [ha])

theorem doDoorbell_of_inactive {r t : Nat} (ha : c.ringActive r = false) : doDoorbell r t c = c := if_pos ha

/-- A diverted completion goes to ring 0, and leaves every other ring. -/
theorem Core.ring_divert (r gen tag status len detail : Nat) {n : Nat} (hn : n ≠ 0) :
    (c.divert r gen tag status len detail).ring n = c.ring n := by
  have hinc : ∀ (d : Core) o, (d.inc .ring o).ring n = d.ring n := fun _ _ => rfl
  simp [Core.divert, Core.diverted, Core.ring_modRing, hn, hinc]

/-- What becomes of a ring whose generation changes: the descriptor in execution stays, and what it did is stale (R374). -/
def RingS.orphaned (x : RingS) (gen : Nat) : RingS :=
  { x with descs := if x.busy then x.descs.take 1 else [], stale := if x.busy then some (x.stale.getD gen) else none,
           compl := x.compl.map (fun q => { q with stale := true }) }

theorem Core.ring_orphanFetched (r gen : Nat) : (c.orphanFetched r gen).ring r = (c.ring r).orphaned gen := by
  have hfold : ∀ (l : List Desc) (d : Core), r ≠ 0 →
      (l.foldl (fun c x => c.divert r x.gen x.tag stOrphaned 0 0) d).ring r = d.ring r := fun l d hr => by
    induction l generalizing d with
    | nil => rfl
    | cons x l ih => exact (ih _).trans (d.ring_divert _ _ _ _ _ _ hr)
  unfold Core.orphanFetched
  dsimp only
  by_cases hr : r = 0
  · rw [if_pos hr]
    exact Core.ring_setRing_same ..
  · rw [if_neg hr, hfold _ _ hr]
    exact Core.ring_setRing_same ..

/-- The ring that a commit leaves: a new generation, the staged bases, the counts at 0 (R372). -/
def RingS.committed (x : RingS) (r v : Nat) : RingS :=
  { x.orphaned x.gen with
    role := if r = 0 then 0 else bits v 2 0, k := max 4 (min 20 (bits v 7 3)),
    dbase := x.stDbase / 4096 * 4096, cbase := x.stCbase / 4096 * 4096, gen := (x.gen + 1) % 256,
    head := 0, tail := 0, fetch := 0, error := false, orphan := if r = 0 then false else x.orphan }

theorem doRingCfg_committed (v : Nat) :
    (doRingCfg v c).ring (c.rd .ring 0x040) = (c.ring (c.rd .ring 0x040)).committed (c.rd .ring 0x040) v := by
  unfold doRingCfg
  dsimp only
  rw [Core.ring_modRing_same, Core.ring_orphanFetched]
  rfl

end Commit

/-! ### Descriptors (R366 to R369, R374) -/

section Descriptors

variable (c : Core) {r : Nat}

theorem doFetchDesc_of_due {bs : List Byte} (ha : c.ringActive r = true) (hl : c.host.linkUp = true) (hd : c.host.d3 = none)
    (ht : (c.ring r).fetch ≠ (c.ring r).tail) (hh : ((c.ring r).fetch + 2 ^ 32 - (c.ring r).head) % 2 ^ 32 < 8) :
    doFetchDesc r (some bs) c =
      if leAt bs 1 1 ≠ (c.ring r).gen then c.staleDesc r (parseDesc (c.ring r).fetch bs)
      else c.setRing r { c.ring r with descs := (c.ring r).descs ++ [parseDesc (c.ring r).fetch bs],
                                       fetch := ((c.ring r).fetch + 1) % 2 ^ 32 } :=
  if_neg (by simpa [ha, hl, hd, ht] using hh)

theorem doFetchDesc_of_not_due {desc : Option (List Byte)} (h : desc = none ∨ c.ringActive r = false ∨ c.host.linkUp = false ∨
    c.host.d3 ≠ none ∨ (c.ring r).fetch = (c.ring r).tail ∨ 8 ≤ ((c.ring r).fetch + 2 ^ 32 - (c.ring r).head) % 2 ^ 32) :
    doFetchDesc r desc c = c := by
  cases desc with
  | none => rfl
  | some bs => exact if_pos (by simpa [Option.isSome_iff_ne_none] using h)

theorem doHostMsg_eq (body : Option (List Byte)) (d : Desc) (hl : d.len = 52) (hm : c.hostMsgLane (d.arg0 % 256) = true) :
    doHostMsg r body d c =
      if 4 ≤ (c.lane (d.arg0 % 256)).hostQ.length then c.finish r stBusy
      else match body with
        | none => c.finish r stHostErr
        | some bs => (c.modLane (d.arg0 % 256) (fun x => { x with hostQ := x.hostQ ++ [slice bs 0 52] })).finish r stAccepted :=
  if_neg (by simp [hl, hm])

theorem doBadOp_of_front {d : Desc} (h : c.badFront r = some d) (hd : c.host.d3 = none) : doBadOp r c =
    if (c.ring r).inbound = true then
      (if c.power.mode = .safe then c.finish r stMode else ((c.inc .ring 0x07C).raise .ring 4).finish r stBadOp)
    else
      let q : Compl := { n := d.n, tag := d.tag, status := stBadOp, len := 0, kind := 0, gen := d.gen, detail := 0,
                         irq := d.dflags.testBit 0, ring := r }
      (((c.setRing r { c.ring r with descs := (c.ring r).descs.drop 1, compl := (c.ring r).compl ++ [q] }).inc .ring 0x07C).raise
        .ring 4).flushCompl 9 r := by
  simp only [doBadOp, h, hd, Option.isSome_none, Bool.false_eq_true, if_false]

theorem doBadOp_of_none (h : c.badFront r = none) : doBadOp r c = c := by
  simp only [doBadOp, h]

/-- In SAFE a command other than NOP ends in MODE (R422). -/
theorem Core.exec_of_safe {op : Nat} {d : Desc} (f : Desc → Core → Core) (h : c.command r op = some d) (hd : c.host.d3 = none)
    (hs : c.power.mode = .safe) (ho : op ≠ 0) : c.exec r op f = c.finish r stMode := by
  simp only [Core.exec, h, hd, hs, ho, Option.isSome_none, Bool.false_eq_true, ne_eq, not_false_eq_true, and_self, if_false,
    if_true]

end Descriptors

/-- Settles O29: doorbells and commits are commands on a page, the rest are events of a ring; each clause is the branch that its
hypotheses name. -/
theorem rings : Obligations.Rings := by
  refine ⟨⟨fun s r t k h => ?doorbell, fun s v h => ?commit⟩,
    fun s r bs h ha hl hd ht hh => ?fetch, fun s r desc h hn => act_does_of h (doFetchDesc_of_not_due _ hn),
    fun s r d h => exec_does_of h rfl, fun s r d h => ?delaySeg, fun s r d h => ?hostMsg,
    fun s r d h hf hd hi => ?inbound, fun s r d h hf hd hi => act_does_of h ?outbound,
    fun s r h hf => act_does_of h (doBadOp_of_none _ hf),
    fun s r d body h hc hd hs => act_does_of h (Core.exec_of_safe _ _ hc hd hs (by decide))⟩
  case doorbell =>
    have e : exec (.doorbellWrite r t) s = s.doesReg k (doDoorbell r t.toNat) :=
      hdrCmd_doesReg _ _ (fun _ => doDoorbell r t.toNat) h
    have ha : ∀ b, s.core.ringActive r = b → (s.core.lockAccess k 0).ringActive r = b := fun b hb => by simpa using hb
    refine ⟨fun hb hok => e.trans (State.doesReg_congr ?_), fun hb hok => e.trans (State.doesReg_congr ?_),
      fun hb => e.trans (State.doesReg_congr (doDoorbell_of_inactive _ (ha _ hb)))⟩
    · rw [doDoorbell_of_active_eq _ (ha _ hb), Core.ring_lockAccess, if_pos hok]
    · rw [doDoorbell_of_active_eq _ (ha _ hb), Core.ring_lockAccess, if_neg hok]
  case commit =>
    refine State.doesReg_leaves (regCmd_does _ _ _ s h) ?_
    have hsel : (s.core.lockAccess .ring 0).rd .ring 0x040 = s.core.rd .ring 0x040 :=
      s.core.rd_lockAccess_off _ _ _ (by decide) (by decide) (by decide)
    have e := doRingCfg_committed (s.core.lockAccess .ring 0) v.toNat
    rw [hsel, Core.ring_lockAccess] at e
    dsimp only
    rw [e]
    exact ⟨rfl, rfl, rfl, rfl, rfl, fun hr => if_neg hr, fun hr => if_pos hr, rfl, rfl, rfl, rfl, rfl, rfl⟩
  case fetch =>
    have e := doFetchDesc_of_due (bs := bs) s.core ha hl hd ht hh
    exact ⟨fun hg => act_does_of h (e.trans (if_neg (not_not_intro hg))), fun hg => act_does_of h (e.trans (if_pos hg))⟩
  case delaySeg =>
    exact ⟨fun body hl => exec_does_of h (if_pos hl), fun hl => exec_does_of h (if_neg (not_not_intro hl)),
      fun bs hl => exec_does_of h (if_neg (not_not_intro hl))⟩
  case hostMsg =>
    refine ⟨fun body hn => exec_does_of h (if_pos hn), fun hl hm => ⟨fun body hq => ?_, fun hq => ?_, fun bs hq => ?_⟩⟩
    · exact exec_does_of h ((doHostMsg_eq _ body d hl hm).trans (if_pos hq))
    · exact exec_does_of h ((doHostMsg_eq _ none d hl hm).trans (if_neg (Nat.not_le.2 hq)))
    · exact exec_does_of h ((doHostMsg_eq _ (some bs) d hl hm).trans (if_neg (Nat.not_le.2 hq)))
  case inbound =>
    have e := (doBadOp_of_front _ hf hd).trans (if_pos hi)
    exact ⟨fun hs => act_does_of h (e.trans (if_neg hs)), fun hs => act_does_of h (e.trans (if_pos hs))⟩
  case outbound => exact (doBadOp_of_front _ hf hd).trans (if_neg (by simp [hi]))

end Sys2Proof.Machine
end

section
/-! PROOFS. The order of patrol scrub (O33): the rows that a pass has read stay in ascending order, and the next one is none of
them. -/

namespace Sys2Proof.Machine

/-! ### The numbers that an ascending list leaves out -/

section Free

theorem le_kthFree (l : List Nat) (k : Nat) : k ≤ kthFree l k := by
  induction l generalizing k with
  | nil => exact Nat.le_refl k
  | cons v vs ih =>
    unfold kthFree
    split_ifs
    · exact Nat.le_of_succ_le (ih (k + 1))
    · exact Nat.le_refl k

theorem kthFree_le (l : List Nat) (k : Nat) : kthFree l k ≤ k + l.length := by
  induction l generalizing k with
  | nil => exact Nat.le_refl k
  | cons v vs ih =>
    have h := ih (k + 1)
    unfold kthFree
    rw [List.length_cons]
    split_ifs <;> omega

theorem kthFree_notMem (l : List Nat) (k : Nat) (hs : l.Pairwise (· < ·)) : kthFree l k ∉ l := by
  induction l generalizing k with
  | nil => exact List.not_mem_nil
  | cons v vs ih =>
    obtain ⟨hv, hs⟩ := List.pairwise_cons.1 hs
    unfold kthFree
    split_ifs with h
    · have hk := le_kthFree vs (k + 1)
      exact List.mem_cons.not.2 (not_or.2 ⟨by omega, ih (k + 1) hs⟩)
    · exact List.mem_cons.not.2 (not_or.2 ⟨by omega, fun hm => h (Nat.le_of_lt (hv k hm))⟩)

/-- The model's insertion is the library's. -/
theorem insertBy_lt_eq (x : Nat) (l : List Nat) :
    insertBy (fun (a b : Nat) => decide (a < b)) x l = l.orderedInsert (· ≤ ·) x := by
  induction l with
  | nil => rfl
  | cons y ys ih =>
    rw [insertBy, ih, List.orderedInsert_cons]
    by_cases h : y < x
    · rw [if_pos (decide_eq_true h), if_neg (Nat.not_le.2 h)]
    · rw [if_neg (by simp [h]), if_pos (Nat.not_lt.1 h)]

theorem pairwise_insertBy {x : Nat} {l : List Nat} (hs : l.Pairwise (· < ·)) (hx : x ∉ l) :
    (insertBy (fun (a b : Nat) => decide (a < b)) x l).Pairwise (· < ·) := by
  induction l with
  | nil => exact List.pairwise_singleton _ x
  | cons y ys ih =>
    obtain ⟨hy, hys⟩ := List.pairwise_cons.1 hs
    obtain ⟨hxy, hxys⟩ := not_or.1 (List.mem_cons.not.1 hx)
    rw [insertBy]
    split_ifs with h
    · refine List.pairwise_cons.2 ⟨fun z hz => ?_, ih hys hxys⟩
      rw [insertBy_lt_eq, List.mem_orderedInsert] at hz
      obtain rfl | hz := hz
      · simpa using h
      · exact hy z hz
    · have hlt : x < y := Nat.lt_of_le_of_ne (by simpa using h) hxy
      refine List.pairwise_cons.2 ⟨fun z hz => ?_, hs⟩
      obtain rfl | hz := List.mem_cons.1 hz
      · exact hlt
      · exact Nat.lt_trans hlt (hy z hz)

end Free

/-! ### A pass of patrol scrub (R350) -/

section Pass

theorem scrubSeen_succ (p : Nat) :
    scrubSeen (p + 1) = insertBy (fun (a b : Nat) => decide (a < b)) (scrubRow p) (scrubSeen p) := rfl

theorem mem_scrubSeen_succ (p n : Nat) : n ∈ scrubSeen (p + 1) ↔ n = scrubRow p ∨ n ∈ scrubSeen p := by
  rw [scrubSeen_succ, insertBy_lt_eq, List.mem_orderedInsert]

theorem length_scrubSeen (p : Nat) : (scrubSeen p).length = p := by
  induction p with
  | zero => rfl
  | succ p ih => rw [scrubSeen_succ, insertBy_lt_eq, List.orderedInsert_length, ih]

theorem pairwise_scrubSeen (p : Nat) : (scrubSeen p).Pairwise (· < ·) := by
  induction p with
  | zero => exact List.Pairwise.nil
  | succ p ih => exact pairwise_insertBy ih (kthFree_notMem _ _ ih)

theorem scrubRow_notMem (p : Nat) : scrubRow p ∉ scrubSeen p := kthFree_notMem _ _ (pairwise_scrubSeen p)

theorem scrubRow_mem {p q : Nat} (h : q < p) : scrubRow q ∈ scrubSeen p := by
  induction p with
  | zero => omega
  | succ p ih =>
    rw [mem_scrubSeen_succ]
    obtain rfl | h : q = p ∨ q < p := by omega
    · exact .inl rfl
    · exact .inr (ih h)

/-- A pass reads each row of the stack once. -/
theorem scrubRow_ne {p q : Nat} (h : q < p) : scrubRow p ≠ scrubRow q := fun e => scrubRow_notMem p (e ▸ scrubRow_mem h)

theorem scrubRow_lt {p : Nat} (h : p < 2 ^ 26) : scrubRow p < 2 ^ 26 := by
  have hk := Nat.mod_lt (Config.scrubOrder p) (y := 2 ^ 26 - p) (by omega)
  have hl := kthFree_le (scrubSeen p) (Config.scrubOrder p % (2 ^ 26 - p))
  rw [length_scrubSeen] at hl
  unfold scrubRow
  omega

end Pass

end Sys2Proof.Machine
end

section
/-! PROOFS. Training of an HBM stack (O33): where TRAIN goes, what an attempt leaves, how a training ends, and SET_RATE. -/

namespace Sys2Proof.Machine

/-! ### TRAIN (R342) -/

section Train

variable {c : Core} {i : Nat}

theorem doTrainHbm_of_refused (h : c.hbmMode = false ∨ (c.stack i).st = .training ∨ (c.stack i).st = .selfRefresh) :
    doTrainHbm i c = c.hbmReject i := by
  unfold doTrainHbm
  by_cases hm : c.hbmMode = false
  · exact if_pos hm
  · rw [if_neg hm]
    obtain h | h | h := h
    · exact absurd h hm
    · rw [h]
    · rw [h]

theorem Core.stack_stackLose : (c.stackLose i).stack i =
    { c.stack i with mem := { fill := .freeHbm c.free, cells := [] }, err := [], openRow := [] } := by
  unfold Core.stackLose
  exact SMap.get_set_same ..

/-- What the first attempt leaves of a stack: nothing that it held. -/
theorem Core.stack_trainStart (job : Bool) : (c.trainStart i job).stack i = { c.stack i with
    tries := 0, rateJob := job, trainPend := false, st := .training, phy := none,
    mem := { fill := .freeHbm c.free, cells := [] }, err := [], openRow := [] } := by
  rw [Core.trainStart, Core.trainTry, Core.stack_inc, Core.stack_stackLose, Core.stack_modStack_same, Core.stack_modStack_same]
  rfl

/-! A served TRAIN. -/

theorem serveTrain_of_on (hp : c.powered (hbmPage i) = true) :
    serveTrain i c = if c.acts (hbmPage i) = true then doTrainHbm i c else c := if_neg (by simp [hp])

theorem serveTrain_of_off (hp : c.powered (hbmPage i) = false) (hm : c.hbmMode = false) : serveTrain i c = c :=
  (if_pos hp).trans (if_neg (by simp [hm]))

/-- The domain stands, or the switch-on has been asked for. -/
theorem serveTrain_of_asked (hp : c.powered (hbmPage i) = false) (hm : c.hbmMode = true)
    (h : c.domOn (69 + 35 * (i / 2) + i % 2) = true ∨ c.power.want.elem (69 + 35 * (i / 2) + i % 2, true) = true) :
    serveTrain i c = c.modStack i (fun x => { x with trainPend := true }) :=
  ((if_pos hp).trans (if_pos hm)).trans (if_pos h)

theorem serveTrain_of_unasked (hp : c.powered (hbmPage i) = false) (hm : c.hbmMode = true)
    (hd : c.domOn (69 + 35 * (i / 2) + i % 2) = false)
    (hw : c.power.want.elem (69 + 35 * (i / 2) + i % 2, true) = false) :
    ((serveTrain i c).stack i).trainPend = true ∧
      (serveTrain i c).power.want = c.power.want ++ [(69 + 35 * (i / 2) + i % 2, true)] := by
  have e : serveTrain i c = { c.modStack i (fun x => { x with trainPend := true }) with
      power := { c.power with want := c.power.want ++ [(69 + 35 * (i / 2) + i % 2, true)] } } :=
    ((if_pos hp).trans (if_pos hm)).trans (if_neg (not_or.2 ⟨fun h => Bool.noConfusion (hd.symm.trans h),
      fun h => Bool.noConfusion (hw.symm.trans h)⟩))
  have hs : (serveTrain i c).stacksOf = (c.modStack i (fun x => { x with trainPend := true })).stacksOf := by rw [e]
  refine ⟨?_, by rw [e]⟩
  rw [Core.stack_congr hs, Core.stack_modStack_same]

end Train

/-! The command, by what becomes of the access. -/

section TrainCommand

variable {s : State} {d : XDie} {j : Fin 2} (h : s.runs)
include h

theorem trainHbm_absent (hd : s.core.part.dies ≤ d.val) :
    exec (.trainHbm d j) s = s.does (fun c => c.unmapped .pcie (PageKind.hbm d.val j.val).no 0x044 true) :=
  act_does_of (f := doTrainHbmCmd d j) h (if_pos hd)

variable (hd : d.val < s.core.part.dies)
include hd

theorem trainHbm_of_none (hr : s.core.route (hbmPage (stackNo d j)) = .none) : exec (.trainHbm d j) s = s.does id := by
  rw [hbmPage_stackNo] at hr
  exact act_does_of (f := doTrainHbmCmd d j) h ((if_neg (Nat.not_le.2 hd)).trans (by rw [hr]; rfl))

theorem trainHbm_of_queue (hr : s.core.route (hbmPage (stackNo d j)) = .queue) :
    exec (.trainHbm d j) s = s.does (fun c => c.post d.val (.trainHbm d j)) := by
  rw [hbmPage_stackNo] at hr
  exact act_does_of (f := doTrainHbmCmd d j) h ((if_neg (Nat.not_le.2 hd)).trans (by rw [hr]))

theorem trainHbm_of_serve (hr : s.core.route (hbmPage (stackNo d j)) = .serve) :
    exec (.trainHbm d j) s = s.doesReg (hbmPage (stackNo d j)) (serveTrain (stackNo d j)) := by
  rw [hbmPage_stackNo] at hr ⊢
  exact act_does_of (f := doTrainHbmCmd d j) h ((if_neg (Nat.not_le.2 hd)).trans (by rw [hr]))

end TrainCommand

/-! ### The end of a training (R342, R343, R351) -/

section TrainDone

variable {c : Core} {i : Nat}

theorem doTrainDone_of_idle {ok : Bool} (ht : (c.stack i).st ≠ .training) (hr : (c.stack i).st ≠ .selfRefresh) :
    doTrainDone i ok c = c := (if_neg hr).trans (if_pos ht)

theorem doTrainDone_of_refresh {ok : Bool} (hr : (c.stack i).st = .selfRefresh) : doTrainDone i ok c =
    if c.host.d3.isSome = true ∨ c.pageReady (hbmPage i) = false then c else c.refreshExit i ok := if_pos hr

theorem doTrainDone_of_training {ok : Bool} (ht : (c.stack i).st = .training) : doTrainDone i ok c =
    if ok = true then
      let d := (c.modStack i (fun s => { s with st := .trained, rateJob := false, phy := some c.free, shadow := some c.free })).raise
        (hbmPage i) 0
      let d := { d with free := c.free + 1 }
      let d := if (c.stack i).rateJob = true then d.raise (hbmPage i) 5 else d
      match (c.stack i).ratePend with
      | some r => (d.modStack i (fun s => { s with rate := r, ratePend := none })).trainStart i true
      | none => d
    else if (c.stack i).tries < 2 then (c.modStack i (fun s => { s with tries := s.tries + 1 })).trainTry i
    else ((c.modStack i (fun s => { s with
      st := .failed, rate := s.ratePend.getD s.rate, ratePend := none, rateJob := false })).raise (hbmPage i) 1).report
        (hbmPage i) 0x80 clsD 0 := by
  have hf : ∀ f, ((c.modStack i f).raise (hbmPage i) 0).free = c.free := fun f => Core.raise_free ..
  unfold doTrainDone
  rw [if_neg (by simp [ht]), if_neg (by simp [ht])]
  simp only [hf] <;> rfl

end TrainDone

/-! ### SET_RATE (R343) -/

section SetRate

variable {c : Core} {i rate : Nat}

theorem doSetRate_of_refused (h : c.hbmMode = false ∨ rate = 3 ∨ (c.stack i).st = .selfRefresh) :
    doSetRate i rate c = c.hbmReject i := by
  unfold doSetRate
  by_cases hm : c.hbmMode = false ∨ rate = 3
  · exact if_pos hm
  · rw [if_neg hm, (or_assoc.2 h).resolve_left hm]

theorem doSetRate_of_training (hm : c.hbmMode = true) (hr : rate ≠ 3) (ht : (c.stack i).st = .training) :
    doSetRate i rate c = c.modStack i (fun x => { x with ratePend := some rate }) := by
  simp [doSetRate, hm, hr, ht]

theorem doSetRate_of_down (hm : c.hbmMode = true) (hr : rate ≠ 3) (ht : (c.stack i).st = .off ∨ (c.stack i).st = .failed) :
    doSetRate i rate c = c.modStack i (fun x => { x with rate := rate }) := by
  obtain ht | ht := ht <;> simp [doSetRate, hm, hr, ht]

end SetRate

end Sys2Proof.Machine
end

section
/-! PROOFS. The upkeep of a TRAINED stack (O33): what a temperature leaves of a stack, refresh, calibration, scrub and the
asynchronous requests, and the obligation. -/

namespace Sys2Proof.Machine

/-! ### Temperature (R258, R341) -/

section Temp

/-- An integer of 16 bits reads back from its two's complement. -/
theorem toInt_ofInt_16 {x : Int} (hl : -32768 ≤ x) (hu : x < 32768) : toInt 16 (ofInt 16 x) = x := by
  have h := ofInt_lt 16 x
  have e : ((ofInt 16 x : Nat) : Int) = x % 65536 := Int.toNat_of_nonneg (Int.emod_nonneg x (by decide))
  unfold toInt
  dsimp only
  rw [Nat.mod_eq_of_lt h]
  norm_num at h ⊢
  split_ifs <;> omega

theorem toInt_16_lt (t : Nat) : toInt 16 t < 32768 := by
  unfold toInt
  norm_num
  split_ifs <;> omega

/-- The register shows the temperature that the sensor's resolution gives. -/
theorem toInt_tempStep (t : Nat) : toInt 16 (tempStep t) = max (-32750) (toInt 16 t / 25 * 25) := by
  have h := toInt_16_lt t
  exact toInt_ofInt_16 (by omega) (by omega)

/-- What a temperature, at the sensor's resolution, makes of a stack. -/
def StackS.atTemp (x : StackS) (t : Nat) : StackS :=
  let up := decide (8500 < toInt 16 t) && !x.fast
  ({ x with
    temp := t,
    owed := if up then x.owed.map (fun (e : Nat × Nat) => (e.1, 2 * e.2)) else x.owed,
    fast := x.fast || up,
    hot := if 9500 ≤ toInt 16 t then true else if toInt 16 t < 9000 then false else x.hot }).cool

theorem StackS.cool_eq (x : StackS) :
    x.cool = { x with fast := x.fast && !decide (toInt 16 x.temp < 8300 ∧ x.owed.all (fun e => decide (e.2 ≤ 8)) = true) } := by
  unfold StackS.cool
  by_cases h : toInt 16 x.temp < 8300 ∧ x.owed.all (fun e => decide (e.2 ≤ 8)) = true
  · rw [if_pos h, decide_eq_true h, Bool.not_true, Bool.and_false]
  · rw [if_neg h, decide_eq_false h, Bool.not_false, Bool.and_true]

theorem StackS.atTemp_temp (x : StackS) (t : Nat) : (x.atTemp t).temp = t := by
  rw [StackS.atTemp, StackS.cool_eq]

theorem StackS.atTemp_hot (x : StackS) (t : Nat) :
    (x.atTemp t).hot = if 9500 ≤ toInt 16 t then true else if toInt 16 t < 9000 then false else x.hot := by
  rw [StackS.atTemp, StackS.cool_eq]

theorem StackS.atTemp_owed (x : StackS) (t : Nat) : (x.atTemp t).owed =
    if (decide (8500 < toInt 16 t) && !x.fast) = true then x.owed.map (fun e => (e.1, 2 * e.2)) else x.owed := by
  rw [StackS.atTemp, StackS.cool_eq]

/-- Above 85 degrees the rules that go with it do not end. -/
theorem StackS.atTemp_fast (x : StackS) {t : Nat} (h : (decide (8500 < toInt 16 t) && !x.fast) = true) :
    (x.atTemp t).fast = true := by
  have hv : 8500 < toInt 16 t := of_decide_eq_true (Bool.and_eq_true_iff.1 h).1
  rw [StackS.atTemp, StackS.cool_eq]
  dsimp only
  rw [h, Bool.or_true, decide_eq_false (fun h => by omega)]
  rfl

variable (c : Core) (i : Nat)

@[simp] theorem Core.owedPeak_stack (n : Nat) : (c.owedPeak i).stack n = c.stack n := by
  unfold Core.owedPeak
  dsimp only
  split_ifs <;> simp

@[simp] theorem Core.owedPeak_pend : (c.owedPeak i).pend = c.pend := by
  unfold Core.owedPeak
  dsimp only
  split_ifs <;> simp

theorem doTempRead_of_off {t : Nat} (h : ¬ (i < 2 * c.part.dies ∧ c.pageReady (hbmPage i) = true)) : doTempRead i t c = c :=
  if_neg h

theorem doTempRead_of_on {t : Nat} (h : i < 2 * c.part.dies ∧ c.pageReady (hbmPage i) = true) : doTempRead i t c =
    let d := (c.modStack i (fun x => x.atTemp (tempStep t))).owedPeak i
    if 9500 ≤ toInt 16 (tempStep t) ∧ (c.stack i).hot = false then (d.raise (hbmPage i) 4).report (hbmPage i) 0x81 clsD 0
    else d := if_pos h

/-- A reading leaves every other stack, and reports nothing but HOT. -/
theorem doTempRead_stack {t : Nat} (h : i < 2 * c.part.dies ∧ c.pageReady (hbmPage i) = true) (n : Nat) :
    (doTempRead i t c).stack n = if n = i then (c.stack i).atTemp (tempStep t) else c.stack n := by
  rw [doTempRead_of_on c i h]
  dsimp only
  split_ifs <;> simp_all [Core.stack_modStack]

theorem doTempRead_pend {t : Nat} (h : i < 2 * c.part.dies ∧ c.pageReady (hbmPage i) = true) :
    (doTempRead i t c).pend = if 9500 ≤ toInt 16 (tempStep t) ∧ (c.stack i).hot = false then
      (c.report (hbmPage i) 0x81 clsD 0).pend else c.pend := by
  rw [doTempRead_of_on c i h]
  dsimp only
  split_ifs
  · rw [Core.report_pend, Core.report_pend, Core.raise_pend, Core.owedPeak_pend]
    rfl
  · exact Core.owedPeak_pend ..

end Temp

/-! ### Refresh, calibration, scrub and the asynchronous requests (R258, R336 to R350) -/

section Upkeep

variable {c : Core} {i pc : Nat}

/-! A stack that is not up. -/

section Down

variable (hu : c.stackUp i = false)
include hu

theorem doRefreshDue_of_down : doRefreshDue i pc c = c := if_pos hu
theorem doRefreshSlot_of_down : doRefreshSlot i pc c = c := if_pos (.inl hu)
theorem doPeriodicCal_of_down {b : Bool} : doPeriodicCal i pc b c = c := if_pos hu
theorem doScrub_of_down : doScrub i c = c := if_pos (.inl hu)
theorem doAdmit_of_down : doAdmit i pc c = c := if_pos (.inl hu)

end Down

/-! A TRAINED one. -/

section Up

variable (hu : c.stackUp i = true)
include hu

theorem doRefreshDue_of_up : doRefreshDue i pc c =
    if (if (c.stack i).fast = true then 24 else 8) < (c.stack i).owedOf pc + 1 then
      (((c.modStack i (fun x => { x with forced := pc :: x.forced.filter (· != pc) })).inc (.xchn (i / 2)) 0x18C).report
        (.xchn (i / 2)) 0x52 clsD 0).when c.power.running
          (fun d => d.breach (i / 2) .forced 5 (c.chanter (i / 2)).pc (c.chanter (i / 2)).scyc)
    else (c.modStack i (fun x => x.setOwed pc (x.owedOf pc + 1))).owedPeak i := if_neg (by simp [hu])

/-- A slot for a pseudo-channel that is not in refresh. -/
theorem doRefreshSlot_of_up (hr : (c.stack i).refr.elem pc = false) : doRefreshSlot i pc c =
    if (c.stack i).forced.elem pc = true then
      c.modStack i (fun x => { x with forced := x.forced.filter (· != pc), refr := pc :: x.refr, openRow := x.closed pc })
    else if (c.stack i).owedOf pc = 0 ∨ c.winOpen (i / 2) 35 = false then c
    else c.modStack i (fun x => ({ x.setOwed pc (x.owedOf pc - 1) with refr := pc :: x.refr, openRow := x.closed pc }).cool) :=
  if_neg (by simp only [hu, hr, Bool.true_eq_false, Bool.false_eq_true, or_self, not_false_eq_true])

theorem doPeriodicCal_of_slot (ho : (c.stack i).owedOf pc = 0) (hw : c.winOpen (i / 2) 35 = true) :
    doPeriodicCal i pc true c = c.modStack i (fun x => { x with calFail := SMap.erase x.calFail pc }) :=
  (if_neg (by simp [hu])).trans (if_pos ⟨rfl, ho, hw⟩)

theorem doPeriodicCal_of_none {b : Bool} (h : b = false ∨ (c.stack i).owedOf pc ≠ 0 ∨ c.winOpen (i / 2) 35 = false) :
    doPeriodicCal i pc b c =
      let n := SMap.get (fun _ => 0) (c.stack i).calFail pc
      let d := c.modStack i (fun x => { x with calFail := SMap.set (fun _ => 0) x.calFail pc (min (n + 1) 10) })
      if n + 1 = 10 then (d.inc (hbmPage i) 0x07C).raise (hbmPage i) 7 else d :=
  (if_neg (by simp [hu])).trans (if_neg (fun ⟨hb, ho, hw⟩ => by simp [hb, ho, hw] at h))

/-- A request of a pseudo-channel without a refresh is the next one that waits. -/
theorem doAdmit_of_up (hr : (c.stack i).refr.elem pc = false) (hf : (c.stack i).forced.elem pc = false) : doAdmit i pc c =
    match c.nextAsync i pc with
    | some r => c.serveAsync i r
    | none => c :=
  if_neg (by simp only [hu, hr, hf, Bool.true_eq_false, Bool.false_eq_true, or_self, not_false_eq_true])

end Up

theorem doAdmit_of_held (h : (c.stack i).refr.elem pc = true ∨ (c.stack i).forced.elem pc = true ∨ c.nextAsync i pc = none) :
    doAdmit i pc c = c := by
  unfold doAdmit
  split_ifs with hb
  · rfl
  · rw [(h.resolve_left fun e => hb (.inr (.inl e))).resolve_left fun e => hb (.inr (.inr e))]

/-- What holds scrub at a row. -/
def Core.scrubHeld (c : Core) (i n : Nat) : Prop :=
  bit (c.rd (hbmPage i) 0x040) 1 = false ∨ c.winOpen (i / 2) 35 = false ∨ (c.stack i).refr.elem (n % 64) = true ∨
    (c.stack i).forced.elem (n % 64) = true ∨ c.unitSoon i (n % 64) 16 = true

theorem doScrub_of_held (h : c.scrubHeld i (scrubRow (c.stack i).scrub)) : doScrub i c = c := if_pos (.inr h)

theorem doScrub_of_free (hu : c.stackUp i = true) (h : ¬ c.scrubHeld i (scrubRow (c.stack i).scrub)) : doScrub i c =
    let n := scrubRow (c.stack i).scrub
    let d := c.modStack i (fun x => { x with
      openRow := SMap.set (fun _ => 0) x.openRow (n % 64 * 64 + n / 64 % 64) (n / 4096 + 1) })
    let d := (((c.stack i).err.map (fun e => e.1)).filter (inScrubRow n)).foldl (fun d w => d.scrubWord i w) d
    if (c.stack i).scrub + 1 < 2 ^ 26 then d.modStack i (fun x => { x with scrub := x.scrub + 1 })
    else (d.modStack i (fun x => { x with scrub := 0 })).inc (hbmPage i) 0x05C :=
  if_neg (not_or.2 ⟨by simp [hu], h⟩)

theorem doHbmAge_of_none (h : (c.stack i).queue.find? (fun r => pcOf r.addr == pc && !r.aged) = none) : doHbmAge i pc c = c := by
  simp only [doHbmAge, h]

theorem doHbmAge_of_some {r : AsyncReq} (h : (c.stack i).queue.find? (fun r => pcOf r.addr == pc && !r.aged) = some r) :
    doHbmAge i pc c = (c.modStack i (fun x =>
      { x with queue := x.queue.map (fun q => if q.seq = r.seq then { q with aged := true } else q) })).inc (hbmPage i) 0x070 := by
  simp only [doHbmAge, h]

end Upkeep

end Sys2Proof.Machine
end

section
/-! PROOFS. Training and upkeep of an HBM stack (O33): the obligation. -/

namespace Sys2Proof.Machine

/-- Settles O33: the clauses of training are the branches of a served TRAIN, of the end of a training and of SET_RATE; those of
upkeep are the branches of each event of a TRAINED stack; no row comes twice in a pass (`scrubRow_ne`). -/
theorem hbmTrainingAndUpkeep : Obligations.HbmTrainingAndUpkeep := by
  refine ⟨fun s d j h => ⟨trainHbm_absent h, fun hd => ⟨trainHbm_of_none h hd, trainHbm_of_queue h hd, fun hr hp ha => ?noEnable,
      fun hr hp ha => ?on, fun hr hp => ?off⟩, fun c job => ?start, fun ok ht hr => act_does_of h (doTrainDone_of_idle ht hr),
      fun hr hx ok => ?stays, fun hr hd hp => ?refresh, fun ht => ?done, fun hs => ?commands⟩,
    fun s d j pc h => ⟨act_does_of h rfl, fun hu => ?down, fun hu => ?up, fun hq => act_does_of h (doHbmAge_of_none hq),
      fun r hq => act_does_of h (doHbmAge_of_some hq), fun p q hq hp => ⟨scrubRow_ne hq, scrubRow_lt hp⟩, fun t hx => ?noTemp,
      fun t hi hp => ?temp⟩⟩
  case noEnable =>
    refine (trainHbm_of_serve h hd hr).trans (State.doesReg_congr ?_)
    exact (serveTrain_of_on (by simpa using hp)).trans (if_neg (by simpa using ha))
  case on =>
    have e : ∀ {f : Core → Core}, doTrainHbm (stackNo d j) (s.core.lockAccess (hbmPage (stackNo d j)) 0) =
        f (s.core.lockAccess (hbmPage (stackNo d j)) 0) → exec (.trainHbm d j) s = s.doesReg (hbmPage (stackNo d j)) f := fun e =>
      (trainHbm_of_serve h hd hr).trans (State.doesReg_congr
        (((serveTrain_of_on (by simpa using hp)).trans (if_pos (by simpa using ha))).trans e))
    exact ⟨fun hm ht hx => e (doTrainHbm_of_ready (by simpa using hm) (by simpa using ht) (by simpa using hx)),
      fun hx => e (doTrainHbm_of_refused (by simpa using hx))⟩
  case off =>
    have hp' : (s.core.lockAccess (hbmPage (stackNo d j)) 0).powered (hbmPage (stackNo d j)) = false := by simpa using hp
    refine ⟨fun hm => ?_, fun hm ha => ?_, fun hm ho hw => ?_⟩
    · exact (trainHbm_of_serve h hd hr).trans (State.doesReg_congr (serveTrain_of_off hp' (by simpa using hm)))
    · exact (trainHbm_of_serve h hd hr).trans (State.doesReg_congr
        (serveTrain_of_asked hp' (by simpa using hm) (by simpa using ha)))
    · refine State.doesReg_leaves (trainHbm_of_serve h hd hr) ?_
      simpa using serveTrain_of_unasked hp' (by simpa using hm) (by simpa using ho) (by simpa using hw)
  case start =>
    dsimp only
    rw [Core.stack_trainStart]
    exact ⟨rfl, rfl, rfl, rfl, rfl, rfl, rfl, rfl, rfl, rfl, rfl⟩
  case stays => exact act_does_of h ((doTrainDone_of_refresh hr).trans (if_pos hx))
  case refresh =>
    have hx : ¬ (s.core.host.d3.isSome = true ∨ s.core.pageReady (hbmPage (stackNo d j)) = false) := by simp [hd, hp]
    have e : ∀ ok, doTrainDone (stackNo d j) ok s.core = s.core.refreshExit (stackNo d j) ok := fun ok =>
      (doTrainDone_of_refresh hr).trans (if_neg hx)
    exact ⟨act_does_of h (e true), act_does_of h (e false)⟩
  case done =>
    refine ⟨?_, fun h2 => act_does_of h ?_, fun h2 => act_does_of h ?_⟩
    · exact State.does_leaves (act_does _ s h) ((doTrainDone_of_training ht).trans (if_pos rfl))
    · exact ((doTrainDone_of_training ht).trans (if_neg (by decide))).trans (if_pos h2)
    · exact ((doTrainDone_of_training ht).trans (if_neg (by decide))).trans (if_neg (Nat.not_lt.2 h2))
  case commands =>
    have hv : ∀ rate : Fin 4, rate ≠ 3 → rate.val ≠ 3 := fun rate hr e => hr (Fin.ext e)
    refine ⟨regCmd_does _ _ _ s hs, fun rate hm hr => ⟨fun ht => ?_, fun ht => ?_, fun ht => ?_⟩, fun rate hx => ?_⟩
    · exact regCmd_doesReg_of hs (doSetRate_of_trained (by simpa using hm) (hv rate hr) (by simpa using ht))
    · exact regCmd_doesReg_of hs (doSetRate_of_training (by simpa using hm) (hv rate hr) (by simpa using ht))
    · exact regCmd_doesReg_of hs (doSetRate_of_down (by simpa using hm) (hv rate hr) (by simpa using ht))
    · refine regCmd_doesReg_of hs (doSetRate_of_refused ?_)
      rw [Core.hbmMode_lockAccess, Core.stack_lockAccess]
      exact hx.imp_right (Or.imp_left (congrArg Fin.val))
  case down =>
    exact ⟨act_does_of h (doRefreshDue_of_down hu), act_does_of h (doRefreshSlot_of_down hu),
      fun b => act_does_of h (doPeriodicCal_of_down hu), act_does_of h (doScrub_of_down hu), act_does_of h (doAdmit_of_down hu)⟩
  case up =>
    refine ⟨fun ho => act_does_of h ?_, fun ho => act_does_of h ?_, fun hr => act_does_of h (if_pos (.inr hr)),
      fun hr hf => act_does_of h ?_, fun hr hf ho => act_does_of h ?_, fun hr hf ho hw => act_does_of h ?_,
      fun ho hw => act_does_of h (doPeriodicCal_of_slot hu ho hw), fun b n hb hn => act_does_of h ?_,
      fun hh => act_does_of h (doScrub_of_held hh), fun hh => act_does_of h (doScrub_of_free hu hh),
      fun hx => act_does_of h (doAdmit_of_held hx), fun r hr hf hn => act_does_of h ?_⟩
    · exact (doRefreshDue_of_up hu).trans (if_neg (Nat.not_lt.2 ho))
    · exact (doRefreshDue_of_up hu).trans (if_pos (Nat.lt_succ_of_le ho))
    · exact (doRefreshSlot_of_up hu hr).trans (if_pos hf)
    · exact ((doRefreshSlot_of_up hu hr).trans (if_neg (by simp only [hf, Bool.false_eq_true, not_false_eq_true]))).trans
        (if_pos ho)
    · exact ((doRefreshSlot_of_up hu hr).trans (if_neg (by simp only [hf, Bool.false_eq_true, not_false_eq_true]))).trans
        (if_neg (not_or.2 ⟨ho, by simp only [hw, Bool.true_eq_false, not_false_eq_true]⟩))
    · subst hn
      rw [doPeriodicCal_of_none hu hb]
      simp only [Nat.reduceEqDiff]
    · rw [doAdmit_of_up hu hr hf, hn]
  case noTemp =>
    refine act_does_of h (doTempRead_of_off _ _ fun ⟨hi, hp⟩ => ?_)
    exact hx.elim (fun hx => absurd hi (Nat.not_lt.2 hx)) (fun hx => Bool.noConfusion (hx.symm.trans hp))
  case temp =>
    have hon := And.intro hi hp
    refine State.does_leaves (act_does _ s h) ?_
    rw [doTempRead_stack _ _ hon, if_pos rfl, doTempRead_pend _ _ hon, ← toInt_tempStep]
    refine ⟨congrArg (toInt 16) (StackS.atTemp_temp ..), StackS.atTemp_hot .., fun hu => ⟨?_, StackS.atTemp_fast _ hu⟩,
      fun hu => ?_, fun n hn => ?_, fun hh => if_neg hh, fun hv hh => if_pos ⟨hv, hh⟩⟩
    · exact (StackS.atTemp_owed ..).trans (if_pos hu)
    · exact (StackS.atTemp_owed ..).trans (if_neg (by simp only [hu, Bool.false_eq_true, not_false_eq_true]))
    · exact (doTempRead_stack _ _ hon n).trans (if_neg hn)

end Sys2Proof.Machine
end

section
/-! PROOFS. FLR, hot reset, DEVRST and D3hot (O55): each command as the branch that its hypotheses name, and what DEVRST loses. -/

namespace Sys2Proof.Machine

/-! ### D3hot and the end of a forced stop (R427, R428) -/

section Sleep

variable {c : Core}

theorem doD3Entry_of_refused (h : c.functionUp = false ∨ c.host.linkUp = false ∨ c.host.d3.isSome = true) : doD3Entry c = c :=
  if_pos h

/-- D3hot is entered: SAFE is kept, and any other mode is left by a forced stop. -/
theorem doD3Entry_of_up (hf : c.functionUp = true) (hl : c.host.linkUp = true) (hd : c.host.d3 = none) : doD3Entry c =
    let c := c.inc .rst 0x054
    let m := c.power.mode
    if m = .safe then { c with host := { c.host with d3 := some m } }
    else
      let c := if c.imgSt = 1 ∨ c.imgSt = 2 then { c with imgSt := 0, host := { c.host with loadRing := none } } else c
      let c := c.forceStop
      let c := { c with host := { c.host with d3 := some (if c.power.forced then .idle else m) } }
      if c.power.forced then c else c.d3Down := if_neg (by simp [hf, hl, hd])

theorem doForcedDone_of_early (h : c.power.forced = false ∨ c.power.mode ≠ .idle ∨ c.power.phase ≠ .steady) :
    doForcedDone c = c := if_pos h

theorem doForcedDone_of_idle (hf : c.power.forced = true) (hm : c.power.mode = .idle) (hp : c.power.phase = .steady) :
    doForcedDone c =
      let c := (c.modPower (fun p => { p with forced := false })).wr .rst 0x044 (c.rd .rst 0x044 &&& 0xBF)
      let c := c.raise .rst 1
      if c.host.d3.isSome then c.d3Down else c := if_neg (by simp [hf, hm, hp])

theorem doD3Exit_of_awake (h : c.host.d3 = none) : doD3Exit c = c := if_pos (by simp [h])

/-- The exit from D3hot, before the domains come back. -/
def Core.d3Left (c : Core) : Core := ({ c with host := { c.host with d3 := none } }).cause 6

theorem doD3Exit_of_held (h : c.host.d3 ≠ none) (hf : c.power.forced = true ∨ c.power.mode = .safe) : doD3Exit c = c.d3Left :=
  (if_neg (by simpa using h)).trans (if_pos hf)

theorem doD3Exit_of_asleep (h : c.host.d3 ≠ none) (hf : c.power.forced = false) (hm : c.power.mode ≠ .safe) : doD3Exit c =
    let d := match c.host.commitRing with
      | some r => ({ c.d3Left with host := { c.d3Left.host with commitRing := none } }).finish r stWithdrawn
      | none => c.d3Left
    d.gainsOne.askDomains d.backDoms true := by
  have hn : ¬ (c.power.forced = true ∨ c.power.mode = .safe) := by simp [hf, hm]
  refine ((if_neg (by simpa using h)).trans (if_neg hn)).trans ?_
  rfl

end Sleep

/-! ### DEVRST (R424) -/

section Devrst

variable (c : Core)

theorem Core.gainDiscard_io : c.gainDiscard.io = c.io := by
  unfold Core.gainDiscard
  dsimp only
  split_ifs
  · rfl
  · exact (Core.raise_io ..).trans (Core.inc_io ..)

/-- DEVRST loses the gains, and leaves the history of the streams. -/
theorem Core.devLose_io : c.devLose.io.gain = ⟨.word 0x1000, []⟩ ∧ c.devLose.io.hist = c.io.hist := by
  simp only [Core.devLose, Core.gainsOne, Core.banksReset, Core.segDiscard, Core.gainDiscard_io, and_self]

theorem doDevrst_of_refused {key : Nat} (h : key ≠ 0xDE57 ∨ c.power.mode = .shelved ∨ c.power.mode = .safe) :
    doDevrst key c = c := if_pos h

theorem doDevrstDone_of_idle (h : c.devBusy = false ∨ c.power.forced = true) : doDevrstDone c = c := if_pos h

theorem doDevrstDone_of_busy (hb : c.devBusy = true) (hf : c.power.forced = false) :
    doDevrstDone c = (c.devLose.wr .rst 0x044 (c.rd .rst 0x044 &&& 0xDF)).raise .rst 0 := if_neg (by simp [hb, hf])

end Devrst

/-- Settles O55: FLR, the hot reset and the link going down share one effect, guarded by the function that answers; the other
commands are the branches of their own definitions. -/
theorem resetCommands : Obligations.ResetCommands := by
  refine ⟨fun s h => ⟨fun hu => ⟨act_does_of h (if_pos hu), act_does_of h (if_pos hu), act_does_of h (if_pos hu)⟩,
      fun hu => ?away, fun hd => act_does_of h (doD3Entry_of_refused ?_), fun hx => act_does_of h (doDevrstDone_of_idle _ hx),
      fun hb hf => act_does_of h (doDevrstDone_of_busy _ hb hf), fun hu hd hm => ?safe, fun hu hd hm => ?sleep,
      fun hx => act_does_of h (doForcedDone_of_early hx), fun hf hm hp => act_does_of h (doForcedDone_of_idle hf hm hp),
      fun hd => act_does_of h (doD3Exit_of_awake hd), fun hd hx => act_does_of h (doD3Exit_of_held hd hx),
      fun hd hf hm hc => act_does_of h ?_, fun r hd hf hm hc => act_does_of h ?_⟩,
    fun s key h => ⟨fun hx => regCmd_doesReg_of h (doDevrst_of_refused _ ?_), fun hk hm hs => regCmd_doesReg_of h ?_⟩,
    fun c => ⟨rfl, rfl, c.devLose_io⟩⟩
  case away =>
    have hn : ¬ ((s.core.functionUp && s.core.host.linkUp) = true) := by rw [hu]; exact Bool.false_ne_true
    refine ⟨act_does_of h (if_neg hn), act_does_of h (if_neg hn), act_does_of h (if_neg hn),
      act_does_of h (doD3Entry_of_refused ?_)⟩
    exact (Bool.and_eq_false_iff.1 hu).imp_right .inl
  case safe =>
    obtain ⟨hf, hl⟩ := Bool.and_eq_true_iff.1 hu
    refine act_does_of h ((doD3Entry_of_up hf hl hd).trans ((if_pos hm).trans ?_))
    rw [show (s.core.inc .rst 0x054).power.mode = .safe from hm]
    rfl
  case sleep =>
    obtain ⟨hf, hl⟩ := Bool.and_eq_true_iff.1 hu
    exact act_does_of h ((doD3Entry_of_up hf hl hd).trans (if_neg hm))
  · exact .inr (.inr (Option.isSome_iff_ne_none.2 hd))
  · rw [doD3Exit_of_asleep hd hf hm, hc]
    rfl
  · rw [doD3Exit_of_asleep hd hf hm, hc]
    rfl
  · rw [Core.lockAccess_power]
    exact hx.imp_left fun hk e => hk (BitVec.eq_of_toNat_eq e)
  · exact doDevrst_of_key (by rw [hk]; rfl) (by simpa using hm) (by simpa using hs)

end Sys2Proof.Machine
end

section
/-! PROOFS. PERST_N and the supplies (O56): what an assertion leaves, and each supply's event as the branch that its hypotheses
name. -/

namespace Sys2Proof.Machine

/-! ### PERST_N asserted (R426) -/

section Assert

variable {c : Core} {s : State}

/-- The device with PERST_N asserted: everything outside the Drone domain at reset, a new challenge, and the cause. -/
def Core.perstHeld (c : Core) : Core :=
  let d := c.coldReset
  ({ d with perst := true, railBad := false, dbg := { draws := d.dbg.draws + 1 },
            power := { d.power with shelvedBy := c.power.mode = Mode.shelved ∧ c.power.shelvedBy } }.wr .rst 0x044
    (1 + 128 * b2n c.dbg.frozen)).inc .rst 0x048

theorem doPerstAssert_of_on (hd : c.droneOn = true) (hp : c.perst = false) :
    doPerstAssert c = if c.host.linkUp = true then c.perstHeld.emit .linkLost else c.perstHeld := if_neg (by simp [hd, hp])

theorem doPerst_of_held (h : s.core.droneOn = false ∨ s.core.perst = true) : doPerst s = s := if_pos h

theorem doPerst_of_on (hd : s.core.droneOn = true) (hp : s.core.perst = false) :
    doPerst s = { s with col := { s.col with seq := 0, histSel := none }, core := doPerstAssert s.core } :=
  if_neg (by simp [hd, hp])

theorem Core.perstHeld_cause : c.perstHeld.rd .rst 0x044 % 16 = 1 := by
  have hn : PageKind.rst.key 0x044 ≠ PageKind.rst.key 0x048 := fun e => absurd (PageKind.key_inj.1 e) (by decide)
  rw [Core.perstHeld, Core.rd_inc, if_neg hn, Core.rd_wr_same]
  cases c.dbg.frozen <;> rfl

/-- What holds of the device with PERST_N asserted; the loss of the link leaves it. -/
theorem doPerstAssert_fields (hd : c.droneOn = true) (hp : c.perst = false) :
    let t := doPerstAssert c
    t.perst = true ∧ t.railBad = false ∧ t.power.mode = .shelved ∧ t.dbg = { draws := c.dbg.draws + 1 } ∧ t.img = none ∧
      t.lanes = [] ∧ t.host = {} ∧ t.plant.latch = c.plant.latch ∧ t.rd .rst 0x044 % 16 = 1 := by
  rw [doPerstAssert_of_on hd hp]
  split_ifs
  · exact ⟨rfl, rfl, rfl, rfl, rfl, rfl, rfl, rfl, c.perstHeld_cause⟩
  · exact ⟨rfl, rfl, rfl, rfl, rfl, rfl, rfl, rfl, c.perstHeld_cause⟩

end Assert

/-! ### Supplies (R447, R448, R454) -/

section Supplies

variable {c : Core}

theorem doRailBad_of_dark (h : c.droneOn = false) : doRailBad c = c := if_pos h

theorem doRailBad_of_shelved (h : c.droneOn = true) (hm : c.power.mode = .shelved) (hp : c.persist = false) :
    doRailBad c = c.modPower (fun p => { p with railsOff := true }) := (if_neg (by simp [h])).trans (if_pos ⟨hm, hp⟩)

theorem doRailBad_of_used (h : c.droneOn = true) (hx : c.power.mode ≠ .shelved ∨ c.persist = true) :
    doRailBad c = { c with railBad := true } :=
  (if_neg (by simp [h])).trans (if_neg fun ⟨hm, hp⟩ => hx.elim (fun hx => hx hm) (fun hx => Bool.noConfusion (hp.symm.trans hx)))

theorem doRailRestore_of_ne (h : c.droneOn = false ∨ c.perst = false) : doRailRestore c = c :=
  if_neg (by rw [Bool.and_eq_true, not_and_or, Bool.not_eq_true, Bool.not_eq_true]; exact h)

theorem doRailRestore_of_held (h : c.droneOn = true) (hp : c.perst = true) :
    doRailRestore c = c.modPower (fun p => { p with railsOff := false }) := if_pos (by rw [h, hp]; rfl)

end Supplies

/-! ### PERST_N deasserted (R424, R429) -/

section Deassert

variable {s : State} {b : Bool}

theorem doPerstDeassert_of_refused (h : s.core.droneOn = false ∨ s.core.perst = false ∨ s.core.power.railsOff = true ∨
    s.core.power.mode ≠ .shelved) : doPerstDeassert b s = s := if_pos h

theorem doPerstDeassert_of_ready (hd : s.core.droneOn = true) (hp : s.core.perst = true) (hr : s.core.power.railsOff = false)
    (hm : s.core.power.mode = .shelved) : doPerstDeassert b s = s.onCore (fun c =>
      let c := { c with perst := false, host := { c.host with lnrev := b } }
      let c := if c.power.shelvedBy then (c.cause 7).modPower (fun p => { p with shelvedBy := false }) else c
      if s.col.latch then c.enterSafe
      else (c.enterMode .bringup).askDomains ([28, 29, 30, 31, 32, 33, 34, 35, 36, 37] ++
        xDoms c.part.dies [27, 28, 29, 30, 31, 32, 33]) true) := if_neg (by simp [hd, hp, hr, hm])

end Deassert

/-- Settles O56: an assertion leaves what `doPerstAssert_fields` says, a power cycle a block without supplies; the other events are
the branches of their own definitions. -/
theorem suppliesAndPerst : Obligations.SuppliesAndPerst := by
  refine ⟨fun s => ⟨fun h => congrArg _ (doPerst_of_held h), ⟨doPerst s, rfl, ?pending, fun hd hp => ?assert⟩,
      rfl, rfl, rfl, rfl, rfl, rfl, rfl, fun hd => ?valid, fun hd => ?starts, fun r => ⟨fun hd => actDrone_does_of (doRailBad_of_dark hd),
        fun hd hm hp => actDrone_does_of (doRailBad_of_shelved hd hm hp), fun hd hx => actDrone_does_of (doRailBad_of_used hd hx)⟩,
      fun hx => actDrone_does_of (doRailRestore_of_ne hx), fun hd hp => actDrone_does_of (doRailRestore_of_held hd hp)⟩,
    fun s b => ⟨fun hx => ?refused, fun hd hp hr hm => ?back⟩⟩
  case pending =>
    unfold doPerst
    split_ifs <;> rfl
  case assert =>
    obtain ⟨hperst, hrail, hmode, hdbg, himg, hlanes, hhost, hlatch, hcause⟩ := doPerstAssert_fields hd hp
    rw [doPerst_of_on hd hp]
    exact ⟨rfl, hperst, hrail, hmode, hdbg, himg, hlanes, hhost, hlatch, hcause⟩
  case valid =>
    have e : doDroneValid s.core = s.core := if_pos hd
    exact congrArg (fun c => Host.Outcome.next { s with core := c }) e
  case starts =>
    have e : doDroneValid s.core = { s.core with droneOn := true } := if_neg (by simp [hd])
    exact congrArg (fun c => Host.Outcome.next { s with core := c }) e
  case refused => exact congrArg (fun t => Host.Outcome.next (s.after t)) (doPerstDeassert_of_refused hx)
  case back => exact congrArg (fun t => Host.Outcome.next (s.after t)) (doPerstDeassert_of_ready hd hp hr hm)

end Sys2Proof.Machine
end

section
/-! PROOFS. Freeze, TAP and unlock (O58): what a freeze leaves, the debug port's accesses, and each TAP command as the branch that
its hypotheses name. -/

namespace Sys2Proof.Machine

/-! ### Freeze (R430) -/

section Freeze

variable {c : Core}

/-- What a freeze settles at its start: the debug state, the registers, and the link. -/
def Core.frozenPart (c : Core) : DebugS × SMap Word × Bool := (c.dbg, c.regs, c.host.linkUp)

theorem Core.frozenPart_stackLose (c : Core) (i : Nat) : (c.stackLose i).frozenPart = c.frozenPart := rfl

theorem Core.frozenPart_plantStatus (c : Core) : c.pwmMax.plantStatus.frozenPart = c.frozenPart := by
  unfold Core.plantStatus Core.plantSend
  split_ifs <;> rfl

theorem Core.freezeNow_of_frozen (h : c.dbg.frozen = true) (t : Nat) (m : DWord) : c.freezeNow t m = c := if_pos h

theorem Core.frozenPart_freezeNow (h : c.dbg.frozen = false) (t : Nat) (m : DWord) : (c.freezeNow t m).frozenPart =
    ({ c.dbg with frozen := true, trigger := t, trigMsg := m, frzLtb := BitVec.ofNat 64 c.ltb, frzPos := none }, c.regs, false) := by
  unfold Core.freezeNow
  dsimp only
  rw [if_neg (by simp [h]), Core.frozenPart_plantStatus, foldl_keeps Core.frozenPart Core.frozenPart_stackLose]
  split_ifs <;> rfl

theorem doFreezeN_of_refused (h : c.droneOn = false ∨ c.perst = true ∨ c.debugLocked = true) : doFreezeN c = c := if_pos h

theorem doFreezeN_of_open (hd : c.droneOn = true) (hp : c.perst = false) (hl : c.debugLocked = false) :
    doFreezeN c = c.freezeNow 0 0 := if_neg (by simp [hd, hp, hl])

end Freeze

/-! ### Accesses of the debug port (R433) -/

section Access

variable {s : State} {r : DWord}

theorem doDbgAccess_of_none (h : s.core.dbg.req = none) : doDbgAccess s = s := by
  simp only [doDbgAccess, h]

theorem doDbgAccess_of_dark (h : s.core.dbg.req = some r) (hd : s.core.domOn 36 = false ∨ s.core.domOn 37 = false) :
    doDbgAccess s = s := by
  simp only [doDbgAccess, h, if_pos hd]

variable (h : s.core.dbg.req = some r) (h36 : s.core.domOn 36 = true) (h37 : s.core.domOn 37 = true)
include h h36 h37

theorem doDbgAccess_unmapped (hp : pageAt s.core.part (bits r.toNat 55 44) = none) : doDbgAccess s =
    if s.core.winOpen 4 37 = true then s.onCore (fun c =>
      (c.unmapped .debug (bits r.toNat 55 44) (bits r.toNat 43 34 * 4) (r.toNat.testBit 63)).dbgResult 0 true)
    else s := by
  simp only [doDbgAccess, h, h36, h37, hp, Bool.true_eq_false, or_self, if_false]

variable {k : PageKind} (hp : pageAt s.core.part (bits r.toNat 55 44) = some k)
include hp

theorem doDbgAccess_of_shut (hs : s.core.winOpen k.chip 37 = false ∨ s.core.lockedOut k 1 = true ∨ s.core.hostFirst k = true) :
    doDbgAccess s = s := by
  simp only [doDbgAccess, h, h36, h37, hp, Bool.true_eq_false, or_self, if_false, if_pos hs]

theorem doDbgAccess_of_open
    (hs : ¬ (s.core.winOpen k.chip 37 = false ∨ s.core.lockedOut k 1 = true ∨ s.core.hostFirst k = true)) : doDbgAccess s =
      if r.toNat.testBit 63 = true then (s.busWrite k 1 (bits r.toNat 43 34 * 4) (r.toNat % 2 ^ 32)).onCore (fun c =>
        (c.cxbServed k.group 1).dbgResult 0 false)
      else s.onCore (fun c => ((((c.lockAccess k 1).takeSnaps k (bits r.toNat 43 34 * 4)).aperture k
        (bits r.toNat 43 34 * 4)).cxbServed k.group 1).dbgResult (s.readReg k (bits r.toNat 43 34 * 4)) false) := by
  simp only [doDbgAccess, h, h36, h37, hp, Bool.true_eq_false, or_self, if_false, if_neg hs]

end Access

/-! ### The TAP (R431 to R435) -/

section Tap

variable {c : Core} {s : State}

/-- Without its supplies the TAP does not answer. -/
theorem Core.when_tapUp_of_down (h : c.tapUp = false) (f : Core → Core) : c.when c.tapUp f = c := if_neg (by simp [h])

theorem Core.when_tapUp_of_up (h : c.tapUp = true) (f : Core → Core) : c.when c.tapUp f = f c := if_pos h

theorem doFrzRead_of_down (h : s.core.tapUp = false) : doFrzRead s = s := if_pos h

theorem doFrzRead_of_locked (h : s.core.tapUp = true) (hd : s.core.debugOpenFor 1 = false) :
    doFrzRead s = s.onCore (fun c => (c.select 0x11).emit (.tdo (bitsOf 64 0))) :=
  (if_neg (by simp [h])).trans (if_pos hd)

/-- The word of the stream that the next scan reads. -/
def DebugS.nextWord (d : DebugS) : Nat := if d.ir = 0x11 then d.frzPos.getD 0 else 0

theorem doFrzRead_of_frozen (h : s.core.tapUp = true) (hd : s.core.debugOpenFor 1 = true) (hf : s.core.dbg.frozen = true) :
    doFrzRead s = s.onCore (fun c =>
      let d := (c.select 0x11).emit (.tdo (bitsOf 64 (s.frzWord s.core.dbg.nextWord)))
      { d with dbg := { d.dbg with frzPos := some (s.core.dbg.nextWord + 1) } }) := by
  refine ((if_neg (by simp [h])).trans (if_neg (by simp [hd]))).trans ?_
  simp only [State.onCore, Core.select, Core.emit, hf, if_true, DebugS.nextWord]

/-- Outside a freeze the word is a free value (R431). -/
theorem doFrzRead_of_running (h : s.core.tapUp = true) (hd : s.core.debugOpenFor 1 = true) (hf : s.core.dbg.frozen = false) :
    doFrzRead s = s.onCore (fun c =>
      let v := (Config.freeWord c.free).toNat + 2 ^ 32 * (Config.freeWord (c.free + 1)).toNat
      let d := (c.select 0x11).emit (.tdo (bitsOf 64 v))
      { d with dbg := { d.dbg with frzPos := some (s.core.dbg.nextWord + 1) }, free := c.free + 2 }) := by
  refine ((if_neg (by simp [h])).trans (if_neg (by simp [hd]))).trans ?_
  simp only [State.onCore, Core.select, Core.emit, hf, Bool.false_eq_true, if_false, DebugS.nextWord]

theorem doUnlockDone_of_none (h : c.dbg.token = none) : doUnlockDone c = c := by
  simp only [doUnlockDone, h]

theorem doUnlockDone_of_token {t : List Byte} (h : c.dbg.token = some t) : doUnlockDone c =
    if c.tokenOk t = true then
      { c with dbg := { c.dbg with token := none, draws := c.dbg.draws + 1, open_ := true,
                                   scope := c.dbg.scope ||| leAt t 5 1 % 8 } }.raise .sec 0
    else ({ c with dbg := { c.dbg with token := none, draws := c.dbg.draws + 1, fails := min (c.dbg.fails + 1) 8,
                                       barred := decide (8 ≤ c.dbg.fails + 1) } }.raise .sec 1).report .sec 0xA3 clsN 0 := by
  simp only [doUnlockDone, h]

end Tap

/-- Settles O58: a freeze settles what `Core.frozenPart_freezeNow` says; the accesses of the debug port and the commands of the
TAP are the branches of their own definitions. -/
theorem debugCommands : Obligations.DebugCommands := by
  refine ⟨fun s h => ⟨fun hx => act_does_of h (doFreezeN_of_refused hx),
      fun hd hp hl => act_does_of h (doFreezeN_of_open hd hp hl),
      fun hr => live_next h (doDbgAccess_of_none hr), fun r hr hd => live_next h (doDbgAccess_of_dark hr hd),
      fun r hr h36 h37 hp => ?unmapped, fun r k hr h36 h37 hp => ?access⟩,
    fun s key h => ⟨fun hk => regCmd_doesReg_of h (if_pos (by rw [hk]; rfl)),
      fun hk => regCmd_doesReg_of h (if_neg fun e => hk (BitVec.eq_of_toNat_eq e))⟩,
    fun c t m => ⟨fun hf => Core.freezeNow_of_frozen hf t m, fun hf => ?freeze⟩,
    fun s => ⟨fun hd b bs q t => ?down, fun hu => ?up, fun ht => actDrone_does_of (doUnlockDone_of_none ht),
      fun t ht hok => actDrone_does_of ((doUnlockDone_of_token ht).trans (if_pos hok)),
      fun t ht hok => actDrone_does_of ((doUnlockDone_of_token ht).trans (if_neg (by simp [hok])))⟩⟩
  case unmapped =>
    have e := doDbgAccess_unmapped hr h36 h37 hp
    exact ⟨fun hw => live_next h (e.trans (if_pos hw)), fun hw => live_next h (e.trans (if_neg (by simp [hw])))⟩
  case access =>
    refine ⟨fun hs => live_next h (doDbgAccess_of_shut hr h36 h37 hp hs), fun hs hw => live_next h ?_, fun hs hw => live_next h ?_⟩
    · exact (doDbgAccess_of_open hr h36 h37 hp hs).trans (if_pos hw)
    · exact (doDbgAccess_of_open hr h36 h37 hp hs).trans (if_neg (by simp [hw]))
  case freeze =>
    obtain ⟨hdbg, hregs, hlink⟩ : _ ∧ _ ∧ _ := by simpa [Core.frozenPart] using Core.frozenPart_freezeNow hf t m
    exact ⟨hdbg, hlink, hregs⟩
  case down =>
    have e : ∀ f, actDrone (fun c => c.when c.tapUp f) s = s.does (fun c => c) := fun f =>
      actDrone_does_of (Core.when_tapUp_of_down hd f)
    exact ⟨e _, e _, e _, e _, e _, e _, e _, congrArg (fun u => Host.Outcome.next (s.after u)) (doFrzRead_of_down hd)⟩
  case up =>
    have e : ∀ f g : Core → Core, f s.core = g s.core → actDrone (fun c => c.when c.tapUp f) s = s.does g := fun f g hfg =>
      actDrone_does_of ((Core.when_tapUp_of_up hu f).trans hfg)
    have hread : ∀ u, doFrzRead s = u → exec .frzRead s = .next (s.after u) := fun u hu =>
      congrArg (fun u => Host.Outcome.next (s.after u)) hu
    refine ⟨fun b => e _ _ rfl, e _ _ rfl, fun bs hs => ⟨e _ _ (if_pos hs), e _ _ (if_pos hs)⟩,
      fun bs hs => ⟨e _ _ (if_neg (by simp [hs])), e _ _ (if_neg (by simp [hs]))⟩, fun q hd => e _ _ (if_pos hd),
      fun q hd hr => e _ _ ((if_neg ?_).trans (if_neg ?_)), fun q hd hr => e _ _ ((if_neg ?_).trans (if_pos ?_)), e _ _ rfl,
      fun t hb => e _ _ (if_pos hb), fun t hb => e _ _ (if_neg ?_), fun hd => hread _ (doFrzRead_of_locked hu hd),
      fun hd hf => hread _ (doFrzRead_of_frozen hu hd hf), fun hd hf => hread _ (doFrzRead_of_running hu hd hf)⟩
    · exact fun h : s.core.debugOpenFor 0 = false => Bool.noConfusion (hd.symm.trans h)
    · exact fun h : s.core.dbg.req.isSome = true => Option.isSome_iff_ne_none.1 h hr
    · exact fun h : s.core.debugOpenFor 0 = false => Bool.noConfusion (hd.symm.trans h)
    · exact Option.isSome_iff_ne_none.2 hr
    · exact fun h : s.core.dbg.barred = true => Bool.noConfusion (hb.symm.trans h)

end Sys2Proof.Machine
end
